-- ==== Sys2Proof/Word.lean ====
section
/-! DEFINITION. The words of the Plaforo 8: 64-bit slots and code words, bytes, lane masks. -/

namespace Sys2Proof

/-- A 64-bit slot, address or code word (R12, R29). -/
abbrev Word := BitVec 64

/-- One byte of memory (R6). -/
abbrev Byte := BitVec 8

/-- One bit for each of a warp's 32 lanes; bit i is lane i (R16). -/
abbrev Mask := BitVec 32

/-- The flags of R89, bit k as `cr.fpflags` numbers them. -/
abbrev Flags := BitVec 6

end Sys2Proof
end

