-- ==== Sys2Proof/Syntax.lean ====
section
/-! DEFINITION. The instructions a warp issues and the steps of the device around it: one constructor of `Instr` for each
row of spec/opcode_table.json, with the fields of its encoding or the data of its happening. -/

namespace Sys2Proof

/-- The type codes of R59. -/
inductive Ty where
  | s8 | s16 | s32 | s64 | z8 | z16 | z32 | z64
  | s8x8 | s16x4 | s32x2 | s4x16 | z8x8 | z16x4 | z32x2
  | f64 | f32 | f16 | bf16 | e4m3 | e5m2 | e2m1
  | bi8 | bi4 | res
  deriving DecidableEq, Repr

/-- The rounding codes of R60; `mode` is code 0, the mode of `cr.fpmode`. -/
inductive Rnd where
  | mode | rne | rtz | rup | rdn
  deriving DecidableEq, Repr

/-- The scopes of R9, codes 0 to 6. -/
inductive Scope where
  | thread | core | quad | die | pkg | pod | sys
  deriving DecidableEq, Repr

/-- The orders of R61 on accesses. -/
inductive Order where
  | rlx | acq | rel | acqRel
  deriving DecidableEq, Repr

/-- The orders of R61 on FENCE. -/
inductive FenceOrder where
  | sc | acq | rel | acqRel
  deriving DecidableEq, Repr

/-- The conditions of R66; `un` and `ord` only for FCMP. -/
inductive Cond where
  | eq | ne | lt | le | gt | ge | un | ord
  deriving DecidableEq, Repr

/-- A source specifier (R40); specifier 63 is none of these. -/
inductive Src where
  | w (k : Fin 16)      -- 0 to 15, the weft
  | f (k : Fin 32)      -- 16 to 47, the pocket
  | x (k : Fin 8)       -- 48 to 55, the uniform weft
  | zero | lane | wid | gid | lit | recAddr | ones   -- 56 to 62
  | imm (v : Fin 64)    -- 64 to 127: the value v - 32
  deriving DecidableEq, Repr

/-- The modifier bits of R41. -/
structure Mod where
  neg : Bool := false
  abs : Bool := false
  half : Bool := false
  swz : Fin 8 := 0
  deriving DecidableEq, Repr

/-- What modifies source A: R41 in normal service, the lane permutation of R42 in maintenance mode. -/
inductive ModA where
  | std (m : Mod)
  | perm (cls : Fin 4) (s : Fin 8) (d : Fin 32)
  deriving DecidableEq, Repr

/-- Source A with its modifier. -/
structure OpA where
  src : Src
  m : ModA := .std {}
  deriving DecidableEq, Repr

/-- Source B with its modifier. -/
structure OpB where
  src : Src
  m : Mod := {}
  deriving DecidableEq, Repr

/-- The guard of R38: predicate number, inverted when `neg`. -/
structure Guard where
  neg : Bool
  p : Fin 64
  deriving DecidableEq, Repr

/-- The peg select of R33, bit 0 for peg A and bit 1 for peg B. -/
structure PegSel where
  a : Bool
  b : Bool
  deriving DecidableEq, Repr

/-- VOTE's modes (R69). -/
inductive VoteMode where
  | all | any | ballot | uni
  deriving DecidableEq, Repr

/-- SHFL's modes (R69). -/
inductive ShflMode where
  | idx | up | down | xor
  deriving DecidableEq, Repr

/-- The operations of WRED and WSCAN (R69). -/
inductive RedOp where
  | add | min | max | and | or | xor
  deriving DecidableEq, Repr

/-- Access sizes of R70, in the order of their codes. -/
inductive Size where
  | b1 | b2 | b4 | b8 | b16
  deriving DecidableEq, Repr

/-- Hints of LD and ST (R70). -/
inductive Hint where
  | normal | stream | keep
  deriving DecidableEq, Repr

/-- Levels of PREF (R70). -/
inductive PrefLevel where
  | l1 | home | both
  deriving DecidableEq, Repr

/-- Operations of CCTL (R70). -/
inductive CctlOp where
  | inv | wb | iinv | invall | iinvall
  deriving DecidableEq, Repr

/-- Operations of ATOM, RED and ATOMS (R71), codes 0 to 13. -/
inductive AtomOp where
  | add | and | or | xor | smin | smax | umin | umax | exch | fadd | fmin | fmax | inc | dec
  deriving DecidableEq, Repr

/-- Width of an atomic: 32, 64 or, for ACAS and ACASS only, 128 bits (R71). -/
inductive AtomWidth where
  | w32 | w64 | w128
  deriving DecidableEq, Repr

/-- The space of a barrier object (R72). -/
inductive Space where
  | scratch | global
  deriving DecidableEq, Repr

/-- Directions of COPY (R72). -/
inductive CopyDir where
  | g2s | s2g | s2s
  deriving DecidableEq, Repr

/-- Modes of a tile (R73, R142). -/
inductive TileMode where
  | fp32 | exact | raw
  deriving DecidableEq, Repr

/-- Plane formats (R73, R144). -/
inductive PlaneFmt where
  | bi8 | bi4 | e2m1 | int8 | int4 | res
  deriving DecidableEq, Repr

/-- Conversions of MDRAIN (R73). -/
inductive DrainConv where
  | f32 | bf16 | f16 | e4m3 | bi8 | s32 | s64
  deriving DecidableEq, Repr

/-- Activations of MDRAIN (R73). -/
inductive DrainAct where
  | none | relu | clamp
  deriving DecidableEq, Repr

/-- Kinds of access to an address, as permissions and fault records sort them (R339, R341). -/
inductive AccKind where
  | read | write | rmw | fetch | copyRead | copyWrite | hostWindow | hart | ringRead | writeBack | recordCopy
  deriving DecidableEq, Repr

/-- What an access from outside the dies does: a hart's (R266), another package's (R354), a read or an AtomicOp of the host's (R351), whose
FetchAdd and Swap are `amo`, whose CAS is `lrsc`, or `cas16` where it compares 128 bits. Harts alone fetch instructions. -/
inductive HartAcc where
  | load (n : Nat)
  | fetch (n : Nat)
  | store (bytes : List Byte)
  | amo (op : AtomOp) (wide : Bool) (v : Word)
  | lrsc (wide : Bool) (old new : Word)
  | cas16 (old new : BitVec 128)
  deriving DecidableEq, Repr

/-- A unit that power states act on (R226). -/
inductive PowerUnit where
  | part (die core part : Nat)
  | core (die core : Nat)
  | island (die half : Nat)
  | die (die : Nat)
  deriving DecidableEq, Repr

/-- The declaration SEAM carries (R45). -/
structure SeamDecl where
  d0 : Fin 16
  d1 : Fin 16
  n : Fin 8
  s0 : Fin 16
  s1 : Fin 16
  s2 : Fin 16
  s3 : Fin 16
  s4 : Fin 16
  s5 : Fin 16
  s6 : Fin 16
  s7 : Fin 16
  deriving DecidableEq, Repr

/-- CONFORM's eight selectors (R62). -/
structure ConformSel where
  c0 : Fin 16
  c1 : Fin 16
  c2 : Fin 16
  c3 : Fin 16
  c4 : Fin 16
  c5 : Fin 16
  c6 : Fin 16
  c7 : Fin 16
  deriving DecidableEq, Repr

/-- The rows of spec/opcode_table.json. The first part is what a warp issues; the second part, after `unassignedOpcode`,
is the device's own steps and what reaches it from outside. In the second part a happening carries what names it. -/
inductive Instr where
  -- Control (R62, R165 to R180)
  | nop (g : Guard)
  | bra (g : Guard) (o : BitVec 33)
  | brc (g : Guard) (o : BitVec 33) (so : BitVec 13)
  | seam (g : Guard) (d : SeamDecl)
  | mark (g : Guard) (k : Fin 16)
  | conform (g : Guard) (k : Fin 16) (c : ConformSel)
  | brl (g : Guard) (o : BitVec 33)
  | brx (g : Guard) (a : Src)
  | call (g : Guard) (o : BitVec 33) (frame : Fin 64) (nargs : Fin 16)
  | callx (g : Guard) (a : Src) (frame : Fin 64) (nargs : Fin 16)
  | ret (g : Guard) (nres : Fin 16)
  | exit (g : Guard)
  | yield (g : Guard)
  -- Weft (R63, R101, R102)
  | pick (g : Guard) (u : Bool) (a : OpA)
  | save (g : Guard) (a : OpA) (slot : Fin 32)
  | pack (g : Guard) (sat : Bool) (idx : Fin 16) (t : Ty) (a : OpA) (b : OpB)
  | unpack (g : Guard) (idx : Fin 16) (t : Ty) (a : OpA)
  -- Integer (R64, R103 to R107)
  | iadd (g : Guard) (u sat : Bool) (t : Ty) (a : OpA) (b : OpB)
  | isub (g : Guard) (u sat : Bool) (t : Ty) (a : OpA) (b : OpB)
  | iadc (g : Guard) (t : Ty) (c : Fin 64) (a : OpA) (b : OpB)
  | isbb (g : Guard) (t : Ty) (c : Fin 64) (a : OpA) (b : OpB)
  | imul (g : Guard) (u sat : Bool) (t : Ty) (a : OpA) (b : OpB)
  | imulh (g : Guard) (u : Bool) (t : Ty) (a : OpA) (b : OpB)
  | imad (g : Guard) (u sat : Bool) (t : Ty) (a : OpA) (b : OpB) (c : Src)
  | imadw (g : Guard) (u : Bool) (t : Ty) (a : OpA) (b : OpB) (c : Src)
  | imin (g : Guard) (u : Bool) (t : Ty) (a : OpA) (b : OpB)
  | imax (g : Guard) (u : Bool) (t : Ty) (a : OpA) (b : OpB)
  | iabsd (g : Guard) (u : Bool) (t : Ty) (a : OpA) (b : OpB)
  | iclamp (g : Guard) (u : Bool) (t : Ty) (a : OpA) (b : OpB) (c : Src)
  | lea (g : Guard) (u : Bool) (t : Ty) (a : OpA) (b : OpB) (c : Src)
  | isat (g : Guard) (u : Bool) (st dt : Ty) (a : OpA)
  | idot4 (g : Guard) (u sat : Bool) (t : Ty) (a : OpA) (b : OpB) (c : Src)
  | idot2 (g : Guard) (u sat : Bool) (t : Ty) (a : OpA) (b : OpB) (c : Src)
  -- Logic (R65, R109 to R113)
  | and (g : Guard) (u : Bool) (t : Ty) (a : OpA) (b : OpB)
  | or (g : Guard) (u : Bool) (t : Ty) (a : OpA) (b : OpB)
  | xor (g : Guard) (u : Bool) (t : Ty) (a : OpA) (b : OpB)
  | lop3 (g : Guard) (u : Bool) (t : Ty) (tab : BitVec 8) (a : OpA) (b : OpB) (c : Src)
  | shl (g : Guard) (u : Bool) (t : Ty) (a : OpA) (b : OpB)
  | shr (g : Guard) (u : Bool) (t : Ty) (a : OpA) (b : OpB)
  | sar (g : Guard) (u : Bool) (t : Ty) (a : OpA) (b : OpB)
  | rol (g : Guard) (u : Bool) (t : Ty) (a : OpA) (b : OpB)
  | funnel (g : Guard) (u : Bool) (t : Ty) (a : OpA) (b : OpB) (c : Src)
  | popc (g : Guard) (u : Bool) (t : Ty) (a : OpA)
  | clz (g : Guard) (u : Bool) (t : Ty) (a : OpA)
  | ctz (g : Guard) (u : Bool) (t : Ty) (a : OpA)
  | brev (g : Guard) (u : Bool) (t : Ty) (a : OpA)
  | bfx (g : Guard) (u : Bool) (t : Ty) (a : OpA) (b : OpB)
  | bfi (g : Guard) (u : Bool) (t : Ty) (a : OpA) (b : OpB) (c : Src)
  | permb (g : Guard) (u : Bool) (t : Ty) (a : OpA) (b : OpB) (c : Src)
  -- Compare and predicates (R66, R114 to R117)
  | icmp (g : Guard) (t : Ty) (c : Cond) (pd : Fin 64) (a : OpA) (b : OpB)
  | fcmp (g : Guard) (t : Ty) (c : Cond) (pd : Fin 64) (a : OpA) (b : OpB)
  | sel (g : Guard) (u : Bool) (ps : Fin 64) (a : OpA) (b : OpB)
  | plop (g : Guard) (tab : BitVec 8) (pa pb pc : Fin 128) (pd : Fin 64)
  | pset (g : Guard) (pd : Fin 64) (a : OpA)
  | ptov (g : Guard)
  | vtop (g : Guard) (a : OpA) (b : OpB)
  | itst (g : Guard) (pd : Fin 64) (a : OpA) (b : OpB)
  -- Float (R67, R122 to R129)
  | fadd (g : Guard) (u : Bool) (t : Ty) (r : Rnd) (a : OpA) (b : OpB)
  | fsub (g : Guard) (u : Bool) (t : Ty) (r : Rnd) (a : OpA) (b : OpB)
  | fmul (g : Guard) (u : Bool) (t : Ty) (r : Rnd) (a : OpA) (b : OpB)
  | ffma (g : Guard) (u : Bool) (t : Ty) (r : Rnd) (a : OpA) (b : OpB) (c : Src)
  | fmin (g : Guard) (u : Bool) (t : Ty) (a : OpA) (b : OpB)
  | fmax (g : Guard) (u : Bool) (t : Ty) (a : OpA) (b : OpB)
  | frnd (g : Guard) (u : Bool) (t : Ty) (r : Rnd) (a : OpA)
  | fscale (g : Guard) (u : Bool) (t : Ty) (r : Rnd) (a : OpA) (b : OpB)
  | fclass (g : Guard) (u : Bool) (t : Ty) (a : OpA)
  | fdot2 (g : Guard) (u : Bool) (t : Ty) (r : Rnd) (a : OpA) (b : OpB) (c : Src)
  | fsqrt (g : Guard) (u : Bool) (t : Ty) (r : Rnd) (a : OpA)
  | fdiv (g : Guard) (u : Bool) (t : Ty) (r : Rnd) (a : OpA) (b : OpB)
  -- Quick functions (R67, R130 to R132)
  | frcp (g : Guard) (u : Bool) (a : OpA)
  | frsq (g : Guard) (u : Bool) (a : OpA)
  | fex2 (g : Guard) (u : Bool) (a : OpA)
  | flg2 (g : Guard) (u : Bool) (a : OpA)
  | fsin (g : Guard) (u : Bool) (a : OpA)
  | fcos (g : Guard) (u : Bool) (a : OpA)
  | ftanh (g : Guard) (u : Bool) (a : OpA)
  -- Conversion (R68, R133 to R139)
  | cvt (g : Guard) (u : Bool) (r : Rnd) (st dt : Ty) (a : OpA)
  | qscale (g : Guard) (st bt : Ty) (a : OpA)
  | qcvt (g : Guard) (st bt : Ty) (a : OpA) (b : OpB)
  | dqcvt (g : Guard) (bt dt : Ty) (a : OpA) (b : OpB)
  | resenc (g : Guard) (u : Bool) (t : Ty) (a : OpA)
  | resdec (g : Guard) (u : Bool) (t : Ty) (a : OpA)
  -- Warp-wide (R69, R184 to R188)
  | vote (g : Guard) (m : VoteMode) (pd : Fin 64) (a : Src)
  | shfl (g : Guard) (m : ShflMode) (pv : Fin 64) (a b : Src)
  | wred (g : Guard) (op : RedOp) (t : Ty) (r : Rnd) (a : Src)
  | wscan (g : Guard) (excl : Bool) (op : RedOp) (t : Ty) (r : Rnd) (a : Src)
  | matchLanes (g : Guard) (t : Ty) (a : Src)
  | bcast (g : Guard) (pv : Fin 64) (a b : Src)
  | active (g : Guard)
  -- Memory (R70, R269 to R279)
  | ld (g : Guard) (peg : PegSel) (sc : Scope) (o : Order) (h : Hint) (sx : Bool) (sz : Size) (a : Src)
  | st (g : Guard) (peg : PegSel) (sc : Scope) (o : Order) (h : Hint) (sz : Size) (a b : Src)
  | lds (g : Guard) (peg : PegSel) (sc : Scope) (o : Order) (sx : Bool) (sz : Size) (a : Src)
  | sts (g : Guard) (peg : PegSel) (sc : Scope) (o : Order) (sz : Size) (a b : Src)
  | ldp (g : Guard) (peg : PegSel) (sx : Bool) (sz : Size) (a : Src)
  | stp (g : Guard) (peg : PegSel) (sz : Size) (a b : Src)
  | pref (g : Guard) (lv : PrefLevel) (a : Src)
  | fence (g : Guard) (peg : PegSel) (sc : Scope) (o : FenceOrder)
  | cctl (g : Guard) (peg : PegSel) (op : CctlOp) (a : Src)
  -- Atomic and ply (R71, R280 to R290)
  | atom (g : Guard) (peg : PegSel) (sc : Scope) (o : Order) (op : AtomOp) (w : AtomWidth) (a b : Src)
  | acas (g : Guard) (peg : PegSel) (sc : Scope) (o : Order) (w : AtomWidth) (a b c : Src)
  | red (g : Guard) (peg : PegSel) (sc : Scope) (o : Order) (op : AtomOp) (w : AtomWidth) (a b : Src)
  | atoms (g : Guard) (peg : PegSel) (sc : Scope) (o : Order) (op : AtomOp) (w : AtomWidth) (a b : Src)
  | acass (g : Guard) (peg : PegSel) (sc : Scope) (o : Order) (w : AtomWidth) (a b c : Src)
  | ldv (g : Guard) (peg : PegSel) (sc : Scope) (o : Order) (a b : Src)
  | stv (g : Guard) (peg : PegSel) (sc : Scope) (o : Order) (a b c : Src)
  | recon (g : Guard) (peg : PegSel) (sc : Scope) (o : Order) (a b c : Src)
  -- Barrier and copy (R72, R293 to R308)
  | binit (g : Guard) (peg : PegSel) (sp : Space) (a b c : Src)
  | barrive (g : Guard) (peg : PegSel) (sp : Space) (a b : Src)
  | bexpect (g : Guard) (peg : PegSel) (sp : Space) (a b : Src)
  | bwait (g : Guard) (sp : Space) (a b : Src)
  | btest (g : Guard) (sp : Space) (a b : Src)
  | bdrop (g : Guard) (peg : PegSel) (sp : Space) (a : Src)
  | copy (g : Guard) (peg : PegSel) (dir : CopyDir) (sp : Space) (twoD : Bool) (a b c : Src)
  | copym (g : Guard) (peg : PegSel) (dir : CopyDir) (sp : Space) (twoD : Bool) (a b c : Src)
  | copyg (g : Guard) (peg : PegSel) (sp : Space) (a b c : Src)
  -- Matrix (R73, R155 to R162)
  | mzero (g : Guard) (m : TileMode) (tile : Fin 4)
  | mlds (g : Guard) (peg : PegSel) (fmt : PlaneFmt) (a b : Src)
  | mswap (g : Guard)
  | mstream (g : Guard) (peg : PegSel) (m1 : Fin 128) (tile : Fin 4) (a b c : Src)
  | mdrain (g : Guard) (peg : PegSel) (cv : DrainConv) (act : DrainAct) (gl bias : Bool) (tile : Fin 4) (a b c : Src)
  | mstat (g : Guard) (clr : Bool) (tile : Fin 4)
  -- Spawn and watch (R74, R197 to R208)
  | spawn (g : Guard) (peg : PegSel) (join : Bool) (stage : Fin 16) (a b c : Src)
  | watch (g : Guard) (peg : PegSel) (lg : Fin 32) (stage : Fin 16) (a : Src)
  | unwatch (g : Guard) (peg : PegSel) (a : Src)
  | bobq (g : Guard) (stage : Fin 16)
  -- Reliability and system (R75, R370 to R374, R385, R386)
  | iregion (g : Guard) (keep : Fin 32)
  | iregionClose (g : Guard)
  | chksig (g : Guard) (a : Src)
  | csrr (g : Guard) (u : Bool) (n : BitVec 12)
  | csrw (g : Guard) (n : BitVec 12) (a : Src)
  | trap (g : Guard) (c : BitVec 8) (a : Src)
  | tret (g : Guard)
  | clock (g : Guard) (u : Bool)
  | bkpt (g : Guard) (t : BitVec 8)
  | unassignedOpcode (w : Word)
  -- Steps of a warp around its instructions (R14, R20, R31, R183, R340)
  | clauseFetch
  | clauseStart
  | pendingFill (warp op : Nat)
  | pegClear (warp op : Nat)
  | watchdogStall
  | pageWalk (die ctx : Nat) (va : Word) (k : AccKind)
  -- Matrix unit and copy engines (R152, R153, R305, R306)
  | matrixOpPerform (die core part : Nat)
  | followOnMstream (cid : Nat)
  | copyLand (cid chunk n : Nat)
  | copyFail (cid : Nat)
  | copyFailReport
  -- Records, bobbins and slots (R191, R192, R217 to R220, R28)
  | overflowToBobbin (ctx : Nat) (pat : Word) (stage die : Nat)
  | gatherTimerExpire (ctx : Nat) (pat : Word) (stage die core : Nat)
  | bobbinLaunch (ctx : Nat) (pat : Word) (stage die core part slot : Nat)
  | slotAssign (die core : Nat)
  | warpCreate (warp : Nat)
  | groupRecordMake (launch die : Nat)
  | steal (launch die : Nat)
  | bobbinTake (launch die core : Nat)
  -- Queues (R211 to R215, R405)
  | doorbell (vf q : Nat) (p : Word)
  | ringRead (q : Nat)
  | queueWriteBack (q : Nat)
  | dispatchDecision (part : Nat)
  | patternUnload (ctx : Nat) (pat : Word)
  | recordComplete (q : Nat)
  -- Pre-emption, parking and power (R195, R223 to R226)
  | preemptSave (warp : Nat)
  | preemptTimeout (warp : Nat)
  | starvePreempt (launch die : Nat)
  | park (die core : Nat)
  | restore (warp die core part slot : Nat)
  | powerGate (unit : PowerUnit)
  | powerWake (unit : PowerUnit)
  -- Directory protocol (R242 to R244); a line is its physical address divided by 128
  | rds (die line : Nat)
  | rdx (die line : Nat)
  | upg (die line : Nat)
  | fwd (die line : Nat)
  | inv (die line : Nat)
  | invack (die line : Nat)
  | data (die line : Nat)
  | wbd (die line : Nat)
  | binv (die line : Nat)
  | directoryEvict (line : Nat)
  | cacheEvict (die line : Nat)
  -- Registers (R210, R226, R332, R333); function 64 is the PF
  | evtCons (vf : Nat) (v : Word)
  | fltCons (vf : Nat) (v : Word)
  | qcfgWrite (vf q off : Nat) (v : Word)
  | lattol (vf p : Nat) (v : BitVec 32)
  | registerWrite (fn off : Nat) (v : Word)
  -- Commands, performed from the page's CMD and ARG registers (R334, R335)
  | ctxCreate (vf : Nat)
  | ctxDestroy (vf : Nat)
  | ctxReset (vf : Nat)
  | ctxPreempt (vf : Nat)
  | ctxResume (vf : Nat)
  | queueFlush (vf : Nat)
  | queueRestart (vf : Nat)
  | pageFlush (vf : Nat)
  | faultResolve (vf : Nat)
  | faultCancel (vf : Nat)
  | attest (vf : Nat)
  | checkpointSeal (vf : Nat)
  | checkpointRestore (vf : Nat)
  | hartStart (vf : Nat)
  | hartStop (vf : Nat)
  | vfApply
  | scrub
  | partitionReset
  | deviceReset
  | configLoad
  | vfFlr (vf : Nat)
  | conventionalReset
  -- Host window, harts, ports (R352 to R356)
  | hostWindowRead (vf off : Nat) (acc : HartAcc)
  | hostWindowWrite (vf off : Nat) (bytes : List Byte)
  | yeleramAccess (hart ipa : Nat) (acc : HartAcc)
  | trauxFlit (port : Nat) (crcOk : Bool)
  | portDown (port : Nat)
  -- Errors and the thermal hold (R381 to R392)
  | errorCorrected (kind addr : Nat)
  | errorUncorrectable (kind addr warp ctx die : Nat)
  | escalationTimeout
  | thermalSignal (stack : Nat)
  | thermalClear (stack : Nat)
  | thermalHoldExpire (stack : Nat)
  -- The pod and self-invalidating copies (R354, R240)
  | remoteAccess (pkg pa : Nat) (acc : HartAcc)
  | selfInvalidatingWriteBack (die line : Nat)
  deriving DecidableEq, Repr

end Sys2Proof
end

