-- ==== Sys2Proof/WellFormed.lean ====
section
/-! DEFINITION. Which instructions have an encoding. `opOk` holds the checks whose failure R58 classes as ILLOP, `opndOk` those it
classes as ILLOPND; an instruction is well-formed in normal service (`mt = false`) or in maintenance mode (R42) when both hold. -/

namespace Sys2Proof

/-! ### Types by kind (R59, R78, R81, R83) -/

/-- Codes 0 to 7. -/
def Ty.isInt : Ty → Bool
  | .s8 | .s16 | .s32 | .s64 | .z8 | .z16 | .z32 | .z64 => true
  | _ => false

/-- Codes 8 to 14. -/
def Ty.isPacked : Ty → Bool
  | .s8x8 | .s16x4 | .s32x2 | .s4x16 | .z8x8 | .z16x4 | .z32x2 => true
  | _ => false

/-- Codes 16 to 19, the wide formats of R83. -/
def Ty.isWide : Ty → Bool
  | .f64 | .f32 | .f16 | .bf16 => true
  | _ => false

/-- Codes 16 to 22, the formats of R83 and R85. -/
def Ty.isFloat : Ty → Bool
  | .f64 | .f32 | .f16 | .bf16 | .e4m3 | .e5m2 | .e2m1 => true
  | _ => false

/-- The signed integer types, scalar and packed. -/
def Ty.isSigned : Ty → Bool
  | .s8 | .s16 | .s32 | .s64 | .s8x8 | .s16x4 | .s32x2 | .s4x16 => true
  | _ => false

/-- The block types that conversions name (R68). -/
def Ty.isBlock : Ty → Bool
  | .bi8 | .bi4 | .e2m1 => true
  | _ => false

/-- The source types of QSCALE and QCVT and the destinations of DQCVT (R68). -/
def Ty.isBlockSide : Ty → Bool
  | .f32 | .f16 | .bf16 => true
  | _ => false

/-- Width of a scalar, or of one element of a packed type (R78, R81, R83, R85). -/
def Ty.width : Ty → Nat
  | .s8 | .z8 | .s8x8 | .z8x8 | .e4m3 | .e5m2 | .bi8 => 8
  | .s16 | .z16 | .s16x4 | .z16x4 | .f16 | .bf16 => 16
  | .s32 | .z32 | .s32x2 | .z32x2 | .f32 => 32
  | .s64 | .z64 | .f64 | .res => 64
  | .s4x16 | .e2m1 | .bi4 => 4

/-- Number of elements in a slot (R81). -/
def Ty.elems : Ty → Nat
  | .s8x8 | .z8x8 => 8
  | .s16x4 | .z16x4 => 4
  | .s32x2 | .z32x2 => 2
  | .s4x16 => 16
  | _ => 1

/-- Half select is only for operand types of 32 bits or fewer that are not packed (R41). -/
def Ty.halfOk (t : Ty) : Bool := !t.isPacked && t.width ≤ 32

/-! ### Modifiers (R41, R42, R100, R119) -/

/-- Which modifier bits an entry accepts: negate or invert, absolute value, half select, swizzle. -/
structure Accepts where
  n : Bool := false
  a : Bool := false
  h : Bool := false
  s : Bool := false
  deriving DecidableEq, Repr

def Accepts.nahs : Accepts := { n := true, a := true, h := true, s := true }
def Accepts.nah : Accepts := { n := true, a := true, h := true }
def Accepts.nhs : Accepts := { n := true, h := true, s := true }
def Accepts.ho : Accepts := { h := true }
def Accepts.so : Accepts := { s := true }
def Accepts.nil : Accepts := {}

/-- R41's Fate row: a bit the entry does not accept, half select on a 64-bit or packed type, a swizzle on a type not packed. -/
def Mod.ok (ac : Accepts) (t : Ty) (m : Mod) : Bool :=
  (!m.neg || ac.n) && (!m.abs || ac.a) && (!m.half || (ac.h && t.halfOk)) && (m.swz == 0 || (ac.s && t.isPacked))

/-- The legal segments and distances of R42. -/
def permOk (cls : Fin 4) (s : Fin 8) (d : Fin 32) : Bool :=
  match cls.val with
  | 0 => s == 0 && d == 0
  | 1 => 1 ≤ s.val && s.val ≤ 5
  | _ => 1 ≤ s.val && s.val ≤ 5 && d.val < 2 ^ s.val

def OpA.ok (mt : Bool) (ac : Accepts) (t : Ty) (o : OpA) : Bool :=
  match o.m with
  | .std m => !mt && m.ok ac t
  | .perm cls s d => mt && permOk cls s d

def OpB.ok (mt : Bool) (ac : Accepts) (t : Ty) (o : OpB) : Bool :=
  o.m.ok ac t && (!mt || o.m == {})

/-! ### Operands -/

/-- R37: guards 0 to 47. -/
def Guard.ok (g : Guard) : Bool := g.p.val < 48

/-- The guard of an instruction written without one (R38). -/
def Guard.always : Guard := { neg := false, p := 47 }

/-- R58: predicates 0 to 47. -/
def predOk (p : Fin 64) : Bool := p.val < 48

/-- R46: the operands that may stand for 128 bits, as far as the word alone shows it. -/
def Src.pairOk : Src → Bool
  | .w k => k.val ≤ 14
  | .f k => k.val ≤ 30
  | .x k => k.val ≤ 6
  | .lit => false
  | _ => true

/-- R61: scopes of the scratchpad instructions, 0 to 2. -/
def Scope.scratchOk : Scope → Bool
  | .thread | .core | .quad => true
  | _ => false

/-- R45: selector ranges of a declaration with d0, d1 and n. -/
def SeamDecl.ok (d : SeamDecl) : Bool :=
  let sel := fun (k : Nat) (lim s : Fin 16) => if k < d.n.val then decide (s.val < lim.val) else s == 0
  d.n.val ≤ 4 && sel 0 d.d0 d.s0 && sel 1 d.d0 d.s1 && sel 2 d.d0 d.s2 && sel 3 d.d0 d.s3
    && sel 0 d.d1 d.s4 && sel 1 d.d1 d.s5 && sel 2 d.d1 d.s6 && sel 3 d.d1 d.s7

/-- R62: selectors at or beyond k are zero. -/
def ConformSel.ok (k : Fin 16) (c : ConformSel) : Bool :=
  let sel := fun (j : Nat) (s : Fin 16) => decide (j < k.val) || s == 0
  sel 0 c.c0 && sel 1 c.c1 && sel 2 c.c2 && sel 3 c.c3 && sel 4 c.c4 && sel 5 c.c5 && sel 6 c.c6 && sel 7 c.c7

/-- R70: sign extension only with sizes 0 to 2. -/
def Size.sxOk (sx : Bool) (sz : Size) : Bool :=
  !sx || sz == .b1 || sz == .b2 || sz == .b4

/-- R60, R69: the rounding a warp-wide reduction accepts, and the operations its type accepts. -/
def redOk (op : RedOp) (t : Ty) (r : Rnd) : Bool :=
  if t.isInt then r == .mode
  else t.isWide && (op == .add || ((op == .min || op == .max) && r == .mode))

/-- A word whose opcode field [63:54] no instruction has (R55, R56). -/
def opcodeAssigned (op : Nat) : Bool :=
  let g := op / 64
  let i := op % 64
  match g with
  | 0 => i ≤ 12
  | 1 => i ≤ 3
  | 2 => i ≤ 15
  | 3 => i ≤ 15
  | 4 => i ≤ 7
  | 5 => i ≤ 11
  | 6 => i ≤ 6
  | 7 => i ≤ 5
  | 8 => i ≤ 6
  | 9 => i ≤ 8
  | 10 => i ≤ 7
  | 11 => i ≤ 8
  | 12 => i ≤ 5
  | 13 => i ≤ 3
  | 14 => i ≤ 8 && i != 2
  | _ => false

namespace Instr

/-- The checks whose failure is ILLOP (R58): types, roundings, conditions, operations, orders, sizes, directions, modes. -/
def opOk : Instr → Bool
  | .pack _ _ _ t _ _ | .unpack _ _ t _ => t.isPacked
  | .iadd _ _ _ t _ _ | .isub _ _ _ t _ _ | .imin _ _ t _ _ | .imax _ _ t _ _ | .iabsd _ _ t _ _ | .iclamp _ _ t _ _ _ =>
    t.isInt || t.isPacked
  | .iadc _ t _ _ _ | .isbb _ t _ _ _ | .imul _ _ _ t _ _ | .imulh _ _ t _ _ | .imad _ _ _ t _ _ _ => t.isInt
  | .imadw _ _ t _ _ _ | .lea _ _ t _ _ _ => t == .s64 || t == .z64
  | .isat _ _ sty dt _ => sty.isInt && dt.isInt
  | .idot4 _ _ _ t _ _ _ | .idot2 _ _ _ t _ _ _ => t == .s32 || t == .z32
  | .and _ _ t _ _ | .or _ _ t _ _ | .xor _ _ t _ _ | .lop3 _ _ t _ _ _ _ | .shl _ _ t _ _ | .shr _ _ t _ _ | .permb _ _ t _ _ _ =>
    t.isInt || t.isPacked
  | .sar _ _ t _ _ | .rol _ _ t _ _ | .funnel _ _ t _ _ _ | .popc _ _ t _ | .clz _ _ t _ | .ctz _ _ t _ | .brev _ _ t _
  | .bfx _ _ t _ _ | .bfi _ _ t _ _ _ => t.isInt
  | .icmp _ t c _ _ _ => t.isInt && c != .un && c != .ord
  | .fcmp _ t _ _ _ _ => t.isWide
  | .fadd _ _ t _ _ _ | .fsub _ _ t _ _ _ | .fmul _ _ t _ _ _ | .ffma _ _ t _ _ _ _ | .fmin _ _ t _ _ | .fmax _ _ t _ _
  | .frnd _ _ t _ _ | .fscale _ _ t _ _ _ | .fclass _ _ t _ | .fsqrt _ _ t _ _ | .fdiv _ _ t _ _ _ => t.isWide
  | .fdot2 _ _ t _ _ _ _ => t == .f16 || t == .bf16
  | .cvt _ _ _ sty dt _ => (sty.isInt || sty.isFloat) && (dt.isInt || dt.isFloat) && sty != dt
  | .qscale _ sty bt _ | .qcvt _ sty bt _ _ => sty.isBlockSide && bt.isBlock
  | .dqcvt _ bt dt _ _ => bt.isBlock && dt.isBlockSide
  | .resenc _ _ t _ | .resdec _ _ t _ => t.isInt
  | .wred _ op t r _ | .wscan _ _ op t r _ => redOk op t r
  | .matchLanes _ t _ => t.isInt
  | .ld _ _ _ o _ sx sz _ => (o == .rlx || o == .acq) && sz.sxOk sx
  | .st _ _ _ o _ _ _ _ => o == .rlx || o == .rel
  | .lds _ _ _ o sx sz _ => (o == .rlx || o == .acq) && sz.sxOk sx
  | .sts _ _ _ o _ _ _ => o == .rlx || o == .rel
  | .ldp _ _ sx sz _ => sz.sxOk sx
  | .atom _ _ _ _ _ w _ _ | .atoms _ _ _ _ _ w _ _ => w != .w128
  | .red _ _ _ o _ w _ _ => w != .w128 && (o == .rlx || o == .rel)
  | .copym _ _ dir _ _ _ _ _ => dir != .s2g
  | .vote _ m p _ => m != .ballot || p == 0
  | .unassignedOpcode w => !opcodeAssigned (w.toNat / 2 ^ 54)
  | _ => true

/-- The checks whose failure is ILLOPND (R58, R39 to R46 as far as the word shows them), for the mode MT of `cr.mode`. -/
def opndOk (mt : Bool) : Instr → Bool
  | .nop g | .bra g _ | .brc g _ _ | .brl g _ | .brx g _ | .exit g | .yield g => g.ok
  | .seam g d => g == .always && d.ok
  | .mark g k => g == .always && k.val ≤ 8
  | .conform g k c => g == .always && k.val ≤ 8 && c.ok k
  | .call g _ fr n | .callx g _ fr n => g.ok && fr.val ≤ 32 && n.val ≤ 8
  | .ret g n => g.ok && n.val ≤ 8
  | .pick g _ a | .save g a _ => g.ok && a.ok mt .nil .z64
  | .pack g _ i t a b => g.ok && i.val < t.elems && a.ok mt .so t && b.ok mt .nil t
  | .unpack g i t a => g.ok && i.val < t.elems && a.ok mt .so t
  | .iadd g _ _ t a b | .isub g _ _ t a b | .imin g _ t a b | .imax g _ t a b | .iabsd g _ t a b | .iclamp g _ t a b _ =>
    g.ok && a.ok mt .nahs t && b.ok mt .nahs t
  | .iadc g t c a b | .isbb g t c a b => g.ok && predOk c && a.ok mt .ho t && b.ok mt .ho t
  | .imul g _ _ t a b | .imulh g _ t a b | .imad g _ _ t a b _ => g.ok && a.ok mt .nah t && b.ok mt .nah t
  | .imadw g _ t a b c => g.ok && a.ok mt .nil t && b.ok mt .nil t && c.pairOk
  | .lea g _ t a b _ => g.ok && a.ok mt .nil t && b.ok mt .ho .z32
  | .isat g _ sty _ a => g.ok && a.ok mt .ho sty
  | .idot4 g _ _ t a b _ | .idot2 g _ _ t a b _ => g.ok && a.ok mt .ho t && b.ok mt .ho t
  | .and g _ t a b | .or g _ t a b | .xor g _ t a b | .lop3 g _ t _ a b _ | .shl g _ t a b | .shr g _ t a b | .permb g _ t a b _
  | .sar g _ t a b | .rol g _ t a b | .funnel g _ t a b _ | .bfi g _ t a b _ => g.ok && a.ok mt .nhs t && b.ok mt .nhs t
  | .popc g _ t a | .clz g _ t a | .ctz g _ t a | .brev g _ t a => g.ok && a.ok mt .nhs t
  | .bfx g _ t a b => g.ok && a.ok mt .nhs t && b.ok mt { n := true } t
  | .icmp g t _ p a b | .fcmp g t _ p a b => g.ok && predOk p && a.ok mt .nah t && b.ok mt .nah t
  | .sel g _ p a b | .itst g p a b => g.ok && predOk p && a.ok mt .nil .z64 && b.ok mt .nil .z64
  | .plop g _ pa pb pc pd => g.ok && pa.val < 48 && pb.val < 48 && pc.val < 48 && predOk pd
  | .pset g p a => g.ok && predOk p && a.ok mt .nil .z64
  | .ptov g => g.ok
  | .vtop g a b => g.ok && a.ok mt .nil .z64 && b.ok mt .nil .z64
  | .fadd g _ t _ a b | .fsub g _ t _ a b | .fmul g _ t _ a b | .ffma g _ t _ a b _ | .fmin g _ t a b | .fmax g _ t a b
  | .fdiv g _ t _ a b => g.ok && a.ok mt .nah t && b.ok mt .nah t
  | .fsqrt g _ t _ a | .frnd g _ t _ a | .fclass g _ t a => g.ok && a.ok mt .nah t
  | .fscale g _ t _ a b => g.ok && a.ok mt .nah t && b.ok mt .nil .z64
  | .fdot2 g _ _ _ a b _ => g.ok && a.ok mt .ho .z32 && b.ok mt .ho .z32
  | .frcp g _ a | .frsq g _ a | .fex2 g _ a | .flg2 g _ a | .fsin g _ a | .fcos g _ a | .ftanh g _ a => g.ok && a.ok mt .nah .f32
  | .cvt g _ _ sty _ a => g.ok && a.ok mt .nah sty
  | .qscale g sty _ a => g.ok && a.ok mt .ho sty
  | .qcvt g sty _ a b => g.ok && a.ok mt .ho sty && b.ok mt .nil .z64
  | .dqcvt g _ _ a b => g.ok && a.ok mt .nil .z64 && b.ok mt .nil .z64
  | .resenc g _ t a => g.ok && a.ok mt .ho t
  | .resdec g _ _ a => g.ok && a.ok mt .nil .z64
  | .vote g _ p _ => g.ok && predOk p
  | .shfl g _ p _ _ | .bcast g p _ _ => g.ok && predOk p
  | .wred g _ _ _ _ | .wscan g _ _ _ _ _ | .matchLanes g _ _ | .active g => g.ok
  | .ld g _ _ _ _ _ _ _ | .ldp g _ _ _ _ | .pref g _ _ | .fence g _ _ _ => g.ok
  | .cctl g _ op a => g.ok && ((op != .invall && op != .iinvall) || a == .w 0)
  | .st g _ _ _ _ sz _ b | .stp g _ sz _ b => g.ok && (sz != .b16 || b.pairOk)
  | .lds g _ sc _ _ _ _ => g.ok && sc.scratchOk
  | .sts g _ sc _ sz _ b => g.ok && sc.scratchOk && (sz != .b16 || b.pairOk)
  | .atom g _ _ _ _ _ _ _ | .red g _ _ _ _ _ _ _ => g.ok
  | .atoms g _ sc _ _ _ _ _ => g.ok && sc.scratchOk
  | .acas g _ _ _ w _ b c => g.ok && (w != .w128 || (b.pairOk && c.pairOk))
  | .acass g _ sc _ w _ b c => g.ok && sc.scratchOk && (w != .w128 || (b.pairOk && c.pairOk))
  | .ldv g _ _ _ _ _ | .stv g _ _ _ _ _ _ | .recon g _ _ _ _ _ _ => g.ok
  | .binit g _ _ _ _ _ | .barrive g _ _ _ _ | .bexpect g _ _ _ _ | .bwait g _ _ _ | .btest g _ _ _ | .bdrop g _ _ _ => g.ok
  | .copy g _ _ _ _ a b _ | .copyg g _ _ a b _ => g.ok && a.pairOk && b.pairOk
  | .copym g _ _ _ _ a b c => g.ok && a.pairOk && b.pairOk && c.pairOk
  | .mzero g _ _ | .mlds g _ _ _ _ | .mswap g | .mstream g _ _ _ _ _ _ | .mdrain g _ _ _ _ _ _ _ _ _ | .mstat g _ _ => g.ok
  | .spawn g _ j _ a b c => g.ok && a.pairOk && b.pairOk && (j || c == .w 0)
  | .watch g _ lg _ _ => g.ok && 3 ≤ lg.val && lg.val ≤ 16
  | .unwatch g _ _ | .bobq g _ | .csrr g _ _ | .csrw g _ _ | .trap g _ _ | .tret g | .clock g _ | .bkpt g _ => g.ok
  | .iregion g k => g == .always && k.val ≤ 16
  | .iregionClose g => g == .always
  | .chksig g a => g == .always && a == .lit
  | _ => true

/-- The instructions a word encodes; the others are steps of the device and have no encoding. -/
def hasWord : Instr → Bool
  | .clauseFetch | .clauseStart | .pendingFill .. | .pegClear .. | .watchdogStall | .pageWalk ..
  | .matrixOpPerform .. | .followOnMstream .. | .copyLand .. | .copyFail .. | .copyFailReport
  | .overflowToBobbin .. | .gatherTimerExpire .. | .bobbinLaunch .. | .slotAssign .. | .warpCreate .. | .groupRecordMake ..
  | .steal .. | .bobbinTake .. | .doorbell .. | .ringRead .. | .queueWriteBack .. | .dispatchDecision .. | .patternUnload ..
  | .recordComplete .. | .preemptSave .. | .preemptTimeout .. | .starvePreempt .. | .park .. | .restore .. | .powerGate ..
  | .powerWake .. | .rds .. | .rdx .. | .upg .. | .fwd .. | .inv .. | .invack .. | .data .. | .wbd .. | .binv ..
  | .directoryEvict .. | .cacheEvict .. | .evtCons .. | .fltCons .. | .qcfgWrite .. | .lattol .. | .registerWrite ..
  | .ctxCreate .. | .ctxDestroy .. | .ctxReset .. | .ctxPreempt .. | .ctxResume .. | .queueFlush .. | .queueRestart ..
  | .pageFlush .. | .faultResolve .. | .faultCancel .. | .attest .. | .checkpointSeal .. | .checkpointRestore .. | .hartStart ..
  | .hartStop .. | .vfApply | .scrub | .partitionReset | .deviceReset | .configLoad | .vfFlr .. | .conventionalReset
  | .hostWindowRead .. | .hostWindowWrite .. | .yeleramAccess .. | .trauxFlit .. | .portDown .. | .errorCorrected ..
  | .errorUncorrectable .. | .escalationTimeout | .thermalSignal .. | .thermalClear .. | .thermalHoldExpire .. | .remoteAccess ..
  | .selfInvalidatingWriteBack .. => false
  | _ => true

/-- Well-formed in the given mode: the words the decoder accepts are exactly the words of these. -/
def wellFormed (mt : Bool) (i : Instr) : Bool := i.hasWord && i.opOk && i.opndOk mt

end Instr

end Sys2Proof
end

