-- ==== Sys2Proof/Machine/Bits.lean ====
section
/-! DEFINITION. Lists by number, masks, fields of words, and integers of a width (R78 to R81). -/

namespace Sys2Proof.Machine

/-! ### Lists and masks -/

/-- The lanes of a mask in ascending order. -/
def lanesOf (m : Mask) : List Nat := (List.range 32).filter fun l => m.getLsbD l

/-- The mask of the lanes that satisfy f. -/
def maskOf (f : Nat → Bool) : Mask :=
  BitVec.ofNat 32 ((List.range 32).foldr (fun l n => n * 2 + (if f l then 1 else 0)) 0)

/-- The lowest lane of a mask. -/
def lowest (m : Mask) : Option Nat := (lanesOf m).head?

/-- Apply f to each element with its number, counting from k. -/
def mapFrom {α β : Type} (f : Nat → α → β) : Nat → List α → List β
  | _, [] => []
  | k, x :: xs => f k x :: mapFrom f (k + 1) xs

/-- The element of a list with a key, replaced. -/
def updateWhere {α : Type} (p : α → Bool) (f : α → α) (l : List α) : List α := l.map fun x => if p x then f x else x

/-- A list in an order, equals as they stood. -/
def insertBy {α : Type} (le : α → α → Bool) (x : α) : List α → List α
  | [] => [x]
  | y :: ys => if le x y then x :: y :: ys else y :: insertBy le x ys

def sortBy {α : Type} (le : α → α → Bool) (l : List α) : List α := l.foldr (insertBy le) []

/-! ### Fields of words -/

/-- Bits [lo + n - 1 : lo] of a word. -/
def field (w : Word) (lo n : Nat) : Nat := w.toNat / 2 ^ lo % 2 ^ n

def word (n : Nat) : Word := BitVec.ofNat 64 n

/-- A number as its 64-bit two's-complement pattern. -/
def wordI (x : Int) : Word := BitVec.ofInt 64 x

/-! ### Integers (R78 to R80) -/

/-- The signed value of a w-bit pattern. -/
def signedOf (w n : Nat) : Int := if 2 * (n % 2 ^ w) < 2 ^ w then (n % 2 ^ w : Nat) else ((n % 2 ^ w : Nat) : Int) - (2 ^ w : Nat)

/-- The value of a pattern as the integer type has it. -/
def intOf (t : Ty) (n : Nat) : Int := if t.isSigned then signedOf t.width n else ((n % 2 ^ t.width : Nat) : Int)

/-- The w-bit pattern of an integer: wrapping modulo 2^w. -/
def wrap (w : Nat) (x : Int) : Nat := (x % ((2 ^ w : Nat) : Int)).toNat

/-- The least and the greatest value of an integer type (R78). -/
def Ty.low (t : Ty) : Int := if t.isSigned then -((2 ^ (t.width - 1) : Nat) : Int) else 0
def Ty.high (t : Ty) : Int := if t.isSigned then ((2 ^ (t.width - 1) : Nat) : Int) - 1 else ((2 ^ t.width : Nat) : Int) - 1

/-- An integer clamped to a type's range, and whether the clamp changed it (R80). -/
def clamp (t : Ty) (x : Int) : Int × Bool :=
  if x < Ty.low t then (Ty.low t, true) else if x > Ty.high t then (Ty.high t, true) else (x, false)

/-- A scalar pattern extended to 64 bits by the type's signedness (R79). -/
def extend (t : Ty) (n : Nat) : Word :=
  if t.isSigned then wordI (signedOf t.width n) else word (n % 2 ^ t.width)

/-! ### Packed elements (R81, R82) -/

/-- Element i of a container of w-bit elements. -/
def elemOf (w i n : Nat) : Nat := n / 2 ^ (w * i) % 2 ^ w

/-- The container whose element i is f i, for i < n. -/
def packElems (w : Nat) (f : Nat → Nat) : Nat → Nat
  | 0 => 0
  | n + 1 => packElems w f n + f n % 2 ^ w * 2 ^ (w * n)

/-- The classes of R82. -/
def swizzle (cls n i : Nat) : Nat :=
  match cls with
  | 0 => i
  | 1 => n - 1 - i
  | 2 => i ^^^ 1
  | 3 => i ^^^ (n / 2)
  | 4 => 0
  | 5 => 1
  | 6 => i - i % 2
  | _ => i - i % 2 + 1

end Sys2Proof.Machine
end

