-- ==== Sys2Proof/Machine/Flags.lean ====
section
/-! DEFINITION. Number formats, the one rounding into a format and the flags it raises (R83 to R98), block scales and the residue
format. An exact value is a dyadic (−1)^neg · m · 2^e. -/

namespace Sys2Proof.Machine

/-! ### Flags (R89) -/

def Flag.inv : Flags := 1
def Flag.dze : Flags := 2
def Flag.ovf : Flags := 4
def Flag.unf : Flags := 8
def Flag.inx : Flags := 16
def Flag.sat : Flags := 32

/-- A flag raised where a condition holds. -/
def flagIf (c : Bool) (f : Flags) : Flags := if c then f else 0

/-! ### Formats (R83, R85, R97) -/

/-- What becomes of the largest exponent's encodings: IEEE's infinities and NaNs, E4M3's one NaN, E2M1's none. -/
inductive Specials where
  | ieee | oneNan | none
  deriving DecidableEq, Repr

/-- A binary format: exponent and fraction widths, bias, specials. -/
structure Format where
  eb : Nat
  fb : Nat
  bias : Nat
  sp : Specials := .ieee
  deriving DecidableEq, Repr

/-- The format of a floating-point type. -/
def formatOf : Ty → Format
  | .f64 => { eb := 11, fb := 52, bias := 1023 }
  | .f32 => { eb := 8, fb := 23, bias := 127 }
  | .f16 => { eb := 5, fb := 10, bias := 15 }
  | .bf16 => { eb := 8, fb := 7, bias := 127 }
  | .e4m3 => { eb := 4, fb := 3, bias := 7, sp := .oneNan }
  | .e5m2 => { eb := 5, fb := 2, bias := 15 }
  | .e2m1 => { eb := 2, fb := 1, bias := 1, sp := .none }
  | _ => { eb := 8, fb := 23, bias := 127 }

/-- Q12 (R97): 8-bit exponent, 11 fraction bits; embedded in FP32 by 12 zero bits. -/
def Format.q12 : Format := { eb := 8, fb := 11, bias := 127 }

def Format.width (f : Format) : Nat := 1 + f.eb + f.fb

/-- The pattern, without sign, of the largest finite value. -/
def Format.largest (f : Format) : Nat :=
  match f.sp with
  | .ieee => (2 ^ f.eb - 1) * 2 ^ f.fb - 1
  | .oneNan => 2 ^ (f.eb + f.fb) - 2
  | .none => 2 ^ (f.eb + f.fb) - 1

/-- The pattern of infinity. -/
def Format.infinity (f : Format) : Nat := (2 ^ f.eb - 1) * 2 ^ f.fb

/-- The canonical NaN (R83, R85); E2M1 has none and takes +0. -/
def Format.nan (f : Format) : Nat :=
  match f.sp with
  | .ieee => (2 ^ f.eb - 1) * 2 ^ f.fb + 2 ^ (f.fb - 1)
  | .oneNan => 2 ^ (f.eb + f.fb) - 1
  | .none => 0

/-- A value read from a format. -/
inductive FVal where
  | nan (signalling : Bool)
  | inf (neg : Bool)
  | fin (neg : Bool) (m : Nat) (e : Int)
  deriving DecidableEq, Repr

/-- The value of a pattern (R83, R85); bits above the width are ignored. -/
def Format.value (f : Format) (n : Nat) : FVal :=
  let neg := n / 2 ^ (f.eb + f.fb) % 2 == 1
  let ex := n / 2 ^ f.fb % 2 ^ f.eb
  let fr := n % 2 ^ f.fb
  let q : Int := 1 - (f.bias : Int) - (f.fb : Int)
  if f.sp == .ieee && ex == 2 ^ f.eb - 1 then
    if fr == 0 then .inf neg else .nan (fr < 2 ^ (f.fb - 1))
  else if f.sp == .oneNan && n % 2 ^ (f.eb + f.fb) == 2 ^ (f.eb + f.fb) - 1 then .nan false
  else if ex == 0 then .fin neg fr q
  else .fin neg (fr + 2 ^ f.fb) (q + (ex : Int) - 1)

def FVal.isNan : FVal → Bool
  | .nan _ => true
  | _ => false

def FVal.isSnan : FVal → Bool
  | .nan s => s
  | _ => false

def FVal.isInf : FVal → Bool
  | .inf _ => true
  | _ => false

def FVal.neg : FVal → Bool
  | .nan _ => false
  | .inf s => s
  | .fin s _ _ => s

def FVal.isZero : FVal → Bool
  | .fin _ m _ => m == 0
  | _ => false

/-- The value with its sign flipped. -/
def FVal.flip : FVal → FVal
  | .nan s => .nan s
  | .inf s => .inf (!s)
  | .fin s m e => .fin (!s) m e

/-! ### Rounding (R87, R88) -/

/-- m · 2^e in units of 2^q, rounded in a mode, with whether the rounding was inexact. -/
def roundUnits (md : Rnd) (neg : Bool) (m : Nat) (e q : Int) : Nat × Bool :=
  if q ≤ e then (m * 2 ^ (e - q).toNat, false)
  else
    let k := (q - e).toNat
    let n := m / 2 ^ k
    let r := m % 2 ^ k
    let up := match md with
      | .rtz => false
      | .rup => !neg && r != 0
      | .rdn => neg && r != 0
      | _ => decide (2 * r > 2 ^ k) || (2 * r == 2 ^ k && n % 2 == 1)
    (if up then n + 1 else n, r != 0)

def signBit (f : Format) (neg : Bool) : Nat := if neg then 2 ^ (f.eb + f.fb) else 0

/-- What an overflow gives, by mode (R87's table). -/
def overflowTo (f : Format) (md : Rnd) (neg : Bool) : Nat × Flags :=
  match f.sp with
  | .ieee =>
    let toInf := match md with
      | .rtz => false
      | .rup => !neg
      | .rdn => neg
      | _ => true
    (signBit f neg + (if toInf then f.infinity else f.largest), Flag.ovf ||| Flag.inx)
  | _ => (signBit f neg + f.largest, Flag.sat ||| Flag.inx)

/-- The exact value (−1)^neg · m · 2^e rounded once into a format, with INX, OVF, UNF and SAT (R87, R88). -/
def roundInto (f : Format) (md : Rnd) (neg : Bool) (m : Nat) (e : Int) : Nat × Flags :=
  if m == 0 then (signBit f neg, 0)
  else
    let ex : Int := (Nat.log2 m : Int) + e
    let emin : Int := 1 - (f.bias : Int)
    let qn := ex - (f.fb : Int)
    let qs := emin - (f.fb : Int)
    let q := if qn < qs then qs else qn
    let (n, inexact) := roundUnits md neg m e q
    let pat := (q - qs).toNat * 2 ^ f.fb + n
    if pat > f.largest then overflowTo f md neg
    else
      let tiny := decide (ex < emin) &&
        (let (n1, _) := roundUnits md neg m e qn
         !(ex + 1 == emin && n1 == 2 ^ (f.fb + 1)))
      (signBit f neg + pat, flagIf inexact Flag.inx ||| flagIf (tiny && inexact) Flag.unf)

/-- The same of a real number strictly between m · 2^e and (m + 1) · 2^e, m having at least two bits more than the format keeps. -/
def roundBetween (f : Format) (md : Rnd) (neg : Bool) (m : Nat) (e : Int) : Nat × Flags :=
  roundInto f md neg (2 * m + 1) (e - 1)

/-- An infinity carried into a format (R87's Fate row). -/
def infInto (f : Format) (neg : Bool) : Nat × Flags :=
  match f.sp with
  | .ieee => (signBit f neg + f.infinity, 0)
  | _ => (signBit f neg + f.largest, Flag.sat)

/-- A NaN carried into a format; into E2M1 it is +0 with INV. -/
def nanInto (f : Format) : Nat × Flags := (f.nan, flagIf (f.sp == .none) Flag.inv)

/-- A value rounded into a format; a signalling NaN raises INV (R84). -/
def convertInto (f : Format) (md : Rnd) : FVal → Nat × Flags
  | .nan s => let (n, g) := nanInto f; (n, g ||| flagIf s Flag.inv)
  | .inf neg => infInto f neg
  | .fin neg m e => roundInto f md neg m e

/-- An exact value as a signed integer in units of 2^e. -/
def signedM (neg : Bool) (m : Nat) : Int := if neg then -(m : Int) else (m : Int)

/-- The exact sum of two finite values, in units of the smaller exponent. -/
def exactSum (na : Bool) (ma : Nat) (ea : Int) (nb : Bool) (mb : Nat) (eb : Int) : Int × Int :=
  let e := if ea < eb then ea else eb
  (signedM na ma * (2 ^ (ea - e).toNat : Nat) + signedM nb mb * (2 ^ (eb - e).toNat : Nat), e)

/-- Order of two values that are not NaNs: −1, 0 or 1; −0 equals +0. -/
def compareF : FVal → FVal → Int
  | .inf a, .inf b => if a == b then 0 else if a then -1 else 1
  | .inf a, _ => if a then -1 else 1
  | _, .inf b => if b then 1 else -1
  | .fin na ma ea, .fin nb mb eb =>
    let (d, _) := exactSum na ma ea (!nb) mb eb
    if d < 0 then -1 else if d == 0 then 0 else 1
  | _, _ => 0

/-- The sign of an exact zero sum (R84). -/
def zeroSumSign (md : Rnd) (na nb : Bool) : Bool := if na == nb then na else md == .rdn

/-! ### Sums and products of values, rounded once (R84, R122, R123) -/

/-- a + b into a format. -/
def addF (f : Format) (md : Rnd) (a b : FVal) : Nat × Flags :=
  let snan := flagIf (a.isSnan || b.isSnan) Flag.inv
  match a, b with
  | .nan _, _ | _, .nan _ => (f.nan, snan)
  | .inf x, .inf y => if x == y then (signBit f x + f.infinity, 0) else (f.nan, Flag.inv)
  | .inf x, _ => (signBit f x + f.infinity, 0)
  | _, .inf y => (signBit f y + f.infinity, 0)
  | .fin na ma ea, .fin nb mb eb =>
    let (d, e) := exactSum na ma ea nb mb eb
    if d == 0 then
      (signBit f (if ma == 0 && mb == 0 then zeroSumSign md na nb else md == .rdn), 0)
    else roundInto f md (d < 0) d.natAbs e

/-- The exact product of two values, NaN for 0 × ∞, and whether it is invalid. -/
def mulExact (a b : FVal) : FVal × Bool :=
  match a, b with
  | .nan _, _ | _, .nan _ => (.nan false, false)
  | .inf x, .inf y => (.inf (x != y), false)
  | .inf x, .fin y m _ => if m == 0 then (.nan false, true) else (.inf (x != y), false)
  | .fin x m _, .inf y => if m == 0 then (.nan false, true) else (.inf (x != y), false)
  | .fin x m e, .fin y n d => (.fin (x != y) (m * n) (e + d), false)

def mulF (f : Format) (md : Rnd) (a b : FVal) : Nat × Flags :=
  let snan := flagIf (a.isSnan || b.isSnan) Flag.inv
  match mulExact a b with
  | (.nan _, bad) => (f.nan, snan ||| flagIf bad Flag.inv)
  | (.inf s, _) => (signBit f s + f.infinity, 0)
  | (.fin s m e, _) => roundInto f md s m e

/-- a · b + c with one rounding. -/
def fmaF (f : Format) (md : Rnd) (a b c : FVal) : Nat × Flags :=
  let snan := flagIf (a.isSnan || b.isSnan || c.isSnan) Flag.inv
  let (p, bad) := mulExact a b
  match p with
  | .nan _ => (f.nan, snan ||| flagIf bad Flag.inv)
  | _ => let (n, g) := addF f md p c; (n, g ||| snan)

/-! ### Rounding to an integer (R126, R133) -/

/-- A finite value rounded to an integer in a mode, and whether that was inexact. -/
def toIntegral (md : Rnd) (neg : Bool) (m : Nat) (e : Int) : Int × Bool :=
  let (n, inexact) := roundUnits md neg m e 0
  (signedM neg n, inexact)

/-! ### Modes and traps (R60, R90) -/

/-- The rounding a code names; code 0 is the mode register's. DESIGN CHOICE: a reserved code, which only the image that a restore reads can put into
`cr.fpmode`, rounds to nearest even (log 175). -/
def modeOf (fpmode : Word) : Rnd → Rnd
  | .mode =>
    match field fpmode 0 3 with
    | 2 => .rtz
    | 3 => .rup
    | 4 => .rdn
    | _ => .rne
  | r => r

/-- The trap enables of `cr.fpmode` [13:8]. -/
def enables (fpmode : Word) : Flags := BitVec.ofNat 6 (field fpmode 8 6)

/-! ### Block scales (R86, R92 to R94) -/

/-- Greatest magnitude of an element of a block type: 127, 7 or 6. -/
def blockMax : Ty → Nat
  | .bi8 => 127
  | .bi4 => 7
  | _ => 6

/-- The largest magnitude among values, as a dyadic; infinity is reported apart. -/
def blockAmax : List FVal → Nat × Int × Bool
  | [] => (0, 0, false)
  | v :: vs =>
    let (m, e, i) := blockAmax vs
    match v with
    | .inf _ => (m, e, true)
    | .fin _ n d => if compareF (.fin false n d) (.fin false m e) > 0 then (n, d, i) else (m, e, i)
    | .nan _ => (m, e, i)

/-- Smallest k from −127 up with m · 2^e ≤ fmax · 2^k, at most 127; `fuel` counts what is left to try. -/
def scaleSearch (m : Nat) (e : Int) (fmax : Nat) : Nat → Int → Int
  | 0, k => k
  | fuel + 1, k =>
    if compareF (.fin false m e) (.fin false fmax k) ≤ 0 then k else scaleSearch m e fmax fuel (k + 1)

/-- R93: the scale code of a block, with INV for a NaN. ceil(log2(amax / fmax)) is the least k with amax ≤ fmax · 2^k. -/
def blockScale (bt : Ty) (vs : List FVal) : Nat × Flags :=
  if vs.any FVal.isNan then (0xFF, Flag.inv)
  else
    match blockAmax vs with
    | (_, _, true) => (254, 0)
    | (m, e, false) => if m == 0 then (0, 0) else ((scaleSearch m e (blockMax bt) 254 (-127) + 127).toNat, 0)

/-- R94: one element's code under scale code E, with its flags. -/
def blockQuant (bt : Ty) (ec : Nat) (v : FVal) : Nat × Flags :=
  let w := if bt == .bi8 then 8 else 4
  let f := formatOf .e2m1
  if ec == 0xFF then (0, 0)
  else
    match v with
    | .nan _ => (0, Flag.inv)
    | .inf s =>
      if bt == .e2m1 then (signBit f s + f.largest, Flag.sat) else (wrap w (signedM s (blockMax bt)), Flag.sat)
    | .fin s m e =>
      let t := e - ((ec : Int) - 127)
      if bt == .e2m1 then
        let (n, g) := roundInto f .rne s m t
        let big := compareF (.fin false m t) (.fin false 6 0) > 0
        (n, flagIf (g &&& Flag.inx != 0) Flag.inx ||| flagIf big Flag.sat)
      else
        let (q, inexact) := toIntegral .rne s m t
        let mx : Int := blockMax bt
        if q.natAbs > blockMax bt then (wrap w (if s then -mx else mx), Flag.sat ||| Flag.inx)
        else (wrap w q, flagIf inexact Flag.inx)

/-- R92: the value of an element code under a scale code. -/
def blockValue (bt : Ty) (ec : Nat) (n : Nat) : FVal :=
  if ec == 0xFF then .nan false
  else
    let k : Int := (ec : Int) - 127
    match bt with
    | .e2m1 =>
      match (formatOf .e2m1).value n with
      | .fin s m e => .fin s m (e + k)
      | v => v
    | .bi8 => let q := signedOf 8 n; .fin (q < 0) q.natAbs k
    | _ => let q := signedOf 4 n; .fin (q < 0) q.natAbs k

/-! ### The residue format (R95, R96) -/

/-- M = 2047 · 2048 · 2049. -/
def resM : Nat := 2047 * 2048 * 2049

/-- The three residues of a container, reduced by their own moduli, and whether it was non-canonical. -/
def resRead (w : Word) : Nat × Nat × Nat × Bool :=
  let a := field w 0 11
  let b := field w 11 11
  let c := field w 22 12
  (a % 2047, b, c % 2049, a == 2047 || c ≥ 2049 || field w 34 30 != 0)

def resPack (a b c : Nat) : Word := word (c * 2 ^ 22 + b * 2 ^ 11 + a)

/-- The container of an integer. -/
def resEncode (x : Int) : Word := resPack (x % 2047).toNat (x % 2048).toNat (x % 2049).toNat

/-- The integer in (−M/2, M/2] with three given residues; the coefficients are the Chinese remainder theorem's. -/
def resDecode (a b c : Nat) : Int :=
  let x := (a * (2048 * 2049 * 1024) + b * (2047 * 2049 * 2047) + c * (2047 * 2048 * 1025)) % resM
  if 2 * x ≤ resM then (x : Int) else (x : Int) - (resM : Int)

end Sys2Proof.Machine
end

