-- ==== Sys2Proof/Config.lean ====
section
/-! DEFINITION. What the manual leaves open: constants with no value that a proof could use. The counter a free value is applied to is
`State.freeCtr`, so that each use takes a fresh one. -/

namespace Sys2Proof.Machine

open Sys2Proof

/-- A stage declaration (R26), with its entry point and handler, 0 for none (R364). -/
structure StageDecl where
  num : BitVec 4
  isGroup : Bool
  size : Nat := 1
  scratch : Nat := 0
  frame : Nat := 0
  gather : Nat := 32
  timer : Nat := 0
  reserve : Nat := 0
  overflow : Nat := 1
  prio : Nat := 0
  entry : Option Word
  handler : Word := 0
  deriving DecidableEq, Repr

/-- What the loader reads in an image (R213: the image is the one gwas writes). `bytes` is the length that the image's own header records (R359). -/
structure PatternImage where
  stages : List StageDecl
  codeBase : Word := 0
  liveTable : Word := 0
  funcMax : Nat := 0              -- largest frame of any function (R19)
  bytes : Nat := 0
  deriving DecidableEq, Repr

/-- Fmax: the largest frame that a function or a stage entry of the pattern declares (R19). -/
def PatternImage.fmax (i : PatternImage) : Nat := (i.stages.map (·.frame)).foldl max i.funcMax

end Sys2Proof.Machine

namespace Sys2Proof.Config

open Sys2Proof

/-- A byte the manual leaves undefined: a tile after MATERR (R148, R388), an exact element past its step limit (R150), a byte read in a
matrix race (R154), a byte that a copy's source and destination share (R304), a line under two treatments (R234). -/
opaque freeByte : Nat → Byte

/-- A word of a line whose values are undefined, as a page walk or the pattern loader meets it: address, counter (R234). -/
opaque freeEntry : Nat → Nat → BitVec 64

/-- How far a core's clock moves beyond one between two of its happenings (R374 gives no count per instruction). -/
opaque clockGap : Nat → Nat

/-- Whether an LMS signature verifies: key, signed bytes, signature (RFC 8554 parameters in R358). -/
opaque lmsVerifies : List Byte → List Byte → List Byte → Bool

/-- Whether a 56-byte key is Karhar's: its SHA-256 hash is the one in the boot ROM (R358, R359). -/
opaque isKarharKey : List Byte → Bool

/-- Whether an LMS signature verifies under Karhar's own key: signed bytes, signature (R360). -/
opaque karharVerifies : List Byte → List Byte → Bool

/-- Whether a firmware image's signature verifies at device reset (R358). -/
opaque firmwareVerifies : Nat → Bool

/-- What an image at an address says, by its bytes from there on, a byte none where it cannot be read (gwas' format is not given). -/
opaque gwasImage : Word → (Nat → Option Byte) → Option Machine.PatternImage

/-- SHA-256 of the cluster's M-mode firmware and of the compute firmware in a firmware image (R358). -/
opaque mModeHash : Nat → List Byte
opaque computeHash : Nat → List Byte

/-- How a report writes the VF's number, its device partition, and the type and counter of each stored record (R361 gives no layout). -/
opaque reportFields : Nat → Nat → List (Nat × Nat) → List Byte

/-- The device identity public key and its certificate, which Karhar's key signed (R361). -/
opaque identityKey : List Byte
opaque identityCert : List Byte

/-- The signature that a leaf of the identity key makes over some bytes (R361). -/
opaque identitySign : Nat → List Byte → List Byte

/-- Which of its home die's two HBM stacks holds a line (R230: the hash is not architectural). -/
opaque stackHash : Nat → Bool

/-- What the body of a type-2 record says: package number, PARTMAP, the packages it has a route to (R360 gives no layout). -/
opaque packageBody : List Byte → Nat × Word × List Nat

/-- What the body of a type-3 record says: window log2, weights of dispatch, HBM and Traux, context limit, heddle limit (R360). -/
opaque vfDefaults : List Byte → Nat × (Nat × Nat × Nat) × Nat × Nat

/-- Whether another package of the pod lets this one touch an address of its HBM (R354: its own PF decides). -/
opaque remoteGrants : Nat → Bool

/-- Whether every route to a package of the pod passes a port of this one (R353, R354: the routing table's form is not given). -/
opaque routeNeeds : Nat → Nat → Bool

/-- The device's serial number (R360). -/
opaque serial : Word

/-- The revision that ID reads (R332). -/
opaque revision : BitVec 8

end Sys2Proof.Config
end

