-- ==== Sys2Proof/Machine/State.lean ====
section
/-! DEFINITION. The state of one Plaforo 8 package, as plain data, and the state after device reset. Numbers that name things (warps,
contexts, dies, copies) are `Nat`; what the manual shifts, masks or lets software see as a word is a bit vector. -/

namespace Sys2Proof.Machine

open Sys2Proof

/-- Why the machine stops with a fault. -/
inductive Fault where
  /-- Raised by `step` alone: a device reset refused the firmware image, and R358 leaves the device unable to start. Safe: the
  device does nothing from here but be reset again. -/
  | notStarted
  deriving DecidableEq, Repr

/-- Why the model refuses. -/
inductive Refusal where
  /-- Raised by an arm of `exec` whose instruction has no meaning in this model yet. Safe: nothing is concluded about it. -/
  | notModelled (mnemonic : String)
  deriving DecidableEq, Repr

/-! ### Records (R27) -/

/-- A 64-byte record, its fields as R27 lays them out, with what the device keeps beside it: the physical address of an accepted
join object (R404), the launch it counts toward (R212), which heddle made it (R204), the private bytes of its first ancestor's launch (R25), and whether a reserved bit was non-zero when it was read back. -/
structure Record where
  kind : BitVec 2 := 0
  stage : BitVec 4 := 0
  join : Bool := false
  gidx : BitVec 32 := 0
  p0 : Word := 0
  p1 : Word := 0
  p2 : Word := 0
  p3 : Word := 0
  joinAddr : Word := 0
  gen : BitVec 3 := 0
  heddle : BitVec 9 := 0
  count : BitVec 32 := 0
  queue : BitVec 10 := 0
  seq : BitVec 32 := 0
  reserved : Bool := false
  joinPa : Option Nat := none
  launch : Option Nat := none
  hkey : Option Nat := none
  priv : Nat := 0
  deriving DecidableEq, Repr

/-! ### A warp (R12 to R20) -/

/-- A weft position: its value, or the operation its value is still to come from (R14); the value is already that which will
arrive. -/
structure Slot where
  val : Word := 0
  pend : Option Nat := none
  deriving DecidableEq, Repr

/-- The state of a lane (R12, R13, R15) and its part of the pocket (R16). `preds` bit k is pk; bit 47 is not read. -/
structure Lane where
  weft : List Slot
  d : Nat := 0
  preds : BitVec 48 := 0
  pocket : List Word := []
  deriving DecidableEq, Repr

/-- The weft of a lane with no value. -/
def emptyWeft : List Slot := List.replicate 16 {}

/-- A lane as a new warp has it before its record is seeded (R28). -/
def Lane.blank : Lane := { weft := emptyWeft }

/-- A pleat entry's kind (R166). -/
inductive PleatKind where
  | split | loop
  deriving DecidableEq, Repr

/-- A pleat entry (R166): `phase` is true in phase 1; `resume` is unset in a loop entry until a lane leaves. -/
structure Pleat where
  kind : PleatKind
  span : Mask
  waiting : Mask := 0
  phase : Bool := false
  resume : Option Word := none
  seam : Word := 0
  count : Option Nat := none
  savedD : List Nat
  deriving DecidableEq, Repr

/-- A lane as a call level keeps it. -/
structure SavedLane where
  weft : List Slot
  d : Nat
  pocket : List Word
  deriving DecidableEq, Repr

/-- A call level (R18, R176). -/
structure CallLevel where
  lanes : List SavedLane
  frame : Nat
  active : Mask
  depth : Nat
  ret : Word
  deriving DecidableEq, Repr

/-- The handler shadow of R364: weft and D of every lane, the active mask, the pleat depth and the watchdog count. -/
structure HandlerShadow where
  lanes : List (List Slot × Nat)
  active : Mask
  depth : Nat
  wcount : Nat
  bwait : Option Word := none     -- the word of a BWAIT that was woken, or was to be issued again (R302, R306)
  deriving DecidableEq, Repr

/-- An open region's snapshot and counts (R386). `plane` is the physical plane that was active, once recorded. -/
structure Region where
  keep : Nat
  replays : Nat := 0
  lanes : List (List Word × Nat × List Word)
  mask : Mask
  plane : Option Bool := none
  zeroed : BitVec 4 := 0
  loaded : BitVec 2 := 0
  spoilt : Bool := false          -- an error struck the snapshot, which can be replayed from no more (R382)
  deriving DecidableEq, Repr

/-- A long-latency operation not yet reported complete: the pegs it is attached to (R20), and whether it has been performed. -/
structure Op where
  id : Nat
  pegs : BitVec 12
  done : Bool
  deriving DecidableEq, Repr

/-- A registration on a barrier object (R296): the address as the program named it, the object's place, the phase recorded. -/
structure Registration where
  space : Space
  addr : Word
  place : Nat
  phase : BitVec 16
  deriving DecidableEq, Repr

/-- A trap to be taken before the next instruction issues: a copy failure (R306), poisoned data (R383), a cancelled fault (R342). -/
structure Report where
  code : BitVec 8
  addr : Word
  mask : Mask := -1
  here : Bool := false            -- taken at the instruction that waited, which does not issue (R342)
  now : Bool := false             -- taken in handler mode too, where it is a double fault (R366, R395)
  deriving DecidableEq, Repr

/-- Where issue begins once a block is fetched: at word 1, at a word reached by R167 or SEAM or a restore or TRET. -/
inductive Enter where
  | start
  | seam
  | resumeAt (k : Nat)
  | tretAt (k : Nat)
  deriving DecidableEq, Repr

/-- The stage of R31 a warp is in. -/
inductive Phase where
  | fetch (e : Enter)
  | check (e : Enter)
  | issue
  deriving DecidableEq, Repr

/-- A fault a warp waits on (R341): its id, the lanes whose accesses meet it, the address the lowest of them names. -/
structure WarpFault where
  id : Nat
  mask : Mask
  addr : Word
  deriving DecidableEq, Repr

/-- What a warp is doing as a whole. `blocked` is BWAIT's (R302), `faulted` the wait of R341, `leaving` the wait of R180 of a warp
that has exited, `creating` the record copies of R28, `held` their fault. -/
inductive WarpStatus where
  | free
  | creating
  | held (fault : Nat)
  | running
  | blocked (space : Space) (place : Nat) (phase : BitVec 16) (since : Nat)
  | faulted (faults : List WarpFault)
  | leaving
  deriving DecidableEq, Repr

/-- What a stalled warp waits for (the model's own: it tells the next step what may move). -/
inductive Stall where
  | value (op : Nat)
  | values
  | pegs (mask : BitVec 12)
  | copyQueue
  | matrixQueue
  | matrixDone
  | quiet
  | stack (n : Nat)
  deriving DecidableEq, Repr

/-- A warp: its place and origin, its clause, the state of R16, its control registers (R369), and what the device tracks of it. -/
structure Warp where
  id : Nat := 0
  status : WarpStatus := .free
  die : Nat := 0
  core : Nat := 0
  part : Nat := 0
  slot : Nat := 0
  ctx : Nat := 0
  pat : Word := 0
  stage : BitVec 4 := 0
  group : Option Nat := none      -- key of its group in `State.groups`
  index : Nat := 0                -- warp index within the group (R23)
  gidx : BitVec 32 := 0
  queue : Nat := 0
  seq : BitVec 32 := 0
  spill : Word := 0
  livebase : Word := 0
  signed : Bool := false          -- of a firmware-signed pattern (R359)
  frame : Nat := 0                -- frame size of the current frame
  lanes : List Lane := List.replicate 32 Lane.blank
  recs : List (Option Record) := List.replicate 32 none
  ux : List Word := List.replicate 8 0
  active : Mask := 0
  gone : Mask := -1
  pleats : List Pleat := []       -- innermost first
  calls : List CallLevel := []    -- innermost first
  pleatsOut : Nat := 0            -- the oldest pleat entries, moved to the hardware area (R17)
  callsOut : Nat := 0             -- the oldest call levels, moved there (R18)
  ops : List Op := []
  sig : Word := 0
  fpmode : Word := 1
  fpflags : Word := 0
  wdog : Word := 32
  wcount : Nat := 0
  mt : Bool := false
  h : Bool := false
  tcause : Word := 0
  tpc : Word := 0
  tnext : Word := 0
  tmask : Word := 0
  tinfo : Word := 0
  hret : Word := 0
  shadow : Option HandlerShadow := none
  region : Option Region := none
  regionPc : Word := 0
  reports : List Report := []
  regs : List Registration := []
  base : Word := 0                -- base of the current block
  buf : List Word := List.replicate 16 0
  idx : Nat := 1                  -- word of the block to issue next
  phase : Phase := .fetch .start
  wake : Option Word := none      -- what a woken BWAIT pushes (R302)
  reissue : Bool := false         -- BWAIT issued again on restore or after a handler (R302)
  replay : Bool := false          -- a replay of the open region is due (R388)
  yielded : Bool := false         -- it has issued: the turn passes
  stood : Bool := false           -- what it issued was YIELD (R179)
  behind : List Nat := []         -- warps that issue before it does again (R179)
  waited : Nat := 0               -- issues of its partition since it became ready (R222)
  homeCore : Nat := 0             -- the core it was made on, which `cr.core` names for its life (R23)
  stalled : Option Stall := none
  deriving DecidableEq, Repr

/-! ### Groups and local store (R22, R236, R291, R297) -/

/-- Bytes of memory or of a group's scratchpad that an event of the order touches. -/
structure Place where
  space : Space
  group : Option Nat := none
  at_ : Nat
  bytes : Nat
  deriving DecidableEq, Repr

/-- A release that stands after a write (R253, R261, R262): where it wrote and at which scope, which agent of which core made it, for a barrier
object the phase it fell in, and whether another agent's RMW has changed the place since. -/
structure Released where
  place : Place
  scope : Scope
  agent : Nat
  core : Nat
  phase : Option Nat := none
  far : Bool := false
  deriving DecidableEq, Repr

/-- A fence or a read of a lane that stands after a write: a release fence's scope, or the scope at which an acquire fence would order the lane. -/
structure LaneAfter where
  warp : Nat
  lane : Nat
  scope : Scope
  deriving DecidableEq, Repr

/-- A write to a group's scratchpad that some warp's matrix operations are not yet ordered after (R154, R256, R259). `agent` is the warp, or the
copy, that made it for `owner`; `pegs` are those its own operation holds; `unseen` the warps it is not ordered before, `seen` those of the group
it is; `carried` the copies whose events follow it. -/
structure LooseWrite where
  at_ : Nat
  bytes : Nat
  agent : Nat
  owner : Nat
  lane : Option Nat := none
  core : Nat
  copy : Bool := false
  pegs : BitVec 12 := 0
  unseen : List Nat
  seen : List Nat := []
  carried : List Nat := []
  released : List Released := []
  fenced : List LaneAfter := []
  read : List LaneAfter := []
  deriving DecidableEq, Repr

/-- A resident or saved group. Scratchpad bytes are cells keyed by core-in-quad · 2^19 + offset; marks and poison by the address
of the granule and of the 8-byte word in the same numbering. -/
structure Group where
  key : Nat
  ctx : Nat
  pat : Word
  stage : BitVec 4
  gidx : BitVec 32
  die : Nat
  core : Nat                      -- the core of a core group, the lowest core of the quad otherwise
  wide : Bool := false            -- more than 64 warps (quad-spanning)
  nwarps : Nat
  scratch : Nat := 0              -- bytes of allocation on each core
  fused : Bool := false
  most : Nat := 0                 -- scratchpad of a core that its launch chose, in bytes (R22, R213)
  prio : Nat := 0
  mem : List Host.Cell := []
  marks : List Nat := []
  poison : List Nat := []
  loose : List LooseWrite := []
  saved : Bool := false
  slot : Nat := 0                 -- its group save slot, while saved (R224)
  launched : Nat := 0             -- when it was launched, for R223's youngest
  deriving DecidableEq, Repr

/-! ### Matrix units (R21, R140 to R143) -/

/-- An accumulator element (R142): an FP32 pattern and four residues. -/
structure Elem where
  f : BitVec 32 := 0
  r2047 : Nat := 0
  r2048 : Nat := 0
  r2049 : Nat := 0
  r31 : Nat := 0
  deriving DecidableEq, Repr

/-- A tile with its status word's fields (R143); elements in order 32·row + column. -/
structure Tile where
  owner : Option Nat := none
  mode : TileMode := .fp32
  elems : List Elem := []
  steps : Nat := 0
  inx : Bool := false
  inv : Bool := false
  sat : Bool := false
  ovr : Bool := false
  deriving DecidableEq, Repr

/-- A stationary plane: its bytes as loaded (R145), column scales, format. -/
structure Plane where
  fmt : Option PlaneFmt := none
  data : List Byte := []
  scales : List Byte := []
  deriving DecidableEq, Repr

/-- An operation queued in a matrix unit with the operands captured at issue. -/
inductive MatrixOp where
  | mzero (tile : Nat) (mode : TileMode)
  | mlds (fmt : PlaneFmt) (p s : Nat)
  | mswap
  | mstream (fmt : PlaneFmt) (tile rows : Nat) (a b c : Nat)
  | mdrain (tile : Nat) (cv : DrainConv) (act : DrainAct) (gl bias : Bool) (a : Word) (b c : Nat) (gen : Nat)
  deriving DecidableEq, Repr

/-- An entry of the unit's queue: who issued it, its operation, the copy a follow-on waits for (R153), and the scratchpad ranges
that another agent wrote and nothing orders before it (R154). -/
structure MatrixJob where
  warp : Nat
  op : Option Nat
  what : MatrixOp
  copy : Option Nat := none
  raced : List (Nat × Nat) := []
  pages : List (Nat × Nat × Nat) := []     -- MDRAIN `.g`: 4 KiB pages, as virtual and physical address and treatment
  deriving DecidableEq, Repr

/-- A partition's matrix unit. Planes are physical 0 and 1; `active` tells which is the active plane. -/
structure MatrixUnit where
  die : Nat
  core : Nat
  part : Nat
  plane0 : Plane := {}
  plane1 : Plane := {}
  active : Bool := false
  holder : Option Nat := none
  tiles : List Tile := List.replicate 4 {}
  jobs : List MatrixJob := []
  deriving DecidableEq, Repr

/-! ### Copies (R303 to R308) -/

inductive CopyStatus where
  | going
  | suspended (fault : Nat) (addr : Word)
  | failing (code : BitVec 8) (addr : Word) (kind : Nat)   -- `kind`: of the storage that holds poison (R382), where the code is SOFT
  deriving DecidableEq, Repr

/-- Rows of a copy: from COPY and COPYM, or from COPYG with its index vector. -/
inductive CopyShape where
  | rows (dir : CopyDir) (srcStride dstStride : Nat)
  | gather (index tableStride : Nat)
  deriving DecidableEq, Repr

/-- A copy in its quad's queue. `left` lists the byte runs not landed, as offsets into the rows · s bytes; `indexes` the rows of a gather whose
index has been read (R308); `kept` the source bytes that the copy itself wrote over, as they were (R304). -/
structure Copy where
  cid : Nat
  warp : Nat
  op : Nat
  ctx : Nat
  group : Option Nat
  queue : Nat
  die : Nat
  core : Nat
  shape : CopyShape
  dst : Word
  src : Word
  s : Nat
  n : Nat
  space : Space
  obj : Option Nat                -- the object's place, none where there is no object
  objAddr : Word := 0
  left : List (Nat × Nat)
  gen : Nat := 0
  status : CopyStatus := .going
  indexes : List (Nat × Nat) := []
  kept : List Host.Cell := []
  deriving DecidableEq, Repr

/-! ### Patterns, bobbins, heddles (R26, R189 to R208) -/

/-- A loaded pattern. -/
structure Pattern where
  ctx : Nat
  addr : Word
  image : PatternImage
  ovfBase : Word
  parkBase : Word
  parkImages : Nat
  parkGroups : Nat
  hwBase : Word
  signed : Bool := false
  unloading : List (Nat × Nat) := []   -- the unload records that wait: queue and index
  deriving DecidableEq, Repr

/-- A bobbin (R191): records oldest first; `refused` tells that a SPAWN for the stage was refused here lately (R220). -/
structure Bobbin where
  ctx : Nat
  pat : Word
  stage : BitVec 4
  die : Nat
  core : Nat
  recs : List Record := []
  expired : Bool := false
  refused : Bool := false
  deriving DecidableEq, Repr

/-- A record's place in an overflow segment: the address its bytes lie at, and what the device keeps beside it. -/
structure SegEntry where
  va : Word
  joinPa : Option Nat
  launch : Option Nat
  heddle : Option (Nat × Word)
  queue : Nat
  priv : Nat
  deriving DecidableEq, Repr

/-- A stage's overflow segment on one die (R190), oldest entry first; `next` counts the records ever entered. -/
structure Segment where
  ctx : Nat
  pat : Word
  stage : BitVec 4
  die : Nat
  entries : List SegEntry := []
  next : Nat := 0
  deriving DecidableEq, Repr

/-- A heddle (R204, R206). `frames` are the 4 KiB pages of its range and their physical addresses. -/
structure Heddle where
  id : Nat
  key : Nat                       -- tells it from an earlier heddle of the same id
  ctx : Nat
  pat : Word
  stage : BitVec 4
  base : Word
  lg : Nat
  frames : List (Word × Nat)
  die : Nat
  core : Nat
  gidx : BitVec 32
  queue : Nat
  seq : BitVec 32
  priv : Nat := 0
  armed : Bool := true
  lost : Nat := 0
  evSeq : Nat := 0
  deriving DecidableEq, Repr

/-! ### Queues and launches (R210 to R219) -/

/-- A record the device has read from a ring and not completed: its index and its sixteen words. -/
structure QueueRecord where
  index : Nat
  words : List Word
  started : Bool := false
  done : Bool := false
  launch : Option Nat := none
  ready : Option Nat := none      -- when it became ready (R215's longest)
  deriving DecidableEq, Repr

/-- Why a queue's ring read or write-back waits (R405). -/
structure Waiting where
  fault : Nat
  index : Nat
  deriving DecidableEq, Repr

/-- A hardware queue (R210, R211). -/
structure Queue where
  num : Nat
  vf : Nat
  ctx : Nat := 0
  enabled : Bool := false
  prio : Nat := 0
  base : Word := 0
  lgSize : Nat := 0
  wb : Word := 0
  refused : Bool := false
  p : Word := 0
  c : Word := 0
  s : Word := 0
  error : Bool := false
  wbFailed : Bool := false
  resetOff : Bool := false        -- a reset disabled it (R346)
  wbDue : Bool := false
  ringWait : Option Waiting := none
  wbWait : Option Waiting := none
  recs : List QueueRecord := []
  evSeq : Nat := 0
  deriving DecidableEq, Repr

/-- A die distributor's share of a launch (R217, R218): the indices left in its current block, and the blocks of 8 it has not started: the first,
their distance, how many. -/
structure Distributor where
  die : Nat
  lo : Nat := 0
  hi : Nat := 0
  first : Nat := 0
  step : Nat := 1
  blocks : Nat := 0
  done : Bool := false
  deriving DecidableEq, Repr

/-- A launch under way (R213). -/
structure Launch where
  key : Nat
  queue : Nat
  index : Nat
  ctx : Nat
  pat : Word
  groups : Nat
  arg : Word
  priv : Nat
  most : Nat                      -- bytes of a core's local store it chose for scratchpad (R22)
  fused : Bool
  dists : List Distributor
  deriving DecidableEq, Repr

/-! ### Contexts, faults, events, functions (R330 to R346) -/

structure Context where
  num : Nat
  vf : Nat
  asid : BitVec 16
  root : Word
  quota : Nat
  held : Bool := false
  ckpt : Nat := 0
  evSeq : Nat := 0
  deriving DecidableEq, Repr

/-- Who waits on a fault id (R342). -/
inductive Waiter where
  | warp (id : Nat)
  | creation (id : Nat)
  | copy (cid : Nat)
  | ring (q : Nat)
  | writeBack (q : Nat)
  deriving DecidableEq, Repr

/-- An outstanding replayable fault (R341). -/
structure FaultRec where
  id : Nat
  vf : Nat
  ctx : Nat
  waiters : List Waiter
  deriving DecidableEq, Repr

/-- A VF's register page (R332) and what stands behind it: the command taken and not performed, events and faults held for want of
ring room, the count of events discarded, and the sequences of R341 and R343. -/
structure VfPage where
  vf : Nat
  arg0 : Word := 0
  arg1 : Word := 0
  arg2 : Word := 0
  arg3 : Word := 0
  busy : Bool := false
  result : BitVec 8 := 0
  cmd : Option (BitVec 8) := none
  evtBase : Word := 0
  evtSize : Word := 6
  evtProd : Word := 0
  evtCons : Word := 0
  evtVec : Word := 0
  fltBase : Word := 0
  fltSize : Word := 6
  fltProd : Word := 0
  fltCons : Word := 0
  heldEvents : List (List Word) := []
  heldFaults : List (List Word) := []
  discarded : Nat := 0
  evSeq : Nat := 0
  fltSeq : Nat := 0
  lattol : List (Nat × BitVec 32) := []
  deriving DecidableEq, Repr

/-- The PF's block for a VF (R335), as written and as VF_APPLY last made it effective. -/
structure VfBlock where
  enabled : Bool := false
  partition : Nat := 0
  root : Word := 0
  window : Nat := 30
  wDispatch : Nat := 1
  wHbm : Nat := 1
  wTraux : Nat := 1
  ctxLimit : Nat := 0
  heddleLimit : Nat := 0
  hartMask : Word := 0
  queues : List Nat := []
  deriving DecidableEq, Repr

structure VfConfig where
  vf : Nat
  written : VfBlock := {}
  inForce : VfBlock := {}
  won : Nat := 0                  -- dispatch decisions won (R350)
  deriving DecidableEq, Repr

/-- The PF register page (R335). -/
structure PfPage where
  arg0 : Word := 0
  arg1 : Word := 0
  arg2 : Word := 0
  arg3 : Word := 0
  busy : Bool := false
  result : BitVec 8 := 0
  cmd : Option (BitVec 8) := none
  partmap : Word := 0
  deriving DecidableEq, Repr

/-- What an access from outside is answered with (R352, R354, R356). -/
inductive Answer where
  | bytes (b : List Byte)
  | done
  | abort
  | poisoned
  | accessFault
  deriving DecidableEq, Repr

/-! ### Coherence (R237 to R245) -/

inductive DirState where
  | shared | owned | exclusive
  deriving DecidableEq, Repr

/-- A directory entry (R241); the home die follows from the line. A watched line is only ever shared (R231). -/
structure DirEntry where
  line : Nat
  st : DirState
  owner : Nat := 0
  sharers : BitVec 8
  watched : Bool := false
  deriving DecidableEq, Repr

inductive CopyState where
  | m | e | o | s
  deriving DecidableEq, Repr

/-- A die's home-cache copy of a tracked or watched line (R241). -/
structure DieCopy where
  die : Nat
  line : Nat
  st : CopyState
  watched : Bool := false
  deriving DecidableEq, Repr

/-- The requests of R242, and the eviction of R244 and the recall of R245, that make a line busy. -/
inductive Request where
  | rds (watched : Bool)
  | rdx
  | upg
  | evict
  | recall
  deriving DecidableEq, Repr

/-- A line's busy request (R243): who asked, which dies still owe an acknowledgement, whether the owner was asked to supply, whether
the Data has been sent and its receipt acknowledged, and the line whose eviction is to make room for its entry (R244). -/
structure BusyLine where
  line : Nat
  req : Request
  die : Nat
  owed : BitVec 8 := 0
  fwd : Option Nat := none
  sent : Bool := false
  ended : Bool := false
  awaits : Option Nat := none
  deriving DecidableEq, Repr

/-- Messages of R242 under way. A Fwd names the die to supply, none where the home recalls the line (R245); `answer` tells a WbD sent for a
BInv or a recall from one sent for a replacement; `nack` is the home's data-less InvAck to a die (R242's last row). -/
inductive MsgKind where
  | fwd (x : Bool) (req : Option Nat)
  | inv
  | binv
  | ack (noData : Bool)
  | nack
  | data (st : CopyState) (payload : Bool)
  | wbd (answer : Bool)
  deriving DecidableEq, Repr

/-- A message: `die` is its receiver, or for those to the home its sender. -/
structure Msg where
  kind : MsgKind
  line : Nat
  die : Nat
  deriving DecidableEq, Repr

/-- A line a core's L1 holds (R237). `bytes` are those of a self-invalidating line as it was filled; a tracked or a watched line's are memory's,
which coherence keeps it equal to. -/
structure L1Line where
  die : Nat
  core : Nat
  line : Nat
  bytes : Option (List Byte) := none
  deriving DecidableEq, Repr

/-- The caches that hold lines, and the coherence protocol. Every copy of a tracked or watched line holds what `State.mem` holds; where a
dirty owner's bytes have not reached the home's memory, `stale` has the 128 bytes that stand there. -/
structure Coherence where
  dir : List DirEntry := []
  copies : List DieCopy := []
  busy : List BusyLine := []
  waiting : List (Nat × Request × Nat) := []
  msgs : List Msg := []
  l1 : List L1Line := []
  stale : List (Nat × List Byte) := []
  deriving DecidableEq, Repr

/-- A dirty byte of a die's self-invalidating copy, and the warps and lanes that wrote it since its last write-back (R240). -/
structure DirtyByte where
  die : Nat
  pa : Nat
  val : Byte
  writers : List (Nat × Nat)
  deriving DecidableEq, Repr

/-- A clean self-invalidating line a die's home cache holds: its bytes as they were when it was filled. -/
structure CleanLine where
  die : Nat
  line : Nat
  bytes : List Byte
  deriving DecidableEq, Repr

/-- A block held in a core's instruction fetch path (R36). -/
structure CodeLine where
  die : Nat
  core : Nat
  ctx : Nat
  va : Word
  pa : Nat
  words : List Word
  deriving DecidableEq, Repr

/-- A combined translation that a core's L1 TLB holds or, with no core, the die's shared TLB (R340). -/
structure TlbEntry where
  die : Nat
  core : Option Nat := none
  ctx : Nat
  va : Word                       -- page base
  lg : Nat                        -- log2 of the page size
  pa : Nat
  treat : BitVec 3
  r : Bool
  w : Bool
  x : Bool
  w2 : Bool                       -- stage 2's write permission alone (R28)
  deriving DecidableEq, Repr

/-- The caches whose contents can differ from memory. -/
structure Caches where
  dirty : List DirtyByte := []
  clean : List CleanLine := []
  code : List CodeLine := []
  tlb : List TlbEntry := []
  undef : List Nat := []          -- lines accessed under two treatments since the last page flush (R234)
  deriving DecidableEq, Repr

/-! ### Barrier objects, ply cells, harts, the rest of the package -/

/-- The events of R295. -/
inductive ObjEvent where
  | arrive (bytes : Nat)
  | expect (bytes : Nat)
  | drop
  | implicit (q : Nat)
  | credit (n : Nat)
  | spawn
  | join
  | failCredit (m : Nat)
  deriving DecidableEq, Repr

/-- A home's entry for a marked global object (R294). -/
structure Home where
  pa : Nat
  ctx : Nat
  group : Option Nat
  deriving DecidableEq, Repr

/-- A ply cell that has been written, at its home (R284), with the context and address it was last reached at, by which a page flush finds
it, and whether SCRUB has zeroed its line since (R383). -/
structure PlyCell where
  pa : Nat
  epoch : Nat
  siblings : List Word
  poisoned : Bool := false
  ctx : Nat := 0
  va : Word := 0
  scrubbed : Bool := false
  deriving DecidableEq, Repr

/-- The modes of a hart outside M-mode, which is Karhar firmware's (R356): the hypervisor and its programs, a guest and its. -/
inductive HartMode where
  | hs | u | vs | vu
  deriving DecidableEq, Repr

/-- A Yeleram hart (R355, R356): whether it runs, in which mode and where, its registers, the CSRs that have been written, by number. -/
structure Hart where
  num : Nat
  running : Bool := false
  mode : HartMode := .hs
  pc : Word := 0
  x : List Word := List.replicate 32 0
  f : List Word := List.replicate 32 0
  v : List (BitVec 256) := List.replicate 32 0
  csrs : List (Nat × Word) := []
  answer : Option Answer := none
  deriving DecidableEq, Repr

/-- What a hart's own instructions do. What they are is the RISC-V profile's, of which the manual states only the parts that R355 lists; the model is
told what they computed. -/
inductive HartDeed where
  | setPc (pc : Word)
  | setX (k : Nat) (v : Word)
  | setF (k : Nat) (v : Word)
  | setV (k : Nat) (v : BitVec 256)
  | setVl (vl vtype : Word)
  | setCsr (k : Nat) (v : Word) (bits : Word)     -- by an instruction with these bits
  | access (va : Word) (acc : HartAcc)            -- at an address of the hart's own, within one 4 KiB page
  | trap (cause : Nat) (tval : Word)              -- an exception that the instruction itself raises: ECALL, EBREAK and the like
  | sret
  | readTime (k : Nat)            -- the island's time into x[k]
  | illegal (bits : Word)         -- an instruction or a CSR outside R355's table
  deriving DecidableEq, Repr

/-- A core's clock (R374). -/
structure Core where
  die : Nat
  core : Nat
  clock : Word := 0
  deriving DecidableEq, Repr

/-- A stack's thermal state (R392); accesses held are named by what waits. -/
inductive StackState where
  | ok
  | holding
  | failed
  deriving DecidableEq, Repr

structure Stack where
  num : Nat
  st : StackState := .ok
  deriving DecidableEq, Repr

/-- A Traux port (R353). -/
structure Port where
  num : Nat
  failures : Nat := 0
  down : Bool := false
  resent : Nat := 0
  deriving DecidableEq, Repr

/-- A stored configuration record (R360): its counter and body. -/
structure StoredRecord where
  typ : Nat
  counter : Nat
  body : List Byte
  deriving DecidableEq, Repr

/-- The security engine (R358 to R361). -/
structure Security where
  started : Bool := true
  records : List StoredRecord := []
  owner : Option (List Byte) := none   -- the enrolled owner key in force since the last device reset (R360)
  measured : Nat := 0             -- the firmware image measured into it at the last device reset (R358)
  leaf : Nat := 0
  minVersion : Nat := 0
  image : Nat := 0                -- names the firmware image that the next device reset verifies
  version : Nat := 0
  deriving DecidableEq, Repr

/-- A pre-empted or parked warp: the image written to the park area is in memory; what the manual leaves to the device beside it is
here (R224). -/
structure SavedWarp where
  warp : Warp
  tiles : List (Nat × Tile) := []
  planes : Option (Plane × Plane × Bool) := none
  image : Nat := 0                -- index of its image slot
  parked : Bool := false
  since : Nat := 0
  deriving DecidableEq, Repr

/-- What a seal leaves with the device beside the buffer, whose layout does not hold it (R394): each group of the context, and each warp of
none, with its images. -/
structure Sealed where
  ctx : Nat
  gen : Nat
  groups : List (Option Group × List SavedWarp)
  deriving DecidableEq, Repr

/-- A pre-emption asked for and not finished: the warp, and whether it is a parking (R195). -/
structure Stopping where
  warp : Nat
  park : Bool := false
  deriving DecidableEq, Repr

/-- A reset level under way past its timeout (R391). -/
inductive ResetLevel where
  | queue (q : Nat)
  | context (c : Nat)
  | partition (n : Nat)
  | device
  deriving DecidableEq, Repr

/-- What happens outside the order a warp's instructions fix: a row of the device, the turn of another warp to issue, what a hart does by itself. -/
inductive Happening where
  | row (i : Instr)
  | turn (warp : Nat)
  | hart (num : Nat) (d : HartDeed)
  deriving DecidableEq, Repr

/-! ### The machine -/

/-- The state of the package. `warp` is the warp whose turn it is to issue, `others` every other warp that holds a slot. -/
structure State where
  warp : Warp
  others : List Warp := []
  mem : List Host.Cell := []
  groups : List Group := []
  units : List MatrixUnit := []
  copies : List Copy := []
  patterns : List Pattern := []
  bobbins : List Bobbin := []
  segments : List Segment := []
  heddles : List Heddle := []
  queues : List Queue := []
  launches : List Launch := []
  decisions : List (Nat × Nat) := []        -- dispatch decisions made, by device partition (R215)
  contexts : List Context := []
  faults : List FaultRec := []
  vfs : List VfPage := []
  configs : List VfConfig := []
  pf : PfPage := {}
  partmap : List Nat := List.replicate 8 0  -- in force: device partition of each die (R336)
  coh : Coherence := {}
  caches : Caches := {}
  homes : List Home := []
  ply : List PlyCell := []
  poison : List Nat := []                   -- poisoned lines (R383)
  harts : List Hart := []
  islandTime : List Word := List.replicate 4 0   -- what `time` reads on each island of harts (R355)
  cores : List Core := []
  hbmStacks : List Stack := []
  ports : List Port := []
  gated : List PowerUnit := []
  sec : Security := {}
  saved : List SavedWarp := []
  sealed : List Sealed := []
  stopping : List Stopping := []
  escalating : Option ResetLevel := none
  answers : List Answer := []               -- completions returned to the host, newest first
  vectors : List (Nat × Nat) := []          -- MSI-X vectors sent, newest first
  pkg : Nat := 0                            -- this package's number in its pod (R354)
  routes : List Nat := []                   -- packages it has a route to (R354)
  remoteRanges : List (Nat × Nat × Nat) := []   -- remote package, PA base, bytes it may touch (R354)
  agenda : List Happening := []
  heldOutside : List Happening := []        -- accesses from outside that a thermal hold holds, oldest first (R392)
  heldLines : List Nat := []                -- lines the device itself wrote in a stack in self-refresh (R392)
  heldObj : List (Nat × ObjEvent) := []     -- events of killed work on objects that a thermal hold holds, oldest first (R392)
  retained : List (Nat × Nat) := []         -- dies and islands whose data arrays stand in retention (R226)
  changes : List (Nat × Nat × Word) := []   -- changes of watched granules not yet tried on the heddles: where, generation, the value (R204)
  partTurn : Nat := 0                       -- the model's own: the scheduler partition that issued last
  rowTurn : Nat := 0                        -- the model's own: which of the device's own doings is tried first
  nextId : Nat := 1                         -- names given to warps, copies, operations, faults, groups, launches
  freeCtr : Nat := 0                        -- the model's own: how many free values have been taken
  now : Nat := 0                            -- the model's own: orders happenings where the manual compares ages
  deriving DecidableEq, Repr

/-- The package right after device reset with no configuration record stored: no warp, no context, every function disabled, memory
with nothing listed. -/
def State.reset : State := { warp := {} }

end Sys2Proof.Machine
end

