-- ==== Sys2Proof/Machine/Memory.lean ====
section
/-! DEFINITION. Byte memory as cells in one canonical form: addresses strictly rising, no cell equal to what an unlisted address reads
as, which is 0. Wider values are little-endian (R29, R273). -/

namespace Sys2Proof.Machine

/-- What a byte reads as that nothing has written. -/
def unwritten : Byte := 0

/-- The canonical form, for cells whose addresses all exceed a bound. -/
def Memory.wfFrom (lo : Nat) : List Host.Cell → Bool
  | [] => true
  | (a, b) :: t => decide (lo ≤ a) && b != unwritten && Memory.wfFrom (a + 1) t

def Memory.wf (m : List Host.Cell) : Bool := Memory.wfFrom 0 m

/-- The byte at an address. -/
def Memory.read : List Host.Cell → Nat → Byte
  | [], _ => unwritten
  | (k, b) :: t, a => if k = a then b else Memory.read t a

/-- One byte written. -/
def Memory.write : List Host.Cell → Nat → Byte → List Host.Cell
  | [], a, b => if b = unwritten then [] else [(a, b)]
  | (k, c) :: t, a, b =>
    if a < k then (if b = unwritten then (k, c) :: t else (a, b) :: (k, c) :: t)
    else if a = k then (if b = unwritten then t else (a, b) :: t)
    else (k, c) :: Memory.write t a b

/-- n bytes from an address up. -/
def Memory.readBytes (m : List Host.Cell) (a : Nat) : Nat → List Byte
  | 0 => []
  | n + 1 => Memory.read m a :: Memory.readBytes m (a + 1) n

/-- Bytes written from an address up. -/
def Memory.writeBytes (m : List Host.Cell) (a : Nat) : List Byte → List Host.Cell
  | [] => m
  | b :: bs => Memory.writeBytes (Memory.write m a b) (a + 1) bs

/-- The little-endian number of bytes. -/
def leNat : List Byte → Nat
  | [] => 0
  | b :: bs => b.toNat + 256 * leNat bs

/-- A number's n low bytes. -/
def leBytes : Nat → Nat → List Byte
  | 0, _ => []
  | n + 1, v => BitVec.ofNat 8 v :: leBytes n (v / 256)

/-- The word of eight bytes. -/
def leWord (bs : List Byte) : Word := BitVec.ofNat 64 (leNat bs)

def wordBytes (w : Word) : List Byte := leBytes 8 w.toNat

def Memory.readWord (m : List Host.Cell) (a : Nat) : Word := leWord (Memory.readBytes m a 8)

def Memory.writeWord (m : List Host.Cell) (a : Nat) (w : Word) : List Host.Cell := Memory.writeBytes m a (wordBytes w)

end Sys2Proof.Machine
end

