-- ==== Sys2Proof/Machine/Units.lean ====
section
/-! DEFINITION. Finding and updating the numbered things of the state: warps, groups, patterns, contexts, queues, functions; home dies;
fresh names and free values. -/

namespace Sys2Proof.Machine

/-! ### Fresh names, free values, ages -/

/-- A name no other thing has had. -/
def fresh (s : State) : Nat × State := (s.nextId, { s with nextId := s.nextId + 1 })

/-- A free byte: nothing constrains it. -/
def takeFreeByte (s : State) : Byte × State := (Config.freeByte s.freeCtr, { s with freeCtr := s.freeCtr + 1 })

/-- n free bytes. -/
def takeFreeBytes (s : State) : Nat → List Byte × State
  | 0 => ([], s)
  | n + 1 => let (b, s1) := takeFreeByte s; let (bs, s2) := takeFreeBytes s1 n; (b :: bs, s2)

/-- A later moment, for comparing ages (R195, R215, R223). -/
def tick (s : State) : State := { s with now := s.now + 1 }

/-! ### Warps -/

/-- The warp with an identity, the focus included. -/
def findWarp (s : State) (id : Nat) : Option Warp :=
  if s.warp.id = id then some s.warp else s.others.find? fun w => w.id == id

/-- Every warp that holds a slot. -/
def warps (s : State) : List Warp := s.warp :: s.others

def updateWarp (s : State) (id : Nat) (f : Warp → Warp) : State :=
  if s.warp.id = id then { s with warp := f s.warp }
  else { s with others := updateWhere (fun w => w.id == id) f s.others }

def mapWarps (s : State) (f : Warp → Warp) : State := { s with warp := f s.warp, others := s.others.map f }

/-- A warp in no slot: what the focus is when no warp has the turn. -/
def Warp.empty : Warp := {}

/-- A warp leaves its slot. -/
def removeWarp (s : State) (id : Nat) : State :=
  if s.warp.id = id then { s with warp := Warp.empty } else { s with others := s.others.filter fun w => w.id != id }

/-- A warp takes a slot: it becomes the focus where no warp has the turn. -/
def addWarp (s : State) (w : Warp) : State :=
  if s.warp.status = .free then { s with warp := w } else { s with others := s.others ++ [w] }

def Warp.resident (w : Warp) : Bool := w.status != .free

/-- Warps resident on a core. -/
def coreWarps (s : State) (die core : Nat) : List Warp :=
  (warps s).filter fun w => w.resident && w.die == die && w.core == core

def warpLane (s : State) (id l : Nat) : Option Lane := (findWarp s id).map fun w => w.lanes.getD l Lane.blank

/-- Lanes updated with their numbers. -/
def mapLanes (w : Warp) (f : Nat → Lane → Lane) : Warp := { w with lanes := mapFrom f 0 w.lanes }

/-- The pegs that are set: those of operations not reported complete (R20). -/
def Warp.pegs (w : Warp) : BitVec 12 := w.ops.foldl (fun m o => m ||| o.pegs) 0

/-- Parked lanes (R165): in a waiting mask and not active. -/
def Warp.parked (w : Warp) : Mask := (w.pleats.foldl (fun m p => m ||| p.waiting) 0) &&& ~~~w.active

/-- The pleat entries of the current frame (R165). -/
def Warp.frameDepth (w : Warp) : Nat :=
  match w.calls with
  | [] => w.pleats.length
  | c :: _ => w.pleats.length - c.depth

/-- Pleat entries and call levels that stand on chip, the youngest ones (R17, R18). -/
def Warp.chipPleats (w : Warp) : Nat := w.pleats.length - w.pleatsOut
def Warp.chipCalls (w : Warp) : Nat := w.calls.length - w.callsOut

/-- Whether an entry or a level is to move: out where more than 16 entries or 2 levels stand on chip, back where none is left there. -/
def Warp.spoolDue (w : Warp) : Bool :=
  decide (16 < w.chipPleats) || decide (2 < w.chipCalls) || (w.pleatsOut != 0 && w.chipPleats == 0) || (w.callsOut != 0 && w.chipCalls == 0)

/-! ### Groups -/

def findGroup (s : State) (key : Nat) : Option Group := s.groups.find? fun g => g.key == key

def updateGroup (s : State) (key : Nat) (f : Group → Group) : State :=
  { s with groups := updateWhere (fun g => g.key == key) f s.groups }

def groupOf (s : State) (w : Warp) : Option Group := w.group.bind (findGroup s)

/-- A core's number within its quad. -/
def inQuad (core : Nat) : Nat := core % 4

/-- Where a scratchpad byte is kept within its group. -/
def scratchKey (coreInQuad off : Nat) : Nat := coreInQuad * 2 ^ 19 + off

/-! ### Writes to scratchpad that nothing has ordered yet (R154, R252 to R256, R259) -/

/-- The warps of a group, resident or saved. -/
def groupWarps (s : State) (key : Nat) : List Nat :=
  (((warps s).filter fun w => w.resident && w.group == some key).map (·.id)) ++ ((s.saved.filter fun x => x.warp.group == some key).map (·.warp.id))

/-- A write that warps of the group are not ordered after, all of them or all but its own. -/
def noteWrite (s : State) (key : Nat) (x : LooseWrite) (ownToo : Bool) : State :=
  let unseen := (groupWarps s key).filter fun k => ownToo || k != x.owner
  if unseen.isEmpty then s else updateGroup s key fun g => { g with loose := { x with unseen := unseen } :: g.loose }

/-- The scratchpad ranges written by others that nothing orders before what a warp does now. -/
def looseRuns (s : State) (w : Warp) : List (Nat × Nat) :=
  match groupOf s w with
  | some g => (g.loose.filter fun x => x.unseen.contains w.id).map fun x => (x.at_, x.bytes)
  | none => []

def noneLoose (s : State) : Bool := s.groups.all fun g => g.loose.isEmpty

/-- Every write that is still loose. -/
def mapLoose (s : State) (f : LooseWrite → LooseWrite) : State :=
  if noneLoose s then s
  else { s with groups := s.groups.map fun g => { g with loose := (g.loose.map f).filter fun x => !x.unseen.isEmpty } }

/-- A warp is ordered after the writes that satisfy p. -/
def seeWrites (s : State) (id : Nat) (p : LooseWrite → Bool) : State :=
  mapLoose s fun x =>
    if x.unseen.contains id && p x then { x with unseen := x.unseen.filter fun k => k != id, seen := id :: x.seen } else x

/-- How wide a scope reaches. -/
def scopeRank : Scope → Nat
  | .thread => 0
  | .core => 1
  | .quad => 2
  | .die => 3
  | .pkg => 4
  | .pod => 5
  | .sys => 6

def narrower (a b : Scope) : Scope := if scopeRank a ≤ scopeRank b then a else b

def Place.meets (a b : Place) : Bool :=
  a.space == b.space && (a.space == .global || a.group == b.group) && decide (a.at_ < b.at_ + b.bytes) && decide (b.at_ < a.at_ + a.bytes)

/-- Whether an agent's event stands after a write: its own, of the same lane or of its warp as a whole; or one that it is ordered after. -/
def LooseWrite.precedes (x : LooseWrite) (agent : Nat) (lane : Option Nat) : Bool :=
  if x.agent == agent then lane.isNone || x.lane.isNone || x.lane == lane else x.seen.contains agent || x.carried.contains agent

/-- How wide the scopes of a chain from a write over a release to a reader must be (R256): they hold the writer, the releasing agent and the
reader; with three agents on it `die`, but over a barrier object, whose releases add up (R262). -/
def LooseWrite.needs (x : LooseWrite) (r : Released) (core : Nat) : Nat :=
  let near := if !x.copy && x.core == core && r.core == core then 1 else 2
  if (r.agent != x.agent || r.far) && r.phase.isNone then 3 else near

/-- A release by an agent at a place: the writes that stand before it are released there. -/
def release (s : State) (r : Released) (lane : Option Nat) : State :=
  mapLoose s fun x => if x.precedes r.agent lane && !x.released.contains r then { x with released := r :: x.released } else x

/-- A write by a lane, after its release fences (R253). -/
def releaseFenced (s : State) (w : Warp) (lane : Nat) (place : Place) : State :=
  mapLoose s fun x =>
    (x.fenced.filter fun f => f.warp == w.id && f.lane == lane).foldl (fun x f =>
      let r : Released := { place := place, scope := f.scope, agent := w.id, core := w.core }
      if x.released.contains r then x else { x with released := r :: x.released }) x

/-- A plain write: what had been released at the place is not what a read there returns any more. -/
def overwritten (s : State) (place : Place) : State :=
  mapLoose s fun x => { x with released := x.released.filter fun r => r.phase.isSome || !r.place.meets place }

/-- An RMW of an agent: a read that returns what it wrote still stands after the releases of others there, with one more agent between (R256). -/
def passedOn (s : State) (agent : Nat) (place : Place) : State :=
  mapLoose s fun x => { x with released := x.released.map fun r =>
    if r.phase.isNone && r.place.meets place && r.agent != agent then { r with far := true } else r }

/-- A release fence of a lane. -/
def fenceRelease (s : State) (w : Warp) (lane : Nat) (sc : Scope) : State :=
  mapLoose s fun x =>
    let f : LaneAfter := { warp := w.id, lane := lane, scope := sc }
    if x.precedes w.id (some lane) && !x.fenced.contains f then { x with fenced := f :: x.fenced } else x

/-- The scope at which a read of a place by a core's agent is ordered after a write, where the read is an acquire at `sc`: the widest that its
releases there allow. -/
def LooseWrite.reaches (x : LooseWrite) (place : Place) (core : Nat) (sc : Scope) : Bool :=
  x.released.any fun r => r.place.meets place && decide (x.needs r core ≤ scopeRank (narrower r.scope sc))

/-- An acquire read of a place by a warp (R253). -/
def acquireRead (s : State) (w : Warp) (place : Place) (sc : Scope) : State := seeWrites s w.id fun x => x.reaches place w.core sc

/-- Any other read by a lane, which an acquire fence may order later. -/
def plainRead (s : State) (w : Warp) (lane : Nat) (place : Place) : State :=
  mapLoose s fun x =>
    [Scope.core, .quad, .die].foldl (fun x sc =>
      let f : LaneAfter := { warp := w.id, lane := lane, scope := sc }
      if x.reaches place w.core sc && !x.read.contains f then { x with read := f :: x.read } else x) x

/-- An acquire fence of a lane: it orders the warp after what the lane's reads returned. -/
def fenceAcquire (s : State) (w : Warp) (lane : Nat) (sc : Scope) : State :=
  seeWrites s w.id fun x => x.read.any fun f => f.warp == w.id && f.lane == lane && decide (scopeRank f.scope ≤ scopeRank sc)

/-- A sequentially consistent fence of a lane: its warp's operations follow what the lane wrote through the quad window (R253, R260). -/
def fenceOwn (s : State) (w : Warp) (lane : Nat) (sc : Scope) : State :=
  seeWrites s w.id fun x => x.agent == w.id && x.lane == some lane && decide (2 ≤ scopeRank sc)

/-- A clause that waits for pegs is ordered after the operations they were attached to (R254). -/
def seePegs (s : State) (w : Warp) (pegs : BitVec 12) : State := seeWrites s w.id fun x => x.owner == w.id && x.pegs &&& pegs != 0

/-- A copy's events follow what its warp was ordered after at its issue (R261). -/
def carryTo (s : State) (cid warp : Nat) : State :=
  mapLoose s fun x => if x.precedes warp none then { x with carried := cid :: x.carried } else x

/-- A warp is gone: nothing of it waits to be ordered. -/
def forgetWarp (s : State) (id : Nat) : State := seeWrites s id fun _ => true

/-! ### Patterns and stages -/

def findPattern (s : State) (ctx : Nat) (pat : Word) : Option Pattern :=
  s.patterns.find? fun p => p.ctx == ctx && p.addr == pat

def stageDecl (p : Pattern) (stage : BitVec 4) : Option StageDecl := p.image.stages.find? fun d => d.num == stage

def declOf (s : State) (ctx : Nat) (pat : Word) (stage : BitVec 4) : Option StageDecl :=
  (findPattern s ctx pat).bind fun p => stageDecl p stage

/-- S_hw (R19). -/
def hwAreaSize (fmax : Nat) : Nat := (0x2000 + 254 * (4160 + 256 * fmax) + 4095) / 4096 * 4096

/-! ### Contexts and functions -/

def findContext (s : State) (c : Nat) : Option Context := s.contexts.find? fun x => x.num == c

def updateContext (s : State) (c : Nat) (f : Context → Context) : State :=
  { s with contexts := updateWhere (fun x => x.num == c) f s.contexts }

def vfPage (s : State) (vf : Nat) : Option VfPage := s.vfs.find? fun p => p.vf == vf

def updateVf (s : State) (vf : Nat) (f : VfPage → VfPage) : State :=
  { s with vfs := updateWhere (fun p => p.vf == vf) f s.vfs }

def vfConfig (s : State) (vf : Nat) : VfConfig := (s.configs.find? fun c => c.vf == vf).getD { vf := vf }

def vfBlock (s : State) (vf : Nat) : VfBlock := (vfConfig s vf).inForce

/-- The page that a VF presents: one that is not enabled presents none (R331, R333). What a device reset leaves of its page waits there. -/
def pageOf (s : State) (vf : Nat) : Option VfPage := if (vfBlock s vf).enabled then vfPage s vf else none

/-- The VF's configuration updated, made where it is not listed yet. -/
def updateConfig (s : State) (vf : Nat) (f : VfConfig → VfConfig) : State :=
  if s.configs.any fun c => c.vf == vf then { s with configs := updateWhere (fun c => c.vf == vf) f s.configs }
  else { s with configs := f { vf := vf } :: s.configs }

def vfOfContext (s : State) (c : Nat) : Nat := ((findContext s c).map (·.vf)).getD 64

/-- Device partition of a die, and the dies of a partition (R336). -/
def partitionOfDie (s : State) (die : Nat) : Nat := s.partmap.getD die 0
def diesOf (s : State) (part : Nat) : List Nat := (List.range 8).filter fun d => partitionOfDie s d == part
def partitionOfVf (s : State) (vf : Nat) : Nat := (vfBlock s vf).partition

/-! ### Queues -/

def findQueue (s : State) (q : Nat) : Option Queue := s.queues.find? fun x => x.num == q

/-- The queue's owner by the PF's blocks in force (R331). -/
def queueOwner (s : State) (q : Nat) : Option Nat :=
  (s.configs.find? fun c => c.inForce.enabled && c.inForce.queues.contains q).map (·.vf)

/-- A queue's fields, those of reset where it has never been configured (R333). -/
def queueOf (s : State) (q : Nat) : Queue := (findQueue s q).getD { num := q, vf := (queueOwner s q).getD 64 }

def updateQueue (s : State) (q : Nat) (f : Queue → Queue) : State :=
  if s.queues.any fun x => x.num == q then { s with queues := updateWhere (fun x => x.num == q) f s.queues }
  else { s with queues := f (queueOf s q) :: s.queues }

/-! ### Cores, bobbins, units -/

def findCore (s : State) (die core : Nat) : Core :=
  (s.cores.find? fun c => c.die == die && c.core == core).getD { die := die, core := core }

def updateCore (s : State) (die core : Nat) (f : Core → Core) : State :=
  if s.cores.any fun c => c.die == die && c.core == core then
    { s with cores := updateWhere (fun c => c.die == die && c.core == core) f s.cores }
  else { s with cores := f (findCore s die core) :: s.cores }

def isBobbin (ctx : Nat) (pat : Word) (stage : BitVec 4) (die core : Nat) (b : Bobbin) : Bool :=
  b.ctx == ctx && b.pat == pat && b.stage == stage && b.die == die && b.core == core

def findBobbin (s : State) (ctx : Nat) (pat : Word) (stage : BitVec 4) (die core : Nat) : Bobbin :=
  (s.bobbins.find? (isBobbin ctx pat stage die core)).getD { ctx := ctx, pat := pat, stage := stage, die := die, core := core }

def setBobbin (s : State) (b : Bobbin) : State :=
  if s.bobbins.any (isBobbin b.ctx b.pat b.stage b.die b.core) then
    { s with bobbins := updateWhere (isBobbin b.ctx b.pat b.stage b.die b.core) (fun _ => b) s.bobbins }
  else { s with bobbins := s.bobbins ++ [b] }

def isSegment (ctx : Nat) (pat : Word) (stage : BitVec 4) (die : Nat) (g : Segment) : Bool :=
  g.ctx == ctx && g.pat == pat && g.stage == stage && g.die == die

def findSegment (s : State) (ctx : Nat) (pat : Word) (stage : BitVec 4) (die : Nat) : Segment :=
  (s.segments.find? (isSegment ctx pat stage die)).getD { ctx := ctx, pat := pat, stage := stage, die := die }

def setSegment (s : State) (g : Segment) : State :=
  if s.segments.any (isSegment g.ctx g.pat g.stage g.die) then
    { s with segments := updateWhere (isSegment g.ctx g.pat g.stage g.die) (fun _ => g) s.segments }
  else { s with segments := s.segments ++ [g] }

def findUnit (s : State) (die core part : Nat) : MatrixUnit :=
  (s.units.find? fun u => u.die == die && u.core == core && u.part == part).getD { die := die, core := core, part := part }

def setUnit (s : State) (u : MatrixUnit) : State :=
  if s.units.any fun v => v.die == u.die && v.core == u.core && v.part == u.part then
    { s with units := updateWhere (fun v => v.die == u.die && v.core == u.core && v.part == u.part) (fun _ => u) s.units }
  else { s with units := s.units ++ [u] }

def unitOf (s : State) (w : Warp) : MatrixUnit := findUnit s w.die w.core w.part

/-! ### Tiles -/

def MatrixUnit.tile (u : MatrixUnit) (t : Nat) : Tile := u.tiles.getD t {}

def MatrixUnit.setTile (u : MatrixUnit) (t : Nat) (x : Tile) : MatrixUnit := { u with tiles := u.tiles.set t x }

/-- A tile's elements free in the fields its mode uses (R148, R150, R383). -/
def freeElems (md : TileMode) : Nat → State → List Elem × State
  | 0, s => ([], s)
  | n + 1, s =>
    let (bs, s1) := takeFreeBytes s 11
    let num := fun (k w : Nat) => leNat ((bs.drop k).take w)
    let x : Elem := match md with
      | .fp32 => { f := BitVec.ofNat 32 (num 0 4) }
      | .exact => { r2047 := num 4 2 % 2047, r2048 := num 6 2 % 2048, r2049 := num 8 2 % 2049, r31 := num 10 1 % 31 }
      | .raw => { r2047 := num 4 2 % 2047, r2048 := num 6 2 % 2048, r2049 := num 8 2 % 2049 }
    let (xs, s2) := freeElems md n s1
    (x :: xs, s2)

/-- Tiles whose contents are undefined from here. -/
def freeTiles (ts : List Nat) (u : MatrixUnit) (s : State) : MatrixUnit × State :=
  ts.foldl (fun (p : MatrixUnit × State) t =>
    let (xs, s) := freeElems (p.1.tile t).mode 1024 p.2
    (p.1.setTile t { p.1.tile t with elems := xs }, s)) (u, s)

/-! ### Copies and launches -/

def findCopy (s : State) (cid : Nat) : Option Copy := s.copies.find? fun c => c.cid == cid

def updateCopy (s : State) (cid : Nat) (f : Copy → Copy) : State :=
  { s with copies := updateWhere (fun c => c.cid == cid) f s.copies }

def findLaunch (s : State) (k : Nat) : Option Launch := s.launches.find? fun l => l.key == k

def updateLaunch (s : State) (k : Nat) (f : Launch → Launch) : State :=
  { s with launches := updateWhere (fun l => l.key == k) f s.launches }

/-! ### Power (R226, R374) -/

def islandOf (core : Nat) : Nat := if core < 48 then 0 else 1

/-- A unit leaves its power state; powering up an island zeroes the cycle counters of its cores, and wakes its data arrays. -/
def wakeUnit (s : State) (u : PowerUnit) : State :=
  if !s.gated.contains u then s
  else
    let s := { s with gated := s.gated.filter fun x => x != u }
    match u with
    | .island d h =>
      { s with
        cores := updateWhere (fun c => c.die == d && islandOf c.core == h) (fun c => { c with clock := 0 }) s.cores
        retained := s.retained.filter fun x => x != (d, h) }
    | _ => s

/-- Work arrives at a die: a dispatch, or an access to a line homed there. -/
def wakeDie (s : State) (die : Nat) : State := if s.gated.isEmpty then s else wakeUnit s (.die die)

/-- Work arrives at a core: a record for one of its bobbins. -/
def wakeCore (s : State) (die core : Nat) : State :=
  if s.gated.isEmpty then s else wakeUnit (wakeUnit (wakeDie s die) (.island die (islandOf core))) (.core die core)

/-- Work arrives at a partition of a core: a warp takes a slot. -/
def wakeFor (s : State) (die core part : Nat) : State :=
  if s.gated.isEmpty then s else wakeUnit (wakeCore s die core) (.part die core part)

/-! ### Physical addresses (R229, R230) -/

/-- What a physical address names. -/
inductive Target where
  | hbm
  | pod (pkg : Nat)
  | host
  | bad
  deriving DecidableEq, Repr

/-- R229: kind 0 with [47:40] zero, kind 1 with [43:40] zero, kind 2; a kind 1 that names this package is kind 0. -/
def targetOf (s : State) (pa : Nat) : Target :=
  match pa / 2 ^ 48 with
  | 0 => if pa / 2 ^ 40 % 256 == 0 then .hbm else .bad
  | 1 =>
    if pa / 2 ^ 40 % 16 != 0 then .bad
    else if pa / 2 ^ 44 % 16 == s.pkg then .hbm else .pod (pa / 2 ^ 44 % 16)
  | 2 => .host
  | _ => .bad

/-- A kind-1 address of this package as kind 0. -/
def homePa (s : State) (pa : Nat) : Nat :=
  if pa / 2 ^ 48 == 1 && pa / 2 ^ 44 % 16 == s.pkg then pa % 2 ^ 40 else pa

/-- The home die of a line in HBM: PA[14:12] xor PA[17:15]. -/
def homeDie (pa : Nat) : Nat := (pa / 2 ^ 12 % 8) ^^^ (pa / 2 ^ 15 % 8)

/-- Where the home of a line is: a die of this package, the I/O die that reaches host memory, or another package (R230). -/
inductive HomeSite where
  | die (d : Nat)
  | ioDie (n : Nat)
  | package (k : Nat)
  | nowhere
  deriving DecidableEq, Repr

def homeOf (s : State) (pa : Nat) : HomeSite :=
  match targetOf s pa with
  | .hbm => .die (homeDie (homePa s pa))
  | .host => .ioDie ((pa / 2 ^ 12 % 2) ^^^ (pa / 2 ^ 15 % 2))
  | .pod k => .package k
  | .bad => .nowhere

/-- An access to a line homed on a die that is off powers it up (R226). -/
def wakeHome (s : State) (pa : Nat) : State :=
  match homeOf s pa with
  | .die d => wakeDie s d
  | _ => s

def lineOf (pa : Nat) : Nat := pa / 128

/-- Whether some byte of an access lies in a marked global granule (R294). -/
def touchesMark (s : State) (pa n : Nat) : Bool :=
  s.homes.any fun h => decide (pa < h.pa + 16) && decide (h.pa < pa + n)

/-! ### What waits outside (R352, R392) -/

def holdAccess (s : State) (i : Instr) : State := { s with heldOutside := s.heldOutside ++ [.row i] }

/-- A write of the host's to a register page or a doorbell, which the card performs after the accesses that came before it. -/
def afterHeld (s : State) (i : Instr) (f : State) : State := if s.heldOutside.isEmpty then f else holdAccess s i

/-- The stack an address lies in: one of the two of its home die (R230). -/
def stackOf (pa : Nat) : Nat := 2 * homeDie pa + (if Config.stackHash (lineOf pa) then 1 else 0)

/-- The thermal state of the stack an address lies in; no stack is in any but the ordinary one until a signal (R392). -/
def stackState (s : State) (pa : Nat) : StackState :=
  if s.hbmStacks.isEmpty then .ok
  else ((s.hbmStacks.find? fun k => k.num == stackOf pa).map (·.st)).getD .ok

/-- Whether a stack holds its accesses now. -/
def isHolding (s : State) (stack : Nat) : Bool := s.hbmStacks.any fun k => k.num == stack && k.st == .holding

/-! ### Readiness of queue records (R214, R215, R350) -/

def contextHeld (s : State) (c : Nat) : Bool := ((findContext s c).map (·.held)).getD true

/-- A wait of a launch record (R213). -/
def waitHolds (s : State) (ctx : Nat) (w seq : Word) : Bool :=
  !w.getLsbD 63 || (let x := queueOf s (field w 0 10)
    x.enabled && x.ctx == ctx && decide (seq.toNat ≤ x.s.toNat))

/-- Indices of a launch no distributor has made. -/
def Distributor.left (groups : Nat) (d : Distributor) : Nat :=
  d.hi - d.lo + (if d.blocks = 0 then 0 else 8 * (d.blocks - 1) + min 8 (groups - 8 * (d.first + d.step * (d.blocks - 1))))

def allMade (l : Launch) : Bool := l.dists.all fun d => d.left l.groups == 0

/-- The oldest record that has not started. -/
def nextRecord (x : Queue) : Option QueueRecord := x.recs.find? fun r => !r.started

/-- R214's conditions for a record of a queue that has not started: its waits, ORD, and every earlier launch made. -/
def recordReady (s : State) (x : Queue) (r : QueueRecord) : Bool :=
  let w := fun (k : Nat) => r.words.getD k 0
  waitHolds s x.ctx (w 5) (w 6) && waitHolds s x.ctx (w 7) (w 8)
    && (!(w 0).getLsbD 59 || r.index == x.s.toNat)
    && !(s.launches.any fun l => l.queue == x.num && decide (l.index < r.index) && !allMade l)
    && !(x.recs.any fun y => decide (y.index < r.index) && !y.started && field (y.words.getD 0 0) 60 4 == 0)

/-- Each record not started keeps the moment since when it has been ready. -/
def noteQueue (s : State) (x : Queue) : Queue :=
  { x with recs := x.recs.map fun r =>
      if r.started then r
      else if recordReady s x r then (if r.ready.isNone then { r with ready := some s.now } else r)
      else { r with ready := none } }

/-- The record by which a queue takes part in a dispatch decision (R214, R334, R346). -/
def readyRecord (s : State) (x : Queue) : Option QueueRecord :=
  if x.enabled && !x.error && !contextHeld s x.ctx then (nextRecord x).filter (recordReady s x) else none

/-- R350: the count of a VF's decisions runs since it last had no ready queue. -/
def forgetIdle (s : State) : State :=
  { s with configs := s.configs.map fun c =>
      if s.queues.any fun x => x.vf == c.vf && (readyRecord s x).isSome then c else { c with won := 0 } }

/-- Records that have become ready are marked with the moment (R215); VFs left with no ready queue count from 0 (R350). -/
def noteReady (s : State) : State :=
  let s := tick s
  forgetIdle { s with queues := s.queues.map (noteQueue s) }

end Sys2Proof.Machine
end

