-- ==== Sys2Proof/Machine/Protocol.lean ====
section
/-! DEFINITION. The directory protocol (R237, R241 to R245): requests as the home serves them, messages as their receivers handle them, and a
transaction, which is a request with every message it gives rise to. Values are not here: every copy holds what memory holds. -/

namespace Sys2Proof.Machine

/-! ### Records and copies (R241) -/

def dirEntry (c : Coherence) (line : Nat) : Option DirEntry := c.dir.find? fun e => e.line == line

def copyOf (c : Coherence) (die line : Nat) : Option DieCopy := c.copies.find? fun x => x.die == die && x.line == line

def dieBit (d : Nat) : BitVec 8 := BitVec.ofNat 8 (2 ^ d)

def setCopy (c : Coherence) (die line : Nat) (st : CopyState) (watched : Bool := false) : Coherence :=
  { c with copies := { die := die, line := line, st := st, watched := watched } :: c.copies.filter fun x => !(x.die == die && x.line == line) }

/-- A copy leaves a die's home cache: every L1 of the die loses the line first (R237). -/
def dropCopy (c : Coherence) (die line : Nat) : Coherence :=
  { c with
    l1 := c.l1.filter fun x => !(x.die == die && x.line == line && x.bytes.isNone)
    copies := c.copies.filter fun x => !(x.die == die && x.line == line) }

def setDir (c : Coherence) (e : DirEntry) : Coherence := { c with dir := e :: c.dir.filter fun x => x.line != e.line }

def freeDir (c : Coherence) (line : Nat) : Coherence := { c with dir := c.dir.filter fun x => x.line != line }

/-- Everything that holds a line, by the home's record. -/
def holders (e : DirEntry) : BitVec 8 :=
  match e.st with
  | .shared => e.sharers
  | _ => e.sharers ||| dieBit e.owner

/-- The home's memory takes a line's data. -/
def tookData (c : Coherence) (line : Nat) : Coherence := { c with stale := c.stale.filter fun x => x.1 != line }

/-! ### Messages -/

def send (c : Coherence) (k : MsgKind) (line die : Nat) : Coherence := { c with msgs := c.msgs ++ [{ kind := k, line := line, die := die }] }

def sendAll (c : Coherence) (k : MsgKind) (line : Nat) (dies : BitVec 8) : Coherence :=
  ((List.range 8).filter fun d => dies.getLsbD d).foldl (fun c d => send c k line d) c

def setBusy (c : Coherence) (b : BusyLine) : Coherence := { c with busy := b :: c.busy.filter fun x => x.line != b.line }

def busyOf (c : Coherence) (line : Nat) : Option BusyLine := c.busy.find? fun b => b.line == line

/-- A WbD of a line is on its way. -/
def wbdDue (c : Coherence) (line : Nat) : Bool :=
  c.msgs.any fun m => m.line == line && (match m.kind with
    | .wbd _ => true
    | _ => false)

/-! ### The home serves (R243 to R245) -/

/-- Data from the home, where nothing is owed any more. -/
def supply (c : Coherence) (b : BusyLine) (st : CopyState) (payload : Bool) : Coherence :=
  setBusy (send c (.data st payload) b.line b.die) { b with sent := true, fwd := none }

/-- Entries a die's directory may hold (R244). -/
def dirCapacity : Nat := 1572864

/-- The line to evict before an entry can be made: the oldest of the same home that is not busy, where its directory is full. -/
def victimFor (c : Coherence) (line : Nat) : Option Nat :=
  if c.dir.length < dirCapacity then none
  else
    let home := fun (l : Nat) => homeDie (l * 128)
    let mine := c.dir.filter fun x => home x.line == home line
    if mine.length < dirCapacity then none else ((mine.filter fun x => (busyOf c x.line).isNone).getLast?).map (·.line)

/-- An eviction begins (R244). -/
def startEvict (c : Coherence) (line : Nat) : Coherence :=
  match dirEntry c line with
  | none => c
  | some e => setBusy (sendAll c .binv line (holders e)) { line := line, req := .evict, die := 0, owed := holders e }

/-- A recall (R245): Inv to the sharers, Fwd(X) to any owner. -/
def startRecall (c : Coherence) (line : Nat) : Coherence :=
  match dirEntry c line with
  | none => c
  | some e =>
    let b : BusyLine := { line := line, req := .recall, die := 0 }
    match e.st with
    | .shared => setBusy (sendAll c .inv line e.sharers) { b with owed := e.sharers }
    | _ =>
      let rest := e.sharers &&& ~~~dieBit e.owner
      setBusy (send (sendAll c .inv line rest) (.fwd true none) line e.owner) { b with owed := rest, fwd := some e.owner }

/-- RdS (R243). A watched line is granted S only, and has no owner (R231). -/
def serveRds (c : Coherence) (b : BusyLine) (watched : Bool) : Coherence :=
  match dirEntry c b.line with
  | none =>
    if watched then supply (setDir c { line := b.line, st := .shared, sharers := dieBit b.die, watched := true }) b .s true
    else supply (setDir c { line := b.line, st := .exclusive, owner := b.die, sharers := dieBit b.die }) b .e true
  | some e =>
    match e.st with
    | .shared => supply (setDir c { e with sharers := e.sharers ||| dieBit b.die }) b .s true
    | _ =>
      setBusy (send (setDir c { e with st := .owned, sharers := e.sharers ||| dieBit b.die }) (.fwd false (some b.die)) b.line e.owner)
        { b with fwd := some e.owner }

/-- RdX, and Upg, which is treated as RdX where the requester's bit is clear (R243). The owner asked to supply may be the requester itself, whose
copy has gone and whose WbD is on its way: it answers the Fwd(X) as any owner without a copy does. -/
def serveWrite (c : Coherence) (b : BusyLine) (upg : Bool) : Coherence :=
  let mine : DirEntry := { line := b.line, st := .exclusive, owner := b.die, sharers := dieBit b.die }
  match dirEntry c b.line with
  | none => supply (setDir c mine) { b with req := .rdx } .m true
  | some e =>
    let upg := upg && e.sharers.getLsbD b.die
    let others := holders e &&& ~~~dieBit b.die
    let b := { b with req := if upg then .upg else .rdx }
    let c := setDir c mine
    if upg || e.st == .shared then
      let c := sendAll c .inv b.line others
      if others == 0 then supply c b .m (!upg) else setBusy c { b with owed := others }
    else
      let rest := others &&& ~~~dieBit e.owner
      setBusy (send (sendAll c .inv b.line rest) (.fwd true (some b.die)) b.line e.owner) { b with owed := rest, fwd := some e.owner }

/-- A request for a line that is not busy. One that needs an entry where there is no room waits for an eviction. -/
def serve (c : Coherence) (req : Request) (die line : Nat) : Coherence :=
  let b : BusyLine := { line := line, req := req, die := die }
  match req with
  | .evict => startEvict c line
  | .recall => startRecall c line
  | _ =>
    match if (dirEntry c line).isNone then victimFor c line else none with
    | some v => setBusy (startEvict c v) { b with awaits := some v }
    | none =>
      match req with
      | .rds w => serveRds c b w
      | r => serveWrite c b (r == .upg)

/-- The line is free: a request that its entry made room for is served, and the next request that waits for it. -/
def endBusy (c : Coherence) (line : Nat) : Coherence :=
  let c := { c with busy := c.busy.filter fun b => b.line != line }
  let c := match c.busy.find? fun b => b.awaits == some line with
    | some b => serve { c with busy := c.busy.filter fun x => x.line != b.line } b.req b.die b.line
    | none => c
  match c.waiting.find? fun x => x.1 == line with
  | some (l, r, d) => serve { c with waiting := c.waiting.erase (l, r, d) } r d line
  | none => c

/-- A request arrives: it waits while the line is busy. An eviction or a recall that nobody owes an answer to ends at once. -/
def arrive (c : Coherence) (req : Request) (die line : Nat) : Coherence :=
  if (busyOf c line).isSome then { c with waiting := c.waiting ++ [(line, req, die)] }
  else
    let c := serve c req die line
    match busyOf c line with
    | some b => if (b.req == .evict || b.req == .recall) && b.owed == 0 && b.fwd.isNone then endBusy (freeDir c line) line else c
    | none => c

/-! ### Dies answer (R242, R243) -/

/-- A state that can supply data. -/
def ownsData : Option DieCopy → Bool
  | some x => x.st != .s
  | none => false

/-- Fwd: the owner supplies the requester, or returns WbD to a recall; with no copy left it answers with a data-less InvAck. -/
def onFwd (c : Coherence) (die line : Nat) (x : Bool) (req : Option Nat) : Coherence :=
  if ownsData (copyOf c die line) then
    match req with
    | none => send (dropCopy c die line) (.wbd true) line die
    | some r =>
      let c := if x then send (dropCopy c die line) (.data .m true) line r else send (setCopy c die line .o) (.data .s true) line r
      { c with busy := updateWhere (fun b => b.line == line) (fun b => { b with fwd := none, sent := true }) c.busy }
  else send c (.ack true) line die

def onInv (c : Coherence) (die line : Nat) : Coherence := send (dropCopy c die line) (.ack (copyOf c die line).isNone) line die

/-- BInv: an M or O owner answers with WbD, any other with InvAck (R244). -/
def onBinv (c : Coherence) (die line : Nat) : Coherence :=
  let answer := match copyOf c die line with
    | some x => if x.st == .m || x.st == .o then MsgKind.wbd true else .ack false
    | none => .ack true
  send (dropCopy c die line) answer line die

/-- Data: the copy stands as granted, and its receipt is acknowledged. -/
def onData (c : Coherence) (die line : Nat) (st : CopyState) : Coherence :=
  send (setCopy c die line st (((dirEntry c line).map (·.watched)).getD false)) (.ack false) line die

/-! ### The home receives answers -/

/-- Where a busy line owes nothing more it goes on: an eviction or a recall frees the entry once a WbD on its way has come too (R244, R245,
R316); a request is supplied, or ends with its requester's InvAck (R243). -/
def advance (c : Coherence) (b : BusyLine) : Coherence :=
  if b.owed != 0 || b.fwd.isSome then setBusy c b
  else
    match b.req with
    | .evict | .recall => if wbdDue c b.line then setBusy c b else endBusy (freeDir c b.line) b.line
    | r => if b.sent then (if b.ended then endBusy c b.line else setBusy c b) else supply c b .m (r != .upg)

/-- The owner had no copy left: the home has its WbD, or its memory is as good, and supplies the requester itself (R243). -/
def ownerLost (c : Coherence) (b : BusyLine) (owner : Nat) : Coherence :=
  let c := tookData { c with msgs := c.msgs.filter fun m => !(m.line == b.line && m.die == owner && m.kind == .wbd false) } b.line
  match b.req with
  | .rds _ =>
    let c := match dirEntry c b.line with
      | some e => setDir c { e with st := .shared, sharers := (e.sharers &&& ~~~dieBit owner) ||| dieBit b.die }
      | none => c
    supply c b .s true
  | _ => advance c { b with fwd := none }

/-- InvAck at the home: for an Inv, a BInv or a Fwd it sent, or for Data that arrived. -/
def onAck (c : Coherence) (die line : Nat) (noData : Bool) : Coherence :=
  match busyOf c line with
  | none => c
  | some b =>
    if noData && b.fwd == some die then ownerLost c b die
    else if b.owed.getLsbD die then advance c { b with owed := b.owed &&& ~~~dieBit die }
    else if b.sent && die == b.die then advance c { b with ended := true }
    else c

/-- R243: an owner's line goes to memory. -/
def writtenBack (c : Coherence) (e : DirEntry) (die : Nat) : Coherence :=
  if e.owner != die then c
  else
    match e.st with
    | .owned => setDir c { e with st := .shared, sharers := e.sharers &&& ~~~dieBit die }
    | .exclusive => freeDir c e.line
    | .shared => c

/-- WbD at the home: memory takes its data. One for a line with no entry is answered with a data-less InvAck (R242). One that a die sent before
its own RdX or Upg that the line is busy with leaves the entry, which names it as the owner to be. -/
def onWbd (c : Coherence) (die line : Nat) (answer : Bool) : Coherence :=
  match dirEntry c line with
  | none => send c .nack line die
  | some e =>
    let c := tookData c line
    match busyOf c line with
    | none => writtenBack c e die
    | some b =>
      match b.req with
      | .evict => advance c (if answer then { b with owed := b.owed &&& ~~~dieBit die } else b)
      | .recall => advance c (if answer then { b with fwd := none } else b)
      | .rds _ => writtenBack c e die
      | _ => if b.die == die then c else writtenBack c e die

/-- A message is received. -/
def receive (c : Coherence) (k : MsgKind) (die line : Nat) : Coherence :=
  match k with
  | .fwd x r => onFwd c die line x r
  | .inv => onInv c die line
  | .binv => onBinv c die line
  | .ack n => onAck c die line n
  | .nack => c
  | .data st _ => onData c die line st
  | .wbd a => onWbd c die line a

/-! ### Transactions -/

/-- A message that must arrive before a line is free: the line's own, or that of the line whose eviction it waits for. -/
def concerns (c : Coherence) (line : Nat) (m : Msg) : Bool :=
  m.line == line || (match (busyOf c line).bind (·.awaits) with
    | some v => m.line == v
    | none => false)

/-- The messages of a line arrive in the order they were sent, with those they give rise to. -/
def settleLine : Nat → Coherence → Nat → Coherence
  | 0, c, _ => c
  | n + 1, c, line =>
    match c.msgs.find? (concerns c line) with
    | some m => settleLine n (receive { c with msgs := c.msgs.erase m } m.kind m.die m.line) line
    | none => c

/-- Messages enough for a request, for every one before it, and for an eviction: at most 18 each. -/
def settleFuel (c : Coherence) : Nat := 20 * (c.waiting.length + 4) + c.msgs.length

/-- A request made, and every message of its line, until the line is free. -/
def transact (c : Coherence) (req : Request) (die line : Nat) : Coherence := let c := arrive c req die line; settleLine (settleFuel c) c line

/-- A die reads a line: a copy it holds serves, else RdS (R231, R243). -/
def dirRead (c : Coherence) (watched : Bool) (die line : Nat) : Coherence :=
  if (copyOf c die line).isSome then c else transact c (.rds watched) die line

/-- A die makes itself the M owner: silently from E, by Upg from S or O, else by RdX (R242, R243). -/
def dirWrite (c : Coherence) (die line : Nat) : Coherence :=
  match (copyOf c die line).map DieCopy.st with
  | some .m => c
  | some .e => setCopy c die line .m
  | some _ => transact c .upg die line
  | none => transact c .rdx die line

/-- The home recalls a line: no die keeps a copy and the entry is freed (R245). -/
def dirRecall (c : Coherence) (line : Nat) : Coherence := transact c .recall 0 line

/-- Before a store in the owner's copy, what stands in the home's memory, which the store does not reach (R243). -/
def keepStale (c : Coherence) (line : Nat) (bytes : List Byte) : Coherence :=
  if c.stale.any fun x => x.1 == line then c else { c with stale := (line, bytes) :: c.stale }

/-! ### L1 (R237 to R239) -/

/-- The newest n lines of a core, and every line of the others. -/
def keepNewest (die core : Nat) : Nat → List L1Line → List L1Line
  | _, [] => []
  | 0, x :: xs => if x.die == die && x.core == core then keepNewest die core 0 xs else x :: keepNewest die core 0 xs
  | n + 1, x :: xs => if x.die == die && x.core == core then x :: keepNewest die core n xs else x :: keepNewest die core (n + 1) xs

/-- A line allocated in a core's L1 that has room for n lines. -/
def fillL1 (c : Coherence) (n : Nat) (x : L1Line) : Coherence := { c with l1 := keepNewest x.die x.core n (x :: c.l1) }

def findL1 (c : Coherence) (die core line : Nat) : Option L1Line := c.l1.find? fun x => x.die == die && x.core == core && x.line == line

/-- Lines of L1 that satisfy p are dropped. -/
def dropL1 (s : State) (p : L1Line → Bool) : State := { s with coh := { s.coh with l1 := s.coh.l1.filter fun x => !p x } }

end Sys2Proof.Machine
end

