-- ==== Sys2Proof/Machine/Translate.lean ====
section
/-! DEFINITION. The two stages of translation: entry layout, the walks and their fates, the translations a die holds (R228, R232, R336 to
R340). -/

namespace Sys2Proof.Machine

/-- How a translation ends (R339). `fault` is the replayable one: stage 0 or 1 as R341 codes it, level, the address being translated,
the address of the entry that was not valid. `w2` is stage 2's own write permission, which R28 asks for alone. `held`: an entry lies in a
stack in self-refresh, which holds the walk (R392). -/
inductive Xlat where
  | ok (pa : Nat) (treat : Nat) (r w x : Bool) (w2 : Bool)
  | fault (stage level : Nat) (addr entry : Nat)
  | page
  | access
  | held (stack : Nat)
  deriving DecidableEq, Repr

/-- A valid, well-formed entry: a table or a leaf. -/
inductive Entry where
  | notValid
  | malformed
  | table (addr : Nat)
  | leaf (addr : Nat) (treat : Nat) (r w x : Bool) (lg : Nat)
  deriving DecidableEq, Repr

/-- R338's layout at a level; `stage1` tells which stage's table it stands in. -/
def readEntry (stage1 : Bool) (level : Nat) (e : Word) : Entry :=
  let v := e.getLsbD 0
  let l := e.getLsbD 1
  let r := e.getLsbD 2
  let w := e.getLsbD 3
  let x := e.getLsbD 4
  let c := e.getLsbD 5
  let treat := field e 6 3
  let addr := field e 12 40 * 4096
  if !v then .notValid
  else if field e 9 3 != 0 || field e 52 4 != 0 || (l && level ≥ 3) || (!l && level == 0) || (c && !(l && level == 0))
      || ((w || x) && !r) || (treat != 0 && !(stage1 && l)) then .malformed
  else if l then
    let lg := if c then 16 else 12 + 9 * level
    .leaf (addr / 2 ^ (12 + 9 * level) * 2 ^ (12 + 9 * level)) treat r w x lg
  else .table addr

/-- The index of level k in an address. -/
def walkIndex (a k : Nat) : Nat := a / 2 ^ (12 + 9 * k) % 512

/-- Where the reserved IPAs begin (R339, R356). -/
def ipaTop : Nat := 0x000FFFFFFFFC0000

/-- R336: a stage-2 leaf of kind 0 must map granules of the VF's partition only. -/
def leafInPartition (s : State) (part : Nat) (pa lg : Nat) : Bool :=
  match targetOf s pa with
  | .hbm => if lg > 12 then (diesOf s part).length == 8 else partitionOfDie s (homeDie (homePa s pa)) == part
  | .bad => false
  | _ => true

/-! ### Poison, failed and held stacks, lost ports (R353, R383, R392) -/

/-- A line that is poisoned (R383). -/
def isPoisoned (s : State) (pa : Nat) : Bool := s.poison.contains (lineOf pa)

/-- Whether an address can only be reached through a Traux port that is down (R353): host memory through port 0, a package by its routes. -/
def portLost (s : State) (pa : Nat) : Bool :=
  if s.ports.isEmpty then false
  else
    match targetOf s pa with
    | .host => s.ports.any fun p => p.num == 0 && p.down
    | .pod k => s.ports.any fun p => p.down && Config.routeNeeds k p.num
    | _ => false

/-- Whether an access to an address meets poison: its line is poisoned, its stack has failed, its only port is down. -/
def meetsPoison (s : State) (pa : Nat) : Bool :=
  isPoisoned s pa || (targetOf s pa == .hbm && stackState s pa == .failed) || portLost s pa

/-- Whether an access to an address is held by its stack's self-refresh (R392). -/
def isHeld (s : State) (pa : Nat) : Bool := targetOf s pa == .hbm && stackState s pa == .holding

/-- A store that cannot reach its line, whose stack has failed or whose port is down, is not performed and poisons it (R353, R392). -/
def cannotStore (s : State) (pa : Nat) : Bool := (targetOf s pa == .hbm && stackState s pa == .failed) || portLost s pa

def poisonLine (s : State) (pa : Nat) : State :=
  { s with poison := if s.poison.contains (lineOf pa) then s.poison else lineOf pa :: s.poison }

/-- The poison of the lines that a write covers whole goes (R383). -/
def poisonAfter (s : State) (pa n : Nat) : State :=
  if s.poison.isEmpty then s
  else { s with poison := s.poison.filter fun l => !(decide (pa ≤ 128 * l) && decide (128 * l + 128 ≤ pa + n)) }

/-- The lines that a run of bytes touches. -/
def linesOf (pa n : Nat) : List Nat := if n = 0 then [] else (List.range ((pa + n - 1) / 128 + 1 - pa / 128)).map (pa / 128 + ·)

/-- Whether some line of a run meets poison. -/
def runMeets (s : State) (pa n : Nat) : Bool := (linesOf pa n).any fun l => meetsPoison s (128 * l)

/-- Whether some line of a run lies on a stack in self-refresh. -/
def runHeld (s : State) (pa n : Nat) : Bool := (linesOf pa n).any fun l => isHeld s (128 * l)

/-- The lines of a run on stacks in self-refresh are noted, for the case that the stack fails (R392). -/
def noteHeld (s : State) (pa n : Nat) : State :=
  if s.hbmStacks.isEmpty then s
  else { s with heldLines := ((linesOf pa n).filter fun l => isHeld s (128 * l) && !s.heldLines.contains l) ++ s.heldLines }

/-- Bytes the device writes for itself. Those to a stack in self-refresh are held there and nothing can read them meanwhile: they stand in memory
at once, and their lines are noted for the case that the stack fails (R392). -/
def devicePut (s : State) (pa : Nat) (bs : List Byte) : State :=
  if cannotStore s pa then poisonLine s pa
  else
    let s := overwritten (wakeHome s pa) { space := .global, at_ := pa, bytes := bs.length }
    noteHeld (poisonAfter { s with mem := Memory.writeBytes s.mem pa bs } pa bs.length) pa bs.length

/-- The stacks as they stand once every hold has ended: what the device's own access, which waits for them, will meet. -/
def unheld (s : State) : State :=
  { s with hbmStacks := updateWhere (fun k => k.st == .holding) (fun k => { k with st := .ok }) s.hbmStacks }

/-- R354: this package has a route to the one addressed, and that one lets it. -/
def reachable (s : State) (pa : Nat) : Bool :=
  match targetOf s pa with
  | .pod k => s.routes.contains k && Config.remoteGrants pa
  | _ => true

/-! ### Lines under two treatments (R234) -/

/-- Whether some cache holds a line under a treatment other than the one given: a die's copy of a tracked or a watched line, or a copy of a
self-invalidating one (R234). -/
def heldOtherwise (s : State) (treat line : Nat) : Bool :=
  s.coh.copies.any (fun c => c.line == line && treat != (if c.watched then 3 else 0))
    || (treat != 1 && (s.coh.l1.any (fun x => x.line == line && x.bytes.isSome) || s.caches.clean.any (fun c => c.line == line)
      || s.caches.dirty.any fun d => lineOf d.pa == line))

/-- R234: an access under a treatment leaves a line undefined that a cache holds under another. -/
def noteTreatment (s : State) (treat pa : Nat) : State :=
  if heldOtherwise s treat (lineOf pa) && !s.caches.undef.contains (lineOf pa) then
    { s with caches := { s.caches with undef := lineOf pa :: s.caches.undef } }
  else s

/-- A hit on a dirty line of a home cache whose data arrays stand in retention wakes them (R226). -/
def wakeArrays (s : State) (pa : Nat) : State :=
  if s.retained.isEmpty then s
  else { s with retained := s.retained.filter fun x => !s.coh.copies.any fun c => c.die == x.1 && c.line == lineOf pa && (c.st == .m || c.st == .o) }

/-- A line is accessed under a treatment: its home die is powered (R226), and R234 takes note. -/
def touchLine (s : State) (treat pa : Nat) : State := noteTreatment (wakeArrays (wakeHome s pa) pa) treat pa

def isUndef (s : State) (pa : Nat) : Bool := s.caches.undef.contains (lineOf pa)

/-- A line whose values are undefined stands free in memory before it is read there (R234). -/
def loosen (s : State) (pa : Nat) : State :=
  if isUndef s pa then let (bs, s) := takeFreeBytes s 128; { s with mem := Memory.writeBytes s.mem (lineOf pa * 128) bs } else s

/-- No die and no core keeps a copy of a line, none is undefined, every unit is powered. -/
def unshared (s : State) : Bool :=
  s.coh.copies.isEmpty && s.coh.l1.isEmpty && s.caches.clean.isEmpty && s.caches.dirty.isEmpty && s.caches.undef.isEmpty && s.gated.isEmpty

/-- A run of lines touched under a treatment. -/
def touchRun (s : State) (treat pa n : Nat) : State :=
  if unshared s then s else (linesOf pa n).foldl (fun s l => touchLine s treat (128 * l)) s

/-- The undefined lines of a run stand free. -/
def loosenRun (s : State) (pa n : Nat) : State :=
  if s.caches.undef.isEmpty then s else (linesOf pa n).foldl (fun s l => loosen s (128 * l)) s

/-- The lines of a run recalled by their homes (R245). -/
def recallRun (s : State) (pa n : Nat) : State :=
  if s.coh.dir.isEmpty && s.coh.busy.isEmpty && s.coh.msgs.isEmpty then s
  else { s with coh := (linesOf pa n).foldl dirRecall s.coh }

/-- A table's entry. One of an undefined line is free (R234). -/
def entryAt (s : State) (ea : Nat) : Word := if isUndef s ea then Config.freeEntry ea s.freeCtr else Memory.readWord s.mem ea

/-! ### The walks (R337) -/

/-- A table of stage 2 lies in the partition's own HBM. -/
def tableOk (s : State) (part pa : Nat) : Bool := targetOf s pa == .hbm && partitionOfDie s (homeDie (homePa s pa)) == part

/-- Stage 2 from a table of level `lv`: a physical address with permissions and the log2 of the page. -/
def walk2 (s : State) (part : Nat) (ipa : Nat) : Nat → Nat → Xlat × Nat
  | lv, table =>
    let ea := homePa s table + 8 * walkIndex ipa lv
    if !tableOk s part table then (.page, 12)
    else if isHeld s ea then (.held (stackOf ea), 12)
    else if meetsPoison s ea then (.page, 12)
    else
      match readEntry false lv (entryAt s ea) with
      | .notValid => (.fault 1 lv ipa ea, 12)
      | .malformed => (.page, 12)
      | .leaf addr _ r w x lg =>
        let pa := addr + ipa % 2 ^ (12 + 9 * lv)
        if leafInPartition s part pa lg then (.ok (homePa s pa) 0 r w x w, lg) else (.page, 12)
      | .table addr =>
        match lv with
        | 0 => (.page, 12)
        | k + 1 => walk2 s part ipa k addr

/-- Stage 2 of a VF's IPA (R337, R339, R352). -/
def xlatIpa (s : State) (vf : Nat) (ipa : Nat) : Xlat × Nat :=
  if ipa ≥ ipaTop then (.access, 12)
  else walk2 s (partitionOfVf s vf) ipa 4 (vfBlock s vf).root.toNat

/-- R232: treatments 0, 3 and 4 are for this package's HBM only; codes 5 to 7 for none. -/
def treatOk (s : State) (treat pa : Nat) : Bool :=
  match treat with
  | 0 | 3 | 4 => targetOf s pa == .hbm
  | 1 | 2 => targetOf s pa != .bad
  | _ => false

/-- Stage 1 from a table of level `lv` at an IPA, each entry read through stage 2. -/
def walk1 (s : State) (vf : Nat) (va : Nat) : Nat → Nat → Xlat × Nat
  | lv, table =>
    let ei := table + 8 * walkIndex va lv
    match (xlatIpa s vf ei).1 with
    | .ok ea _ r _ _ _ =>
      if !r || !reachable s ea then (.access, 12)
      else if isHeld s ea then (.held (stackOf ea), 12)
      else if meetsPoison s ea then (.page, 12)
      else
        match readEntry true lv (entryAt s ea) with
        | .notValid => (.fault 0 lv va ei, 12)
        | .malformed => (.page, 12)
        | .leaf addr treat r1 w1 x1 lg1 =>
          if treat ≥ 5 then (.page, 12)
          else match xlatIpa s vf (addr + va % 2 ^ (12 + 9 * lv)) with
          | (.ok pa _ r2 w2 x2 _, lg2) =>
            if treatOk s treat pa then (.ok pa treat (r1 && r2) (w1 && w2) (x1 && x2) w2, min lg1 lg2) else (.page, 12)
          | other => other
        | .table addr =>
          match lv with
          | 0 => (.page, 12)
          | k + 1 => walk1 s vf va k addr
    | other => (other, 12)

/-- Both stages of a context's virtual address, walked now. -/
def walkVa (s : State) (ctx : Nat) (va : Nat) : Xlat × Nat :=
  match findContext s ctx with
  | none => (.page, 12)
  | some c => walk1 s c.vf va 4 c.root.toNat

def tlbCovers (die : Nat) (core : Option Nat) (ctx va : Nat) (e : TlbEntry) : Bool :=
  e.die == die && e.core == core && e.ctx == ctx && va / 2 ^ e.lg == e.va.toNat / 2 ^ e.lg

/-- What the TLBs an agent uses hold of an address: its core's, where it is a core's, then the die's. -/
def tlbFind (s : State) (die : Nat) (core : Option Nat) (ctx va : Nat) : Option TlbEntry :=
  match core.bind fun k => s.caches.tlb.find? (tlbCovers die (some k) ctx va) with
  | some e => some e
  | none => s.caches.tlb.find? (tlbCovers die none ctx va)

/-- A translation as an agent of a die makes it: from what the TLBs hold, else by a walk (R340). -/
def translate (s : State) (die : Nat) (core : Option Nat) (ctx va : Nat) : Xlat :=
  match tlbFind s die core ctx va with
  | some e => .ok (e.pa + va % 2 ^ e.lg) e.treat.toNat e.r e.w e.x e.w2
  | none => (walkVa s ctx va).1

/-- Entries of an L1 TLB, and of a die's shared one. -/
def tlbSize : Option Nat → Nat
  | some _ => 512
  | none => 32768

/-- The newest n entries of a TLB, and every entry of the others. -/
def newestTlb (die : Nat) (core : Option Nat) : Nat → List TlbEntry → List TlbEntry
  | _, [] => []
  | 0, e :: es => if e.die == die && e.core == core then newestTlb die core 0 es else e :: newestTlb die core 0 es
  | n + 1, e :: es => if e.die == die && e.core == core then e :: newestTlb die core n es else e :: newestTlb die core (n + 1) es

def addTlb (s : State) (e : TlbEntry) : State :=
  { s with caches := { s.caches with tlb := newestTlb e.die e.core (tlbSize e.core) (e :: s.caches.tlb) } }

/-- What a walk found, as an entry; only a translation whose every entry was valid makes one. -/
def walkedEntry (s : State) (die : Nat) (core : Option Nat) (ctx va : Nat) : Option TlbEntry :=
  match walkVa s ctx va with
  | (.ok pa treat r w x w2, lg) =>
    some { die := die, core := core, ctx := ctx, va := word (va / 2 ^ lg * 2 ^ lg), lg := lg, pa := pa / 2 ^ lg * 2 ^ lg
           treat := BitVec.ofNat 3 treat, r := r, w := w, x := x, w2 := w2 }
  | _ => none

/-- The TLBs after a translation: what was walked stands in the die's, and in the core's of an agent that has one. -/
def fillTlb (s : State) (die : Nat) (core : Option Nat) (ctx va : Nat) : State :=
  match tlbFind s die core ctx va with
  | some e => if e.core == core then s else addTlb s { e with core := core }
  | none =>
    match walkedEntry s die none ctx va with
    | some e => let s := addTlb s e; if core.isNone then s else addTlb s { e with core := core }
    | none => s

/-! ### What a walk reads (R226, R340) -/

/-- The entries of stage 2 that a walk reads. -/
def path2 (s : State) (ipa : Nat) : Nat → Nat → List Nat
  | lv, table =>
    let ea := homePa s table + 8 * walkIndex ipa lv
    match readEntry false lv (entryAt s ea) with
    | .table addr =>
      match lv with
      | 0 => [ea]
      | k + 1 => ea :: path2 s ipa k addr
    | _ => [ea]

def pathIpa (s : State) (vf ipa : Nat) : List Nat := path2 s ipa 4 (vfBlock s vf).root.toNat

/-- The entries of both stages that a walk reads. -/
def path1 (s : State) (vf va : Nat) : Nat → Nat → List Nat
  | lv, table =>
    let ei := table + 8 * walkIndex va lv
    pathIpa s vf ei ++ (match (xlatIpa s vf ei).1 with
      | .ok ea _ _ _ _ _ =>
        ea :: (match readEntry true lv (entryAt s ea) with
          | .leaf addr .. => pathIpa s vf (addr + va % 2 ^ (12 + 9 * lv))
          | .table addr =>
            (match lv with
            | 0 => []
            | k + 1 => path1 s vf va k addr)
          | _ => [])
      | _ => [])

/-- A walk powers the dies on which the entries it reads are homed (R226). -/
def wakeWalk (s : State) (die : Nat) (core : Option Nat) (ctx va : Nat) : State :=
  if s.gated.isEmpty || (tlbFind s die core ctx va).isSome then s
  else
    match findContext s ctx with
    | none => s
    | some c => (path1 s c.vf va 4 c.root.toNat).foldl wakeHome s

/-- The same for stage 2 alone. -/
def wakeIpa (s : State) (vf ipa : Nat) : State := if s.gated.isEmpty then s else (pathIpa s vf ipa).foldl wakeHome s

/-- What an agent's translation leaves: the dies that its walk read from are powered, and the TLBs it uses keep what was walked. -/
def walked (s : State) (die : Nat) (core : Option Nat) (ctx va : Nat) : State := fillTlb (wakeWalk s die core ctx va) die core ctx va

/-- A translation that the device itself needs, by the shared TLB of a die, which keeps what was walked. A hold delays it and changes nothing else
(R392), so where `waits` is not set it is what will be found once the hold has ended. -/
def deviceXlat (s : State) (die ctx va : Nat) (waits : Bool := false) : Xlat × State :=
  (translate (if waits then s else unheld s) die none ctx va, walked s die none ctx va)

/-! ### Pages by their treatment (R231, R233) -/

/-- The valid entries of a table at a physical address, by the bytes memory lists. -/
def validEntries (s : State) (table : Nat) : List Word :=
  (s.mem.filter fun c => decide (table ≤ c.1) && decide (c.1 < table + 4096) && c.1 % 8 == 0 && c.2.getLsbD 0).map fun c => Memory.readWord s.mem c.1

/-- Whether a leaf of a treatment under a table of a VF maps the page of an address. -/
def mapsUnder (s : State) (vf treat pa : Nat) : Nat → Nat → Bool
  | lv, table =>
    match (xlatIpa s vf table).1 with
    | .ok pt _ _ _ _ _ =>
      (validEntries s pt).any fun e =>
        match readEntry true lv e with
        | .leaf addr t _ _ _ _ =>
          t == treat && (List.range (2 ^ (9 * lv))).any fun k =>
            match (xlatIpa s vf (addr + 4096 * k)).1 with
            | .ok q _ _ _ _ _ => q / 4096 == pa / 4096
            | _ => false
        | .table addr =>
          match lv with
          | 0 => false
          | k + 1 => mapsUnder s vf treat pa k addr
        | _ => false
    | _ => false

/-- Whether some context maps a page with a treatment: every context that maps it does (R234). -/
def isMapped (s : State) (treat pa : Nat) : Bool := s.contexts.any fun c => mapsUnder (unheld s) c.vf treat pa 4 c.root.toNat

/-- A ply page: a page's treatment is that of the leaf that maps it (R233). -/
def isPlyPage (s : State) (pa : Nat) : Bool := isMapped s 4 pa

/-- A page that a write by a physical or an intermediate address may not touch: a ply page (R233), a marked granule (R293). -/
def writeBarred (s : State) (pa n : Nat) : Bool := isPlyPage s pa || touchesMark s pa n

end Sys2Proof.Machine
end

