-- ==== Sys2Proof/Machine/Events.lean ====
section
/-! DEFINITION. Events and their rings (R343 to R345, R368), fault records and theirs (R341). -/

namespace Sys2Proof.Machine

/-- The sources of events (R343). -/
inductive Source where
  | queue (q : Nat)
  | heddle (h : Nat)
  | context (c : Nat)
  | vf (v : Nat)
  deriving DecidableEq, Repr

def Source.kind : Source → Nat
  | .queue _ => 0
  | .heddle _ => 1
  | .context _ => 2
  | .vf _ => 3

def Source.id : Source → Nat
  | .queue q => q
  | .heddle h => h
  | .context c => c
  | .vf v => v

/-- The VF a source belongs to and the context its events name. -/
def Source.place (s : State) : Source → Nat × Option Nat
  | .queue q => let x := queueOf s q; (x.vf, some x.ctx)
  | .heddle h =>
    match s.heddles.find? fun x => x.id == h with
    | some x => (vfOfContext s x.ctx, some x.ctx)
    | none => (64, none)
  | .context c => (vfOfContext s c, some c)
  | .vf v => (v, none)

/-- The source's next sequence number, counted (R343). -/
def Source.count (s : State) : Source → Nat × State
  | .queue q => ((queueOf s q).evSeq, updateQueue s q fun x => { x with evSeq := x.evSeq + 1 })
  | .heddle h =>
    (((s.heddles.find? fun x => x.id == h).map (·.evSeq)).getD 0,
      { s with heddles := updateWhere (fun x => x.id == h) (fun x => { x with evSeq := x.evSeq + 1 }) s.heddles })
  | .context c => (((findContext s c).map (·.evSeq)).getD 0, updateContext s c fun x => { x with evSeq := x.evSeq + 1 })
  | .vf v => (((vfPage s v).map (·.evSeq)).getD 0, updateVf s v fun x => { x with evSeq := x.evSeq + 1 })

/-- Words written at an IPA through stage 2 alone, as rings are (R203, R341, R343); where it does not translate, stage 2 lacks the permission, or
the page takes no such write (R233, R293), nothing is written (R339). -/
def writeIpa (s : State) (vf : Nat) (ipa : Nat) (ws : List Word) : State :=
  let s := wakeIpa s vf ipa
  match (xlatIpa (unheld s) vf ipa).1 with
  | .ok pa _ _ true _ _ =>
    if reachable s pa && !writeBarred s pa (8 * ws.length) then devicePut (recallRun s pa (8 * ws.length)) pa (ws.flatMap wordBytes) else s
  | _ => s

/-- Room in a ring of 2^size entries that has a base (R333, R344). -/
def ringRoom (base size prod cons : Word) : Bool := base != 0 && decide ((prod - cons).toNat < 2 ^ size.toNat)

/-- An event put in the ring, with its vector (R343). -/
def ringEvent (s : State) (v : Nat) (ws : List Word) : State :=
  match vfPage s v with
  | none => s
  | some p =>
    let s := writeIpa s v (p.evtBase.toNat + 32 * (p.evtProd.toNat % 2 ^ p.evtSize.toNat)) ws
    { updateVf s v (fun x => { x with evtProd := x.evtProd + 1 }) with vectors := (v, p.evtVec.toNat) :: s.vectors }

/-- An event into the ring, or held while there is no room, up to 256, and beyond that discarded (R333, R344). -/
def postEvent (s : State) (v : Nat) (ws : List Word) : State :=
  match vfPage s v with
  | none => s
  | some p =>
    if p.heldEvents.isEmpty && p.discarded == 0 && ringRoom p.evtBase p.evtSize p.evtProd p.evtCons then ringEvent s v ws
    else if p.heldEvents.length < 256 then updateVf s v fun x => { x with heldEvents := x.heldEvents ++ [ws] }
    else updateVf s v fun x => { x with discarded := x.discarded + 1 }

/-- The 32-byte record of R343. -/
def eventWords (code : Nat) (src : Source) (seq : Nat) (ctx : Option Nat) (a0 a1 : Word) : List Word :=
  [word (code + src.kind * 2 ^ 8 + src.id * 2 ^ 32), word (seq % 2 ^ 32 + (ctx.getD 0xFFFFFFFF) * 2 ^ 32), a0, a1]

/-- A source makes an event (R368). -/
def sendEvent (s : State) (src : Source) (code : Nat) (a0 a1 : Word) : State :=
  let (v, ctx) := src.place s
  let (seq, s) := src.count s
  postEvent s v (eventWords code src seq ctx a0 a1)

namespace Ev
def qdone : Nat := 1
def qflush : Nat := 2
def trigrun : Nat := 3
def triglost : Nat := 4
def plyfull : Nat := 5
def sigfail : Nat := 6
def materr : Nat := 7
def eccue : Nat := 8
def resetdone : Nat := 9
def overrun : Nat := 10
end Ev

/-- An event takes its place among those held: behind the last one of its source, and ahead of every other (R344). -/
def placeHeld (ws : List Word) (held : List (List Word)) : List (List Word) :=
  let mine := fun (e : List Word) => field (e.getD 0 0) 8 4 == field (ws.getD 0 0) 8 4 && field (e.getD 0 0) 32 32 == field (ws.getD 0 0) 32 32
  let after := (held.reverse.takeWhile fun e => !mine e).reverse
  held.take (held.length - after.length) ++ ws :: after

/-- The overrun event of the events discarded, made as room returns (R344). -/
def noteOverrun (s : State) (v : Nat) : State :=
  match vfPage s v with
  | none => s
  | some p =>
    if p.discarded == 0 then s
    else
      let (seq, s) := (Source.vf v).count s
      let ws := eventWords Ev.overrun (.vf v) seq none (word p.discarded) 0
      updateVf s v fun x => { x with discarded := 0, heldEvents := placeHeld ws x.heldEvents }

/-- Held events enter the ring as it has room, oldest first; `fuel` bounds them. -/
def releaseHeld (v : Nat) : Nat → State → State
  | 0, s => s
  | fuel + 1, s =>
    match vfPage s v with
    | none => s
    | some p =>
      match p.heldEvents with
      | [] => s
      | e :: es =>
        if ringRoom p.evtBase p.evtSize p.evtProd p.evtCons then
          releaseHeld v fuel (ringEvent (updateVf s v fun x => { x with heldEvents := es }) v e)
        else s

/-- Where the ring has room again: first the overrun takes its place, then what is held goes as far as there is room (R344). -/
def releaseEvents (v : Nat) (fuel : Nat) (s : State) : State :=
  match vfPage s v with
  | none => s
  | some p => if ringRoom p.evtBase p.evtSize p.evtProd p.evtCons then releaseHeld v fuel (noteOverrun s v) else s

/-- Events of sources that a reset covers and that are not in the ring are discarded (R345). -/
def dropHeld (s : State) (v : Nat) (covers : Nat → Nat → Bool) : State :=
  updateVf s v fun x =>
    { x with heldEvents := x.heldEvents.filter fun ws => !covers (field (ws.getD 0 0) 8 4) (field (ws.getD 0 0) 32 32) }

/-- ECCUE of an error in a context (R368, R382). -/
def eccue (s : State) (ctx kind : Nat) (addr : Word) : State := sendEvent s (.context ctx) Ev.eccue addr (word kind)

/-! ### Fault records -/

def kindCode : AccKind → Nat
  | .read => 0
  | .write => 1
  | .rmw => 2
  | .fetch => 3
  | .copyRead => 4
  | .copyWrite => 5
  | .hostWindow => 6
  | .hart => 7
  | .ringRead => 8
  | .writeBack => 9
  | .recordCopy => 10

/-- A fault record put in the ring, with its vector. -/
def ringFault (s : State) (v : Nat) (ws : List Word) : State :=
  match vfPage s v with
  | none => s
  | some p =>
    let s := writeIpa s v (p.fltBase.toNat + 32 * (p.fltProd.toNat % 2 ^ p.fltSize.toNat)) ws
    { updateVf s v (fun x => { x with fltProd := x.fltProd + 1 }) with vectors := (v, (p.evtVec.toNat + 1) % 8) :: s.vectors }

/-- A fault record into the ring, or held until there is room; none is lost (R341). -/
def postFault (s : State) (v : Nat) (ws : List Word) : State :=
  match vfPage s v with
  | none => s
  | some p =>
    if p.heldFaults.isEmpty && ringRoom p.fltBase p.fltSize p.fltProd p.fltCons then ringFault s v ws
    else updateVf s v fun x => { x with heldFaults := x.heldFaults ++ [ws] }

def releaseFaults (v : Nat) : Nat → State → State
  | 0, s => s
  | fuel + 1, s =>
    match vfPage s v with
    | none => s
    | some p =>
      match p.heldFaults with
      | [] => s
      | e :: es =>
        if ringRoom p.fltBase p.fltSize p.fltProd p.fltCons then
          releaseFaults v fuel (ringFault (updateVf s v fun x => { x with heldFaults := es }) v e)
        else s

/-- A fault id: 32 bits, of no fault that is outstanding (R341). -/
def freshFault (s : State) : Nat × State :=
  let used := fun (k : Nat) => s.faults.any fun f => f.id == k
  let try_ := fun (i : Nat) => (s.nextId + i) % 2 ^ 32
  ((((List.range (s.faults.length + 1)).find? fun i => !used (try_ i)).map try_).getD 0, { s with nextId := s.nextId + 1 })

/-- A fault record of a walk (R341), with the id it carries. -/
def reportFault (s : State) (vf ctx die : Nat) (k : AccKind) (stage level addr entry : Nat) : Nat × State :=
  let (id, s) := freshFault s
  let seq := ((vfPage s vf).map (·.fltSeq)).getD 0
  let s := updateVf s vf fun x => { x with fltSeq := x.fltSeq + 1 }
  let w0 := ctx % 2 ^ 12 + die % 8 * 2 ^ 12 + stage % 2 * 2 ^ 15 + level % 8 * 2 ^ 16 + kindCode k * 2 ^ 20 + id * 2 ^ 32
  (id, postFault s vf [word w0, word addr, word entry, word seq])

/-- A replayable fault: its record, and who waits on it (R341, R342). -/
def parkFault (s : State) (vf ctx die : Nat) (k : AccKind) (stage level addr entry : Nat) (who : Waiter) : Nat × State :=
  let (id, s) := reportFault s vf ctx die k stage level addr entry
  (id, { s with faults := { id := id, vf := vf, ctx := ctx, waiters := [who] } :: s.faults })

end Sys2Proof.Machine
end

