-- ==== Sys2Proof/Machine/Records.lean ====
section
/-! DEFINITION. Records (R27), where they wait (R190, R191), and the trigger records that changes of watched granules make (R202 to R205). -/

namespace Sys2Proof.Machine

/-! ### The 64 bytes of a record (R27) -/

def b2w (b : Bool) : Nat := if b then 1 else 0

def recordWords (r : Record) : List Word :=
  [word (r.kind.toNat * 2 ^ 62 + r.stage.toNat * 2 ^ 58 + b2w r.join * 2 ^ 57 + r.gidx.toNat), r.p0, r.p1, r.p2, r.p3, r.joinAddr,
    word (r.gen.toNat * 2 ^ 61 + r.heddle.toNat * 2 ^ 52 + r.count.toNat), word (r.queue.toNat * 2 ^ 32 + r.seq.toNat)]

def recordBytes (r : Record) : List Byte := (recordWords r).flatMap wordBytes

/-- A record read back from its bytes. -/
def recordOf (bs : List Byte) : Record :=
  let w := fun k => leWord ((bs.drop (8 * k)).take 8)
  { kind := BitVec.ofNat 2 (field (w 0) 62 2), stage := BitVec.ofNat 4 (field (w 0) 58 4), join := (w 0).getLsbD 57
    gidx := BitVec.ofNat 32 (field (w 0) 0 32), p0 := w 1, p1 := w 2, p2 := w 3, p3 := w 4, joinAddr := w 5
    gen := BitVec.ofNat 3 (field (w 6) 61 3), heddle := BitVec.ofNat 9 (field (w 6) 52 9), count := BitVec.ofNat 32 (field (w 6) 0 32)
    queue := BitVec.ofNat 10 (field (w 7) 32 10), seq := BitVec.ofNat 32 (field (w 7) 0 32)
    reserved := field (w 0) 32 25 != 0 || field (w 6) 32 20 != 0 || field (w 7) 42 22 != 0 }

/-- R27's Fate row: what makes a record read back from an overflow area bad. -/
def recordBad (declared : Bool) (r : Record) : Bool :=
  r.kind == 3 || !declared || r.reserved || ((r.kind == 0 || r.kind == 1) && (r.heddle != 0 || r.count != 0))

/-! ### Where records wait -/

/-- A bobbin's capacity (R191). -/
def bobbinRoom (d : StageDecl) (b : Bobbin) : Bool := b.recs.length < (if d.isGroup then 8 else 64)

/-- A segment's capacity: an eighth of the stage's area, 64 records in 4 KiB (R190). -/
def segmentRoom (d : StageDecl) (g : Segment) : Bool := g.entries.length < d.overflow * 8

/-- Where a die's segment of a stage begins (R190, R213). -/
def segmentBase (p : Pattern) (d : StageDecl) (die : Nat) : Nat :=
  p.ovfBase.toNat + (((p.image.stages.filter fun e => e.num < d.num).map fun e => e.overflow * 4096).foldl (· + ·) 0)
    + die * (d.overflow * 512)

/-- A record into a bobbin: its timer restarts where it was empty, and a timer of 0 has expired at once (R192). -/
def enterBobbin (d : StageDecl) (b : Bobbin) (r : Record) : Bobbin :=
  { b with recs := b.recs ++ [r], expired := if b.recs.isEmpty then d.timer == 0 else b.expired }

/-- A run of bytes cut at page ends. -/
def pageRuns (a n : Nat) : List (Nat × Nat) :=
  (List.range (if n = 0 then 0 else (a % 4096 + n + 4095) / 4096)).map fun k =>
    let lo := max a (a / 4096 * 4096 + 4096 * k)
    (lo, min (a + n) (a / 4096 * 4096 + 4096 * (k + 1)) - lo)

/-- Bytes the device writes at a context's virtual address for its own purposes, by the shared TLB of a die; none where the address does not
translate. Stage 1's permissions do not bind it (R190), a ply page refuses it as it refuses every write (R233), and a marked granule is changed
by events alone (R293). The write goes to the home after the lines' recall (R245); `change` is told of granules written on a watched page (R203). -/
def deviceWrite (change : State → List Nat → State) (s : State) (die ctx va : Nat) (bs : List Byte) : Option State :=
  match deviceXlat s die ctx va with
  | (.ok pa treat _ _ _ w2, s) =>
    if !w2 || treat == 4 || !reachable s pa || touchesMark s pa bs.length then none
    else
      let old := Memory.readBytes s.mem pa bs.length
      let s := touchRun s treat pa bs.length
      let s := devicePut (if treat == 0 || treat == 3 then recallRun s pa bs.length else s) pa bs
      if treat == 3 then
        let gs := (List.range ((bs.length + 7) / 8)).filter fun k => (old.drop (8 * k)).take 8 != (bs.drop (8 * k)).take 8
        some (change s (gs.map fun k => pa + 8 * k))
      else some s
  | _ => none

/-- Bytes the device finds at a context's virtual address, within a page; none where it does not translate, is poisoned, or refused. What a hold
delays is read as it will stand then (R392). -/
def deviceRead (s : State) (die ctx va n : Nat) : Option (List Byte) :=
  match translate (unheld s) die none ctx va with
  | .ok pa _ _ _ _ _ => if runMeets s pa n || !reachable s pa then none else some (Memory.readBytes s.mem pa n)
  | _ => none

/-- What reading leaves, before the bytes are taken: the die's TLB keeps the translation, the lines' homes are powered, and lines that another
treatment holds are undefined (R226, R234, R340). -/
def deviceTouch (s : State) (die ctx va n : Nat) : State :=
  (pageRuns va n).foldl (fun s r =>
    match deviceXlat s die ctx r.1 with
    | (.ok pa treat _ _ _ _, s) => if reachable s pa then loosenRun (touchRun s treat pa r.2) pa r.2 else s
    | (_, s) => s) s

/-- Whether a stack in self-refresh holds what the device would read at a context's virtual address (R392). -/
def deviceHeld (s : State) (die ctx va n : Nat) : Bool :=
  s.hbmStacks.any (fun k => k.st == .holding) && (pageRuns va n).any fun r =>
    match translate s die none ctx r.1 with
    | .held _ => true
    | .ok pa _ _ _ _ _ => runHeld s pa r.2
    | _ => false

/-- Whether some byte of what the device would read at a context's virtual address is poisoned. -/
def devicePoisoned (s : State) (die ctx va n : Nat) : Bool :=
  (pageRuns va n).any fun r =>
    match translate (unheld s) die none ctx r.1 with
    | .ok pa _ _ _ _ _ => runMeets s pa r.2
    | _ => false

/-- The core whose bobbin holds records of a heddle for a stage on a die; R205's order keeps them all in one. -/
def heddleCore (s : State) (ctx : Nat) (pat : Word) (stage : BitVec 4) (die : Nat) (key : Option Nat) : Option Nat :=
  (s.bobbins.find? fun b =>
    b.ctx == ctx && b.pat == pat && b.stage == stage && b.die == die && b.recs.any fun r => r.hkey.isSome && r.hkey == key).map (·.core)

/-- A record enters a bobbin, whose core wakes for it (R226). -/
def enterRecord (s : State) (d : StageDecl) (b : Bobbin) (r : Record) : State := wakeCore (setBobbin s (enterBobbin d b r)) b.die b.core

/-- A thread-stage record placed by R191 for a core: its bobbin, unless full or behind a segment that is not empty; else the die's
segment; none where both are full. A trigger record goes to the segment too while earlier ones of its heddle wait in another core's bobbin
(R205). -/
def placeRecord (change : State → List Nat → State) (s : State) (ctx : Nat) (pat : Word) (stage : BitVec 4) (die core : Nat) (r : Record) :
    Option State :=
  match findPattern s ctx pat with
  | none => none
  | some p =>
    match stageDecl p stage with
    | none => none
    | some d =>
      let b := findBobbin s ctx pat stage die core
      let g := findSegment s ctx pat stage die
      if bobbinRoom d b && g.entries.isEmpty && (heddleCore s ctx pat stage die r.hkey).getD core == core then some (enterRecord s d b r)
      else if segmentRoom d g then
        let cap := d.overflow * 8
        let at_ := fun (k : Nat) => word (segmentBase p d die + 64 * ((g.next + k) % cap))
        let va := at_ (((List.range cap).find? fun k => !g.entries.any fun e => e.va == at_ k).getD 0)
        let e : SegEntry :=
          { va := va, joinPa := r.joinPa, launch := r.launch, heddle := r.hkey.map fun k => (k, r.p0), queue := r.queue.toNat
            priv := r.priv }
        (deviceWrite change s die ctx va.toNat (recordBytes r)).map fun s1 => setSegment s1 { g with entries := g.entries ++ [e], next := g.next + 1 }
      else none

/-! ### Triggers (R204) -/

/-- The virtual addresses at which a heddle's range covers a granule. -/
def heddleVas (h : Heddle) (pa : Nat) : List Word :=
  (h.frames.filter fun f => f.2 == pa / 4096 * 4096).filterMap fun f =>
    let va := f.1.toNat + pa % 4096 / 8 * 8
    if h.base.toNat ≤ va && va < h.base.toNat + 2 ^ h.lg then some (word va) else none

/-- A waiting record of a heddle for a granule takes another change (R204's coalescing). -/
def coalesce (r : Record) (v : Word) (g : Nat) : Record :=
  let gen := max r.gen.toNat g
  let count := min (r.count.toNat + 1) (2 ^ 32 - 1)
  { r with p1 := v, p2 := word count, count := BitVec.ofNat 32 count, gen := BitVec.ofNat 3 gen
           p3 := word (field r.p3 0 9 + gen * 2 ^ 16) }

def isRecordOf (h : Heddle) (va : Word) (r : Record) : Bool := r.hkey == some h.key && r.p0 == va

/-- Coalesce where a record of the heddle for the granule waits in a bobbin or a segment; none where there is none. -/
def coalesceIn (change : State → List Nat → State) (s : State) (h : Heddle) (va v : Word) (g : Nat) : Option State :=
  if s.bobbins.any fun b => b.recs.any (isRecordOf h va) then
    some { s with bobbins := s.bobbins.map fun b => { b with recs := updateWhere (isRecordOf h va) (fun r => coalesce r v g) b.recs } }
  else
    match (s.segments.flatMap fun x => x.entries.map fun e => (x.die, e)).find? fun x => x.2.heddle == some (h.key, va) with
    | none => none
    | some (die, e) =>
      let s := deviceTouch s die h.ctx e.va.toNat 64
      match deviceRead s die h.ctx e.va.toNat 64 with
      | none => some s
      | some bs => some ((deviceWrite change s die h.ctx e.va.toNat (recordBytes (coalesce (recordOf bs) v g))).getD s)

/-- One armed heddle meets a change of generation g to a granule that stands at va, and now holds v (R204). -/
def triggerOne (change : State → List Nat → State) (s : State) (h : Heddle) (va : Word) (v : Word) (g : Nat) : State :=
  if g ≥ 8 then
    let s := { s with heddles := updateWhere (fun x => x.key == h.key) (fun x => { x with armed := false }) s.heddles }
    sendEvent s (.heddle h.id) Ev.trigrun (word h.id) va
  else
    match coalesceIn change s h va v g with
    | some s1 => s1
    | none =>
      let r : Record :=
        { kind := 2, stage := h.stage, gidx := h.gidx, p0 := va, p1 := v, p2 := 1, p3 := word (h.id + g * 2 ^ 16), gen := BitVec.ofNat 3 g
          heddle := BitVec.ofNat 9 h.id, count := 1, queue := BitVec.ofNat 10 h.queue, seq := h.seq, hkey := some h.key, priv := h.priv }
      match placeRecord change s h.ctx h.pat h.stage h.die h.core r with
      | some s1 => s1
      | none =>
        let lost := h.lost + 1
        let s := { s with heddles := updateWhere (fun x => x.key == h.key) (fun x => { x with lost := lost }) s.heddles }
        sendEvent s (.heddle h.id) Ev.triglost (word h.id) (word lost)

/-- A change of a granule, tried on every heddle armed then (R202, R204). -/
def tryHeddles (change : State → List Nat → State) (g : Nat) (s : State) (pa : Nat) (v : Word) : State :=
  (s.heddles.map (·.key)).foldl (fun s k =>
    match s.heddles.find? fun h => h.key == k with
    | none => s
    | some h =>
      if !h.armed then s
      else (heddleVas h pa).foldl (fun s va =>
        match s.heddles.find? fun h => h.key == k with
        | some h => if h.armed then triggerOne change s h va v g else s
        | none => s) s) s

/-- The granules at some addresses as changes: each with the value it now holds. -/
def changesAt (s : State) (pas : List Nat) : List (Nat × Word) := pas.map fun pa => (pa, Memory.readWord s.mem pa)

/-- Changes of generation g to granules of watched pages (R204). A record that the device writes to an overflow area on a watched page is itself
a change of generation 0 (R203): such chains are followed `fuel` deep at once, and what is left of them by the steps that come next. -/
def triggers : Nat → Nat → State → List (Nat × Word) → State
  | 0, g, s, cs => { s with changes := s.changes ++ cs.map fun c => (c.1, g, c.2) }
  | fuel + 1, g, s, cs => cs.foldl (fun s c => tryHeddles (fun s pas => triggers fuel 0 s (changesAt s pas)) g s c.1 c.2) s

/-- How deep a chain of overflow writes that trigger each other is followed at once. -/
def triggerFuel : Nat := 64

def changed (g : Nat) (s : State) (pas : List Nat) : State := triggers triggerFuel g s (changesAt s pas)

/-- The oldest change that is left is tried. -/
def nextChange (s : State) : State :=
  match s.changes with
  | [] => s
  | (pa, g, v) :: rest => triggers triggerFuel g { s with changes := rest } [(pa, v)]

end Sys2Proof.Machine
end

