-- ==== Sys2Proof/Machine/Access.lean ====
section
/-! DEFINITION. Accesses to global memory: what each treatment does with a read and a write, the copies that dies and cores keep, the
directory's records, poison, watched changes (R228 to R245, R250, R383). An access is performed whole when it is made. -/

namespace Sys2Proof.Machine

/-- Who makes an access: the die it is made from, the core and the warp and lane where it is a warp's. -/
structure Agent where
  die : Option Nat := none
  core : Option Nat := none
  warp : Nat := 0
  lane : Nat := 0
  deriving DecidableEq, Repr

/-! ### Self-invalidating copies (R240) and L1 -/

/-- Whether a die's accesses to an address go to a copy of its own: its home is not this die. -/
def homedElsewhere (s : State) (die pa : Nat) : Bool := homeOf s pa != .die die

/-- A quad is fused while every group resident on it came from a fused launch (R238). DESIGN CHOICE: one on which no group is resident is not
(log 165). -/
def isFused (s : State) (die quad : Nat) : Bool :=
  let here := s.groups.filter fun g => !g.saved && g.die == die && g.core / 4 == quad
  !here.isEmpty && here.all (·.fused)

/-- A fused quad's L1 that holds a line: core PA[8:7] of the quad (R238); otherwise the core's own. -/
def l1Core (s : State) (die core pa : Nat) : Nat :=
  if isFused s die (core / 4) then core / 4 * 4 + pa / 128 % 4 else core

/-- Lines a core's L1 has room for: what of its 512 KiB no group resident on it has claimed (R22, R237, R239). -/
def l1Room (s : State) (die core : Nat) : Nat :=
  let here := s.groups.filter fun g => !g.saved && g.die == die && (if g.wide then g.core / 4 == core / 4 else g.core == core)
  4096 - (here.map (·.scratch)).foldl (· + ·) 0 / 128

def findClean (s : State) (die line : Nat) : Option CleanLine := s.caches.clean.find? fun c => c.die == die && c.line == line

/-- A byte as a die sees it: its own dirty byte, else its clean copy's, else the home's. -/
def dieByte (s : State) (die pa : Nat) : Byte :=
  match s.caches.dirty.find? fun d => d.die == die && d.pa == pa with
  | some d => d.val
  | none =>
    match findClean s die (lineOf pa) with
    | some c => c.bytes.getD (pa % 128) 0
    | none => Memory.read s.mem pa

def bytesBy (f : Nat → Byte) (pa : Nat) : Nat → List Byte
  | 0 => []
  | n + 1 => f pa :: bytesBy f (pa + 1) n

/-- A line allocated in the L1 that serves a core. -/
def allocL1 (s : State) (die core line : Nat) (bytes : Option (List Byte)) : State :=
  let k := l1Core s die core (line * 128)
  { s with coh := fillL1 s.coh (l1Room s die k) { die := die, core := k, line := line, bytes := bytes } }

/-- The L1 line that serves a core. -/
def l1Of (s : State) (die core pa : Nat) : Option L1Line := findL1 s.coh die (l1Core s die core pa) (lineOf pa)

/-- The byte of a die's clean copy replaced, where it holds the line. -/
def updateClean (cs : List CleanLine) (die pa : Nat) (v : Byte) : List CleanLine :=
  updateWhere (fun c => c.die == die && c.line == lineOf pa) (fun c => { c with bytes := c.bytes.set (pa % 128) v }) cs

/-- The dirty bytes of the lines that satisfy p are written to their homes and stay clean in the copy that had them (R240). One that cannot reach its
home poisons its line there; one whose home's stack is in self-refresh is noted (R392). -/
def writeBack (s : State) (p : Nat → Nat → Bool) : State :=
  let out := s.caches.dirty.filter fun d => p d.die (lineOf d.pa)
  let put := fun (s : State) (d : DirtyByte) =>
    if cannotStore s d.pa then poisonLine s d.pa else noteHeld { s with mem := Memory.write s.mem d.pa d.val } d.pa 1
  out.foldr (fun d s => put s d) { s with caches := { s.caches with
    dirty := s.caches.dirty.filter fun d => !p d.die (lineOf d.pa)
    clean := out.foldr (fun d cs => updateClean cs d.die d.pa d.val) s.caches.clean } }

/-- Clean lines of home caches that satisfy p are dropped. -/
def dropClean (s : State) (p : CleanLine → Bool) : State :=
  { s with caches := { s.caches with clean := s.caches.clean.filter fun c => !p c } }

/-! ### Room in a home cache (R10, R240) -/

/-- Lines of 128 bytes in 96 MiB. -/
def homeCapacity : Nat := 786432

/-- The lines a die's home cache keeps of others, in the order in which they go to make room: self-invalidating ones, clean before dirty, then
tracked and watched ones; of each kind the oldest first. -/
def homeLines (s : State) (die : Nat) : List Nat :=
  let dirty := ((s.caches.dirty.filter fun d => d.die == die).map fun d => lineOf d.pa).reverse
  let clean := ((s.caches.clean.filter fun c => c.die == die).map (·.line)).reverse
  ((clean.filter fun l => !dirty.contains l) ++ dirty ++ ((s.coh.copies.filter fun c => c.die == die).map (·.line)).reverse).eraseDups

/-- A line leaves a die's home cache: its dirty bytes are written back, an M or O copy sends its WbD first (R240, R243). -/
def evictHome (s : State) (die line : Nat) : State :=
  let s := dropClean (writeBack s fun d l => d == die && l == line) fun c => c.die == die && c.line == line
  match copyOf s.coh die line with
  | none => s
  | some x =>
    let c := dropCopy s.coh die line
    let c := if x.st == .m || x.st == .o then send c (.wbd false) line die else c
    { s with coh := settleLine (settleFuel c) c line }

/-- Room for a line in a die's home cache. -/
def makeRoom (s : State) (die line : Nat) : State :=
  if s.coh.copies.length + s.caches.clean.length + s.caches.dirty.length < homeCapacity then s
  else
    let ls := homeLines s die
    if ls.contains line || decide (ls.length < homeCapacity) then s
    else
      match ls.find? fun l => (busyOf s.coh l).isNone with
      | some l => evictHome s die l
      | none => s

/-- A self-invalidating line filled into the die's home cache, where its home is elsewhere. -/
def fillHome (s : State) (die pa : Nat) : State :=
  let line := lineOf pa
  if homedElsewhere s die pa && (findClean s die line).isNone then
    let s := makeRoom s die line
    { s with caches := { s.caches with clean := { die := die, line := line, bytes := Memory.readBytes s.mem (line * 128) 128 } :: s.caches.clean } }
  else s

/-- A self-invalidating line filled into the L1 that serves a core, as its die sees it. -/
def fillL1Self (s : State) (die core pa : Nat) : State :=
  if (l1Of s die core pa).isSome then s else allocL1 s die core (lineOf pa) (some (bytesBy (dieByte s die) (lineOf pa * 128) 128))

/-- A load's fill of a self-invalidating line. -/
def fillLine (s : State) (die core pa : Nat) : State := fillL1Self (fillHome s die pa) die core pa

/-- A load's fill of a tracked or watched line, which the die's home cache holds, into L1 (R237). -/
def fillTracked (s : State) (die core pa : Nat) : State :=
  if (l1Of s die core pa).isSome then s else allocL1 s die core (lineOf pa) none

/-- L1 lines of a die that hold an address. -/
def L1Line.at_ (x : L1Line) (die pa : Nat) : Bool := x.die == die && x.line == lineOf pa

/-- A stored byte enters the copy the storing core's L1 holds (R237: write-through, no allocation). -/
def updateL1 (s : State) (die core pa : Nat) (v : Byte) : State :=
  { s with coh := { s.coh with
      l1 := updateWhere (fun x => x.at_ die pa && x.core == l1Core s die core pa)
        (fun x => { x with bytes := x.bytes.map fun bs => bs.set (pa % 128) v }) s.coh.l1 } }

/-- A dirty byte written: the bytes of a copy keep every writer until they are written back (R240). -/
def putDirty (l : List DirtyByte) (die pa : Nat) (v : Byte) (who : Nat × Nat) : List DirtyByte :=
  let old := (l.find? fun d => d.die == die && d.pa == pa).elim [] (·.writers)
  { die := die, pa := pa, val := v, writers := if old.contains who then old else who :: old } :: l.filter fun d => !(d.die == die && d.pa == pa)

/-- Bytes of a self-invalidating page stored by a lane: at home in memory, elsewhere dirty in the die's copy. -/
def storeSelfInv (s : State) (a : Agent) (pa : Nat) : List Byte → State
  | [] => s
  | b :: bs =>
    let s1 :=
      match a.die, a.core with
      | some die, some core =>
        let s0 := updateL1 s die core pa b
        if homedElsewhere s die pa then
          let s0 := makeRoom s0 die (lineOf pa)
          { s0 with caches := { s0.caches with dirty := putDirty s0.caches.dirty die pa b (a.warp, a.lane) } }
        else { s0 with mem := Memory.write s0.mem pa b }
      | _, _ => { s with mem := Memory.write s.mem pa b }
    storeSelfInv s1 a (pa + 1) bs

/-- Bytes of a self-invalidating page performed at the home: the writer's die holds them once the home does, and of its L1s only the writer's
own keeps the line (R257). -/
def storeHome (s : State) (a : Agent) (pa : Nat) : List Byte → State
  | [] => s
  | b :: bs =>
    let s0 := { s with mem := Memory.write s.mem pa b }
    let s1 :=
      match a.die with
      | some die =>
        let mine := fun (x : L1Line) => match a.core with
          | some k => x.core == l1Core s die k pa
          | none => false
        let s1 := dropL1 { s0 with caches := { s0.caches with
            dirty := s0.caches.dirty.filter (fun d => !(d.die == die && d.pa == pa)), clean := updateClean s0.caches.clean die pa b } }
          fun x => x.at_ die pa && !mine x
        match a.core with
        | some k => updateL1 s1 die k pa b
        | none => s1
      | none => s0
    storeHome s1 a (pa + 1) bs

/-- What a release at a scope writes back: at `pkg` and wider, the lines of its die in which some dirty byte was the lane's (R240). With them
go the line's other dirty bytes, which may be written back at any time, so that no store is ever seen in part (R248). -/
def releaseAt (s : State) (sc : Scope) (warp lane : Nat) : State :=
  match sc with
  | .pkg | .pod | .sys =>
    if s.caches.dirty.isEmpty then s
    else writeBack s fun die line => s.caches.dirty.any fun d => d.die == die && lineOf d.pa == line && d.writers.contains (warp, lane)
  | _ => s

/-- The L1 lines an acquire of a core drops: the core's, in a fused quad the quad's. -/
def ownL1 (s : State) (die core : Nat) (x : L1Line) : Bool :=
  x.die == die && (if isFused s die (core / 4) then x.core / 4 == core / 4 else x.core == core)

/-- What an acquire at a scope drops (R240): self-invalidating lines, since coherence keeps the others. Dirty bytes stay in the die's copy:
they leave it only by a write-back. -/
def acquireAt (s : State) (sc : Scope) (die core : Nat) : State :=
  let l1 := fun (x : L1Line) => x.bytes.isSome && ownL1 s die core x
  match sc with
  | .thread | .core => s
  | .quad => if isFused s die (core / 4) then s else dropL1 s l1
  | .die => dropL1 s l1
  | _ => dropClean (dropL1 s l1) fun c => c.die == die

/-! ### Performing (R231) -/

/-- The 8-byte granules in which two runs of bytes at an address differ. -/
def changedGranules (pa : Nat) : List Byte → List Byte → List Nat
  | o :: os, n :: ns =>
    let rest := changedGranules (pa + 1) os ns
    let g := pa / 8 * 8
    if o != n && rest.head? != some g then g :: rest else rest
  | _, _ => []

/-- Where an access is performed (R231, R282): a load from a copy; what needs the requesting die's copy in M, or a self-invalidating copy;
what goes to the home. -/
inductive How where
  | load
  | own
  | home
  deriving DecidableEq, Repr

/-- Bytes read at an address under a treatment, by an agent that keeps copies or, with none of its own, at the home. -/
def performRead (s : State) (a : Agent) (how : How) (treat pa n : Nat) : List Byte × State :=
  let s := touchLine s treat pa
  if isUndef s pa then takeFreeBytes s n
  else
    let atHome := (Memory.readBytes s.mem pa n, s)
    match treat, how, a.die with
    | 0, .load, some die =>
      let s := makeRoom s die (lineOf pa)
      let s := { s with coh := dirRead s.coh false die (lineOf pa) }
      (Memory.readBytes s.mem pa n, a.core.elim s fun k => fillTracked s die k pa)
    | 3, .load, some die =>
      let s := makeRoom s die (lineOf pa)
      let s := { s with coh := dirRead s.coh true die (lineOf pa) }
      (Memory.readBytes s.mem pa n, a.core.elim s fun k => fillTracked s die k pa)
    | 0, .own, some die =>
      let s := makeRoom s die (lineOf pa)
      (Memory.readBytes s.mem pa n, { s with coh := dirWrite s.coh die (lineOf pa) })
    | 0, _, _ => (Memory.readBytes s.mem pa n, { s with coh := dirRecall s.coh (lineOf pa) })
    | 1, .load, some die =>
      match a.core with
      | some core =>
        let s1 := fillLine s die core pa
        match (l1Of s1 die core pa).bind (·.bytes) with
        | some bs => ((bs.drop (pa % 128)).take n, s1)
        | none => (bytesBy (dieByte s1 die) pa n, s1)
      | none => atHome
    | _, _, _ => atHome

/-- A tracked line stored to by a die: in its copy, once that is M, which no other L1 of the die holds (R231, R237). -/
def storeOwned (s : State) (a : Agent) (die pa : Nat) (bs : List Byte) : State :=
  let line := lineOf pa
  let s := makeRoom s die line
  let c := dirWrite s.coh die line
  let c := if (copyOf c die line).any (fun x => x.st == .m) then keepStale c line (Memory.readBytes s.mem (line * 128) 128) else c
  dropL1 { s with coh := c, mem := Memory.writeBytes s.mem pa bs } fun x =>
    x.at_ die pa && (match a.core with
      | some k => x.core != l1Core s die k pa
      | none => true)

/-- Bytes written at an address under a treatment, with generation g for watched pages. -/
def performWrite (s : State) (a : Agent) (how : How) (treat pa g : Nat) (bs : List Byte) : State :=
  if cannotStore s pa then poisonLine s pa
  else
    let s := poisonAfter (touchLine s treat pa) pa bs.length
    let s := if a.warp == 0 then overwritten s { space := .global, at_ := pa, bytes := bs.length } else s
    match treat with
    | 1 => if how == .home then storeHome s a pa bs else storeSelfInv s a pa bs
    | 3 =>
      let old := Memory.readBytes s.mem pa bs.length
      let s1 := { s with coh := dirRecall s.coh (lineOf pa), mem := Memory.writeBytes s.mem pa bs }
      changed g s1 (changedGranules pa old bs)
    | 0 =>
      match how, a.die with
      | .home, _ | _, none => { s with coh := dirRecall s.coh (lineOf pa), mem := Memory.writeBytes s.mem pa bs }
      | _, some die => storeOwned s a die pa bs
    | _ => { s with mem := Memory.writeBytes s.mem pa bs }

/-- What stands before an atomic on a self-invalidating line: the die's own dirty bytes of it are written back and its copies dropped, so that
the atomic, performed at the home, follows them (R231, R250, R282). -/
def beforeAtomic (s : State) (a : Agent) (treat pa : Nat) : State :=
  if treat == 1 then
    match a.die with
    | some die =>
      dropL1 (dropClean (writeBack s fun d l => d == die && l == lineOf pa) fun c => c.die == die && c.line == lineOf pa) fun x => x.at_ die pa
    | none => s
  else s

end Sys2Proof.Machine
end

