-- ==== Sys2Proof/Machine/Objects.lean ====
section
/-! DEFINITION. Barrier objects: their fields, the events that change them, who is woken, registrations (R293 to R297). -/

namespace Sys2Proof.Machine

/-- The fields of an object (R293). -/
structure Obj where
  phase : Nat := 0
  expArr : Nat := 0
  pendArr : Nat := 0
  init : Bool := false
  err : Bool := false
  cfail : Bool := false
  rest : Nat := 0                 -- [63:51] as they stand
  expBytes : Nat := 0             -- [31:0]
  pendBytes : Int := 0
  deriving DecidableEq, Repr

def objOf (w0 w1 : Word) : Obj :=
  { phase := field w0 0 16, expArr := field w0 16 16, pendArr := field w0 32 16, init := w0.getLsbD 48, err := w0.getLsbD 49
    cfail := w0.getLsbD 50, rest := field w0 51 13, expBytes := field w1 0 32, pendBytes := signedOf 32 (field w1 32 32) }

def objWords (o : Obj) : Word × Word :=
  (word (o.phase % 2 ^ 16 + o.expArr % 2 ^ 16 * 2 ^ 16 + o.pendArr % 2 ^ 16 * 2 ^ 32 + b2w o.init * 2 ^ 48 + b2w o.err * 2 ^ 49
      + b2w o.cfail * 2 ^ 50 + o.rest % 2 ^ 13 * 2 ^ 51),
   word (o.expBytes % 2 ^ 32 + wrap 32 o.pendBytes * 2 ^ 32))

/-- What an event does to the fields, out of range or not: pending arrivals, expected arrivals, pending bytes, CFAIL. -/
def eventDelta (o : Obj) : ObjEvent → Int × Int × Int × Bool
  | .arrive b => (o.pendArr - 1, o.expArr, o.pendBytes + b, o.cfail)
  | .expect b => (o.pendArr, o.expArr, o.pendBytes + b, o.cfail)
  | .drop => (o.pendArr - 1, o.expArr - 1, o.pendBytes, o.cfail)
  | .implicit q => if q != o.phase then (o.pendArr - 1, o.expArr - 1, o.pendBytes, o.cfail) else (o.pendArr, o.expArr - 1, o.pendBytes, o.cfail)
  | .credit n => (o.pendArr, o.expArr, o.pendBytes - n, o.cfail)
  | .spawn => (o.pendArr + 1, o.expArr, o.pendBytes, o.cfail)
  | .join => (o.pendArr - 1, o.expArr, o.pendBytes, o.cfail)
  | .failCredit m => (o.pendArr, o.expArr, o.pendBytes - m, true)

/-- What an event amounted to. -/
inductive ObjOutcome where
  | discarded
  | applied
  | completed
  | retired
  deriving DecidableEq, Repr

/-- R295: the event, or ERR where it would leave a range; then the check for the phase's completion and the object's retirement. -/
def applyEvent (o : Obj) (e : ObjEvent) : Obj × ObjOutcome :=
  let (pa, ea, pb, cf) := eventDelta o e
  if pa < 0 || ea < 0 || pa > 65535 || pb < -(2 ^ 31) || pb > 2 ^ 31 - 1 then ({ o with err := true }, .discarded)
  else
    let o1 := { o with pendArr := pa.toNat, expArr := ea.toNat, pendBytes := pb, cfail := cf }
    if pa == 0 && pb == 0 then
      let o2 := { o1 with phase := (o1.phase + 1) % 2 ^ 16, pendArr := o1.expArr, pendBytes := o1.expBytes }
      if o1.expArr == 0 then ({ o2 with init := false }, .retired) else (o2, .completed)
    else (o1, .applied)

/-- Whether a phase has passed p (R302). -/
def phasePassed (phase p : Nat) : Bool :=
  let d := (phase + 2 ^ 16 - p % 2 ^ 16) % 2 ^ 16
  1 ≤ d && d ≤ 32767

/-- The word BWAIT and BTEST push (R302). -/
def waitWord (phase : Nat) (passed gone : Bool) : Word := word (phase % 2 ^ 16 + b2w passed * 2 ^ 16 + b2w gone * 2 ^ 17)

/-- Where an object lies: in a group's scratchpad, or at a physical address. -/
structure ObjPlace where
  space : Space
  group : Option Nat := none
  at_ : Nat
  deriving DecidableEq, Repr

/-- Bytes of a group's scratchpad. -/
def scratchRead (s : State) (key a n : Nat) : List Byte :=
  match findGroup s key with
  | some g => Memory.readBytes g.mem a n
  | none => List.replicate n 0

def scratchWrite (s : State) (key a : Nat) (bs : List Byte) : State :=
  updateGroup s key fun g => { g with mem := Memory.writeBytes g.mem a bs }

def objBytes (s : State) (p : ObjPlace) : List Byte :=
  match p.space with
  | .global => Memory.readBytes s.mem p.at_ 16
  | .scratch => scratchRead s (p.group.getD 0) p.at_ 16

def readObj (s : State) (p : ObjPlace) : Obj :=
  let bs := objBytes s p
  objOf (leWord (bs.take 8)) (leWord (bs.drop 8))

def writeObj (s : State) (p : ObjPlace) (o : Obj) : State :=
  let (w0, w1) := objWords o
  let bs := wordBytes w0 ++ wordBytes w1
  match p.space with
  | .global => { s with mem := Memory.writeBytes s.mem p.at_ bs, coh := dirRecall s.coh (lineOf p.at_) }
  | .scratch => scratchWrite s (p.group.getD 0) p.at_ bs

/-- Whether the granule is marked (R294). -/
def isMarked (s : State) (p : ObjPlace) : Bool :=
  match p.space with
  | .global => s.homes.any fun h => h.pa == p.at_
  | .scratch =>
    match p.group.bind (findGroup s) with
    | some g => g.marks.contains p.at_
    | none => false

/-- The kind of storage whose poison an access to an object meets (R382, R383, R392). -/
def objPoison (s : State) (p : ObjPlace) : Option Nat :=
  match p.space with
  | .global => if meetsPoison s p.at_ then some 0x07 else none
  | .scratch =>
    match p.group.bind (findGroup s) with
    | some g => if g.poison.any fun a => decide (a < p.at_ + 16) && decide (p.at_ < a + 8) then some 0x04 else none
    | none => none

def unmark (s : State) (p : ObjPlace) : State :=
  match p.space with
  | .global => { s with homes := s.homes.filter fun h => h.pa != p.at_ }
  | .scratch => updateGroup s (p.group.getD 0) fun g => { g with marks := g.marks.filter fun a => a != p.at_ }

/-- Whether a warp is blocked in BWAIT on an object, and on which phase. -/
def blockedOn (p : ObjPlace) (w : Warp) : Option (BitVec 16) :=
  match w.status with
  | .blocked sp at_ q _ => if sp == p.space && at_ == p.at_ && (sp == .global || w.group == p.group) then some q else none
  | _ => none

/-- The scope of an object's releases and acquires: `quad` in scratchpad, `pkg` in global memory (R262). -/
def objScope : Space → Scope
  | .scratch => .quad
  | .global => .pkg

/-- An object's bytes as the order has them. -/
def ObjPlace.place (p : ObjPlace) : Place := { space := p.space, group := p.group, at_ := p.at_, bytes := 16 }

/-- An arrival or a credit of an agent, of one of its lanes or as a whole, releases what stands before it into the phase in which the object
stands (R261, R262). -/
def releaseInto (s : State) (p : ObjPlace) (agent core : Nat) (lane : Option Nat := none) : State :=
  if noneLoose s then s
  else release s { place := p.place, scope := objScope p.space, agent := agent, core := core, phase := some (readObj s p).phase } lane

/-- A warp that finds phase p0 passed is ordered after what was released into that phase and those before it (R262). -/
def seeObject (s : State) (w : Warp) (p : ObjPlace) (p0 : Nat) : State :=
  seeWrites s w.id fun x => x.released.any fun r =>
    r.place.meets p.place && r.phase.any (fun q => q == p0 || phasePassed p0 q)
      && decide (x.needs r w.core ≤ scopeRank (narrower r.scope (objScope p.space)))

/-- A blocked warp that `f` gives a word runs again, to deliver it. -/
def Warp.woken (p : ObjPlace) (f : BitVec 16 → Option Word) (w : Warp) : Warp :=
  match (blockedOn p w).bind f with
  | some v => { w with status := .running, wake := some v }
  | none => w

/-- The warps blocked on an object that `f` gives a word are woken with it (R295, R302); a word that tells the phase passed orders them (R262). -/
def wake (s : State) (p : ObjPlace) (f : BitVec 16 → Option Word) : State :=
  let order := fun (s : State) (w : Warp) =>
    match blockedOn p w with
    | some q => if (f q).any (·.getLsbD 16) then seeObject s w p q.toNat else s
    | none => s
  mapWarps (if noneLoose s then s else (warps s).foldl order s) (Warp.woken p f)

/-- An event performed on an object: discarded where the granule is not marked (R297, R301) and where it meets poison, as an RMW then writes
nothing (R383); otherwise R295, with the warps it wakes. -/
def applyObj (s : State) (p : ObjPlace) (e : ObjEvent) : State :=
  if !isMarked s p || (objPoison s p).isSome then s
  else
    let s := if p.space == .global then loosen (wakeHome s p.at_) p.at_ else s
    let (o, out) := applyEvent (readObj s p) e
    let s := writeObj s p o
    let passed := fun (s : State) => wake s p fun q => if phasePassed o.phase q.toNat then some (waitWord o.phase true false) else none
    match out with
    | .discarded | .applied => s
    | .completed => passed s
    | .retired => wake (unmark (passed s) p) p fun _ => some (waitWord o.phase false true)

/-- Whether a stack in self-refresh holds an object (R392). -/
def objHeld (s : State) (p : ObjPlace) : Bool := p.space == .global && isHeld s p.at_

/-- An event reaches an object, or is held by the object's stack with those that came before it (R392). -/
def objEvent (s : State) (p : ObjPlace) (e : ObjEvent) : State :=
  if objHeld s p then { s with heldObj := s.heldObj ++ [(p.at_, e)] } else applyObj s p e

/-- The phase an object stands in, as the RMW of a BARRIVE returns it for the registration (R296). -/
def objPhase (s : State) (p : ObjPlace) : BitVec 16 := BitVec.ofNat 16 (readObj s p).phase

/-- The release of R262: what every lane of the warp wrote goes first. -/
def releaseWarp (s : State) (sp : Space) (id : Nat) : State := (List.range 32).foldl (fun s l => releaseAt s (objScope sp) id l) s

/-- The implicit arrive-and-drop of a warp that exits or is killed, on each object it is registered on (R296). -/
def implicitDrops (s : State) (w : Warp) : State :=
  w.regs.foldl (fun s r => objEvent s { space := r.space, group := w.group, at_ := r.place } (.implicit r.phase.toNat)) s

/-- The join arrival of a lane's record (R200, R201, R404): at the address fixed at acceptance, while it holds a marked object of the
record's context. -/
def joinArrival (s : State) (ctx : Nat) (r : Record) : State :=
  match r.join, r.joinPa with
  | true, some pa => if s.homes.any fun h => h.pa == pa && h.ctx == ctx then objEvent s { space := .global, at_ := pa } .join else s
  | _, _ => s

/-- The stack in self-refresh that a join arrival of a lane's record waits for (R392). -/
def joinHeld (s : State) (ctx : Nat) (r : Record) : Option Nat :=
  match r.join, r.joinPa with
  | true, some pa => if isHeld s pa && s.homes.any fun h => h.pa == pa && h.ctx == ctx then some (stackOf pa) else none
  | _, _ => none

/-- Whether an implicit arrival of a warp waits for one (R296, R392). -/
def dropsHeld (s : State) (w : Warp) : Bool := w.regs.any fun r => r.space == .global && isHeld s r.place

/-- The join arrivals of the lanes in a mask, in ascending lane order. -/
def joinLanes (s : State) (w : Warp) (m : Mask) : State :=
  (lanesOf m).foldl (fun s l => match w.recs.getD l none with
    | some r => joinArrival s w.ctx r
    | none => s) s

end Sys2Proof.Machine
end

