-- ==== Sys2Proof/Machine/Kill.lean ====
section
/-! DEFINITION. The ends of work: warps that exit or are killed, groups that end, queue flushes and the resets above them (R164, R201, R297,
R345 to R349, R366, R391). -/

namespace Sys2Proof.Machine

/-! ### A warp leaves -/

/-- A unit without what a warp owned, held and had queued (R141, R164). -/
def releaseUnit (u : MatrixUnit) (id : Nat) : MatrixUnit :=
  let held := u.holder == some id
  { u with
    tiles := updateWhere (fun t => t.owner == some id) (fun _ => {}) u.tiles
    plane0 := if held then {} else u.plane0
    plane1 := if held then {} else u.plane1
    holder := if held then none else u.holder
    jobs := u.jobs.filter fun j => j.warp != id }

def releaseMatrix (s : State) (w : Warp) : State :=
  { s with units := updateWhere (fun u => u.die == w.die && u.core == w.core && u.part == w.part) (fun u => releaseUnit u w.id) s.units }

/-- Waiters that satisfy p wait no longer; their fault ids stay outstanding (R341). -/
def dropWaiters (s : State) (p : Waiter → Bool) : State :=
  { s with faults := s.faults.map fun f => { f with waiters := f.waiters.filter fun x => !p x } }

/-- A quad whose groups changed: when it goes between fused and unfused its L1s are invalidated (R238). -/
def refuseQuad (old s : State) (die quad : Nat) : State :=
  if isFused old die quad == isFused s die quad then s
  else dropL1 s fun x => x.die == die && x.core / 4 == quad

/-- Units that L1 lent are claimed for scratchpad: of the cores' L1s the newest lines stay, as many as they then have room for (R239). -/
def trimL1 (s : State) (die : Nat) (cores : List Nat) : State :=
  cores.foldl (fun s c => { s with coh := { s.coh with l1 := keepNewest die c (l1Room s die c) s.coh.l1 } }) s

/-- Some warp of a group is resident or saved. -/
def groupLives (s : State) (key : Nat) : Bool :=
  (warps s).any (fun w => w.resident && w.group == some key) || s.saved.any fun x => x.warp.group == some key

/-- A global object is unmarked because its group ended: INIT := 0, its home entry freed, waiters of other groups woken with gone (R297). -/
def dissolve (s : State) (h : Home) : State :=
  let p : ObjPlace := { space := .global, at_ := h.pa }
  let o := readObj s p
  let s := unmark (writeObj s p { o with init := false }) p
  wake s p fun _ => some (waitWord o.phase false true)

/-- A group ends (R297): its allocation, marks and copies go, and its global objects are unmarked. -/
def endGroup (s : State) (key : Nat) : State :=
  match findGroup s key with
  | none => s
  | some g =>
    let s := (s.homes.filter fun h => h.group == some key).foldl dissolve s
    let s := dropWaiters s fun x => match x with
      | .copy c => s.copies.any fun y => y.cid == c && y.group == some key
      | _ => false
    let s1 := { s with groups := s.groups.filter (fun x => x.key != key), copies := s.copies.filter fun c => c.group != some key }
    refuseQuad s s1 g.die (g.core / 4)

/-- A group whose last warp is gone ends. -/
def settleGroup (s : State) (w : Warp) : State :=
  match w.group with
  | some key => if groupLives s key then s else endGroup s key
  | none => s

/-- What a warp that exits or is killed gives up beside its records' joins: registrations, tiles and planes, its slot (R28, R164, R296). -/
def vacate (s : State) (w : Warp) : State :=
  let s := releaseMatrix (implicitDrops s w) w
  let s := { s with stopping := s.stopping.filter fun x => x.warp != w.id }
  let s := dropWaiters s fun x => x == .warp w.id || x == .creation w.id
  settleGroup (forgetWarp (removeWarp s w.id) w.id) w

/-- Warp kill (R346): join arrivals of the lanes not gone, then as an exit. -/
def killWarp (s : State) (id : Nat) : State :=
  match findWarp s id with
  | none => s
  | some w => if w.resident then vacate (joinLanes s w (~~~w.gone)) w else s

/-- A pre-empted or parked warp killed: its image is discarded. -/
def killSaved (s : State) (x : SavedWarp) : State :=
  let s := implicitDrops (joinLanes s x.warp (~~~x.warp.gone)) x.warp
  settleGroup (forgetWarp { s with saved := s.saved.filter fun y => y.warp.id != x.warp.id } x.warp.id) x.warp

/-! ### Queue flush -/

/-- An event or fault waiter belongs to a queue's own accesses. -/
def isQueueWaiter (q : Nat) : Waiter → Bool
  | .ring k => k == q
  | _ => false

/-- Work under way that a reset discards: warps and images that satisfy `pw`, launches, records, heddles and copies that satisfy the
other tests. Groups end with their last warps. -/
def discardWork (s : State) (pw : Warp → Bool) (pl : Launch → Bool) (pr : Nat → Record → Bool) (pe : Nat → SegEntry → Bool)
    (ph : Heddle → Bool) (pc : Copy → Bool) : State :=
  let s := dropWaiters s fun x => match x with
    | .copy c => (findCopy s c).elim false pc
    | _ => false
  let s := { s with
    launches := s.launches.filter fun l => !pl l
    bobbins := s.bobbins.map fun b => { b with recs := b.recs.filter fun r => !pr b.ctx r }
    segments := s.segments.map fun g => { g with entries := g.entries.filter fun e => !pe g.ctx e }
    heddles := s.heddles.filter fun h => !ph h
    copies := s.copies.filter fun c => !pc c }
  let s := ((warps s).filter fun w => w.resident && pw w).foldl (fun s w => killWarp s w.id) s
  (s.saved.filter fun x => pw x.warp).foldl killSaved s

/-- A flushed queue (R346): in error state, every published record consumed. -/
def Queue.flushed (x : Queue) : Queue :=
  { x with error := true, c := x.p, s := x.p, wbDue := !x.wbFailed, ringWait := none, recs := [] }

/-- What S reads as, and is written back as: bit 63 set in error state (R346). -/
def Queue.sOut (x : Queue) : Word := if x.error then x.s ||| word (2 ^ 63) else x.s

/-- A queue's work is discarded and the queue enters its error state. -/
def flushWork (s : State) (q : Nat) : State :=
  let s := dropWaiters s (isQueueWaiter q)
  let s := discardWork s (fun w => w.queue == q) (fun l => l.queue == q) (fun _ r => r.queue.toNat == q) (fun _ e => e.queue == q)
    (fun h => h.queue == q) (fun c => c.queue == q)
  updateQueue { s with patterns := s.patterns.map fun p => { p with unloading := p.unloading.filter fun u => u.1 != q } } q Queue.flushed

/-- The events of a queue and of the heddles whose WATCH came from it. -/
def coveredByQueue (s : State) (q : Nat) (kind id : Nat) : Bool :=
  (kind == 0 && id == q) || (kind == 1 && s.heddles.any fun h => h.id == id && h.queue == q)

/-- RESETDONE (R345, R368). -/
def resetDone (s : State) (v level arg : Nat) : State := sendEvent s (.vf v) Ev.resetdone (word level) (word arg)

/-- A queue flush up to its completion (R345, R346): what is held of its old events is discarded, QFLUSH is made, the work goes. -/
def beginFlush (s : State) (q cause code : Nat) (sw : Bool) (arg : Word) : State :=
  let v := (queueOf s q).vf
  let s := dropHeld s v (coveredByQueue s q)
  let s := sendEvent s (.queue q) Ev.qflush (word (cause + code * 2 ^ 8 + b2w sw * 2 ^ 16)) arg
  let s := flushWork s q
  noteReady (updateQueue s q fun x => { x with evSeq := 0 })

/-- A queue flush with its report. -/
def flushQueue (s : State) (q cause code : Nat) (sw : Bool) (arg : Word) : State :=
  resetDone (beginFlush s q cause code sw arg) (queueOf s q).vf 2 q

/-! ### Context, VF, partition, device -/

/-- The queues that name a context. -/
def queuesOf (s : State) (c : Nat) : List Nat := (s.queues.filter fun x => x.ctx == c && x.vf == vfOfContext s c).map (·.num)

/-- A context reset up to its completion (R346): every queue flushed and disabled, all its work, heddles, images and faults gone. The
hold of CTX_PREEMPT stays until CTX_RESUME (R334). -/
def beginContextReset (s : State) (c : Nat) : State :=
  let v := vfOfContext s c
  let qs := queuesOf s c
  let s := dropHeld s v fun kind id =>
    (kind == 0 && qs.contains id) || (kind == 1 && s.heddles.any fun h => h.id == id && h.ctx == c) || (kind == 2 && id == c)
  let s := discardWork s (fun w => w.ctx == c) (fun l => l.ctx == c) (fun x _ => x == c) (fun x _ => x == c) (fun h => h.ctx == c)
    (fun x => x.ctx == c)
  let s := qs.foldl (fun s q => updateQueue s q fun x =>
    { x.flushed with enabled := false, resetOff := true, evSeq := 0, wbWait := none }) s
  let s := { s with
    faults := s.faults.filter fun f => f.ctx != c
    homes := s.homes.filter fun h => h.ctx != c
    patterns := updateWhere (fun p => p.ctx == c) (fun p => { p with unloading := [] }) s.patterns }
  noteReady (updateContext s c fun x => { x with evSeq := 0 })

def contextReset (s : State) (c : Nat) : State := resetDone (beginContextReset s c) (vfOfContext s c) 3 c

/-- A context destroyed: reset, then its number, ASID and patterns freed (R334); what its queues still had to write back is dropped. -/
def destroyContext (s : State) (c : Nat) : State :=
  let s := beginContextReset s c
  let qs := queuesOf s c
  let s := qs.foldl (fun s q => updateQueue s q fun x => { x with wbDue := false }) s
  { s with
    contexts := s.contexts.filter fun x => x.num != c
    patterns := s.patterns.filter fun p => p.ctx != c
    bobbins := s.bobbins.filter fun b => b.ctx != c
    segments := s.segments.filter fun g => g.ctx != c
    sealed := s.sealed.filter fun x => x.ctx != c
    caches := { s.caches with tlb := s.caches.tlb.filter fun e => e.ctx != c, code := s.caches.code.filter fun l => l.ctx != c } }

/-- The page of a VF at its reset values (R333). -/
def VfPage.reset (vf : Nat) : VfPage := { vf := vf }

/-- A queue's configuration at the page's reset values (R333); its indices stay. -/
def Queue.unconfigured (x : Queue) : Queue :=
  { x with
    enabled := false, prio := 0, ctx := 0, base := 0, lgSize := 0, wb := 0, refused := false, wbFailed := false, wbDue := false
    wbWait := none, ringWait := none, evSeq := 0 }

/-- A VF reset up to its completion: contexts destroyed, the page and the queues' configuration at reset values (R346, R333); a queue in error state
is one that a reset disabled. `pf` tells that the PF caused it, which ends a running command with result 5 (R348). -/
def beginVfReset (s : State) (v : Nat) (pf : Bool) : State :=
  match vfPage s v with
  | none => s
  | some p =>
    let s := ((s.contexts.filter fun x => x.vf == v).map (·.num)).foldl destroyContext s
    let s := { s with queues := updateWhere (fun x => x.vf == v) (fun x => { x.unconfigured with resetOff := x.error }) s.queues }
    let s := { s with faults := s.faults.filter fun f => f.vf != v }
    updateVf s v fun _ => { VfPage.reset v with result := if pf && p.busy then 5 else 0 }

def vfReset (s : State) (v : Nat) : State := resetDone (beginVfReset s v false) v 4 v

/-- The VFs that the PF has put in a partition and enabled. -/
def vfsOf (s : State) (n : Nat) : List Nat :=
  (s.configs.filter fun c => c.inForce.enabled && c.inForce.partition == n).map (·.vf)

/-- The directory's records of some lines dropped, with every copy and message of them. -/
def emptyCoherence (c : Coherence) (p : Nat → Bool) : Coherence :=
  { c with
    dir := c.dir.filter (fun e => !p e.line), copies := c.copies.filter (fun x => !p x.line), busy := c.busy.filter (fun b => !p b.line)
    waiting := c.waiting.filter (fun x => !p x.1), msgs := c.msgs.filter (fun m => !p m.line)
    l1 := c.l1.filter (fun x => !(p x.line && x.bytes.isNone)), stale := c.stale.filter fun x => !p x.1 }

/-- The caches of dies written back and emptied, their directories, translations, bobbins and segments cleared (R346). -/
def emptyDies (s : State) (p : Nat → Bool) : State :=
  let s := dropL1 (dropClean (writeBack s fun d _ => p d) fun c => p c.die) fun x => p x.die
  { s with
    caches := { s.caches with code := s.caches.code.filter (fun l => !p l.die), tlb := s.caches.tlb.filter fun e => !p e.die }
    coh := emptyCoherence s.coh fun l => p (homeDie (l * 128))
    bobbins := s.bobbins.filter fun b => !p b.die
    segments := s.segments.filter fun g => !p g.die
    units := s.units.filter fun u => !p u.die }

/-- A partition reset: every VF of the partition reset, its dies emptied, its dispatcher's count begun again (R215, R346). -/
def partitionResetTo (s : State) (n : Nat) : State :=
  let vs := vfsOf s n
  let s := vs.foldl (fun s v => beginVfReset s v true) s
  let s := emptyDies s fun d => partitionOfDie s d == n
  let s := { s with decisions := s.decisions.filter fun x => x.1 != n }
  let s := vs.foldl (fun s v => updateConfig s v fun c => { c with won := 0 }) s
  vs.foldl (fun s v => resetDone s v 5 n) s

/-- PARTMAP's value (R335). -/
def partmapOf (w : Word) : List Nat := (List.range 8).map fun d => field w (4 * d) 3

/-- What a stored type-2 record gives at a device reset: package number, PARTMAP and routes; with none, package 0 and no route (R354). -/
def applyPackage (s : State) : State :=
  match s.sec.records.find? fun r => r.typ == 2 with
  | none => s
  | some x =>
    let (pkg, map, routes) := Config.packageBody x.body
    { s with pkg := pkg % 16, partmap := partmapOf map, routes := routes }

/-- What a stored type-3 record gives: the window, weights and limits that each VF's block begins with (R360). DESIGN CHOICE: its body names no VF,
so that one set of defaults stands in the written block of all 64, whose other fields are 0 (log 172). -/
def applyDefaults (s : State) : State :=
  match s.sec.records.find? fun r => r.typ == 3 with
  | none => s
  | some x =>
    let (win, (wd, wh, wt), cl, hl) := Config.vfDefaults x.body
    let b : VfBlock := { window := win, wDispatch := wd, wHbm := wh, wTraux := wt, ctxLimit := cl, heddleLimit := hl }
    { s with configs := (List.range 64).map fun v => { vf := v, written := b } }

/-- The owner key that a stored type-1 record gives (R360). -/
def ownerKey (s : State) : Option (List Byte) := (s.sec.records.find? fun r => r.typ == 1).map (·.body)

/-- A VF's page after a device reset: it waits for the PF to enable the VF, with result 5 where a command ran (R333, R348). -/
def VfPage.afterDevice (p : VfPage) : VfPage := { VfPage.reset p.vf with result := if p.busy then 5 else 0 }

/-- A device reset (R346, R358, R360): the firmware image is verified and measured; all is as after power-on but HBM, host memory, the pod and
the security engine's storage. The completion event of a VF is held for want of a ring until the PF enables it again. -/
def deviceResetAll (s : State) : State :=
  let ok := Config.firmwareVerifies s.sec.image && decide (s.sec.minVersion ≤ s.sec.version)
  let vs := s.vfs.map (·.vf)
  let flushed := writeBack s fun _ _ => true
  let fresh : State := { State.reset with
    mem := flushed.mem, poison := s.poison, sec := { s.sec with started := ok, measured := s.sec.image, owner := ownerKey s }
    nextId := s.nextId, freeCtr := s.freeCtr, now := s.now, agenda := s.agenda, answers := s.answers, vectors := s.vectors
    remoteRanges := s.remoteRanges, partmap := partmapOf s.pf.partmap, pf := { partmap := s.pf.partmap }
    vfs := s.vfs.map VfPage.afterDevice }
  let applied := applyDefaults (applyPackage fresh)
  vs.foldl (fun s v => resetDone s v 6 0) applied

/-! ### Escalation (R391) -/

/-- A level of the ladder is taken; its completion is reported when the next step finds that it was in time. -/
def escalate (s : State) (l : ResetLevel) : State :=
  match l with
  | .queue q => { beginFlush s q 8 0 false 0 with escalating := some l }
  | .context c => { beginContextReset s c with escalating := some l }
  | .partition n => { partitionResetTo s n with escalating := some l }
  | .device => deviceResetAll s

/-- The level above. -/
def nextLevel (s : State) : ResetLevel → ResetLevel
  | .queue q => .context (queueOf s q).ctx
  | .context c => .partition (partitionOfVf s (vfOfContext s c))
  | .partition _ => .device
  | .device => .device

/-- A level under way completes: its RESETDONE (R345). -/
def finishLevel (s : State) : State :=
  match s.escalating with
  | none => s
  | some l =>
    let s := { s with escalating := none }
    match l with
    | .queue q => resetDone s (queueOf s q).vf 2 q
    | .context c => resetDone s (vfOfContext s c) 3 c
    | _ => s

/-- An event record that tells an uncorrectable error (R368). -/
def isEccue (ws : List Word) : Bool := field (ws.getD 0 0) 0 8 == Ev.eccue

/-- The ECCUEs held before a level is taken, which that does not discard (R391), stand before what the level made. -/
def keepEccues (old s : State) : State :=
  { s with vfs := s.vfs.map fun p =>
      let held := ((vfPage old p.vf).map fun q => q.heldEvents.filter isEccue).getD []
      { p with heldEvents := (held.filter fun ws => !p.heldEvents.contains ws) ++ p.heldEvents } }

/-- A level taken with the ECCUEs before it kept. -/
def escalateTo (s : State) (l : ResetLevel) : State := keepEccues s (escalate s l)

/-- An ECCUE to a context, then the level that contains the error. The ECCUE is made before the reset begins, which does not discard it. -/
def escalateFrom (s : State) (ctx kind addr : Nat) (l : ResetLevel) : State := escalateTo (eccue (finishLevel s) ctx kind (word addr)) l

end Sys2Proof.Machine
end

