-- ==== Sys2Proof/Decode.lean ====
section
/-! DEFINITION. The decoder of instruction words and, after it, the encoder, both from chapters 02 and 03 of the spec. The decoder is
total: a word is an instruction, or traps with ILLOP, or traps with ILLOPND (R47, R58). -/

namespace Sys2Proof

/-! ### Codes of the sub-fields -/

/-- Type codes (R59). -/
def Ty.code : Ty → Nat
  | .s8 => 0
  | .s16 => 1
  | .s32 => 2
  | .s64 => 3
  | .z8 => 4
  | .z16 => 5
  | .z32 => 6
  | .z64 => 7
  | .s8x8 => 8
  | .s16x4 => 9
  | .s32x2 => 10
  | .s4x16 => 11
  | .z8x8 => 12
  | .z16x4 => 13
  | .z32x2 => 14
  | .f64 => 16
  | .f32 => 17
  | .f16 => 18
  | .bf16 => 19
  | .e4m3 => 20
  | .e5m2 => 21
  | .e2m1 => 22
  | .bi8 => 24
  | .bi4 => 25
  | .res => 26

/-- The Ty of a code, none where the layout assigns it none. -/
def Ty.ofCode : Nat → Option Ty
  | 0 => some .s8
  | 1 => some .s16
  | 2 => some .s32
  | 3 => some .s64
  | 4 => some .z8
  | 5 => some .z16
  | 6 => some .z32
  | 7 => some .z64
  | 8 => some .s8x8
  | 9 => some .s16x4
  | 10 => some .s32x2
  | 11 => some .s4x16
  | 12 => some .z8x8
  | 13 => some .z16x4
  | 14 => some .z32x2
  | 16 => some .f64
  | 17 => some .f32
  | 18 => some .f16
  | 19 => some .bf16
  | 20 => some .e4m3
  | 21 => some .e5m2
  | 22 => some .e2m1
  | 24 => some .bi8
  | 25 => some .bi4
  | 26 => some .res
  | _ => Option.none

/-- Rounding codes (R60). -/
def Rnd.code : Rnd → Nat
  | .mode => 0
  | .rne => 1
  | .rtz => 2
  | .rup => 3
  | .rdn => 4

/-- The Rnd of a code, none where the layout assigns it none. -/
def Rnd.ofCode : Nat → Option Rnd
  | 0 => some .mode
  | 1 => some .rne
  | 2 => some .rtz
  | 3 => some .rup
  | 4 => some .rdn
  | _ => Option.none

/-- Scope codes (R9, R61). -/
def Scope.code : Scope → Nat
  | .thread => 0
  | .core => 1
  | .quad => 2
  | .die => 3
  | .pkg => 4
  | .pod => 5
  | .sys => 6

/-- The Scope of a code, none where the layout assigns it none. -/
def Scope.ofCode : Nat → Option Scope
  | 0 => some .thread
  | 1 => some .core
  | 2 => some .quad
  | 3 => some .die
  | 4 => some .pkg
  | 5 => some .pod
  | 6 => some .sys
  | _ => Option.none

/-- Order codes on accesses (R61). -/
def Order.code : Order → Nat
  | .rlx => 0
  | .acq => 1
  | .rel => 2
  | .acqRel => 3

/-- The Order of a code, none where the layout assigns it none. -/
def Order.ofCode : Nat → Option Order
  | 0 => some .rlx
  | 1 => some .acq
  | 2 => some .rel
  | 3 => some .acqRel
  | _ => Option.none

/-- Order codes on FENCE (R61). -/
def FenceOrder.code : FenceOrder → Nat
  | .sc => 0
  | .acq => 1
  | .rel => 2
  | .acqRel => 3

/-- The FenceOrder of a code, none where the layout assigns it none. -/
def FenceOrder.ofCode : Nat → Option FenceOrder
  | 0 => some .sc
  | 1 => some .acq
  | 2 => some .rel
  | 3 => some .acqRel
  | _ => Option.none

/-- Condition codes (R66). -/
def Cond.code : Cond → Nat
  | .eq => 0
  | .ne => 1
  | .lt => 2
  | .le => 3
  | .gt => 4
  | .ge => 5
  | .un => 6
  | .ord => 7

/-- The Cond of a code, none where the layout assigns it none. -/
def Cond.ofCode : Nat → Option Cond
  | 0 => some .eq
  | 1 => some .ne
  | 2 => some .lt
  | 3 => some .le
  | 4 => some .gt
  | 5 => some .ge
  | 6 => some .un
  | 7 => some .ord
  | _ => Option.none

/-- VOTE's modes (R69). -/
def VoteMode.code : VoteMode → Nat
  | .all => 0
  | .any => 1
  | .ballot => 2
  | .uni => 3

/-- The VoteMode of a code, none where the layout assigns it none. -/
def VoteMode.ofCode : Nat → Option VoteMode
  | 0 => some .all
  | 1 => some .any
  | 2 => some .ballot
  | 3 => some .uni
  | _ => Option.none

/-- SHFL's modes (R69). -/
def ShflMode.code : ShflMode → Nat
  | .idx => 0
  | .up => 1
  | .down => 2
  | .xor => 3

/-- The ShflMode of a code, none where the layout assigns it none. -/
def ShflMode.ofCode : Nat → Option ShflMode
  | 0 => some .idx
  | 1 => some .up
  | 2 => some .down
  | 3 => some .xor
  | _ => Option.none

/-- Operations of WRED and WSCAN (R69). -/
def RedOp.code : RedOp → Nat
  | .add => 0
  | .min => 1
  | .max => 2
  | .and => 3
  | .or => 4
  | .xor => 5

/-- The RedOp of a code, none where the layout assigns it none. -/
def RedOp.ofCode : Nat → Option RedOp
  | 0 => some .add
  | 1 => some .min
  | 2 => some .max
  | 3 => some .and
  | 4 => some .or
  | 5 => some .xor
  | _ => Option.none

/-- Access sizes (R70). -/
def Size.code : Size → Nat
  | .b1 => 0
  | .b2 => 1
  | .b4 => 2
  | .b8 => 3
  | .b16 => 4

/-- The Size of a code, none where the layout assigns it none. -/
def Size.ofCode : Nat → Option Size
  | 0 => some .b1
  | 1 => some .b2
  | 2 => some .b4
  | 3 => some .b8
  | 4 => some .b16
  | _ => Option.none

/-- Hints (R70). -/
def Hint.code : Hint → Nat
  | .normal => 0
  | .stream => 1
  | .keep => 2

/-- The Hint of a code, none where the layout assigns it none. -/
def Hint.ofCode : Nat → Option Hint
  | 0 => some .normal
  | 1 => some .stream
  | 2 => some .keep
  | _ => Option.none

/-- PREF's levels (R70). -/
def PrefLevel.code : PrefLevel → Nat
  | .l1 => 0
  | .home => 1
  | .both => 2

/-- The PrefLevel of a code, none where the layout assigns it none. -/
def PrefLevel.ofCode : Nat → Option PrefLevel
  | 0 => some .l1
  | 1 => some .home
  | 2 => some .both
  | _ => Option.none

/-- CCTL's operations (R70). -/
def CctlOp.code : CctlOp → Nat
  | .inv => 0
  | .wb => 1
  | .iinv => 2
  | .invall => 3
  | .iinvall => 4

/-- The CctlOp of a code, none where the layout assigns it none. -/
def CctlOp.ofCode : Nat → Option CctlOp
  | 0 => some .inv
  | 1 => some .wb
  | 2 => some .iinv
  | 3 => some .invall
  | 4 => some .iinvall
  | _ => Option.none

/-- Operations of the atomics (R71). -/
def AtomOp.code : AtomOp → Nat
  | .add => 0
  | .and => 1
  | .or => 2
  | .xor => 3
  | .smin => 4
  | .smax => 5
  | .umin => 6
  | .umax => 7
  | .exch => 8
  | .fadd => 9
  | .fmin => 10
  | .fmax => 11
  | .inc => 12
  | .dec => 13

/-- The AtomOp of a code, none where the layout assigns it none. -/
def AtomOp.ofCode : Nat → Option AtomOp
  | 0 => some .add
  | 1 => some .and
  | 2 => some .or
  | 3 => some .xor
  | 4 => some .smin
  | 5 => some .smax
  | 6 => some .umin
  | 7 => some .umax
  | 8 => some .exch
  | 9 => some .fadd
  | 10 => some .fmin
  | 11 => some .fmax
  | 12 => some .inc
  | 13 => some .dec
  | _ => Option.none

/-- Widths of the atomics (R71). -/
def AtomWidth.code : AtomWidth → Nat
  | .w32 => 0
  | .w64 => 1
  | .w128 => 2

/-- The AtomWidth of a code, none where the layout assigns it none. -/
def AtomWidth.ofCode : Nat → Option AtomWidth
  | 0 => some .w32
  | 1 => some .w64
  | 2 => some .w128
  | _ => Option.none

/-- Copy directions (R72). -/
def CopyDir.code : CopyDir → Nat
  | .g2s => 0
  | .s2g => 1
  | .s2s => 2

/-- The CopyDir of a code, none where the layout assigns it none. -/
def CopyDir.ofCode : Nat → Option CopyDir
  | 0 => some .g2s
  | 1 => some .s2g
  | 2 => some .s2s
  | _ => Option.none

/-- Tile modes (R73). -/
def TileMode.code : TileMode → Nat
  | .fp32 => 0
  | .exact => 1
  | .raw => 2

/-- The TileMode of a code, none where the layout assigns it none. -/
def TileMode.ofCode : Nat → Option TileMode
  | 0 => some .fp32
  | 1 => some .exact
  | 2 => some .raw
  | _ => Option.none

/-- Plane formats by their type codes (R73). -/
def PlaneFmt.code : PlaneFmt → Nat
  | .bi8 => 24
  | .bi4 => 25
  | .e2m1 => 22
  | .int8 => 0
  | .int4 => 11
  | .res => 26

/-- The PlaneFmt of a code, none where the layout assigns it none. -/
def PlaneFmt.ofCode : Nat → Option PlaneFmt
  | 24 => some .bi8
  | 25 => some .bi4
  | 22 => some .e2m1
  | 0 => some .int8
  | 11 => some .int4
  | 26 => some .res
  | _ => Option.none

/-- MDRAIN's conversions (R73). -/
def DrainConv.code : DrainConv → Nat
  | .f32 => 0
  | .bf16 => 1
  | .f16 => 2
  | .e4m3 => 3
  | .bi8 => 4
  | .s32 => 5
  | .s64 => 6

/-- The DrainConv of a code, none where the layout assigns it none. -/
def DrainConv.ofCode : Nat → Option DrainConv
  | 0 => some .f32
  | 1 => some .bf16
  | 2 => some .f16
  | 3 => some .e4m3
  | 4 => some .bi8
  | 5 => some .s32
  | 6 => some .s64
  | _ => Option.none

/-- MDRAIN's activations (R73). -/
def DrainAct.code : DrainAct → Nat
  | .none => 0
  | .relu => 1
  | .clamp => 2

/-- The DrainAct of a code, none where the layout assigns it none. -/
def DrainAct.ofCode : Nat → Option DrainAct
  | 0 => some .none
  | 1 => some .relu
  | 2 => some .clamp
  | _ => Option.none

/-- The space bit of the barrier and copy group (R72). -/
def Space.ofBit (b : Bool) : Space := if b then .global else .scratch

def Space.code : Space → Nat
  | .scratch => 0
  | .global => 1

/-- FCMP's type field (R66). -/
def fcmpTy : Nat → Option Ty
  | 0 => some .f64
  | 1 => some .f32
  | 2 => some .f16
  | 3 => some .bf16
  | _ => none

/-- A source specifier (R40); 63 has no operand. -/
def Src.ofCode (n : Nat) : Option Src :=
  if n < 16 then some (.w (Fin.ofNat 16 n))
  else if n < 48 then some (.f (Fin.ofNat 32 (n - 16)))
  else if n < 56 then some (.x (Fin.ofNat 8 (n - 48)))
  else if n < 64 then
    match n with
    | 56 => some .zero
    | 57 => some .lane
    | 58 => some .wid
    | 59 => some .gid
    | 60 => some .lit
    | 61 => some .recAddr
    | 62 => some .ones
    | _ => none
  else some (.imm (Fin.ofNat 64 (n - 64)))

def Src.code : Src → Nat
  | .w k => k.val
  | .f k => 16 + k.val
  | .x k => 48 + k.val
  | .zero => 56
  | .lane => 57
  | .wid => 58
  | .gid => 59
  | .lit => 60
  | .recAddr => 61
  | .ones => 62
  | .imm v => 64 + v.val

def b2n (b : Bool) : Nat := if b then 1 else 0

/-- Peg select (R33). -/
def PegSel.code (p : PegSel) : Nat := b2n p.a + 2 * b2n p.b

/-! ### The fields of a word (R37) -/

/-- The ten fields of an instruction word, most significant first. -/
structure Fields where
  op : Nat := 0
  u : Nat := 0
  neg : Nat := 0
  gp : Nat := 0
  a : Nat := 0
  b : Nat := 0
  c : Nat := 0
  ma : Nat := 0
  mb : Nat := 0
  f : Nat := 0
  deriving DecidableEq, Repr

/-- The fields as R37 places them: opcode [63:54], U [53], negate [52], guard [51:46], sources [45:39], [38:32], [31:25], modifiers
[24:19], [18:13], F [12:0]. -/
def Fields.ofWord (w : Word) : Fields :=
  let n := w.toNat
  { op := n / 2 ^ 54, u := n / 2 ^ 53 % 2, neg := n / 2 ^ 52 % 2, gp := n / 2 ^ 46 % 64, a := n / 2 ^ 39 % 128
    b := n / 2 ^ 32 % 128, c := n / 2 ^ 25 % 128, ma := n / 2 ^ 19 % 64, mb := n / 2 ^ 13 % 64, f := n % 2 ^ 13 }

def Fields.toNat (x : Fields) : Nat :=
  x.op * 2 ^ 54 + x.u * 2 ^ 53 + x.neg * 2 ^ 52 + x.gp * 2 ^ 46 + x.a * 2 ^ 39 + x.b * 2 ^ 32 + x.c * 2 ^ 25 + x.ma * 2 ^ 19
    + x.mb * 2 ^ 13 + x.f

def Fields.toWord (x : Fields) : Word := BitVec.ofNat 64 x.toNat

/-- Every field within its width. -/
def Fields.fits (x : Fields) : Bool :=
  decide (x.op < 1024 ∧ x.u < 2 ∧ x.neg < 2 ∧ x.gp < 64 ∧ x.a < 128 ∧ x.b < 128 ∧ x.c < 128 ∧ x.ma < 64 ∧ x.mb < 64 ∧ x.f < 8192)

/-- n bits of F from bit lo. -/
def fb (x : Fields) (lo n : Nat) : Nat := x.f / 2 ^ lo % 2 ^ n

/-- Bit k of F. -/
def bit (x : Fields) (k : Nat) : Bool := x.f / 2 ^ k % 2 == 1

def bit64 (n : Nat) : Bool := n == 1

/-- The n bits of F from bit lo are zero. -/
def zf (x : Fields) (lo n : Nat) : Bool := fb x lo n == 0

/-- What a layout requires of a word; its failure is ILLOP. -/
def req (c : Bool) (i : Option Instr) : Option Instr := if c then i else none

def guard (x : Fields) : Guard := { neg := bit64 x.neg, p := Fin.ofNat 64 x.gp }

/-- Bits [45:13], which branches, SEAM and CONFORM use whole (R43 to R45, R62). -/
def Fields.mid (x : Fields) : Nat := x.a * 2 ^ 26 + x.b * 2 ^ 19 + x.c * 2 ^ 12 + x.ma * 2 ^ 6 + x.mb

def Fields.withMid (x : Fields) (m : Nat) : Fields :=
  { x with a := m / 2 ^ 26 % 128, b := m / 2 ^ 19 % 128, c := m / 2 ^ 12 % 128, ma := m / 2 ^ 6 % 64, mb := m % 64 }

/-- The block offset in [45:13] (R43). -/
def offset (x : Fields) : BitVec 33 := BitVec.ofNat 33 x.mid

/-- The declaration in [45:3] (R45); here bit 13 of the word is bit 0 of `mid`. -/
def seamDecl (x : Fields) : SeamDecl :=
  let m := x.mid
  { d0 := Fin.ofNat 16 (m / 2 ^ 29), d1 := Fin.ofNat 16 (m / 2 ^ 25), n := Fin.ofNat 8 (m / 2 ^ 22), s0 := Fin.ofNat 16 (m / 2 ^ 18)
    s1 := Fin.ofNat 16 (m / 2 ^ 14), s2 := Fin.ofNat 16 (m / 2 ^ 10), s3 := Fin.ofNat 16 (m / 2 ^ 6), s4 := Fin.ofNat 16 (m / 2 ^ 2)
    s5 := Fin.ofNat 16 (m % 4 * 4 + x.f / 2 ^ 11), s6 := Fin.ofNat 16 (x.f / 2 ^ 7), s7 := Fin.ofNat 16 (x.f / 2 ^ 3) }

/-- CONFORM's selectors in [44:13] (R62). -/
def conformSel (x : Fields) : ConformSel :=
  let m := x.mid
  { c0 := Fin.ofNat 16 (m / 2 ^ 28), c1 := Fin.ofNat 16 (m / 2 ^ 24), c2 := Fin.ofNat 16 (m / 2 ^ 20), c3 := Fin.ofNat 16 (m / 2 ^ 16)
    c4 := Fin.ofNat 16 (m / 2 ^ 12), c5 := Fin.ofNat 16 (m / 2 ^ 8), c6 := Fin.ofNat 16 (m / 2 ^ 4), c7 := Fin.ofNat 16 m }

/-- The operand of a specifier; 63 is refused with ILLOPND by `restOk`. -/
def srcOf (n : Nat) : Src := (Src.ofCode n).getD .zero

def srcA (x : Fields) : Src := srcOf x.a
def srcB (x : Fields) : Src := srcOf x.b
def srcC (x : Fields) : Src := srcOf x.c

/-- A modifier field (R41). -/
def modOf (m : Nat) : Mod := { neg := m / 32 % 2 == 1, abs := m / 16 % 2 == 1, half := m / 8 % 2 == 1, swz := Fin.ofNat 8 m }

/-- Source A with modifier A, or in maintenance mode with the permutation of [24:13] (R42). -/
def opA (mt : Bool) (x : Fields) : OpA :=
  { src := srcA x
    m := if mt then .perm (Fin.ofNat 4 (x.ma / 16)) (Fin.ofNat 8 (x.ma / 2)) (Fin.ofNat 32 (x.ma % 2 * 16 + x.mb / 4))
      else .std (modOf x.ma) }

/-- Source B with modifier B; in maintenance mode without one (R42). -/
def opB (mt : Bool) (x : Fields) : OpB := { src := srcB x, m := if mt then {} else modOf x.mb }

def pegSel (x : Fields) : PegSel := { a := bit x 11, b := bit x 12 }

/-- The scope field (R61); 7 is refused with ILLOPND by `restOk`. -/
def scope (x : Fields) : Scope := (Scope.ofCode (fb x 8 3)).getD .thread

/-! ### Building the instruction, group by group -/

/-- Group 0x0 (R62): the instruction of a word by its index in the group, or none where a field is ILLOP. -/
def buildControl (x : Fields) : Option Instr :=
  let g := guard x
  match x.op % 64 with
  | 0x0 => req (x.u == 0 && zf x 0 13) <| some (.nop g)
  | 0x1 => req (x.u == 0 && zf x 0 13) <| some (.bra g (offset x))
  | 0x2 => req (x.u == 0) <| some (.brc g (offset x) (BitVec.ofNat 13 x.f))
  | 0x3 => req (x.u == 0) <| some (.seam g (seamDecl x))
  | 0x4 => req (x.u == 0 && zf x 4 9) <| some (.mark g (Fin.ofNat 16 (fb x 0 4)))
  | 0x5 => req (x.u == 0 && zf x 4 9) <| some (.conform g (Fin.ofNat 16 (fb x 0 4)) (conformSel x))
  | 0x6 => req (x.u == 0 && zf x 0 13) <| some (.brl g (offset x))
  | 0x7 => req (x.u == 0 && zf x 0 13) <| some (.brx g (srcA x))
  | 0x8 => req (x.u == 0 && zf x 10 3) <| some (.call g (offset x) (Fin.ofNat 64 (fb x 4 6)) (Fin.ofNat 16 (fb x 0 4)))
  | 0x9 => req (x.u == 0 && zf x 10 3) <| some (.callx g (srcA x) (Fin.ofNat 64 (fb x 4 6)) (Fin.ofNat 16 (fb x 0 4)))
  | 0xa => req (x.u == 0 && zf x 4 9) <| some (.ret g (Fin.ofNat 16 (fb x 0 4)))
  | 0xb => req (x.u == 0 && zf x 0 13) <| some (.exit g)
  | 0xc => req (x.u == 0 && zf x 0 13) <| some (.yield g)
  | _ => none

/-- Group 0x1 (R63): the instruction of a word by its index in the group, or none where a field is ILLOP. -/
def buildWeft (mt : Bool) (x : Fields) : Option Instr :=
  let g := guard x
  let u := bit64 x.u
  match x.op % 64 with
  | 0x0 => req (zf x 0 13) <| some (.pick g u (opA mt x))
  | 0x1 => req (x.u == 0 && zf x 5 8) <| some (.save g (opA mt x) (Fin.ofNat 32 (fb x 0 5)))
  | 0x2 => req (x.u == 0 && zf x 10 3) <| (Ty.ofCode (fb x 0 5)).bind fun t => some (.pack g (bit x 9) (Fin.ofNat 16 (fb x 5 4)) t (opA mt x) (opB mt x))
  | 0x3 => req (x.u == 0 && zf x 9 4) <| (Ty.ofCode (fb x 0 5)).bind fun t => some (.unpack g (Fin.ofNat 16 (fb x 5 4)) t (opA mt x))
  | _ => none

/-- Group 0x2 (R64): the instruction of a word by its index in the group, or none where a field is ILLOP. -/
def buildInteger (mt : Bool) (x : Fields) : Option Instr :=
  let g := guard x
  let u := bit64 x.u
  match x.op % 64 with
  | 0x0 => req (zf x 6 7) <| (Ty.ofCode (fb x 0 5)).bind fun t => some (.iadd g u (bit x 5) t (opA mt x) (opB mt x))
  | 0x1 => req (zf x 6 7) <| (Ty.ofCode (fb x 0 5)).bind fun t => some (.isub g u (bit x 5) t (opA mt x) (opB mt x))
  | 0x4 => req (zf x 6 7) <| (Ty.ofCode (fb x 0 5)).bind fun t => some (.imul g u (bit x 5) t (opA mt x) (opB mt x))
  | 0x6 => req (zf x 6 7) <| (Ty.ofCode (fb x 0 5)).bind fun t => some (.imad g u (bit x 5) t (opA mt x) (opB mt x) (srcC x))
  | 0xe => req (zf x 6 7) <| (Ty.ofCode (fb x 0 5)).bind fun t => some (.idot4 g u (bit x 5) t (opA mt x) (opB mt x) (srcC x))
  | 0xf => req (zf x 6 7) <| (Ty.ofCode (fb x 0 5)).bind fun t => some (.idot2 g u (bit x 5) t (opA mt x) (opB mt x) (srcC x))
  | 0x2 => req (x.u == 0 && zf x 12 1 && zf x 5 1) <| (Ty.ofCode (fb x 0 5)).bind fun t => some (.iadc g t (Fin.ofNat 64 (fb x 6 6)) (opA mt x) (opB mt x))
  | 0x3 => req (x.u == 0 && zf x 12 1 && zf x 5 1) <| (Ty.ofCode (fb x 0 5)).bind fun t => some (.isbb g t (Fin.ofNat 64 (fb x 6 6)) (opA mt x) (opB mt x))
  | 0x5 => req (zf x 5 8) <| (Ty.ofCode (fb x 0 5)).bind fun t => some (.imulh g u t (opA mt x) (opB mt x))
  | 0x7 => req (zf x 5 8) <| (Ty.ofCode (fb x 0 5)).bind fun t => some (.imadw g u t (opA mt x) (opB mt x) (srcC x))
  | 0x8 => req (zf x 5 8) <| (Ty.ofCode (fb x 0 5)).bind fun t => some (.imin g u t (opA mt x) (opB mt x))
  | 0x9 => req (zf x 5 8) <| (Ty.ofCode (fb x 0 5)).bind fun t => some (.imax g u t (opA mt x) (opB mt x))
  | 0xa => req (zf x 5 8) <| (Ty.ofCode (fb x 0 5)).bind fun t => some (.iabsd g u t (opA mt x) (opB mt x))
  | 0xb => req (zf x 5 8) <| (Ty.ofCode (fb x 0 5)).bind fun t => some (.iclamp g u t (opA mt x) (opB mt x) (srcC x))
  | 0xc => req (zf x 5 8) <| (Ty.ofCode (fb x 0 5)).bind fun t => some (.lea g u t (opA mt x) (opB mt x) (srcC x))
  | 0xd => req (zf x 11 2 && zf x 5 1) <| (Ty.ofCode (fb x 0 5)).bind fun t => (Ty.ofCode (fb x 6 5)).bind fun t2 => some (.isat g u t t2 (opA mt x))
  | _ => none

/-- Group 0x3 (R65): the instruction of a word by its index in the group, or none where a field is ILLOP. -/
def buildLogic (mt : Bool) (x : Fields) : Option Instr :=
  let g := guard x
  let u := bit64 x.u
  match x.op % 64 with
  | 0x0 => req (zf x 5 8) <| (Ty.ofCode (fb x 0 5)).bind fun t => some (.and g u t (opA mt x) (opB mt x))
  | 0x1 => req (zf x 5 8) <| (Ty.ofCode (fb x 0 5)).bind fun t => some (.or g u t (opA mt x) (opB mt x))
  | 0x2 => req (zf x 5 8) <| (Ty.ofCode (fb x 0 5)).bind fun t => some (.xor g u t (opA mt x) (opB mt x))
  | 0x4 => req (zf x 5 8) <| (Ty.ofCode (fb x 0 5)).bind fun t => some (.shl g u t (opA mt x) (opB mt x))
  | 0x5 => req (zf x 5 8) <| (Ty.ofCode (fb x 0 5)).bind fun t => some (.shr g u t (opA mt x) (opB mt x))
  | 0x6 => req (zf x 5 8) <| (Ty.ofCode (fb x 0 5)).bind fun t => some (.sar g u t (opA mt x) (opB mt x))
  | 0x7 => req (zf x 5 8) <| (Ty.ofCode (fb x 0 5)).bind fun t => some (.rol g u t (opA mt x) (opB mt x))
  | 0x8 => req (zf x 5 8) <| (Ty.ofCode (fb x 0 5)).bind fun t => some (.funnel g u t (opA mt x) (opB mt x) (srcC x))
  | 0x9 => req (zf x 5 8) <| (Ty.ofCode (fb x 0 5)).bind fun t => some (.popc g u t (opA mt x))
  | 0xa => req (zf x 5 8) <| (Ty.ofCode (fb x 0 5)).bind fun t => some (.clz g u t (opA mt x))
  | 0xb => req (zf x 5 8) <| (Ty.ofCode (fb x 0 5)).bind fun t => some (.ctz g u t (opA mt x))
  | 0xc => req (zf x 5 8) <| (Ty.ofCode (fb x 0 5)).bind fun t => some (.brev g u t (opA mt x))
  | 0xd => req (zf x 5 8) <| (Ty.ofCode (fb x 0 5)).bind fun t => some (.bfx g u t (opA mt x) (opB mt x))
  | 0xe => req (zf x 5 8) <| (Ty.ofCode (fb x 0 5)).bind fun t => some (.bfi g u t (opA mt x) (opB mt x) (srcC x))
  | 0xf => req (zf x 5 8) <| (Ty.ofCode (fb x 0 5)).bind fun t => some (.permb g u t (opA mt x) (opB mt x) (srcC x))
  | 0x3 => (Ty.ofCode (fb x 0 5)).bind fun t => some (.lop3 g u t (BitVec.ofNat 8 (fb x 5 8)) (opA mt x) (opB mt x) (srcC x))
  | _ => none

/-- Group 0x4 (R66): the instruction of a word by its index in the group, or none where a field is ILLOP. -/
def buildCompare (mt : Bool) (x : Fields) : Option Instr :=
  let g := guard x
  let u := bit64 x.u
  match x.op % 64 with
  | 0x0 => req (x.u == 0 && zf x 3 1) <| (Ty.ofCode (fb x 0 3)).bind fun t => (Cond.ofCode (fb x 4 3)).bind fun cd => some (.icmp g t cd (Fin.ofNat 64 (fb x 7 6)) (opA mt x) (opB mt x))
  | 0x1 => req (x.u == 0 && zf x 3 1) <| (fcmpTy (fb x 0 3)).bind fun t => (Cond.ofCode (fb x 4 3)).bind fun cd => some (.fcmp g t cd (Fin.ofNat 64 (fb x 7 6)) (opA mt x) (opB mt x))
  | 0x2 => req (zf x 0 7) <| some (.sel g u (Fin.ofNat 64 (fb x 7 6)) (opA mt x) (opB mt x))
  | 0x3 => req (x.u == 0 && zf x 8 5) <| some (.plop g (BitVec.ofNat 8 (fb x 0 8)) (Fin.ofNat 128 x.a) (Fin.ofNat 128 x.b) (Fin.ofNat 128 x.c) (Fin.ofNat 64 x.ma))
  | 0x4 => req (x.u == 0 && zf x 0 7) <| some (.pset g (Fin.ofNat 64 (fb x 7 6)) (opA mt x))
  | 0x5 => req (x.u == 0 && zf x 0 13) <| some (.ptov g)
  | 0x6 => req (x.u == 0 && zf x 0 13) <| some (.vtop g (opA mt x) (opB mt x))
  | 0x7 => req (x.u == 0 && zf x 0 7) <| some (.itst g (Fin.ofNat 64 (fb x 7 6)) (opA mt x) (opB mt x))
  | _ => none

/-- Group 0x5 (R67): the instruction of a word by its index in the group, or none where a field is ILLOP. -/
def buildFloat (mt : Bool) (x : Fields) : Option Instr :=
  let g := guard x
  let u := bit64 x.u
  match x.op % 64 with
  | 0x0 => req (zf x 8 5) <| (Ty.ofCode (fb x 0 5)).bind fun t => (Rnd.ofCode (fb x 5 3)).bind fun r => some (.fadd g u t r (opA mt x) (opB mt x))
  | 0x1 => req (zf x 8 5) <| (Ty.ofCode (fb x 0 5)).bind fun t => (Rnd.ofCode (fb x 5 3)).bind fun r => some (.fsub g u t r (opA mt x) (opB mt x))
  | 0x2 => req (zf x 8 5) <| (Ty.ofCode (fb x 0 5)).bind fun t => (Rnd.ofCode (fb x 5 3)).bind fun r => some (.fmul g u t r (opA mt x) (opB mt x))
  | 0x3 => req (zf x 8 5) <| (Ty.ofCode (fb x 0 5)).bind fun t => (Rnd.ofCode (fb x 5 3)).bind fun r => some (.ffma g u t r (opA mt x) (opB mt x) (srcC x))
  | 0x6 => req (zf x 8 5) <| (Ty.ofCode (fb x 0 5)).bind fun t => (Rnd.ofCode (fb x 5 3)).bind fun r => some (.frnd g u t r (opA mt x))
  | 0x7 => req (zf x 8 5) <| (Ty.ofCode (fb x 0 5)).bind fun t => (Rnd.ofCode (fb x 5 3)).bind fun r => some (.fscale g u t r (opA mt x) (opB mt x))
  | 0x9 => req (zf x 8 5) <| (Ty.ofCode (fb x 0 5)).bind fun t => (Rnd.ofCode (fb x 5 3)).bind fun r => some (.fdot2 g u t r (opA mt x) (opB mt x) (srcC x))
  | 0xa => req (zf x 8 5) <| (Ty.ofCode (fb x 0 5)).bind fun t => (Rnd.ofCode (fb x 5 3)).bind fun r => some (.fsqrt g u t r (opA mt x))
  | 0xb => req (zf x 8 5) <| (Ty.ofCode (fb x 0 5)).bind fun t => (Rnd.ofCode (fb x 5 3)).bind fun r => some (.fdiv g u t r (opA mt x) (opB mt x))
  | 0x4 => req (zf x 5 8) <| (Ty.ofCode (fb x 0 5)).bind fun t => some (.fmin g u t (opA mt x) (opB mt x))
  | 0x5 => req (zf x 5 8) <| (Ty.ofCode (fb x 0 5)).bind fun t => some (.fmax g u t (opA mt x) (opB mt x))
  | 0x8 => req (zf x 5 8) <| (Ty.ofCode (fb x 0 5)).bind fun t => some (.fclass g u t (opA mt x))
  | _ => none

/-- Group 0x6 (R67): the instruction of a word by its index in the group, or none where a field is ILLOP. -/
def buildQuick (mt : Bool) (x : Fields) : Option Instr :=
  let g := guard x
  let u := bit64 x.u
  match x.op % 64 with
  | 0x0 => req (x.f == 17) <| some (.frcp g u (opA mt x))
  | 0x1 => req (x.f == 17) <| some (.frsq g u (opA mt x))
  | 0x2 => req (x.f == 17) <| some (.fex2 g u (opA mt x))
  | 0x3 => req (x.f == 17) <| some (.flg2 g u (opA mt x))
  | 0x4 => req (x.f == 17) <| some (.fsin g u (opA mt x))
  | 0x5 => req (x.f == 17) <| some (.fcos g u (opA mt x))
  | 0x6 => req (x.f == 17) <| some (.ftanh g u (opA mt x))
  | _ => none

/-- Group 0x7 (R68): the instruction of a word by its index in the group, or none where a field is ILLOP. -/
def buildConversion (mt : Bool) (x : Fields) : Option Instr :=
  let g := guard x
  let u := bit64 x.u
  match x.op % 64 with
  | 0x0 => (Ty.ofCode (fb x 0 5)).bind fun t => (Ty.ofCode (fb x 5 5)).bind fun t2 => (Rnd.ofCode (fb x 10 3)).bind fun r => some (.cvt g u r t2 t (opA mt x))
  | 0x1 => req (x.u == 0 && zf x 10 3) <| (Ty.ofCode (fb x 0 5)).bind fun t => (Ty.ofCode (fb x 5 5)).bind fun t2 => some (.qscale g t2 t (opA mt x))
  | 0x2 => req (x.u == 0 && zf x 10 3) <| (Ty.ofCode (fb x 0 5)).bind fun t => (Ty.ofCode (fb x 5 5)).bind fun t2 => some (.qcvt g t2 t (opA mt x) (opB mt x))
  | 0x3 => req (x.u == 0 && zf x 10 3) <| (Ty.ofCode (fb x 0 5)).bind fun t => (Ty.ofCode (fb x 5 5)).bind fun t2 => some (.dqcvt g t2 t (opA mt x) (opB mt x))
  | 0x4 => req (zf x 5 8) <| (Ty.ofCode (fb x 0 5)).bind fun t => some (.resenc g u t (opA mt x))
  | 0x5 => req (zf x 5 8) <| (Ty.ofCode (fb x 0 5)).bind fun t => some (.resdec g u t (opA mt x))
  | _ => none

/-- Group 0x8 (R69): the instruction of a word by its index in the group, or none where a field is ILLOP. -/
def buildWarpWide (x : Fields) : Option Instr :=
  let g := guard x
  match x.op % 64 with
  | 0x0 => req (x.u == 0 && zf x 2 5) <| (VoteMode.ofCode (fb x 0 2)).bind fun m => some (.vote g m (Fin.ofNat 64 (fb x 7 6)) (srcA x))
  | 0x1 => req (x.u == 0 && zf x 2 5) <| (ShflMode.ofCode (fb x 0 2)).bind fun m => some (.shfl g m (Fin.ofNat 64 (fb x 7 6)) (srcA x) (srcB x))
  | 0x2 => req (x.u == 0 && zf x 11 2) <| (Ty.ofCode (fb x 0 5)).bind fun t => (Rnd.ofCode (fb x 8 3)).bind fun r => (RedOp.ofCode (fb x 5 3)).bind fun ro => some (.wred g ro t r (srcA x))
  | 0x3 => req (x.u == 0 && zf x 12 1) <| (Ty.ofCode (fb x 0 5)).bind fun t => (Rnd.ofCode (fb x 8 3)).bind fun r => (RedOp.ofCode (fb x 5 3)).bind fun ro => some (.wscan g (bit x 11) ro t r (srcA x))
  | 0x4 => req (x.u == 0 && zf x 5 8) <| (Ty.ofCode (fb x 0 5)).bind fun t => some (.matchLanes g t (srcA x))
  | 0x5 => req (x.u == 0 && zf x 0 7) <| some (.bcast g (Fin.ofNat 64 (fb x 7 6)) (srcA x) (srcB x))
  | 0x6 => req (x.u == 0 && zf x 0 13) <| some (.active g)
  | _ => none

/-- Group 0x9 (R70): the instruction of a word by its index in the group, or none where a field is ILLOP. -/
def buildMemory (x : Fields) : Option Instr :=
  let g := guard x
  match x.op % 64 with
  | 0x0 => req (x.u == 0) <| (Order.ofCode (fb x 6 2)).bind fun o => (Hint.ofCode (fb x 4 2)).bind fun h => (Size.ofCode (fb x 0 3)).bind fun sz => some (.ld g (pegSel x) (scope x) o h (bit x 3) sz (srcA x))
  | 0x1 => req (x.u == 0 && zf x 3 1) <| (Order.ofCode (fb x 6 2)).bind fun o => (Hint.ofCode (fb x 4 2)).bind fun h => (Size.ofCode (fb x 0 3)).bind fun sz => some (.st g (pegSel x) (scope x) o h sz (srcA x) (srcB x))
  | 0x2 => req (x.u == 0 && zf x 4 2) <| (Order.ofCode (fb x 6 2)).bind fun o => (Size.ofCode (fb x 0 3)).bind fun sz => some (.lds g (pegSel x) (scope x) o (bit x 3) sz (srcA x))
  | 0x3 => req (x.u == 0 && zf x 3 3) <| (Order.ofCode (fb x 6 2)).bind fun o => (Size.ofCode (fb x 0 3)).bind fun sz => some (.sts g (pegSel x) (scope x) o sz (srcA x) (srcB x))
  | 0x4 => req (x.u == 0 && zf x 4 7) <| (Size.ofCode (fb x 0 3)).bind fun sz => some (.ldp g (pegSel x) (bit x 3) sz (srcA x))
  | 0x5 => req (x.u == 0 && zf x 3 8) <| (Size.ofCode (fb x 0 3)).bind fun sz => some (.stp g (pegSel x) sz (srcA x) (srcB x))
  | 0x6 => req (x.u == 0 && zf x 6 7 && zf x 0 4) <| (PrefLevel.ofCode (fb x 4 2)).bind fun lv => some (.pref g lv (srcA x))
  | 0x7 => req (x.u == 0 && zf x 0 6) <| (FenceOrder.ofCode (fb x 6 2)).bind fun fo => some (.fence g (pegSel x) (scope x) fo)
  | 0x8 => req (x.u == 0 && zf x 3 8) <| (CctlOp.ofCode (fb x 0 3)).bind fun co => some (.cctl g (pegSel x) co (srcA x))
  | _ => none

/-- Group 0xa (R71): the instruction of a word by its index in the group, or none where a field is ILLOP. -/
def buildAtomic (x : Fields) : Option Instr :=
  let g := guard x
  match x.op % 64 with
  | 0x0 => req (x.u == 0) <| (Order.ofCode (fb x 6 2)).bind fun o => (AtomOp.ofCode (fb x 2 4)).bind fun ao => (AtomWidth.ofCode (fb x 0 2)).bind fun w => some (.atom g (pegSel x) (scope x) o ao w (srcA x) (srcB x))
  | 0x2 => req (x.u == 0) <| (Order.ofCode (fb x 6 2)).bind fun o => (AtomOp.ofCode (fb x 2 4)).bind fun ao => (AtomWidth.ofCode (fb x 0 2)).bind fun w => some (.red g (pegSel x) (scope x) o ao w (srcA x) (srcB x))
  | 0x3 => req (x.u == 0) <| (Order.ofCode (fb x 6 2)).bind fun o => (AtomOp.ofCode (fb x 2 4)).bind fun ao => (AtomWidth.ofCode (fb x 0 2)).bind fun w => some (.atoms g (pegSel x) (scope x) o ao w (srcA x) (srcB x))
  | 0x1 => req (x.u == 0 && zf x 2 4) <| (Order.ofCode (fb x 6 2)).bind fun o => (AtomWidth.ofCode (fb x 0 2)).bind fun w => some (.acas g (pegSel x) (scope x) o w (srcA x) (srcB x) (srcC x))
  | 0x4 => req (x.u == 0 && zf x 2 4) <| (Order.ofCode (fb x 6 2)).bind fun o => (AtomWidth.ofCode (fb x 0 2)).bind fun w => some (.acass g (pegSel x) (scope x) o w (srcA x) (srcB x) (srcC x))
  | 0x5 => req (x.u == 0 && zf x 0 6) <| (Order.ofCode (fb x 6 2)).bind fun o => some (.ldv g (pegSel x) (scope x) o (srcA x) (srcB x))
  | 0x6 => req (x.u == 0 && zf x 0 6) <| (Order.ofCode (fb x 6 2)).bind fun o => some (.stv g (pegSel x) (scope x) o (srcA x) (srcB x) (srcC x))
  | 0x7 => req (x.u == 0 && zf x 0 6) <| (Order.ofCode (fb x 6 2)).bind fun o => some (.recon g (pegSel x) (scope x) o (srcA x) (srcB x) (srcC x))
  | _ => none

/-- Group 0xb (R72): the instruction of a word by its index in the group, or none where a field is ILLOP. -/
def buildBarrier (x : Fields) : Option Instr :=
  let g := guard x
  match x.op % 64 with
  | 0x0 => req (x.u == 0 && zf x 1 10) <| some (.binit g (pegSel x) (Space.ofBit (bit x 0)) (srcA x) (srcB x) (srcC x))
  | 0x1 => req (x.u == 0 && zf x 1 10) <| some (.barrive g (pegSel x) (Space.ofBit (bit x 0)) (srcA x) (srcB x))
  | 0x2 => req (x.u == 0 && zf x 1 10) <| some (.bexpect g (pegSel x) (Space.ofBit (bit x 0)) (srcA x) (srcB x))
  | 0x3 => req (x.u == 0 && zf x 1 12) <| some (.bwait g (Space.ofBit (bit x 0)) (srcA x) (srcB x))
  | 0x4 => req (x.u == 0 && zf x 1 12) <| some (.btest g (Space.ofBit (bit x 0)) (srcA x) (srcB x))
  | 0x5 => req (x.u == 0 && zf x 1 10) <| some (.bdrop g (pegSel x) (Space.ofBit (bit x 0)) (srcA x))
  | 0x6 => req (x.u == 0 && zf x 0 7) <| (CopyDir.ofCode (fb x 9 2)).bind fun dir => some (.copy g (pegSel x) dir (Space.ofBit (bit x 8)) (bit x 7) (srcA x) (srcB x) (srcC x))
  | 0x7 => req (x.u == 0 && zf x 0 7) <| (CopyDir.ofCode (fb x 9 2)).bind fun dir => some (.copym g (pegSel x) dir (Space.ofBit (bit x 8)) (bit x 7) (srcA x) (srcB x) (srcC x))
  | 0x8 => req (x.u == 0 && zf x 9 2 && zf x 0 8) <| some (.copyg g (pegSel x) (Space.ofBit (bit x 8)) (srcA x) (srcB x) (srcC x))
  | _ => none

/-- Group 0xc (R73): the instruction of a word by its index in the group, or none where a field is ILLOP. -/
def buildMatrix (x : Fields) : Option Instr :=
  let g := guard x
  match x.op % 64 with
  | 0x0 => req (x.u == 0 && zf x 4 9) <| (TileMode.ofCode (fb x 2 2)).bind fun m => some (.mzero g m (Fin.ofNat 4 (fb x 0 2)))
  | 0x1 => req (x.u == 0 && zf x 5 6) <| (PlaneFmt.ofCode (fb x 0 5)).bind fun fm => some (.mlds g (pegSel x) fm (srcA x) (srcB x))
  | 0x2 => req (x.u == 0 && zf x 0 13) <| some (.mswap g)
  | 0x3 => req (x.u == 0 && zf x 2 2) <| some (.mstream g (pegSel x) (Fin.ofNat 128 (fb x 4 7)) (Fin.ofNat 4 (fb x 0 2)) (srcA x) (srcB x) (srcC x))
  | 0x4 => req (x.u == 0 && zf x 2 2) <| (DrainConv.ofCode (fb x 8 3)).bind fun cv => (DrainAct.ofCode (fb x 6 2)).bind fun ac => some (.mdrain g (pegSel x) cv ac (bit x 5) (bit x 4) (Fin.ofNat 4 (fb x 0 2)) (srcA x) (srcB x) (srcC x))
  | 0x5 => req (x.u == 0 && zf x 3 10) <| some (.mstat g (bit x 2) (Fin.ofNat 4 (fb x 0 2)))
  | _ => none

/-- Group 0xd (R74): the instruction of a word by its index in the group, or none where a field is ILLOP. -/
def buildSpawn (x : Fields) : Option Instr :=
  let g := guard x
  match x.op % 64 with
  | 0x0 => req (x.u == 0 && zf x 5 6) <| some (.spawn g (pegSel x) (bit x 4) (Fin.ofNat 16 (fb x 0 4)) (srcA x) (srcB x) (srcC x))
  | 0x1 => req (x.u == 0 && zf x 9 2) <| some (.watch g (pegSel x) (Fin.ofNat 32 (fb x 4 5)) (Fin.ofNat 16 (fb x 0 4)) (srcA x))
  | 0x2 => req (x.u == 0 && zf x 0 11) <| some (.unwatch g (pegSel x) (srcA x))
  | 0x3 => req (x.u == 0 && zf x 4 9) <| some (.bobq g (Fin.ofNat 16 (fb x 0 4)))
  | _ => none

/-- Group 0xe (R75): the instruction of a word by its index in the group, or none where a field is ILLOP. -/
def buildSystem (x : Fields) : Option Instr :=
  let g := guard x
  let u := bit64 x.u
  match x.op % 64 with
  | 0x1 => req (x.u == 0 && zf x 0 13) <| some (.chksig g (srcA x))
  | 0x3 => req (zf x 12 1) <| some (.csrr g u (BitVec.ofNat 12 (fb x 0 12)))
  | 0x4 => req (x.u == 0 && zf x 12 1) <| some (.csrw g (BitVec.ofNat 12 (fb x 0 12)) (srcA x))
  | 0x5 => req (x.u == 0 && zf x 8 5) <| some (.trap g (BitVec.ofNat 8 (fb x 0 8)) (srcA x))
  | 0x6 => req (x.u == 0 && zf x 0 13) <| some (.tret g)
  | 0x7 => req (zf x 0 13) <| some (.clock g u)
  | 0x8 => req (x.u == 0 && zf x 8 5) <| some (.bkpt g (BitVec.ofNat 8 (fb x 0 8)))
  | 0x0 => req (x.u == 0 && zf x 6 7) <| if bit x 5 then some (.iregionClose g) else some (.iregion g (Fin.ofNat 32 (fb x 0 5)))
  | _ => none

/-- The instruction of an assigned opcode, none where some field is ILLOP by the layout alone. -/
def build (mt : Bool) (x : Fields) : Option Instr :=
  match x.op / 64 with
  | 0x0 => buildControl x
  | 0x1 => buildWeft mt x
  | 0x2 => buildInteger mt x
  | 0x3 => buildLogic mt x
  | 0x4 => buildCompare mt x
  | 0x5 => buildFloat mt x
  | 0x6 => buildQuick mt x
  | 0x7 => buildConversion mt x
  | 0x8 => buildWarpWide x
  | 0x9 => buildMemory x
  | 0xa => buildAtomic x
  | 0xb => buildBarrier x
  | 0xc => buildMatrix x
  | 0xd => buildSpawn x
  | 0xe => buildSystem x
  | _ => none

/-! ### The bits an entry does not use (R39) -/

/-- Which of [45:13] an instruction uses: nothing, the whole as an offset, SEAM's or CONFORM's fields, sources without modifiers
(`a`, `ab`, `abc`), sources with modifiers (`oA`, `oAB`, `oABC`), PLOP's predicates. -/
inductive Use where
  | none | offset | seam | conform | a | ab | abc | oA | oAB | oABC | plop
  deriving DecidableEq, Repr

def useOf (op : Nat) : Use :=
  match op with
  | 0x001 | 0x002 | 0x006 | 0x008 => .offset
  | 0x003 => .seam
  | 0x005 => .conform
  | 0x007 | 0x009 | 0x200 | 0x202 | 0x203 | 0x204 | 0x240 | 0x242 | 0x244 | 0x246 | 0x248 | 0x2c5 | 0x341 | 0x342 | 0x381 | 0x384 | 0x385 => .a
  | 0x201 | 0x205 | 0x241 | 0x243 | 0x245 | 0x280 | 0x282 | 0x283 | 0x285 | 0x2c1 | 0x2c2 | 0x2c3 | 0x2c4 | 0x301 => .ab
  | 0x281 | 0x284 | 0x286 | 0x287 | 0x2c0 | 0x2c6 | 0x2c7 | 0x2c8 | 0x303 | 0x304 | 0x340 => .abc
  | 0x040 | 0x041 | 0x043 | 0x08d | 0x0c9 | 0x0ca | 0x0cb | 0x0cc | 0x104 | 0x146 | 0x148 | 0x14a | 0x180 | 0x181 | 0x182 | 0x183 | 0x184 | 0x185 | 0x186 | 0x1c0 | 0x1c1 | 0x1c4 | 0x1c5 => .oA
  | 0x042 | 0x080 | 0x081 | 0x082 | 0x083 | 0x084 | 0x085 | 0x088 | 0x089 | 0x08a | 0x0c0 | 0x0c1 | 0x0c2 | 0x0c4 | 0x0c5 | 0x0c6 | 0x0c7 | 0x0cd | 0x100 | 0x101 | 0x102 | 0x106 | 0x107 | 0x140 | 0x141 | 0x142 | 0x144 | 0x145 | 0x147 | 0x14b | 0x1c2 | 0x1c3 => .oAB
  | 0x086 | 0x087 | 0x08b | 0x08c | 0x08e | 0x08f | 0x0c3 | 0x0c8 | 0x0ce | 0x0cf | 0x143 | 0x149 => .oABC
  | 0x103 => .plop
  | _ => .none

/-- What is not used is zero, and no used source is 63 (R39, R40, R42, R45, R62). -/
def Use.ok (mt : Bool) (x : Fields) : Use → Bool
  | .none => x.mid == 0
  | .offset => true
  | .seam => x.f % 8 == 0
  | .conform => x.a < 64
  | .a => x.a != 63 && x.b == 0 && x.c == 0 && x.ma == 0 && x.mb == 0
  | .ab => x.a != 63 && x.b != 63 && x.c == 0 && x.ma == 0 && x.mb == 0
  | .abc => x.a != 63 && x.b != 63 && x.c != 63 && x.ma == 0 && x.mb == 0
  | .oA => x.a != 63 && x.b == 0 && x.c == 0 && (if mt then x.mb % 4 == 0 else x.mb == 0)
  | .oAB => x.a != 63 && x.b != 63 && x.c == 0 && (!mt || x.mb % 4 == 0)
  | .oABC => x.a != 63 && x.b != 63 && x.c != 63 && (!mt || x.mb % 4 == 0)
  | .plop => x.mb == 0

/-- The opcodes with a scope field (R70, R71). -/
def hasScope (op : Nat) : Bool :=
  (0x240 ≤ op && op ≤ 0x243) || op == 0x247 || (0x280 ≤ op && op ≤ 0x287)

/-- The ILLOPND causes that the instruction built does not show: unused bits, specifier 63, scope 7, a keep on a region's close. -/
def restOk (mt : Bool) (x : Fields) : Bool :=
  (useOf x.op).ok mt x && (!hasScope x.op || fb x 8 3 != 7) && (x.op != 0x380 || !bit x 5 || fb x 0 5 == 0)

/-! ### The decoder -/

/-- What a word is (R32, R47 step 4). -/
inductive Decoded where
  | ok (i : Instr)
  | illop
  | illopnd
  deriving DecidableEq, Repr

/-- R47: every ILLOP cause of a word before any ILLOPND cause. -/
def decodeFields (mt : Bool) (x : Fields) : Decoded :=
  match build mt x with
  | none => .illop
  | some i => if !i.opOk then .illop else if restOk mt x && i.opndOk mt then .ok i else .illopnd

/-- The instruction of a word. A word whose opcode is unassigned is the instruction `unassignedOpcode`, whose effect is to trap. -/
def decode (mt : Bool) (w : Word) : Decoded :=
  let x := Fields.ofWord w
  if opcodeAssigned x.op then decodeFields mt x else .ok (.unassignedOpcode w)

/-- The decoder in normal service, or none where it traps. -/
def decodeTableWord (nbits w : Nat) : Option Instr :=
  if nbits ≤ 64 then
    match decode false (BitVec.ofNat 64 (w % 2 ^ nbits)) with
    | .ok i => some i
    | _ => none
  else none

/-! ### The encoder -/

def base (op : Nat) (g : Guard) : Fields := { op := op, neg := b2n g.neg, gp := g.p.val }

def baseU (op : Nat) (u : Bool) (g : Guard) : Fields := { base op g with u := b2n u }

def withF (x : Fields) (f : Nat) : Fields := { x with f := f }

def withOffset (x : Fields) (o : BitVec 33) : Fields := x.withMid o.toNat

def withSeam (x : Fields) (d : SeamDecl) : Fields :=
  { x.withMid (d.d0.val * 2 ^ 29 + d.d1.val * 2 ^ 25 + d.n.val * 2 ^ 22 + d.s0.val * 2 ^ 18 + d.s1.val * 2 ^ 14 + d.s2.val * 2 ^ 10
      + d.s3.val * 2 ^ 6 + d.s4.val * 2 ^ 2 + d.s5.val / 4) with
    f := d.s5.val % 4 * 2 ^ 11 + d.s6.val * 2 ^ 7 + d.s7.val * 2 ^ 3 }

def withConform (x : Fields) (c : ConformSel) : Fields :=
  x.withMid (c.c0.val * 2 ^ 28 + c.c1.val * 2 ^ 24 + c.c2.val * 2 ^ 20 + c.c3.val * 2 ^ 16 + c.c4.val * 2 ^ 12 + c.c5.val * 2 ^ 8
    + c.c6.val * 2 ^ 4 + c.c7.val)

def withA (x : Fields) (a : Src) : Fields := { x with a := a.code }
def withB (x : Fields) (b : Src) : Fields := { x with b := b.code }
def withC (x : Fields) (c : Src) : Fields := { x with c := c.code }

def Mod.code (m : Mod) : Nat := b2n m.neg * 32 + b2n m.abs * 16 + b2n m.half * 8 + m.swz.val

/-- Source A and what modifies it; a permutation also fills part of modifier B's bits (R42). -/
def withOpA (x : Fields) (a : OpA) : Fields :=
  match a.m with
  | .std m => { x with a := a.src.code, ma := m.code }
  | .perm cls s d => { x with a := a.src.code, ma := cls.val * 16 + s.val * 2 + d.val / 16, mb := d.val % 16 * 4 }

/-- Source B and its modifier, which leaves modifier B's bits alone where it is empty. -/
def withOpB (x : Fields) (b : OpB) : Fields := { x with b := b.src.code, mb := x.mb + b.m.code }

def withPlop (x : Fields) (pa pb pc : Fin 128) (pd : Fin 64) : Fields :=
  { x with a := pa.val, b := pb.val, c := pc.val, ma := pd.val }

/-- The fields of an instruction's word; of an unassigned opcode's word, that word's own; a step of the device has no word. -/
def encodeFields : Instr → Fields
  | .nop g => base 0x000 g
  | .bra g o => withOffset (base 0x001 g) o
  | .brc g o so => withF (withOffset (base 0x002 g) o) (so.toNat)
  | .seam g dc => withSeam (base 0x003 g) dc
  | .mark g k => withF (base 0x004 g) (k.val)
  | .conform g k cs => withF (withConform (base 0x005 g) cs) (k.val)
  | .brl g o => withOffset (base 0x006 g) o
  | .brx g a => withA (base 0x007 g) a
  | .call g o fr n => withF (withOffset (base 0x008 g) o) (fr.val * 16 + n.val)
  | .callx g a fr n => withF (withA (base 0x009 g) a) (fr.val * 16 + n.val)
  | .ret g k => withF (base 0x00a g) (k.val)
  | .exit g => base 0x00b g
  | .yield g => base 0x00c g
  | .pick g u a => withOpA (baseU 0x040 u g) a
  | .save g a slot => withF (withOpA (base 0x041 g) a) (slot.val)
  | .pack g sat idx t a b => withF (withOpB (withOpA (base 0x042 g) a) b) (b2n sat * 512 + idx.val * 32 + t.code)
  | .unpack g idx t a => withF (withOpA (base 0x043 g) a) (idx.val * 32 + t.code)
  | .iadd g u sat t a b => withF (withOpB (withOpA (baseU 0x080 u g) a) b) (b2n sat * 32 + t.code)
  | .isub g u sat t a b => withF (withOpB (withOpA (baseU 0x081 u g) a) b) (b2n sat * 32 + t.code)
  | .imul g u sat t a b => withF (withOpB (withOpA (baseU 0x084 u g) a) b) (b2n sat * 32 + t.code)
  | .imad g u sat t a b c => withF (withC (withOpB (withOpA (baseU 0x086 u g) a) b) c) (b2n sat * 32 + t.code)
  | .idot4 g u sat t a b c => withF (withC (withOpB (withOpA (baseU 0x08e u g) a) b) c) (b2n sat * 32 + t.code)
  | .idot2 g u sat t a b c => withF (withC (withOpB (withOpA (baseU 0x08f u g) a) b) c) (b2n sat * 32 + t.code)
  | .iadc g t p a b => withF (withOpB (withOpA (base 0x082 g) a) b) (p.val * 64 + t.code)
  | .isbb g t p a b => withF (withOpB (withOpA (base 0x083 g) a) b) (p.val * 64 + t.code)
  | .imulh g u t a b => withF (withOpB (withOpA (baseU 0x085 u g) a) b) (t.code)
  | .imadw g u t a b c => withF (withC (withOpB (withOpA (baseU 0x087 u g) a) b) c) (t.code)
  | .imin g u t a b => withF (withOpB (withOpA (baseU 0x088 u g) a) b) (t.code)
  | .imax g u t a b => withF (withOpB (withOpA (baseU 0x089 u g) a) b) (t.code)
  | .iabsd g u t a b => withF (withOpB (withOpA (baseU 0x08a u g) a) b) (t.code)
  | .iclamp g u t a b c => withF (withC (withOpB (withOpA (baseU 0x08b u g) a) b) c) (t.code)
  | .lea g u t a b c => withF (withC (withOpB (withOpA (baseU 0x08c u g) a) b) c) (t.code)
  | .isat g u t t2 a => withF (withOpA (baseU 0x08d u g) a) (t2.code * 64 + t.code)
  | .and g u t a b => withF (withOpB (withOpA (baseU 0x0c0 u g) a) b) (t.code)
  | .or g u t a b => withF (withOpB (withOpA (baseU 0x0c1 u g) a) b) (t.code)
  | .xor g u t a b => withF (withOpB (withOpA (baseU 0x0c2 u g) a) b) (t.code)
  | .shl g u t a b => withF (withOpB (withOpA (baseU 0x0c4 u g) a) b) (t.code)
  | .shr g u t a b => withF (withOpB (withOpA (baseU 0x0c5 u g) a) b) (t.code)
  | .sar g u t a b => withF (withOpB (withOpA (baseU 0x0c6 u g) a) b) (t.code)
  | .rol g u t a b => withF (withOpB (withOpA (baseU 0x0c7 u g) a) b) (t.code)
  | .funnel g u t a b c => withF (withC (withOpB (withOpA (baseU 0x0c8 u g) a) b) c) (t.code)
  | .popc g u t a => withF (withOpA (baseU 0x0c9 u g) a) (t.code)
  | .clz g u t a => withF (withOpA (baseU 0x0ca u g) a) (t.code)
  | .ctz g u t a => withF (withOpA (baseU 0x0cb u g) a) (t.code)
  | .brev g u t a => withF (withOpA (baseU 0x0cc u g) a) (t.code)
  | .bfx g u t a b => withF (withOpB (withOpA (baseU 0x0cd u g) a) b) (t.code)
  | .bfi g u t a b c => withF (withC (withOpB (withOpA (baseU 0x0ce u g) a) b) c) (t.code)
  | .permb g u t a b c => withF (withC (withOpB (withOpA (baseU 0x0cf u g) a) b) c) (t.code)
  | .lop3 g u t tab a b c => withF (withC (withOpB (withOpA (baseU 0x0c3 u g) a) b) c) (tab.toNat * 32 + t.code)
  | .icmp g t cd p a b => withF (withOpB (withOpA (base 0x100 g) a) b) (p.val * 128 + cd.code * 16 + t.code)
  | .fcmp g t cd p a b => withF (withOpB (withOpA (base 0x101 g) a) b) (p.val * 128 + cd.code * 16 + (t.code - 16))
  | .sel g u p a b => withF (withOpB (withOpA (baseU 0x102 u g) a) b) (p.val * 128)
  | .plop g tab pa pb pc pd => withF (withPlop (base 0x103 g) pa pb pc pd) (tab.toNat)
  | .pset g p a => withF (withOpA (base 0x104 g) a) (p.val * 128)
  | .ptov g => base 0x105 g
  | .vtop g a b => withOpB (withOpA (base 0x106 g) a) b
  | .itst g p a b => withF (withOpB (withOpA (base 0x107 g) a) b) (p.val * 128)
  | .fadd g u t r a b => withF (withOpB (withOpA (baseU 0x140 u g) a) b) (r.code * 32 + t.code)
  | .fsub g u t r a b => withF (withOpB (withOpA (baseU 0x141 u g) a) b) (r.code * 32 + t.code)
  | .fmul g u t r a b => withF (withOpB (withOpA (baseU 0x142 u g) a) b) (r.code * 32 + t.code)
  | .ffma g u t r a b c => withF (withC (withOpB (withOpA (baseU 0x143 u g) a) b) c) (r.code * 32 + t.code)
  | .frnd g u t r a => withF (withOpA (baseU 0x146 u g) a) (r.code * 32 + t.code)
  | .fscale g u t r a b => withF (withOpB (withOpA (baseU 0x147 u g) a) b) (r.code * 32 + t.code)
  | .fdot2 g u t r a b c => withF (withC (withOpB (withOpA (baseU 0x149 u g) a) b) c) (r.code * 32 + t.code)
  | .fsqrt g u t r a => withF (withOpA (baseU 0x14a u g) a) (r.code * 32 + t.code)
  | .fdiv g u t r a b => withF (withOpB (withOpA (baseU 0x14b u g) a) b) (r.code * 32 + t.code)
  | .fmin g u t a b => withF (withOpB (withOpA (baseU 0x144 u g) a) b) (t.code)
  | .fmax g u t a b => withF (withOpB (withOpA (baseU 0x145 u g) a) b) (t.code)
  | .fclass g u t a => withF (withOpA (baseU 0x148 u g) a) (t.code)
  | .frcp g u a => withF (withOpA (baseU 0x180 u g) a) (17)
  | .frsq g u a => withF (withOpA (baseU 0x181 u g) a) (17)
  | .fex2 g u a => withF (withOpA (baseU 0x182 u g) a) (17)
  | .flg2 g u a => withF (withOpA (baseU 0x183 u g) a) (17)
  | .fsin g u a => withF (withOpA (baseU 0x184 u g) a) (17)
  | .fcos g u a => withF (withOpA (baseU 0x185 u g) a) (17)
  | .ftanh g u a => withF (withOpA (baseU 0x186 u g) a) (17)
  | .cvt g u r t2 t a => withF (withOpA (baseU 0x1c0 u g) a) (r.code * 1024 + t2.code * 32 + t.code)
  | .qscale g t2 t a => withF (withOpA (base 0x1c1 g) a) (t2.code * 32 + t.code)
  | .qcvt g t2 t a b => withF (withOpB (withOpA (base 0x1c2 g) a) b) (t2.code * 32 + t.code)
  | .dqcvt g t2 t a b => withF (withOpB (withOpA (base 0x1c3 g) a) b) (t2.code * 32 + t.code)
  | .resenc g u t a => withF (withOpA (baseU 0x1c4 u g) a) (t.code)
  | .resdec g u t a => withF (withOpA (baseU 0x1c5 u g) a) (t.code)
  | .vote g m p a => withF (withA (base 0x200 g) a) (p.val * 128 + m.code)
  | .shfl g m p a b => withF (withB (withA (base 0x201 g) a) b) (p.val * 128 + m.code)
  | .wred g ro t r a => withF (withA (base 0x202 g) a) (r.code * 256 + ro.code * 32 + t.code)
  | .wscan g ex ro t r a => withF (withA (base 0x203 g) a) (b2n ex * 2048 + r.code * 256 + ro.code * 32 + t.code)
  | .matchLanes g t a => withF (withA (base 0x204 g) a) (t.code)
  | .bcast g p a b => withF (withB (withA (base 0x205 g) a) b) (p.val * 128)
  | .active g => base 0x206 g
  | .ld g peg sc o h sx sz a => withF (withA (base 0x240 g) a) (peg.code * 2048 + sc.code * 256 + o.code * 64 + h.code * 16 + b2n sx * 8 + sz.code)
  | .st g peg sc o h sz a b => withF (withB (withA (base 0x241 g) a) b) (peg.code * 2048 + sc.code * 256 + o.code * 64 + h.code * 16 + sz.code)
  | .lds g peg sc o sx sz a => withF (withA (base 0x242 g) a) (peg.code * 2048 + sc.code * 256 + o.code * 64 + b2n sx * 8 + sz.code)
  | .sts g peg sc o sz a b => withF (withB (withA (base 0x243 g) a) b) (peg.code * 2048 + sc.code * 256 + o.code * 64 + sz.code)
  | .ldp g peg sx sz a => withF (withA (base 0x244 g) a) (peg.code * 2048 + b2n sx * 8 + sz.code)
  | .stp g peg sz a b => withF (withB (withA (base 0x245 g) a) b) (peg.code * 2048 + sz.code)
  | .pref g lv a => withF (withA (base 0x246 g) a) (lv.code * 16)
  | .fence g peg sc fo => withF (base 0x247 g) (peg.code * 2048 + sc.code * 256 + fo.code * 64)
  | .cctl g peg co a => withF (withA (base 0x248 g) a) (peg.code * 2048 + co.code)
  | .atom g peg sc o ao w a b => withF (withB (withA (base 0x280 g) a) b) (peg.code * 2048 + sc.code * 256 + o.code * 64 + ao.code * 4 + w.code)
  | .red g peg sc o ao w a b => withF (withB (withA (base 0x282 g) a) b) (peg.code * 2048 + sc.code * 256 + o.code * 64 + ao.code * 4 + w.code)
  | .atoms g peg sc o ao w a b => withF (withB (withA (base 0x283 g) a) b) (peg.code * 2048 + sc.code * 256 + o.code * 64 + ao.code * 4 + w.code)
  | .acas g peg sc o w a b c => withF (withC (withB (withA (base 0x281 g) a) b) c) (peg.code * 2048 + sc.code * 256 + o.code * 64 + w.code)
  | .acass g peg sc o w a b c => withF (withC (withB (withA (base 0x284 g) a) b) c) (peg.code * 2048 + sc.code * 256 + o.code * 64 + w.code)
  | .ldv g peg sc o a b => withF (withB (withA (base 0x285 g) a) b) (peg.code * 2048 + sc.code * 256 + o.code * 64)
  | .stv g peg sc o a b c => withF (withC (withB (withA (base 0x286 g) a) b) c) (peg.code * 2048 + sc.code * 256 + o.code * 64)
  | .recon g peg sc o a b c => withF (withC (withB (withA (base 0x287 g) a) b) c) (peg.code * 2048 + sc.code * 256 + o.code * 64)
  | .binit g peg sp a b c => withF (withC (withB (withA (base 0x2c0 g) a) b) c) (peg.code * 2048 + sp.code)
  | .barrive g peg sp a b => withF (withB (withA (base 0x2c1 g) a) b) (peg.code * 2048 + sp.code)
  | .bexpect g peg sp a b => withF (withB (withA (base 0x2c2 g) a) b) (peg.code * 2048 + sp.code)
  | .bwait g sp a b => withF (withB (withA (base 0x2c3 g) a) b) (sp.code)
  | .btest g sp a b => withF (withB (withA (base 0x2c4 g) a) b) (sp.code)
  | .bdrop g peg sp a => withF (withA (base 0x2c5 g) a) (peg.code * 2048 + sp.code)
  | .copy g peg dir sp td a b c => withF (withC (withB (withA (base 0x2c6 g) a) b) c) (peg.code * 2048 + dir.code * 512 + sp.code * 256 + b2n td * 128)
  | .copym g peg dir sp td a b c => withF (withC (withB (withA (base 0x2c7 g) a) b) c) (peg.code * 2048 + dir.code * 512 + sp.code * 256 + b2n td * 128)
  | .copyg g peg sp a b c => withF (withC (withB (withA (base 0x2c8 g) a) b) c) (peg.code * 2048 + sp.code * 256)
  | .mzero g m tile => withF (base 0x300 g) (m.code * 4 + tile.val)
  | .mlds g peg fm a b => withF (withB (withA (base 0x301 g) a) b) (peg.code * 2048 + fm.code)
  | .mswap g => base 0x302 g
  | .mstream g peg m1 tile a b c => withF (withC (withB (withA (base 0x303 g) a) b) c) (peg.code * 2048 + m1.val * 16 + tile.val)
  | .mdrain g peg cv ac gl bias tile a b c => withF (withC (withB (withA (base 0x304 g) a) b) c) (peg.code * 2048 + cv.code * 256 + ac.code * 64 + b2n gl * 32 + b2n bias * 16 + tile.val)
  | .mstat g clr tile => withF (base 0x305 g) (b2n clr * 4 + tile.val)
  | .spawn g peg j stage a b c => withF (withC (withB (withA (base 0x340 g) a) b) c) (peg.code * 2048 + b2n j * 16 + stage.val)
  | .watch g peg lg stage a => withF (withA (base 0x341 g) a) (peg.code * 2048 + lg.val * 16 + stage.val)
  | .unwatch g peg a => withF (withA (base 0x342 g) a) (peg.code * 2048)
  | .bobq g stage => withF (base 0x343 g) (stage.val)
  | .chksig g a => withA (base 0x381 g) a
  | .csrr g u num => withF (baseU 0x383 u g) (num.toNat)
  | .csrw g num a => withF (withA (base 0x384 g) a) (num.toNat)
  | .trap g cc a => withF (withA (base 0x385 g) a) (cc.toNat)
  | .tret g => base 0x386 g
  | .clock g u => baseU 0x387 u g
  | .bkpt g cc => withF (base 0x388 g) (cc.toNat)
  | .iregion g keep => withF (base 0x380 g) (keep.val)
  | .iregionClose g => withF (base 0x380 g) (32)
  | .unassignedOpcode w => Fields.ofWord w
  | .clauseFetch | .clauseStart | .pendingFill .. | .pegClear .. | .watchdogStall | .pageWalk .. | .matrixOpPerform ..
  | .followOnMstream .. | .copyLand .. | .copyFail .. | .copyFailReport | .overflowToBobbin .. | .gatherTimerExpire ..
  | .bobbinLaunch .. | .slotAssign .. | .warpCreate .. | .groupRecordMake .. | .steal .. | .bobbinTake .. | .doorbell ..
  | .ringRead .. | .queueWriteBack .. | .dispatchDecision .. | .patternUnload .. | .recordComplete .. | .preemptSave ..
  | .preemptTimeout .. | .starvePreempt .. | .park .. | .restore .. | .powerGate .. | .powerWake .. | .rds .. | .rdx .. | .upg ..
  | .fwd .. | .inv .. | .invack .. | .data .. | .wbd .. | .binv .. | .directoryEvict .. | .cacheEvict .. | .evtCons ..
  | .fltCons .. | .qcfgWrite .. | .lattol .. | .registerWrite .. | .ctxCreate .. | .ctxDestroy .. | .ctxReset .. | .ctxPreempt ..
  | .ctxResume .. | .queueFlush .. | .queueRestart .. | .pageFlush .. | .faultResolve .. | .faultCancel .. | .attest ..
  | .checkpointSeal .. | .checkpointRestore .. | .hartStart .. | .hartStop .. | .vfApply | .scrub | .partitionReset | .deviceReset
  | .configLoad | .vfFlr .. | .conventionalReset | .hostWindowRead .. | .hostWindowWrite .. | .yeleramAccess .. | .trauxFlit ..
  | .portDown .. | .errorCorrected .. | .errorUncorrectable .. | .escalationTimeout | .thermalSignal .. | .thermalClear ..
  | .thermalHoldExpire .. | .remoteAccess .. | .selfInvalidatingWriteBack .. => {}

/-- The word of an instruction. -/
def encode (i : Instr) : Word := (encodeFields i).toWord

end Sys2Proof
end

