-- ==== Sys2Proof/Machine/Operands.lean ====
section
/-! DEFINITION. The operands of an instruction: which sources it names, their literals, and the value each lane reads (R11, R38, R40 to R42,
R46). -/

namespace Sys2Proof.Machine

/-! ### What an instruction names -/

/-- The sources an instruction reads, A, B, C in order, as far as it reads them (R39, R40). -/
def sources : Instr → List Src
  | .brx _ a | .callx _ a _ _ | .vote _ _ _ a | .wred _ _ _ _ a | .wscan _ _ _ _ _ a | .matchLanes _ _ a | .ld _ _ _ _ _ _ _ a
  | .lds _ _ _ _ _ _ a | .ldp _ _ _ _ a | .pref _ _ a | .bdrop _ _ _ a | .watch _ _ _ _ a | .unwatch _ _ a | .chksig _ a
  | .csrw _ _ a | .trap _ _ a => [a]
  | .cctl _ _ op a => if op == .invall || op == .iinvall then [] else [a]
  | .shfl _ _ _ a b | .bcast _ _ a b | .st _ _ _ _ _ _ a b | .sts _ _ _ _ _ a b | .stp _ _ _ a b | .atom _ _ _ _ _ _ a b
  | .red _ _ _ _ _ _ a b | .atoms _ _ _ _ _ _ a b | .ldv _ _ _ _ a b | .barrive _ _ _ a b | .bexpect _ _ _ a b | .bwait _ _ a b
  | .btest _ _ a b | .mlds _ _ _ a b => [a, b]
  | .acas _ _ _ _ _ a b c | .acass _ _ _ _ _ a b c | .stv _ _ _ _ a b c | .recon _ _ _ _ a b c | .binit _ _ _ a b c
  | .copy _ _ _ _ _ a b c | .copym _ _ _ _ _ a b c | .copyg _ _ _ a b c | .mstream _ _ _ _ a b c
  | .mdrain _ _ _ _ _ _ _ a b c => [a, b, c]
  | .spawn _ _ j _ a b c => if j then [a, b, c] else [a, b]
  | .pick _ _ a | .save _ a _ | .unpack _ _ _ a | .isat _ _ _ _ a | .popc _ _ _ a | .clz _ _ _ a | .ctz _ _ _ a | .brev _ _ _ a
  | .pset _ _ a | .frnd _ _ _ _ a | .fclass _ _ _ a | .fsqrt _ _ _ _ a | .frcp _ _ a | .frsq _ _ a | .fex2 _ _ a | .flg2 _ _ a
  | .fsin _ _ a | .fcos _ _ a | .ftanh _ _ a | .cvt _ _ _ _ _ a | .qscale _ _ _ a | .resenc _ _ _ a | .resdec _ _ _ a => [a.src]
  | .pack _ _ _ _ a b | .iadd _ _ _ _ a b | .isub _ _ _ _ a b | .iadc _ _ _ a b | .isbb _ _ _ a b | .imul _ _ _ _ a b
  | .imulh _ _ _ a b | .imin _ _ _ a b | .imax _ _ _ a b | .iabsd _ _ _ a b | .and _ _ _ a b | .or _ _ _ a b | .xor _ _ _ a b
  | .shl _ _ _ a b | .shr _ _ _ a b | .sar _ _ _ a b | .rol _ _ _ a b | .bfx _ _ _ a b | .icmp _ _ _ _ a b | .fcmp _ _ _ _ a b
  | .sel _ _ _ a b | .vtop _ a b | .itst _ _ a b | .fadd _ _ _ _ a b | .fsub _ _ _ _ a b | .fmul _ _ _ _ a b | .fmin _ _ _ a b
  | .fmax _ _ _ a b | .fscale _ _ _ _ a b | .fdiv _ _ _ _ a b | .qcvt _ _ _ a b | .dqcvt _ _ _ a b => [a.src, b.src]
  | .imad _ _ _ _ a b c | .imadw _ _ _ a b c | .iclamp _ _ _ a b c | .lea _ _ _ a b c | .idot4 _ _ _ _ a b c
  | .idot2 _ _ _ _ a b c | .lop3 _ _ _ _ a b c | .funnel _ _ _ a b c | .bfi _ _ _ a b c | .permb _ _ _ a b c
  | .ffma _ _ _ _ a b c | .fdot2 _ _ _ _ a b c => [a.src, b.src, c]
  | _ => []

/-- Which of them stand for 128 bits (R46). -/
def wideSources : Instr → List Src
  | .imadw _ _ _ _ _ c => [c]
  | .st _ _ _ _ _ sz _ b | .sts _ _ _ _ sz _ b | .stp _ _ sz _ b => if sz == .b16 then [b] else []
  | .acas _ _ _ _ w _ b c | .acass _ _ _ _ w _ b c => if w == .w128 then [b, c] else []
  | .copy _ _ _ _ _ a b _ | .copyg _ _ _ a b _ | .spawn _ _ _ _ a b _ => [a, b]
  | .copym _ _ _ _ _ a b c => [a, b, c]
  | _ => []

/-- The slot SAVE writes, which must lie in the frame like one that is read (R101). -/
def savedSlot : Instr → Option Nat
  | .save _ _ k => some k.val
  | _ => none

/-- The peg select (R33). -/
def pegOf : Instr → PegSel
  | .ld _ p _ _ _ _ _ _ | .st _ p _ _ _ _ _ _ | .lds _ p _ _ _ _ _ | .sts _ p _ _ _ _ _ | .ldp _ p _ _ _ | .stp _ p _ _ _
  | .fence _ p _ _ | .cctl _ p _ _ | .atom _ p _ _ _ _ _ _ | .acas _ p _ _ _ _ _ _ | .red _ p _ _ _ _ _ _
  | .atoms _ p _ _ _ _ _ _ | .acass _ p _ _ _ _ _ _ | .ldv _ p _ _ _ _ | .stv _ p _ _ _ _ _ | .recon _ p _ _ _ _ _
  | .binit _ p _ _ _ _ | .barrive _ p _ _ _ | .bexpect _ p _ _ _ | .bdrop _ p _ _ | .copy _ p _ _ _ _ _ _
  | .copym _ p _ _ _ _ _ _ | .copyg _ p _ _ _ _ | .mlds _ p _ _ _ | .mstream _ p _ _ _ _ _ | .mdrain _ p _ _ _ _ _ _ _ _
  | .spawn _ p _ _ _ _ _ | .watch _ p _ _ _ | .unwatch _ p _ => p
  | _ => { a := false, b := false }

/-- How many literal words follow the instruction (R32). -/
def litCount (i : Instr) : Nat := ((sources i).filter (· == .lit)).length

/-- The same count from a word alone, which the clause check of R32 walks by; a word of an unassigned opcode has none. -/
def wordLits (w : Word) : Nat :=
  let x := Fields.ofWord w
  if !opcodeAssigned x.op then 0 else
  let n := fun (k : Nat) => if k == 60 then 1 else 0
  match useOf x.op with
  | .a => if x.op == 0x248 && 3 ≤ fb x 0 3 then 0 else n x.a
  | .oA => n x.a
  | .ab | .oAB => n x.a + n x.b
  | .abc => if x.op == 0x340 && !bit x 4 then n x.a + n x.b else n x.a + n x.b + n x.c
  | .oABC => n x.a + n x.b + n x.c
  | _ => 0

/-! ### The header of a clause (R30) -/

def Header.length (h : Word) : Nat := field h 58 4
def Header.waitMask (h : Word) : BitVec 12 := BitVec.ofNat 12 (field h 46 12)
def Header.pegA (h : Word) : Option Nat := if h.getLsbD 45 then some (field h 41 4) else none
def Header.pegB (h : Word) : Option Nat := if h.getLsbD 40 then some (field h 36 4) else none

/-- The header and the current word of the block a warp is in. -/
def Warp.header (w : Warp) : Word := w.buf.getD 0 0
def Warp.cur (w : Warp) : Word := w.buf.getD w.idx 0

/-- R33's Fate: the select names a set the header does not make valid. -/
def pegSelOk (w : Warp) (p : PegSel) : Bool :=
  (!p.a || (Header.pegA w.header).isSome) && (!p.b || (Header.pegB w.header).isSome)

/-- The pegs an operation of this clause is attached to. -/
def pegMask (w : Warp) (p : PegSel) : BitVec 12 :=
  let one := fun (sel : Bool) (peg : Option Nat) => match sel, peg with
    | true, some k => BitVec.ofNat 12 (2 ^ k)
    | _, _ => 0
  one p.a (Header.pegA w.header) ||| one p.b (Header.pegB w.header)

/-! ### Lanes -/

def Warp.lane (w : Warp) (l : Nat) : Lane := w.lanes.getD l Lane.blank

def Lane.slot (x : Lane) (k : Nat) : Slot := x.weft.getD k {}

/-- Predicate k of a lane; p47 reads true (R15). -/
def Lane.pred (x : Lane) (k : Nat) : Bool := k == 47 || x.preds.getLsbD k

/-- Writing a predicate; p47 ignores it (R15). -/
def Lane.setPred (x : Lane) (k : Nat) (v : Bool) : Lane :=
  if k < 47 then { x with preds := if v then x.preds ||| BitVec.ofNat 48 (2 ^ k) else x.preds &&& ~~~(BitVec.ofNat 48 (2 ^ k)) } else x

/-- One pick (R12, R13). -/
def Lane.push (x : Lane) (v : Slot) : Lane :=
  { x with weft := v :: x.weft.take 15, d := min (x.d + 1) 16 }

/-- The guard in a lane (R38). -/
def guardHolds (w : Warp) (l : Nat) (g : Guard) : Bool := (w.lane l).pred g.p.val != g.neg

/-- The acting lanes (R165): active, and the guard holds. -/
def acting (w : Warp) (g : Guard) : Mask := maskOf fun l => w.active.getLsbD l && guardHolds w l g

/-! ### Reading sources -/

/-- Whether a pocket slot that a source names lies in the current frame (R16, R46). -/
def srcInFrame (w : Warp) (wide : Bool) : Src → Bool
  | .f k => k.val + (if wide then 1 else 0) < w.frame
  | _ => true

/-- A lane's group index: its own record's (R23), which in a thread stage differs between lanes. -/
def laneGidx (w : Warp) (l : Nat) : Word :=
  match w.recs.getD l none with
  | some r => word r.gidx.toNat
  | none => word w.gidx.toNat

/-- The value a lane reads from a source (R40); `lit` is the literal that belongs to this source. -/
def readSrc (w : Warp) (lit : Word) (l : Nat) : Src → Word
  | .w k => ((w.lane l).slot k.val).val
  | .f k => (w.lane l).pocket.getD k.val 0
  | .x k => w.ux.getD k.val 0
  | .zero => 0
  | .lane => word l
  | .wid => word w.index
  | .gid => laneGidx w l
  | .lit => lit
  | .recAddr => w.spill + word (64 * l)
  | .ones => -1
  | .imm v => wordI ((v.val : Int) - 32)

/-- The high half of a 128-bit operand (R46). -/
def readHigh (w : Warp) (l : Nat) : Src → Word
  | .w k => ((w.lane l).slot (k.val + 1)).val
  | .f k => (w.lane l).pocket.getD (k.val + 1) 0
  | .x k => w.ux.getD (k.val + 1) 0
  | .ones => -1
  | .imm v => if v.val < 32 then -1 else 0
  | _ => 0

/-- The operation a lane's source waits for (R14). -/
def srcPending (w : Warp) (wide : Bool) (l : Nat) : Src → Option Nat
  | .w k =>
    match ((w.lane l).slot k.val).pend with
    | some o => some o
    | none => if wide then ((w.lane l).slot (k.val + 1)).pend else none
  | _ => none

/-- An instruction being issued: the warp as it stands, the instruction, and the literals of sources A, B, C. -/
structure Issue where
  w : Warp
  i : Instr
  la : Word
  lb : Word
  lc : Word

/-- Literal words stand after the instruction in the order of the sources that name them (R32). -/
def Issue.of (w : Warp) (i : Instr) : Issue :=
  let srcs := sources i
  let isLit := fun (k : Nat) => srcs.getD k .zero == .lit
  let a := w.idx + 1
  let b := if isLit 0 then a + 1 else a
  let c := if isLit 1 then b + 1 else b
  { w := w, i := i, la := w.buf.getD a 0, lb := w.buf.getD b 0, lc := w.buf.getD c 0 }

/-! ### Modifiers (R41, R42, R82) -/

/-- What negate means for an entry's types (R100). -/
inductive ModKind where
  | arith | float | logic
  deriving DecidableEq, Repr

/-- |v| of a pattern of the type, the most negative value unchanged (R41). -/
def absPattern (t : Ty) (n : Nat) : Nat :=
  if intOf t n < 0 then wrap t.width (-(intOf t n)) else n % 2 ^ t.width

/-- A modified operand: half select, swizzle, absolute value, negate or invert, in that order. -/
def modify (k : ModKind) (t : Ty) (m : Mod) (v : Word) : Word :=
  let n0 := if m.half then v.toNat / 2 ^ 32 else v.toNat
  let n1 := if t.isPacked && m.swz != 0 then packElems t.width (fun i => elemOf t.width (swizzle m.swz.val t.elems i) n0) t.elems else n0
  let n2 := if !m.abs then n1
    else match k with
      | .float => n1 % 2 ^ (t.width - 1)
      | _ => packElems t.width (fun i => absPattern t (elemOf t.width i n1)) t.elems
  let n3 := if !m.neg then n2
    else match k with
      | .float => if n2.testBit (t.width - 1) then n2 - 2 ^ (t.width - 1) else n2 + 2 ^ (t.width - 1)
      | .logic => 2 ^ 64 - 1 - n2
      | .arith => packElems t.width (fun i => wrap t.width (-((elemOf t.width i n2 : Nat) : Int))) t.elems
  word n3

/-- The lane that lane l reads source A from under the permutation of R42; an inactive one gives way to l. -/
def permLane (active : Mask) (cls s d l : Nat) : Nat :=
  let seg := 2 ^ s
  let b := l - l % seg
  let m := match cls with
    | 1 => b + (l % seg + d) % seg
    | 2 => l ^^^ d
    | 3 => b + d
    | _ => l
  if active.getLsbD m then m else l

/-- The lane whose source A lane l reads; a source that is the same in every lane reads the same from any (R42). -/
def permOf (x : Issue) (a : OpA) (l : Nat) : Nat :=
  match a.m with
  | .std _ => l
  | .perm cls s d => permLane x.w.active cls.val s.val d.val l

def modOfA (a : OpA) : Mod :=
  match a.m with
  | .std m => m
  | .perm .. => {}

/-- Source A of an entry of type t, modified. -/
def valA (x : Issue) (k : ModKind) (t : Ty) (a : OpA) (l : Nat) : Word := modify k t (modOfA a) (readSrc x.w x.la (permOf x a l) a.src)

/-- Source B likewise. -/
def valB (x : Issue) (k : ModKind) (t : Ty) (b : OpB) (l : Nat) : Word := modify k t b.m (readSrc x.w x.lb l b.src)

/-- Sources without modifiers. -/
def srcA (x : Issue) (a : Src) (l : Nat) : Word := readSrc x.w x.la l a
def srcB (x : Issue) (b : Src) (l : Nat) : Word := readSrc x.w x.lb l b
def srcC (x : Issue) (c : Src) (l : Nat) : Word := readSrc x.w x.lc l c

end Sys2Proof.Machine
end

