-- ==== Sys2Proof/Machine/Ops.lean ====
section
/-! DEFINITION. How an instruction ends: retiring, jumping, stalling, taking a trap, returning from one; the selvage, regions and replay;
instructions that act lane by lane (R31 to R35, R91, R99, R362 to R367, R373, R384 to R388). -/

namespace Sys2Proof.Machine

/-- What `exec` answers. -/
abbrev Result := Host.Outcome State Fault Refusal

/-! ### Traps (R363) -/

/-- A trap as an instruction meets it. -/
structure Trap where
  code : Nat
  sw : Bool := false
  tmask : Mask
  tinfo : Word
  deriving DecidableEq, Repr

namespace Cause
def illop : Nat := 0x01
def illopnd : Nat := 0x02
def illclause : Nat := 0x03
def misalign : Nat := 0x04
def access : Nat := 0x05
def page : Nat := 0x06
def seamlayout : Nat := 0x07
def pleatovf : Nat := 0x08
def callovf : Nat := 0x09
def retmatch : Nat := 0x0A
def nonuniform : Nat := 0x0B
def partmask : Nat := 0x0C
def bclobber : Nat := 0x0D
def accown : Nat := 0x0E
def stall : Nat := 0x0F
def fpx : Nat := 0x10
def soft : Nat := 0x11
def bkpt : Nat := 0x12
def priv : Nat := 0x13
def matfmt : Nat := 0x14
def hfault : Nat := 0x15
end Cause

/-- How an instruction ends. `ok`: it has its effect and the next word issues; `event`: the same, with R384's fold of a MARK or a merge; `jump`: it has its effect and a block begins; `done`: the
state is final; `stall`: nothing happens until something else does; `trap`: only what the state given holds has happened. -/
inductive End where
  | ok (s : State)
  | event (s : State) (kind : Nat)
  | jump (s : State) (target : Word)
  | done (s : State)
  | stall (why : Stall)
  | trap (s : State) (t : Trap)

/-! ### Where the warp stands -/

/-- The address of word k of the warp's block. -/
def Warp.wordAddr (w : Warp) (k : Nat) : Word := w.base + word (8 * k)

/-- The base of the next block (R32); addresses are taken modulo 2^57. -/
def Warp.nextBlock (w : Warp) : Word := word ((w.base.toNat + 128) % 2 ^ 57)

/-- The address of the word that issues after a word with n literals (R362). -/
def Warp.nextAddr (w : Warp) (n : Nat) : Word :=
  let k := w.idx + 1 + n
  if k > Header.length w.header then w.nextBlock else w.wordAddr k

/-- A block is reached at word 1. -/
def Warp.goTo (w : Warp) (t : Word) : Warp :=
  { w with base := word (t.toNat % 2 ^ 57), idx := 1, phase := .fetch .start, yielded := true }

/-- The warp has an operation not yet reported, an entry not yet filled, a copy or a matrix operation under way. -/
def isQuiet (s : State) (w : Warp) : Bool :=
  w.ops.isEmpty && w.lanes.all (fun x => x.weft.all fun v => v.pend.isNone) && !(s.copies.any fun c => c.warp == w.id)
    && !(s.units.any fun u => u.jobs.any fun j => j.warp == w.id)

/-- The warp's own matrix operations not yet performed. -/
def jobsDue (s : State) (w : Warp) : Bool := (unitOf s w).jobs.any fun j => j.warp == w.id

/-- Every pending entry filled (R14, R362). -/
def Slot.fill (v : Slot) : Slot := { v with pend := none }
def Lane.fill (x : Lane) : Lane := { x with weft := x.weft.map Slot.fill }
def Warp.fillAll (w : Warp) : Warp := { w with lanes := w.lanes.map Lane.fill }

/-! ### The selvage (R384) -/

def rol5 (s : Word) : Word := s.rotateLeft 5

/-- The fold of an issued word; Δ is 0 in a machine free of faults. -/
def foldWord (s w : Word) : Word := rol5 s ^^^ w

/-- The fold of a MARK (kind 4) or a SEAM merge (kind 3) at a frame depth. -/
def foldEvent (s : Word) (kind depth : Nat) : Word := rol5 s ^^^ word (0xE000000000000000 + kind * 256 + depth)

def isMark (w : Word) : Bool := w.toNat / 2 ^ 54 == 0x004
def isSeam (w : Word) : Bool := w.toNat / 2 ^ 54 == 0x003

/-- The MARKs among the instructions of words j to k − 1 of a block; literals are none. -/
def marksIn (buf : List Word) (k : Nat) : Nat → Nat → Nat
  | 0, _ => 0
  | fuel + 1, j =>
    if k ≤ j then 0
    else b2w (isMark (buf.getD j 0)) + marksIn buf k fuel (j + 1 + wordLits (buf.getD j 0))

/-- The selvage that issuing words j to k − 1 of a block gives from s. `depth` is the frame depth after them, of which each MARK among
them opened one. -/
def foldWords (buf : List Word) (k depth : Nat) : Nat → Nat → Word → Word
  | 0, _, s => s
  | fuel + 1, j, s =>
    if k ≤ j then s
    else
      let w := buf.getD j 0
      let later := marksIn buf k fuel (j + 1 + wordLits w)
      let s1 := foldWord s w
      let s2 := if isMark w then foldEvent s1 4 (depth - later) else if isSeam w then foldEvent s1 3 (depth - later) else s1
      foldWords buf k depth fuel (j + 1 + wordLits w) s2

/-- The selvage on continuing at word k of a block (TRET, replay; SEAM's waiting lanes with k = 2). -/
def sigAt (w : Warp) (buf : List Word) (k : Nat) : Word := foldWords buf k w.frameDepth 16 1 w.base

/-! ### Regions (R386, R388) -/

def Warp.closeRegion (w : Warp) : Warp := { w with region := none, regionPc := 0 }

/-- An error in the region shadow: nothing is replayed from it any more, and the region closes, once all is performed, with the SOFT that the error
brings (R382, R386, R387). -/
def Warp.spoilRegion (w : Warp) : Warp := { w with region := w.region.map fun r => { r with spoilt := true }, replay := false }

/-- An instruction that closes an open region first waits until all the warp issued has been performed (R386, R387). -/
def closing (s : State) (k : State → End) : End :=
  if s.warp.region.isNone then k s
  else if isQuiet s s.warp then k { s with warp := s.warp.closeRegion }
  else .stall .quiet

/-- A lane as the region's shadow has it (R388). -/
def restoreLane (keep : Nat) (sh : List Word × Nat × List Word) (x : Lane) : Lane :=
  { x with
    weft := (List.range 16).map (fun k => if k < keep then { val := sh.1.getD k 0 } else {})
    d := sh.2.1
    pocket := sh.2.2 }

/-- The replay of the open region, once everything is performed: the warp continues at `cr.regionpc`, whose selvage the start of that word's
block finds. Tiles the region zeroed are undefined until it zeroes them again. -/
def replayNow (s : State) (w : Warp) : State :=
  match w.region with
  | none => { s with warp := { w with replay := false } }
  | some r =>
    let pc := w.regionPc.toNat
    let k := pc % 128 / 8
    let w1 := { w with
      lanes := mapFrom (fun l x => restoreLane r.keep (r.lanes.getD l ([], 0, [])) x) 0 w.lanes
      active := r.mask, region := some { r with replays := r.replays + 1 }, replay := false
      base := word (pc - pc % 128), idx := 1, phase := .fetch (if k == 0 then .start else .tretAt k) }
    let u := unitOf s w
    let u1 := if u.holder == some w.id then { u with active := r.plane.getD u.active } else u
    let (u2, s) := freeTiles ((List.range 4).filter fun t => r.zeroed.getLsbD t && (u.tile t).owner == some w.id) u1 s
    setUnit { s with warp := w1 } u2

/-- An error that may be replayed: a region open whose snapshot stands (R382), fewer than three replays, no handler (R389). -/
def canReplay (w : Warp) : Bool := !w.h && (match w.region with | some r => r.replays < 3 && !r.spoilt | none => false)

/-! ### Taking a trap (R362, R364, R366) -/

/-- The handler of a warp's stage, 0 for none. -/
def handlerOf (s : State) (w : Warp) : Word := ((declOf s w.ctx w.pat w.stage).map (·.handler)).getD 0

/-- A warp that takes an unhandled trap or a double fault is killed and its queue flushed (R366). -/
def failWarp (s : State) (t : Trap) : State :=
  let w := s.warp
  let s1 := killWarp s w.id
  if (queueOf s1 w.queue).error then s1
  else if !t.sw && t.code == Cause.soft then { beginFlush s1 w.queue 8 t.code false 0 with escalating := some (.queue w.queue) }
  else flushQueue s1 w.queue (if w.h then 2 else 1) t.code t.sw w.tpc

/-- The trap registers (R362 step 4). -/
def Warp.report_ (w : Warp) (t : Trap) (tpc tnext : Word) : Warp :=
  { w with
    tcause := word (t.code + b2w t.sw * 2 ^ 8), tpc := tpc, tnext := tnext, tmask := word t.tmask.toNat, tinfo := t.tinfo }

/-- Entry to handler mode (R364). -/
def Warp.enterHandler (w : Warp) (handler : Word) : Warp :=
  { (w.closeRegion.goTo handler) with
    shadow := some { lanes := w.lanes.map (fun x => (x.weft, x.d)), active := w.active, depth := w.pleats.length, wcount := w.wcount
                     bwait := if w.wake.isSome || w.reissue then some w.tpc else none }
    h := true, wcount := 0, hret := 0, wake := none, reissue := false }

/-- A trap is taken: pending entries fill, the trap registers are written, and the warp enters its handler, or dies where it has none or
is in it already. -/
def takeTrap (s : State) (t : Trap) (tpc tnext : Word) : State :=
  let w := s.warp.fillAll.report_ t tpc tnext
  if w.h || handlerOf s w == 0 then failWarp { s with warp := w } t
  else { s with warp := w.enterHandler (handlerOf s w) }

/-- Whether taking a trap must first wait: handler entry closes an open region (R387). -/
def trapWaits (s : State) : Bool :=
  s.warp.region.isSome && !s.warp.h && handlerOf s s.warp != 0 && !isQuiet s s.warp

/-- A double fault that is not itself a trap (R365), by its kind in R363's last row. -/
def hFault (s : State) (kind : Nat) : End := .trap s { code := Cause.hfault, tmask := s.warp.active, tinfo := word kind }

/-! ### Retiring -/

/-- The watchdog's count before an instruction takes effect (R183, R365). -/
def Warp.counted (w : Warp) : Warp := if w.h || w.parked != 0 then { w with wcount := w.wcount + 1 } else w

/-- On to the next word, past n literal words, or to the next block. -/
def Warp.advance (w : Warp) (n : Nat) : Warp :=
  let k := w.idx + 1 + n
  if k > Header.length w.header then w.goTo w.nextBlock else { w with idx := k, yielded := true }

/-- After an instruction: its fold, except in handler mode, and the way on. -/
def Warp.retire (w : Warp) (n : Nat) : Warp :=
  (if w.h then w else { w with sig := foldWord w.sig w.cur }).advance n

/-- The same with the fold of a MARK or a merge after the instruction's own. -/
def Warp.retireEvent (w : Warp) (n kind : Nat) : Warp :=
  (if w.h then w else { w with sig := foldEvent (foldWord w.sig w.cur) kind w.frameDepth }).advance n

/-- An instruction's end made a next state; `s` is the state it issued in. -/
def settle (s : State) (n : Nat) : End → Result
  | .ok t => .next { t with warp := t.warp.retire n }
  | .event t kind => .next { t with warp := t.warp.retireEvent n kind }
  | .jump t target => .next { t with warp := t.warp.goTo target }
  | .done t => .next t
  | .stall why => .next { s with warp := { s.warp with stalled := some why } }
  | .trap t tr =>
    if trapWaits s then .next { s with warp := { s.warp with stalled := some .quiet } }
    else
      let w := s.warp
      .next (takeTrap { t with warp := { t.warp with wcount := w.wcount } } tr (w.wordAddr w.idx) (w.nextAddr n))

/-! ### Issuing -/

/-- An ILLOPND whose report is the instruction word (R363); its mask is the active lanes. -/
def illOpnd (x : Issue) : Trap := { code := Cause.illopnd, tmask := x.w.active, tinfo := x.w.cur }

/-- The operand checks that depend on the warp: slots within the frame (R16, R46), pegs the header makes valid (R33). -/
def operandsOk (x : Issue) : Bool :=
  (sources x.i).all (fun a => srcInFrame x.w ((wideSources x.i).contains a) a)
    && (match savedSlot x.i with | some k => k < x.w.frame | none => true)
    && pegSelOk x.w (pegOf x.i)

/-- The operation that some source waits for (R14). -/
def pendingOf (x : Issue) : Option Nat :=
  ((sources x.i).flatMap fun a => (List.range 32).filterMap fun l => srcPending x.w ((wideSources x.i).contains a) l a).head?

/-- An instruction issues: the checks and the stall that every one has, then its own meaning. -/
def issue (i : Instr) (s : State) (body : Issue → State → End) : Result :=
  let x := Issue.of s.warp i
  settle s (litCount i)
    (if !operandsOk x then .trap s (illOpnd x)
     else
       match pendingOf x with
       | some o => .stall (.value o)
       | none => body x { s with warp := s.warp.counted })

/-! ### Lane by lane (R11, R38, R91, R99) -/

/-- What one lane's part in an instruction gives: values pushed in order, flags raised, predicates and a pocket slot written. -/
structure LaneOut where
  push : List Word := []
  flags : Flags := 0
  preds : List (Nat × Bool) := []
  save : Option (Nat × Word) := none
  deriving DecidableEq, Repr

def setSlot (p : List Word) (k : Nat) (v : Word) : List Word := p.set k v

/-- A lane after its part. -/
def Lane.apply (x : Lane) (o : LaneOut) : Lane :=
  let x1 := o.push.foldl (fun y v => y.push { val := v }) x
  let x2 := o.preds.foldl (fun y p => y.setPred p.1 p.2) x1
  match o.save with
  | some (k, v) => { x2 with pocket := setSlot x2.pocket k v }
  | none => x2

/-- The uniform weft takes pushed values (R16). -/
def pushUx (ux : List Word) (vs : List Word) : List Word := vs.foldl (fun u v => v :: u.take 7) ux

/-- The lanes an instruction acts on: under U the lowest active lane alone, when its guard holds (R38). -/
def actingOf (w : Warp) (u : Bool) (g : Guard) : Mask :=
  if u then
    match lowest w.active with
    | some l => if guardHolds w l g then BitVec.ofNat 32 (2 ^ l) else 0
    | none => 0
  else acting w g

/-- R91: the flags of the acting lanes become sticky; FPX where an enabled one is raised outside handler mode. -/
def raiseFlags (s : State) (m : Mask) (flagsOf : Nat → Flags) (k : State → End) : End :=
  let raised := (lanesOf m).foldl (fun f l => f ||| flagsOf l) 0
  let w := { s.warp with fpflags := s.warp.fpflags ||| word raised.toNat }
  let s1 := { s with warp := w }
  let en := enables w.fpmode
  if raised &&& en != 0 && !w.h then
    .trap s1 { code := Cause.fpx, tmask := maskOf (fun l => m.getLsbD l && flagsOf l &&& en != 0), tinfo := word (raised &&& en).toNat }
  else k s1

/-- An instruction that each acting lane performs by itself, and under U one lane for the uniform weft. -/
def lanewise (u : Bool) (g : Guard) (f : Issue → Nat → LaneOut) (x : Issue) (s : State) : End :=
  let m := actingOf x.w u g
  let outs := (List.range 32).map fun l => if m.getLsbD l then f x l else {}
  raiseFlags s m (fun l => (outs.getD l {}).flags) fun s1 =>
    if u then .ok { s1 with warp := { s1.warp with ux := pushUx s1.warp.ux (outs.flatMap (·.push)) } }
    else .ok { s1 with warp := mapLanes s1.warp fun l y => if m.getLsbD l then y.apply (outs.getD l {}) else y }

/-- Acting lanes all push the same value. -/
def pushAll (s : State) (m : Mask) (v : Nat → Word) : State :=
  { s with warp := mapLanes s.warp fun l y => if m.getLsbD l then y.push { val := v l } else y }

/-- A trap of an instruction, reported with some lanes and a value. -/
def trapWith (s : State) (code : Nat) (m : Mask) (v : Word) : End := .trap s { code := code, tmask := m, tinfo := v }

/-! ### Reports to a warp (R306, R382, R383) -/

/-- A warp blocked in BWAIT goes on, with no push. -/
def Warp.roused (w : Warp) : Warp :=
  { w with status := match w.status with
      | .blocked .. => .running
      | st => st }

/-- A report that a warp takes before its next instruction: the newest last, or first where it must not wait; in handler mode it waits for TRET
unless it is an error detected there (R366, R395). -/
def Warp.reportWith (w : Warp) (r : Report) (urgent : Bool) : Warp :=
  let w1 := { w with reports := if urgent then r :: w.reports else w.reports ++ [r] }
  if w.h && !r.now then w1 else w1.roused

/-- A report to a warp that still has a lane; where its lanes are all gone the queue it came from is flushed, and the failing address goes with the
causes that have one (R368). -/
def reportTo (s : State) (id : Nat) (r : Report) (urgent : Bool) (cause code : Nat) : State :=
  match findWarp s id with
  | none => s
  | some w =>
    if w.active ||| w.parked == 0 then flushQueue s w.queue cause code false (if cause == 7 then r.addr else 0)
    else updateWarp s id fun w => w.reportWith r urgent

/-- The open region is to be replayed (R388). -/
def replayDue (s : State) (id : Nat) : State := updateWarp s id fun w => { w with replay := true }.roused

/-! ### Leaving (R180) -/

/-- The releases of the implicit arrivals of a warp that exits (R262). -/
def releaseDrops (s : State) (w : Warp) : State :=
  w.regs.foldl (fun s r => releaseInto s { space := r.space, group := w.group, at_ := r.place } w.id w.core)
    (if w.regs.any (·.space == .global) then releaseWarp s .global w.id else s)

/-- A warp with no lane left leaves its slot once all it issued is performed, its implicit arrivals among it (R296), which release what its lanes
wrote (R262). -/
def leaveIfQuiet (s : State) (id : Nat) : State :=
  match findWarp s id with
  | none => s
  | some w => if w.status == .leaving && isQuiet s w && !dropsHeld s w then vacate (releaseDrops s w) w else s

end Sys2Proof.Machine
end

