-- ==== Sys2Proof/Machine/Float.lean ====
section
/-! DEFINITION. Floating-point arithmetic, each result rounded once (R122 to R129). -/

namespace Sys2Proof.Machine

/-! ### Operands and results -/

def floatA (x : Issue) (t : Ty) (a : OpA) (l : Nat) : FVal := (formatOf t).value (valA x .float t a l).toNat
def floatB (x : Issue) (t : Ty) (b : OpB) (l : Nat) : FVal := (formatOf t).value (valB x .float t b l).toNat
def floatC (x : Issue) (t : Ty) (c : Src) (l : Nat) : FVal := (formatOf t).value (srcC x c l).toNat

def floatOut (r : Nat × Flags) : LaneOut := { push := [word r.1], flags := r.2 }

def roundingOf (x : Issue) (r : Rnd) : Rnd := modeOf x.w.fpmode r

/-! ### Quotients and roots -/

/-- p / q rounded into a format, times 2^e (R124). -/
def roundQuotient (f : Format) (md : Rnd) (neg : Bool) (p q : Nat) (e : Int) : Nat × Flags :=
  let k := f.fb + 4 + Nat.log2 q + 1
  let n := p * 2 ^ k / q
  if p * 2 ^ k % q = 0 then roundInto f md neg n (e - k) else roundBetween f md neg n (e - k)

/-- The largest r with r² ≤ n, from its bits below 2^k. -/
def sqrtBits (n : Nat) : Nat → Nat → Nat
  | 0, r => r
  | k + 1, r => if (r + 2 ^ k) * (r + 2 ^ k) ≤ n then sqrtBits n k (r + 2 ^ k) else sqrtBits n k r

def natSqrt (n : Nat) : Nat := sqrtBits n (Nat.log2 n / 2 + 1) 0

def divF (f : Format) (md : Rnd) (a b : FVal) : Nat × Flags :=
  match a, b with
  | .nan _, _ | _, .nan _ => (f.nan, flagIf (a.isSnan || b.isSnan) Flag.inv)
  | .inf _, .inf _ => (f.nan, Flag.inv)
  | .inf x, .fin y _ _ => (signBit f (x != y) + f.infinity, 0)
  | .fin x _ _, .inf y => (signBit f (x != y), 0)
  | .fin x p d, .fin y q e =>
    if q = 0 then (if p = 0 then (f.nan, Flag.inv) else (signBit f (x != y) + f.infinity, Flag.dze))
    else if p = 0 then (signBit f (x != y), 0)
    else roundQuotient f md (x != y) p q (d - e)

def sqrtF (f : Format) (md : Rnd) (a : FVal) : Nat × Flags :=
  match a with
  | .nan s => (f.nan, flagIf s Flag.inv)
  | .inf s => if s then (f.nan, Flag.inv) else (f.infinity, 0)
  | .fin s m e =>
    if m = 0 then (signBit f s, 0)
    else if s then (f.nan, Flag.inv)
    else
      let m0 := if e % 2 = 0 then m else 2 * m
      let e0 := if e % 2 = 0 then e else e - 1
      let k := f.fb + 4
      let n := m0 * 2 ^ (2 * k)
      let r := natSqrt n
      if r * r = n then roundInto f md false r (e0 / 2 - k) else roundBetween f md false r (e0 / 2 - k)

/-! ### The instructions -/

def float2Lane (op : Format → Rnd → FVal → FVal → Nat × Flags) (t : Ty) (r : Rnd) (a : OpA) (b : OpB) (x : Issue) (l : Nat) : LaneOut :=
  floatOut (op (formatOf t) (roundingOf x r) (floatA x t a l) (floatB x t b l))

def execFadd (g : Guard) (u : Bool) (t : Ty) (r : Rnd) (a : OpA) (b : OpB) (s : State) : Result :=
  issue (.fadd g u t r a b) s (lanewise u g (float2Lane addF t r a b))

/-- FADD with the sign of B inverted. -/
def subF (f : Format) (md : Rnd) (a b : FVal) : Nat × Flags := addF f md a b.flip

def execFsub (g : Guard) (u : Bool) (t : Ty) (r : Rnd) (a : OpA) (b : OpB) (s : State) : Result :=
  issue (.fsub g u t r a b) s (lanewise u g (float2Lane subF t r a b))

def execFmul (g : Guard) (u : Bool) (t : Ty) (r : Rnd) (a : OpA) (b : OpB) (s : State) : Result :=
  issue (.fmul g u t r a b) s (lanewise u g (float2Lane mulF t r a b))

def execFdiv (g : Guard) (u : Bool) (t : Ty) (r : Rnd) (a : OpA) (b : OpB) (s : State) : Result :=
  issue (.fdiv g u t r a b) s (lanewise u g (float2Lane divF t r a b))

def ffmaLane (t : Ty) (r : Rnd) (a : OpA) (b : OpB) (c : Src) (x : Issue) (l : Nat) : LaneOut :=
  floatOut (fmaF (formatOf t) (roundingOf x r) (floatA x t a l) (floatB x t b l) (floatC x t c l))

def execFfma (g : Guard) (u : Bool) (t : Ty) (r : Rnd) (a : OpA) (b : OpB) (c : Src) (s : State) : Result :=
  issue (.ffma g u t r a b c) s (lanewise u g (ffmaLane t r a b c))

def fsqrtLane (t : Ty) (r : Rnd) (a : OpA) (x : Issue) (l : Nat) : LaneOut :=
  floatOut (sqrtF (formatOf t) (roundingOf x r) (floatA x t a l))

def execFsqrt (g : Guard) (u : Bool) (t : Ty) (r : Rnd) (a : OpA) (s : State) : Result :=
  issue (.fsqrt g u t r a) s (lanewise u g (fsqrtLane t r a))

/-- −0 orders below +0 (R125). -/
def fminOrder (a b : FVal) : Int :=
  let o := compareF a b
  if o != 0 then o else b2w b.neg - b2w a.neg

/-- Of two patterns the one that `first` prefers (R125). -/
def minMaxF (first : Int → Bool) (f : Format) (na nb : Nat) : Nat × Flags :=
  let va := f.value na
  let vb := f.value nb
  let n := match va.isNan, vb.isNan with
    | true, true => f.nan
    | true, false => nb
    | false, true => na
    | false, false => if first (fminOrder va vb) then na else nb
  (n, flagIf (va.isSnan || vb.isSnan || (va.isNan && vb.isNan)) Flag.inv)

def isLow (o : Int) : Bool := o ≤ 0
def isHigh (o : Int) : Bool := o ≥ 0

def minMaxLane (first : Int → Bool) (t : Ty) (a : OpA) (b : OpB) (x : Issue) (l : Nat) : LaneOut :=
  let f := formatOf t
  floatOut (minMaxF first f ((valA x .float t a l).toNat % 2 ^ f.width) ((valB x .float t b l).toNat % 2 ^ f.width))

def execFmin (g : Guard) (u : Bool) (t : Ty) (a : OpA) (b : OpB) (s : State) : Result :=
  issue (.fmin g u t a b) s (lanewise u g (minMaxLane isLow t a b))

def execFmax (g : Guard) (u : Bool) (t : Ty) (a : OpA) (b : OpB) (s : State) : Result :=
  issue (.fmax g u t a b) s (lanewise u g (minMaxLane isHigh t a b))

/-- R126: INX alone, when the result differs. -/
def roundIntegral (f : Format) (md : Rnd) (v : FVal) : Nat × Flags :=
  match v with
  | .nan s => (f.nan, flagIf s Flag.inv)
  | .inf s => (signBit f s + f.infinity, 0)
  | .fin s m e =>
    let (n, inexact) := toIntegral md s m e
    ((roundInto f md s n.natAbs 0).1, flagIf inexact Flag.inx)

def frndLane (t : Ty) (r : Rnd) (a : OpA) (x : Issue) (l : Nat) : LaneOut :=
  floatOut (roundIntegral (formatOf t) (roundingOf x r) (floatA x t a l))

def execFrnd (g : Guard) (u : Bool) (t : Ty) (r : Rnd) (a : OpA) (s : State) : Result :=
  issue (.frnd g u t r a) s (lanewise u g (frndLane t r a))

/-- R127. A count beyond ±5000 rounds as one of ±5000 does: no format's exponents span as much. -/
def scaleF (f : Format) (md : Rnd) (v : FVal) (n : Int) : Nat × Flags :=
  let k := max (-5000) (min 5000 n)
  match v with
  | .nan s => (f.nan, flagIf s Flag.inv)
  | .inf s => (signBit f s + f.infinity, 0)
  | .fin s m e => roundInto f md s m (e + k)

def fscaleLane (t : Ty) (r : Rnd) (a : OpA) (b : OpB) (x : Issue) (l : Nat) : LaneOut :=
  floatOut (scaleF (formatOf t) (roundingOf x r) (floatA x t a l) (valB x .arith .z64 b l).toInt)

def execFscale (g : Guard) (u : Bool) (t : Ty) (r : Rnd) (a : OpA) (b : OpB) (s : State) : Result :=
  issue (.fscale g u t r a b) s (lanewise u g (fscaleLane t r a b))

/-- R128's bit. -/
def classBit (f : Format) (v : FVal) : Nat :=
  match v with
  | .nan s => if s then 8 else 9
  | .inf s => if s then 0 else 7
  | .fin s m _ =>
    if m = 0 then (if s then 3 else 4)
    else if m < 2 ^ f.fb then (if s then 2 else 5)
    else if s then 1 else 6

def fclassLane (t : Ty) (a : OpA) (x : Issue) (l : Nat) : LaneOut := { push := [word (2 ^ classBit (formatOf t) (floatA x t a l))] }

def execFclass (g : Guard) (u : Bool) (t : Ty) (a : OpA) (s : State) : Result :=
  issue (.fclass g u t a) s (lanewise u g (fclassLane t a))

/-- Two infinities of opposite sign among terms. -/
def infsClash (vs : List FVal) : Bool := vs.any (fun v => v.isInf && v.neg) && vs.any fun v => v.isInf && !v.neg

/-- An exact sum of finite terms in units of the least exponent. -/
def sumExact : List FVal → Int × Int
  | [] => (0, 0)
  | .fin s m e :: vs =>
    let (n, d) := sumExact vs
    exactSum s m e (n < 0) n.natAbs d
  | _ :: vs => sumExact vs

/-- R129: a0 · b0 + a1 · b1 + c, one rounding into FP32. -/
def dot2F (md : Rnd) (a0 b0 a1 b1 c : FVal) : Nat × Flags :=
  let f := formatOf .f32
  let (p, badP) := mulExact a0 b0
  let (q, badQ) := mulExact a1 b1
  let terms := [p, q, c]
  let inv := [a0, b0, a1, b1, c].any FVal.isSnan || badP || badQ || infsClash terms
  if inv || terms.any FVal.isNan then (f.nan, flagIf inv Flag.inv)
  else
    match terms.find? FVal.isInf with
    | some v => (signBit f v.neg + f.infinity, 0)
    | none =>
      let (n, e) := sumExact terms
      if n == 0 then
        (signBit f (if terms.all FVal.isZero && terms.all FVal.neg then true
          else if terms.all FVal.isZero && terms.all (fun v => !v.neg) then false else md == .rdn), 0)
      else roundInto f md (n < 0) n.natAbs e

def fdot2Lane (t : Ty) (r : Rnd) (a : OpA) (b : OpB) (c : Src) (x : Issue) (l : Nat) : LaneOut :=
  let f := formatOf t
  let e := fun (v : Word) (k : Nat) => f.value (elemOf 16 k v.toNat)
  let va := valA x .float .z32 a l
  let vb := valB x .float .z32 b l
  floatOut (dot2F (roundingOf x r) (e va 0) (e vb 0) (e va 1) (e vb 1) (floatC x .f32 c l))

def execFdot2 (g : Guard) (u : Bool) (t : Ty) (r : Rnd) (a : OpA) (b : OpB) (c : Src) (s : State) : Result :=
  issue (.fdot2 g u t r a b c) s (lanewise u g (fdot2Lane t r a b c))

end Sys2Proof.Machine
end

