-- ==== Sys2Proof/Machine/Reach.lean ====
section
/-! DEFINITION. What a lane's address reaches and the checks before any lane's access is performed; long-latency operations, their pegs and
pending entries; accesses lane by lane (R233, R235, R236, R264 to R271, R383). -/

namespace Sys2Proof.Machine

/-! ### Where an address leads -/

/-- A place an access is performed at. `zero` marks the reserved part of a hardware area (R19); scratchpad bytes are numbered as
`Group.mem` numbers them, and `window` tells that they were named through the quad window (R154, R236); a private access of 16 bytes has two runs. -/
inductive Loc where
  | none
  | glob (pa treat : Nat) (zero : Bool)
  | scratch (at_ : Nat) (window : Bool)
  | priv (runs : List (Nat × Nat))
  deriving DecidableEq, Repr

/-- What a lane meets, in R269's order of traps; `held`: its walk waits on a stack in self-refresh (R392). -/
inductive Fate where
  | fine (at_ : Loc)
  | misalign
  | range
  | replay (stage level addr entry : Nat)
  | held (stack : Nat)
  | page
  | refused
  | clobber
  deriving DecidableEq, Repr

/-- The private window (R235). -/
def privateBase : Nat := 0x01FF000000000000
def privateEnd : Nat := privateBase + 96 * 2 ^ 30

/-- R228, R270: an address that no translation is tried for. -/
def outOfRange (a n : Nat) : Bool := decide (a + n > 2 ^ 57) || (decide (a < privateEnd) && decide (a + n > privateBase))

/-- Warp slots of a package (R10). -/
def warpSlots : Nat := 49152

/-- The offset of an address in a hardware area of its context's patterns (R19), with the size of the spool's end. -/
def hwOffset (s : State) (ctx a : Nat) : Option (Nat × Nat) :=
  (s.patterns.find? fun p =>
    p.ctx == ctx && decide (p.hwBase.toNat ≤ a) && decide (a < p.hwBase.toNat + warpSlots * hwAreaSize p.image.fmax)).map fun p =>
    ((a - p.hwBase.toNat) % hwAreaSize p.image.fmax, 0x2000 + 254 * (4160 + 256 * p.image.fmax))

/-- The bytes of a park area: its image slots, then its group save slots (R224). -/
def parkSize (p : Pattern) : Nat :=
  p.parkImages * 147456 + p.parkGroups * (4 * (p.image.stages.map (·.scratch)).foldl max 0)

/-- Whether an access meets an overflow or a park area of its context's patterns (R190). -/
def inDeviceArea (s : State) (ctx a n : Nat) : Bool :=
  s.patterns.any fun p =>
    p.ctx == ctx && ((decide (a < p.ovfBase.toNat + ((p.image.stages.map (·.overflow)).foldl (· + ·) 0) * 4096) && decide (p.ovfBase.toNat < a + n))
      || (decide (a < p.parkBase.toNat + parkSize p) && decide (p.parkBase.toNat < a + n)))

/-- The kinds of access R233's rows tell apart. -/
inductive Use where
  | load
  | store
  | atomic (host : Bool)          -- `host`: one that PCIe carries
  | ply
  deriving DecidableEq, Repr

def Use.reads : Use → Bool
  | .store => false
  | _ => true

def Use.writes : Use → Bool
  | .load => false
  | _ => true

/-- R233: the treatments and the kinds of memory that take an access. -/
def Use.accepted (u : Use) (s : State) (treat pa : Nat) : Bool :=
  match u with
  | .load => true
  | .store => treat != 4
  | .atomic host => treat != 4 && (host || targetOf s pa != .host)
  | .ply => treat == 4

/-- A translation's fate for an access with some needs (R339). -/
def fateOf (x : Xlat) (r w : Bool) (ok : Nat → Nat → Fate) : Fate :=
  match x with
  | .fault st lv a e => .replay st lv a e
  | .page => .page
  | .access => .refused
  | .held n => .held n
  | .ok pa treat pr pw _ _ => if (r && !pr) || (w && !pw) then .refused else ok pa treat

/-- What an access of n bytes meets where its translation leads (R19, R190, R233, R294, R354). -/
def placeFate (s : State) (ctx : Nat) (a : Word) (n : Nat) (u : Use) (wr : Bool) (pa treat : Nat) : Fate :=
  if !u.accepted s treat pa || !reachable s pa || inDeviceArea s ctx a.toNat n then .refused
  else
    match hwOffset s ctx a.toNat with
    | some (off, top) => if wr || off + n > top then .refused else .fine (.glob pa treat (decide (0x1400 ≤ off) && decide (off < 0x2000)))
    | none => if wr && touchesMark s pa n then .clobber else .fine (.glob pa treat false)

/-- An access of n bytes by an agent of a die for a context, its address's alignment apart. LDV needs no write permission, so permissions
are passed beside the use. -/
def pageFate (s : State) (die : Nat) (core : Option Nat) (ctx : Nat) (a : Word) (n : Nat) (u : Use) (wr : Bool) : Fate :=
  if outOfRange a.toNat n then .range else fateOf (translate s die core ctx a.toNat) u.reads wr (placeFate s ctx a n u wr)

/-- A lane's global access of n bytes. -/
def globFate (s : State) (w : Warp) (a : Word) (n : Nat) (u : Use) (wr : Bool) : Fate :=
  if a.toNat % n != 0 then .misalign else pageFate s w.die (some w.core) w.ctx a n u wr

/-- R236: the core within the quad and the offset that a scratchpad address names, where the issuing warp's group holds it. -/
def scratchPlace (s : State) (w : Warp) (a : Word) (n : Nat) : Option (Nat × Nat) :=
  match groupOf s w with
  | none => none
  | some g =>
    let off := field a 0 19
    let core := if a.getLsbD 31 then field a 19 2 else inQuad w.core
    let zero := if a.getLsbD 31 then field a 21 10 == 0 else field a 19 12 == 0
    if field a 32 32 != 0 || !zero || off + n > g.scratch || !(g.wide || core == inQuad g.core) then none else some (core, off)

/-- Whether some byte of a scratchpad access lies in a marked granule. -/
def touchesScratchMark (s : State) (key at_ n : Nat) : Bool :=
  match findGroup s key with
  | some g => g.marks.any fun m => decide (at_ < m + 16) && decide (m < at_ + n)
  | none => false

def scratchFate (s : State) (w : Warp) (a : Word) (n : Nat) (wr : Bool) : Fate :=
  if a.toNat % n != 0 then .misalign
  else
    match scratchPlace s w a n with
    | none => .range
    | some (core, off) =>
      if wr && touchesScratchMark s (w.group.getD 0) (scratchKey core off) n then .clobber else .fine (.scratch (scratchKey core off) (a.getLsbD 31))

/-- Where a private offset of a lane lies (R25, R235, R276). -/
def privateVa (s : State) (w : Warp) (l o : Nat) : Nat :=
  match findPattern s w.ctx w.pat with
  | some p =>
    privateBase + (w.spill.toNat - p.hwBase.toNat) / hwAreaSize p.image.fmax * 2 ^ 21 + (o / 8 * 32 + l) * 8 + o % 8
  | none => privateBase + (o / 8 * 32 + l) * 8 + o % 8

/-- One run of a private access. -/
def privateRun (s : State) (w : Warp) (l o n : Nat) (wr : Bool) : Fate :=
  fateOf (translate s w.die (some w.core) w.ctx (privateVa s w l o)) (!wr) wr fun pa treat => if treat != 0 then .refused else .fine (.priv [(pa, n)])

def privateFate (s : State) (w : Warp) (l : Nat) (a : Word) (n : Nat) (wr : Bool) : Fate :=
  if a.toNat % n != 0 then .misalign
  else if a.toNat + n > ((w.recs.getD l none).map (·.priv)).getD 0 then .range
  else if n ≤ 8 then privateRun s w l a.toNat n wr
  else
    match privateRun s w l a.toNat 8 wr, privateRun s w l (a.toNat + 8) 8 wr with
    | .fine (.priv x), .fine (.priv y) => .fine (.priv (x ++ y))
    | .fine _, f => f
    | f, _ => f

/-- What the warp does in memory follows its matrix operations issued before (R154, R252, R253, R263). -/
def afterJobs (s : State) (w : Warp) (k : End) : End := if jobsDue s w then .stall .matrixDone else k

/-! ### Scratchpad bytes -/

def planeBytes : PlaneFmt → Nat
  | .bi8 | .int8 => 1024
  | .res => 8192
  | _ => 512

def rowBytes : PlaneFmt → Nat
  | .bi8 | .int8 => 32
  | .res => 256
  | _ => 16

/-- Formats that carry E8M0 scales (R145). -/
def hasScales : PlaneFmt → Bool
  | .bi8 | .bi4 | .e2m1 => true
  | _ => false

/-- Bytes of a drained element (R160). -/
def drainBytes : DrainConv → Nat
  | .f32 | .s32 => 4
  | .bf16 | .f16 => 2
  | .e4m3 | .bi8 => 1
  | .s64 => 8

/-- The rows of a drain in the bytes it writes at A (R160). -/
def drainRuns (cv : DrainConv) (a c : Nat) : List (Nat × Nat) :=
  ((List.range 32).map fun r => (a + r * c, 32 * drainBytes cv)) ++ (if cv == .bi8 then [(a + 32 * c, 32)] else [])

/-- How far the bytes of the epilogue block that a drain reads extend (R160). -/
def epilogueBytes (act : DrainAct) (bias : Bool) : Nat := if act == .clamp then 264 else if bias then 256 else 128

/-- The bytes of the epilogue block that a drain reads: the scales, the biases of `.bias`, the bounds of `.clamp` (R160). -/
def epilogueRuns (act : DrainAct) (bias : Bool) (b : Nat) : List (Nat × Nat) :=
  (b, if bias then 256 else 128) :: (if act == .clamp then [(b + 256, 8)] else [])

/-- Scratchpad runs that a matrix operation reads, and those it writes. -/
def MatrixOp.readRuns : MatrixOp → List (Nat × Nat)
  | .mlds fmt p sc => (p, planeBytes fmt) :: (if hasScales fmt then [(sc, 32)] else [])
  | .mstream fmt _ rows a b c => (List.range rows).map (fun m => (a + m * c, rowBytes fmt)) ++ (if hasScales fmt then [(b, rows)] else [])
  | .mdrain _ _ act _ bias _ b _ _ => epilogueRuns act bias b
  | _ => []

def MatrixOp.writeRuns : MatrixOp → List (Nat × Nat)
  | .mdrain _ cv _ gl _ a _ c _ => if gl then [] else drainRuns cv a.toNat c
  | _ => []

/-! ### Writes through the quad window (R154) -/

def sizeBytes : Size → Nat
  | .b1 => 1
  | .b2 => 2
  | .b4 => 4
  | .b8 => 8
  | .b16 => 16

def widthBits : AtomWidth → Nat
  | .w32 => 32
  | .w64 => 64
  | .w128 => 128

def acquires (o : Order) : Bool := o == .acq || o == .acqRel
def releases (o : Order) : Bool := o == .rel || o == .acqRel

/-- Bytes that each lane of an instruction may write to scratchpad, where the instruction is no release, which its warp's matrix operations would
precede (R253). -/
def freeWriteBytes : Instr → Nat
  | .sts _ _ _ o sz .. => if releases o then 0 else sizeBytes sz
  | .atoms _ _ _ o _ w .. | .acass _ _ _ o w .. => if releases o then 0 else widthBits w / 8
  | _ => 0

def runsMeet (a n b k : Nat) : Bool := decide (a < b + k) && decide (b < a + n)

/-- Bytes written under the reads of a queued matrix operation are raced (R154); `spare` names the operations the write is ordered with. -/
def markRaced (s : State) (key a n : Nat) (spare : MatrixJob → Bool) : State :=
  if s.units.isEmpty then s
  else
    { s with units := s.units.map fun u => { u with jobs := u.jobs.map fun j =>
        (match findWarp s j.warp with
        | some w =>
          if !spare j && w.group == some key && !j.raced.contains (a, n)
            && j.what.readRuns.any (fun r => runsMeet (scratchKey (inQuad w.core) r.1) r.2 a n) then { j with raced := (a, n) :: j.raced }
          else j
        | none => j) } }

/-- The lanes' writes through the quad window race with the warp's own matrix operations that are not performed yet (R154). -/
def raceWindow (x : Issue) (s : State) (m : Mask) (loc : Nat → Loc) : State :=
  (lanesOf m).foldl (fun s l => match loc l with
    | .scratch a true => markRaced s (x.w.group.getD 0) a (freeWriteBytes x.i) fun j => j.warp != x.w.id
    | _ => s) s

/-- The lanes' accesses after the warp's matrix operations (`afterJobs`); the race of those through the quad window is noted first. -/
def afterOwnJobs (x : Issue) (s : State) (m : Mask) (loc : Nat → Loc) (k : End) : End :=
  if !jobsDue s x.w then k
  else if freeWriteBytes x.i == 0 then .stall .matrixDone
  else
    let s := raceWindow x s m loc
    .done { s with warp := { s.warp with wcount := x.w.wcount, stalled := some .matrixDone } }

/-! ### Checks of every lane (R269) -/

/-- Two replayable fates of one walk: misses to the same page share it (R340). -/
def sameWalk : Fate → Fate → Bool
  | .replay st lv a e, .replay st' lv' a' e' => st == st' && lv == lv' && a / 4096 == a' / 4096 && e == e'
  | _, _ => false

/-- Replayable fates with the lanes that meet them and the address each names: those of one walk are one. -/
def mergeWalks (ms : List (Mask × Word × Fate)) : List (Mask × Word × Fate) :=
  ms.foldl (fun acc x =>
    if acc.any fun y => sameWalk y.2.2 x.2.2 then updateWhere (fun y => sameWalk y.2.2 x.2.2) (fun y => (y.1 ||| x.1, y.2)) acc
    else acc ++ [x]) []

/-- A fault record for each faulting walk, and what the warp keeps of each (R341). -/
def parkWalks (s : State) (w : Warp) (k : AccKind) (ms : List (Mask × Word × Fate)) : List WarpFault × State :=
  (mergeWalks ms).foldl (fun p x =>
    match x.2.2 with
    | .replay st lv a e =>
      let (id, s) := parkFault (wakeWalk p.2 w.die (some w.core) w.ctx x.2.1.toNat) (vfOfContext p.2 w.ctx) w.ctx w.die k st lv a e (.warp w.id)
      (p.1 ++ [{ id := id, mask := x.1, addr := x.2.1 }], s)
    | _ => p) ([], s)

/-- A warp parks on replayable faults, and its instruction issues again afterwards (R341). -/
def parkOn (x : Issue) (s : State) (k : AccKind) (ms : List (Mask × Word × Fate)) : End :=
  let (fs, s) := parkWalks s x.w k ms
  .done { s with warp := { s.warp with status := .faulted fs, wcount := x.w.wcount } }

/-- The stack in self-refresh that holds an access (R392). -/
def holdOf (s : State) : Loc → Option Nat
  | .glob pa _ _ => if isHeld s pa then some (stackOf pa) else none
  | .priv runs => (runs.find? fun r => isHeld s r.1).map fun r => stackOf r.1
  | _ => none

/-- The pages that lanes translated stand in the TLBs afterwards (R340). -/
def fillLanes (s : State) (w : Warp) (addr : Nat → Word) (loc : Nat → Loc) : State :=
  (List.range 32).foldl (fun s l =>
    match loc l with
    | .glob .. => walked s w.die (some w.core) w.ctx (addr l).toNat
    | .priv _ => walked s w.die (some w.core) w.ctx (privateVa s w l (addr l).toNat)
    | _ => s) s

/-- The checks of the lanes of a mask, in R269's order; then the instruction's own effect on where they lead. -/
def checked (x : Issue) (s : State) (k : AccKind) (m : Mask) (addr : Nat → Word) (fate : Nat → Fate) (body : State → (Nat → Loc) → End) : End :=
  let fates := (List.range 32).map fun l => if m.getLsbD l then fate l else .fine .none
  let at_ := fun (l : Nat) => fates.getD l (.fine .none)
  let who := fun (f : Fate) => maskOf fun l => at_ l == f
  let stop := fun (code : Nat) (b : Mask) => trapWith s code b (addr ((lowest b).getD 0))
  let replays := maskOf fun l => sameWalk (at_ l) (at_ l)
  let held := fates.findSome? fun f => match f with
    | .held n => some n
    | _ => none
  if who .misalign != 0 then stop Cause.misalign (who .misalign)
  else if who .range != 0 then stop Cause.access (who .range)
  else
    match held with
    | some n => .stall (.stack n)
    | none =>
      if replays != 0 then parkOn x s k ((lanesOf replays).map fun l => (BitVec.ofNat 32 (2 ^ l), addr l, at_ l))
      else if who .page != 0 then stop Cause.page (who .page)
      else if who .refused != 0 then stop Cause.access (who .refused)
      else if who .clobber != 0 then stop Cause.bclobber (who .clobber)
      else
        let loc := fun (l : Nat) => match at_ l with
          | .fine p => p
          | _ => .none
        match (lanesOf m).findSome? fun l => holdOf s (loc l) with
        | some n => .stall (.stack n)
        | none => afterOwnJobs x s m loc (body (fillLanes s x.w addr loc) loc)

/-! ### Operations (R14, R20) -/

/-- An operation begins: its name, and its pegs set where some lane acts. -/
def beginOp (s : State) (m : Mask) (peg : PegSel) (done : Bool) : Nat × State :=
  let (id, s) := fresh s
  let pm := pegMask s.warp peg
  if pm != 0 && m != 0 then (id, { s with warp := { s.warp with ops := s.warp.ops ++ [{ id := id, pegs := pm, done := done }] } })
  else (id, s)

/-! ### Poison met by a warp (R382, R383) -/

/-- SOFT is due to a warp, with its one ECCUE. -/
def softReport (s : State) (id kind : Nat) (addr : Word) (m : Mask) : State :=
  match findWarp s id with
  | none => s
  | some w => reportTo (eccue s w.ctx kind addr) id { code := 0x11, addr := addr, mask := m } false 8 0x11

/-- The lanes that met poison, reported together: the lowest one's address, and the kind of the storage it met (R383). -/
def reportPoison (s : State) (id : Nat) (addr : Nat → Word) (bad : List (Nat × Nat)) : State :=
  let m := maskOf fun l => bad.any fun b => b.1 == l
  match lowest m with
  | some l => softReport s id (((bad.find? fun b => b.1 == l).map (·.2)).getD 0x07) (addr l) m
  | none => s

/-! ### Scratchpad bytes -/

/-- The poisoned 8-byte words of a group that a run of bytes meets. -/
def poisonedWords (s : State) (key a n : Nat) : Bool :=
  match findGroup s key with
  | some g => g.poison.any fun p => runsMeet p 8 a n
  | none => false

/-- Bytes written to scratchpad, `x` telling by whom: whole words lose their poison (R383). -/
def storeScratch (s : State) (key : Nat) (x : LooseWrite) (ownToo : Bool) (spare : MatrixJob → Bool) (bs : List Byte) : State :=
  let a := x.at_
  let s := if x.lane.isNone then overwritten s { space := .scratch, group := some key, at_ := a, bytes := bs.length } else s
  let s1 := scratchWrite (noteWrite (markRaced s key a bs.length spare) key x ownToo) key a bs
  updateGroup s1 key fun g =>
    if g.poison.isEmpty then g
    else { g with poison := g.poison.filter fun p => !(decide (a ≤ p) && decide (p + 8 ≤ a + bs.length)) }

/-- A write of a lane to its group's scratchpad, as the order has it. -/
def laneWrite (w : Warp) (l at_ n : Nat) (pegs : BitVec 12) : LooseWrite :=
  { at_ := at_, bytes := n, agent := w.id, owner := w.id, lane := some l, core := w.core, pegs := pegs, unseen := [] }

/-- Bytes for a group's scratchpad, those in a marked granule as they stand: only the events of R295 change it (R293). -/
def aroundMarks (s : State) (key a : Nat) (bs : List Byte) : List Byte :=
  if touchesScratchMark s key a bs.length then mapFrom (fun k b => if touchesScratchMark s key k 1 then (scratchRead s key k 1).headD b else b) a bs
  else bs

/-! ### One lane's part -/

def agentOf (w : Warp) (l : Nat) : Agent := { die := some w.die, core := some w.core, warp := w.id, lane := l }

/-- The generation a lane's writes carry (R203). -/
def genOf (w : Warp) (l : Nat) : Nat :=
  match w.recs.getD l none with
  | some r => r.gen.toNat + 1
  | none => 1

def plyPoisoned (s : State) (pa n : Nat) : Bool := s.ply.any fun c => c.poisoned && runsMeet c.pa 8 pa n

/-- The kind of storage whose poison an access at a place meets (R382, R383). -/
def poisonAt (s : State) (key : Nat) (n : Nat) : Loc → Option Nat
  | .glob pa treat _ => if treat == 4 && plyPoisoned s pa n then some 0x0B else if meetsPoison s pa then some 0x07 else none
  | .scratch a _ => if poisonedWords s key a n then some 0x04 else none
  | .priv runs => if runs.any (fun r => meetsPoison s r.1) then some 0x07 else none
  | .none => none

/-- Bytes read at a place. -/
def readLoc (s : State) (w : Warp) (l n : Nat) (how : How) : Loc → List Byte × State
  | .glob pa treat zero => if zero then (List.replicate n 0, s) else performRead s (agentOf w l) how treat pa n
  | .scratch a _ => (scratchRead s (w.group.getD 0) a n, s)
  | .priv runs => runs.foldl (fun r p => let (bs, s1) := performRead r.2 (agentOf w l) .load 0 p.1 p.2; (r.1 ++ bs, s1)) ([], s)
  | .none => ([], s)

/-- Bytes written at a place by an operation that holds some pegs. A write through the quad window is not ordered with the warp's own matrix
operations (R154). -/
def writeLoc (s : State) (w : Warp) (l : Nat) (how : How) (pegs : BitVec 12) (bs : List Byte) : Loc → State
  | .glob pa treat _ => performWrite s (agentOf w l) how treat pa (genOf w l) bs
  | .scratch a win => storeScratch s (w.group.getD 0) (laneWrite w l a bs.length pegs) win (fun j => j.warp == w.id) bs
  | .priv runs =>
    (runs.foldl (fun (r : List Byte × State) p => (r.1.drop p.2, performWrite r.2 (agentOf w l) .own 0 p.1 1 (r.1.take p.2))) (bs, s)).2
  | .none => s

/-- A lane's part: the state after it, what it pushes in order, and the kind of poison it met. -/
structure LaneDone where
  s : State
  push : List Word := []
  bad : Option Nat := none

/-- The lanes of a mask performed in ascending order: their pushes are entries still pending from one operation (R57, R269). -/
def performLanes (s : State) (m : Mask) (peg : PegSel) (addr : Nat → Word) (f : State → Nat → LaneDone) : State :=
  let (op, s) := beginOp s m peg true
  let r := (lanesOf m).foldl (fun (r : State × List (Nat × List Word) × List (Nat × Nat)) l =>
    let d := f r.1 l
    (d.s, (l, d.push) :: r.2.1, (match d.bad with
      | some k => (l, k) :: r.2.2
      | none => r.2.2))) (s, [], [])
  let s1 := { r.1 with warp := mapLanes r.1.warp fun l y =>
    ((r.2.1.find? fun p => p.1 == l).elim [] (·.2)).foldl (fun z v => z.push { val := v, pend := some op }) y }
  if r.2.2.isEmpty then s1
  else reportPoison s1 s1.warp.id addr r.2.2

/-- Zeros pushed where poison was met, as many as the instruction pushes. -/
def poisonDone (s : State) (k n : Nat) : LaneDone := { s := s, push := List.replicate n 0, bad := some k }

end Sys2Proof.Machine
end

