-- ==== Sys2Proof/Machine/LoadStore.lean ====
section
/-! DEFINITION. Loads and stores of the three spaces, prefetch, fences, cache control (R273 to R279). An access is performed when its instruction
issues; its pending entries and pegs are reported afterwards (`pendingFill`, `pegClear`). -/

namespace Sys2Proof.Machine

/-- `pkg` or wider, where a release performs a self-invalidating write at the home (R257). -/
def reachesPkg : Scope → Bool
  | .pkg | .pod | .sys => true
  | _ => false

/-- What a load pushes: the high half first (R70, R273). -/
def loadedWords (sz : Size) (sx : Bool) (bs : List Byte) : List Word :=
  match sz with
  | .b16 => [leWord (bs.drop 8), leWord (bs.take 8)]
  | _ => [if sx then wordI (signedOf (8 * sizeBytes sz) (leNat bs)) else leWord bs]

/-- The bytes a store takes from B (R46, R273). -/
def storedBytes (x : Issue) (sz : Size) (b : Src) (l : Nat) : List Byte :=
  match sz with
  | .b16 => wordBytes (srcB x b l) ++ wordBytes (readHigh x.w l b)
  | _ => leBytes (sizeBytes sz) (srcB x b l).toNat

/-! ### The order of a lane's accesses (R253 to R257) -/

/-- Bytes that an access touches, as the order has them; whether they are self-invalidating. -/
def placeIn (w : Warp) (n : Nat) : Loc → Option (Place × Bool)
  | .glob pa treat _ => some ({ space := .global, at_ := pa, bytes := n }, treat == 1)
  | .scratch a _ => some ({ space := .scratch, group := w.group, at_ := a, bytes := n }, false)
  | _ => none

/-- A lane's read. One of a self-invalidating line may return an older copy's bytes, unless it is an acquire that drops them (R240, R257). -/
def orderRead (s : State) (w : Warp) (l n : Nat) (o : Order) (sc : Scope) (loc : Loc) : State :=
  if noneLoose s then s
  else
    match placeIn w n loc with
    | none => s
    | some (p, selfInv) =>
      if acquires o then (if selfInv && decide (scopeRank sc < 3) then s else acquireRead s w p sc)
      else if selfInv then s
      else plainRead s w l p

/-- A lane's write, an RMW's among them. One to a self-invalidating line that is neither a release nor an RMW publishes nothing to its die (R257). -/
def orderWrite (s : State) (w : Warp) (l n : Nat) (o : Order) (sc : Scope) (rmw : Bool) (loc : Loc) : State :=
  if noneLoose s then s
  else
    match placeIn w n loc with
    | none => s
    | some (p, selfInv) =>
      let s := if rmw then passedOn s w.id p else overwritten s p
      let s := if selfInv && !rmw then s else releaseFenced s w l p
      if releases o then release s { place := p, scope := sc, agent := w.id, core := w.core } (some l) else s

/-- A load of a lane; an acquire drops copies first (R240). -/
def loadLane (x : Issue) (sz : Size) (sx : Bool) (o : Order) (sc : Scope) (loc : Nat → Loc) (s : State) (l : Nat) : LaneDone :=
  let w := x.w
  let n := sizeBytes sz
  let s := if acquires o then acquireAt s sc w.die w.core else s
  match poisonAt s (w.group.getD 0) n (loc l) with
  | some k => poisonDone s k (if sz == .b16 then 2 else 1)
  | none => let (bs, s) := readLoc s w l n .load (loc l); { s := orderRead s w l n o sc (loc l), push := loadedWords sz sx bs }

/-- A store of a lane; a release writes back what the lane wrote before (R240). -/
def storeLane (x : Issue) (sz : Size) (b : Src) (o : Order) (sc : Scope) (loc : Nat → Loc) (s : State) (l : Nat) : LaneDone :=
  let w := x.w
  let s := if releases o then releaseAt s sc w.id l else s
  let how := match loc l with
    | .glob _ 1 _ => if releases o && reachesPkg sc then How.home else .own
    | _ => .own
  { s := orderWrite (writeLoc s w l how (pegMask w (pegOf x.i)) (storedBytes x sz b l) (loc l)) w l (sizeBytes sz) o sc false (loc l) }

/-! ### Global -/

def execLd (g : Guard) (peg : PegSel) (sc : Scope) (o : Order) (h : Hint) (sx : Bool) (sz : Size) (a : Src) (s : State) : Result :=
  issue (.ld g peg sc o h sx sz a) s fun x s =>
    let m := acting x.w g
    checked x s .read m (srcA x a) (fun l => globFate s x.w (srcA x a l) (sizeBytes sz) .load false) fun s loc =>
      .ok (performLanes s m peg (srcA x a) (loadLane x sz sx o sc loc))

def execSt (g : Guard) (peg : PegSel) (sc : Scope) (o : Order) (h : Hint) (sz : Size) (a b : Src) (s : State) : Result :=
  issue (.st g peg sc o h sz a b) s fun x s =>
    let m := acting x.w g
    checked x s .write m (srcA x a) (fun l => globFate s x.w (srcA x a l) (sizeBytes sz) .store true) fun s loc =>
      .ok (performLanes s m peg (srcA x a) (storeLane x sz b o sc loc))

/-! ### Scratchpad -/

def execLds (g : Guard) (peg : PegSel) (sc : Scope) (o : Order) (sx : Bool) (sz : Size) (a : Src) (s : State) : Result :=
  issue (.lds g peg sc o sx sz a) s fun x s =>
    let m := acting x.w g
    checked x s .read m (srcA x a) (fun l => scratchFate s x.w (srcA x a l) (sizeBytes sz) false) fun s loc =>
      .ok (performLanes s m peg (srcA x a) (loadLane x sz sx o sc loc))

def execSts (g : Guard) (peg : PegSel) (sc : Scope) (o : Order) (sz : Size) (a b : Src) (s : State) : Result :=
  issue (.sts g peg sc o sz a b) s fun x s =>
    let m := acting x.w g
    checked x s .write m (srcA x a) (fun l => scratchFate s x.w (srcA x a l) (sizeBytes sz) true) fun s loc =>
      .ok (performLanes s m peg (srcA x a) (storeLane x sz b o sc loc))

/-! ### Private -/

def execLdp (g : Guard) (peg : PegSel) (sx : Bool) (sz : Size) (a : Src) (s : State) : Result :=
  issue (.ldp g peg sx sz a) s fun x s =>
    let m := acting x.w g
    checked x s .read m (srcA x a) (fun l => privateFate s x.w l (srcA x a l) (sizeBytes sz) false) fun s loc =>
      .ok (performLanes s m peg (srcA x a) (loadLane x sz sx .rlx .thread loc))

def execStp (g : Guard) (peg : PegSel) (sz : Size) (a b : Src) (s : State) : Result :=
  issue (.stp g peg sz a b) s fun x s =>
    let m := acting x.w g
    checked x s .write m (srcA x a) (fun l => privateFate s x.w l (srcA x a l) (sizeBytes sz) true) fun s loc =>
      .ok (performLanes s m peg (srcA x a) (storeLane x sz b .rlx .thread loc))

/-! ### Prefetch, fences, cache control -/

/-- Where PREF and CCTL find a line: none where an access would trap (R270, R277). DESIGN CHOICE: a page that is not there yet is none either, so
that no CCTL parks its warp, and a PREF's address, which has no size, is never misaligned (logs 168 and 169). -/
def quietPlace (s : State) (w : Warp) (a : Word) : Option (Nat × Nat) :=
  match pageFate s w.die (some w.core) w.ctx a 1 .load false with
  | .fine (.glob pa treat _) => some (pa, treat)
  | _ => none

/-- R277: a line brought to the core's L1, to the die's home cache, or to both; a tracked or watched line in L1 stands in the home cache too
(R237). -/
def prefLane (x : Issue) (lv : PrefLevel) (a : Src) (s : State) (l : Nat) : State :=
  let w := x.w
  match quietPlace s w (srcA x a l) with
  | some (pa, treat) =>
    if meetsPoison s pa || isHeld s pa || heldOtherwise s treat (lineOf pa) then s
    else
      let s := walked s w.die (some w.core) w.ctx (srcA x a l).toNat
      let coherent := fun (watched : Bool) =>
        let s := makeRoom s w.die (lineOf pa)
        let s := { s with coh := dirRead s.coh watched w.die (lineOf pa) }
        if lv == .home then s else fillTracked s w.die w.core pa
      match treat with
      | 0 => coherent false
      | 3 => coherent true
      | 1 =>
        let s := if lv == .l1 then s else fillHome s w.die pa
        if lv == .home then s else fillL1Self s w.die w.core pa
      | _ => s
  | none => s

def execPref (g : Guard) (lv : PrefLevel) (a : Src) (s : State) : Result :=
  issue (.pref g lv a) s fun x s => .ok ((lanesOf (acting x.w g)).foldl (prefLane x lv a) s)

/-- Whether a scope of a core's warp covers another core. -/
def scopeCovers (sc : Scope) (die core die2 core2 : Nat) : Bool :=
  match sc with
  | .thread | .core => die == die2 && core == core2
  | .quad => die == die2 && core / 4 == core2 / 4
  | .die => die == die2
  | _ => true

/-- The code blocks dropped from the fetch paths of the cores that a scope covers. -/
def dropCode (s : State) (sc : Scope) (die core : Nat) : State :=
  { s with caches := { s.caches with code := s.caches.code.filter fun c => !scopeCovers sc die core c.die c.core } }

/-- R278, R240. Everything the lanes issued before is already performed. DESIGN CHOICE: the fetch paths of the cores that its scope covers keep
nothing over a fence, so that they fetch what R279's sequence has made visible (log 177). -/
def fenceLane (x : Issue) (sc : Scope) (o : FenceOrder) (s : State) (l : Nat) : LaneDone :=
  let w := x.w
  let s := if o == .acq then s else fenceRelease (releaseAt s sc w.id l) w l sc
  let s := if o == .rel then s else fenceAcquire (acquireAt s sc w.die w.core) w l sc
  let s := if o == .sc then fenceOwn s w l sc else s
  { s := dropCode s sc w.die w.core }

def execFence (g : Guard) (peg : PegSel) (sc : Scope) (o : FenceOrder) (s : State) : Result :=
  issue (.fence g peg sc o) s fun x s =>
    afterJobs s x.w (.ok (performLanes s (acting x.w g) peg (fun _ => 0) (fenceLane x sc o)))

/-- R279, in one lane. -/
def cctlLane (x : Issue) (op : CctlOp) (a : Src) (s : State) (l : Nat) : LaneDone :=
  let w := x.w
  let place := quietPlace s w (srcA x a l)
  let dropCode := fun (p : CodeLine → Bool) => { s with caches := { s.caches with code := s.caches.code.filter fun c => !p c } }
  match op, place with
  | .inv, some (pa, _) => { s := dropL1 s fun c => ownL1 s w.die w.core c && c.line == lineOf pa }
  | .wb, some (pa, _) => { s := writeBack s fun d k => d == w.die && k == lineOf pa }
  | .iinv, some (pa, _) => { s := dropCode fun c => lineOf c.pa == lineOf pa }
  | .invall, _ => { s := dropL1 s fun c => c.die == w.die && c.core == w.core }
  | .iinvall, _ => { s := dropCode fun _ => true }
  | _, none => { s := s }

def execCctl (g : Guard) (peg : PegSel) (op : CctlOp) (a : Src) (s : State) : Result :=
  issue (.cctl g peg op a) s fun x s => .ok (performLanes s (acting x.w g) peg (srcA x a) (cctlLane x op a))

end Sys2Proof.Machine
end

