-- ==== Sys2Proof/Machine/Atomic.lean ====
section
/-! DEFINITION. Read-modify-writes, compare-and-swap, and the ply operations (R280 to R290). -/

namespace Sys2Proof.Machine

/-! ### Values (R280) -/

/-- The new value from the old value m and the operand b, both of w bits. -/
def rmwValue (op : AtomOp) (w m b : Nat) : Nat :=
  let f := formatOf (if w == 32 then .f32 else .f64)
  match op with
  | .add => (m + b) % 2 ^ w
  | .and => m &&& b
  | .or => m ||| b
  | .xor => m ^^^ b
  | .smin => if signedOf w m ≤ signedOf w b then m else b
  | .smax => if signedOf w m ≥ signedOf w b then m else b
  | .umin => min m b
  | .umax => max m b
  | .exch => b
  | .fadd => (addF f .rne (f.value m) (f.value b)).1
  | .fmin => (minMaxF isLow f m b).1
  | .fmax => (minMaxF isHigh f m b).1
  | .inc => if m ≥ b then 0 else m + 1
  | .dec => if m = 0 || m > b then b else m - 1

/-- The operations PCIe carries to host memory (R233). -/
def hostCarries : AtomOp → Bool
  | .add | .exch => true
  | _ => false

/-! ### One lane's RMW -/

/-- What stands before and after an RMW of a lane: its order's actions, the poison it may meet, the old value, and the new one where it
writes. A tracked line is brought to the die in M, whether or not the RMW writes, but for a RED, which goes to the home; every other treatment's
RMW is performed at the home (R231, R282). -/
def rmwLane (x : Issue) (n nres : Nat) (o : Order) (sc : Scope) (red : Bool) (loc : Nat → Loc) (new : Nat → Nat → Option Nat)
    (out : Nat → List Word) (s : State) (l : Nat) : LaneDone :=
  let w := x.w
  let s := if releases o then releaseAt s sc w.id l else s
  let s := if acquires o then acquireAt s sc w.die w.core else s
  match poisonAt s (w.group.getD 0) n (loc l) with
  | some k => poisonDone s k nres
  | none =>
    let (how, s) := match loc l with
      | .glob pa treat _ => (if red || treat != 0 then How.home else .own, beforeAtomic s (agentOf w l) treat pa)
      | _ => (.own, s)
    let (bs, s) := readLoc s w l n how (loc l)
    let s := orderRead s w l n o sc (loc l)
    let m := leNat bs
    { s := match new l m with
        | some v => orderWrite (writeLoc s w l how (pegMask w (pegOf x.i)) (leBytes n v) (loc l)) w l n o sc true (loc l)
        | none => s
      push := out m }

/-- What ATOM pushes (R281). -/
def atomPush (op : AtomOp) (w m : Nat) : List Word :=
  [match op with
    | .smin | .smax => wordI (signedOf w m)
    | _ => word m]

/-- What ACAS pushes (R283). -/
def casPush (w m : Nat) : List Word := if w == 128 then [word (m / 2 ^ 64), word (m % 2 ^ 64)] else [word m]

/-- An operand of w bits, two words wide at 128 (R46). -/
def operandN (x : Issue) (w : Nat) (lit : Word) (l : Nat) (b : Src) : Nat :=
  let lo := (readSrc x.w lit l b).toNat
  if w == 128 then lo + (readHigh x.w l b).toNat * 2 ^ 64 else lo % 2 ^ w

def execAtom (g : Guard) (peg : PegSel) (sc : Scope) (o : Order) (op : AtomOp) (w : AtomWidth) (a b : Src) (s : State) : Result :=
  issue (.atom g peg sc o op w a b) s fun x s => closing s fun s =>
    let m := acting x.w g
    let bits := widthBits w
    checked x s .rmw m (srcA x a) (fun l => globFate s x.w (srcA x a l) (bits / 8) (.atomic (hostCarries op)) true) fun s loc =>
      .ok (performLanes s m peg (srcA x a)
        (rmwLane x (bits / 8) 1 o sc false loc (fun l v => some (rmwValue op bits v (operandN x bits x.lb l b))) (atomPush op bits)))

def execRed (g : Guard) (peg : PegSel) (sc : Scope) (o : Order) (op : AtomOp) (w : AtomWidth) (a b : Src) (s : State) : Result :=
  issue (.red g peg sc o op w a b) s fun x s => closing s fun s =>
    let m := acting x.w g
    let bits := widthBits w
    checked x s .rmw m (srcA x a) (fun l => globFate s x.w (srcA x a l) (bits / 8) (.atomic (hostCarries op)) true) fun s loc =>
      .ok (performLanes s m peg (srcA x a)
        (rmwLane x (bits / 8) 0 o sc true loc (fun l v => some (rmwValue op bits v (operandN x bits x.lb l b))) fun _ => []))

def execAtoms (g : Guard) (peg : PegSel) (sc : Scope) (o : Order) (op : AtomOp) (w : AtomWidth) (a b : Src) (s : State) : Result :=
  issue (.atoms g peg sc o op w a b) s fun x s => closing s fun s =>
    let m := acting x.w g
    let bits := widthBits w
    checked x s .rmw m (srcA x a) (fun l => scratchFate s x.w (srcA x a l) (bits / 8) true) fun s loc =>
      .ok (performLanes s m peg (srcA x a)
        (rmwLane x (bits / 8) 1 o sc false loc (fun l v => some (rmwValue op bits v (operandN x bits x.lb l b))) (atomPush op bits)))

/-- A compare that holds bit for bit swaps C in (R283). -/
def casNew (x : Issue) (bits : Nat) (b c : Src) (l m : Nat) : Option Nat :=
  if m == operandN x bits x.lb l b then some (operandN x bits x.lc l c) else none

def execAcas (g : Guard) (peg : PegSel) (sc : Scope) (o : Order) (w : AtomWidth) (a b c : Src) (s : State) : Result :=
  issue (.acas g peg sc o w a b c) s fun x s => closing s fun s =>
    let m := acting x.w g
    let bits := widthBits w
    checked x s .rmw m (srcA x a) (fun l => globFate s x.w (srcA x a l) (bits / 8) (.atomic true) true) fun s loc =>
      .ok (performLanes s m peg (srcA x a)
        (rmwLane x (bits / 8) (casPush bits 0).length o sc false loc (casNew x bits b c) (casPush bits)))

def execAcass (g : Guard) (peg : PegSel) (sc : Scope) (o : Order) (w : AtomWidth) (a b c : Src) (s : State) : Result :=
  issue (.acass g peg sc o w a b c) s fun x s => closing s fun s =>
    let m := acting x.w g
    let bits := widthBits w
    checked x s .rmw m (srcA x a) (fun l => scratchFate s x.w (srcA x a l) (bits / 8) true) fun s loc =>
      .ok (performLanes s m peg (srcA x a)
        (rmwLane x (bits / 8) (casPush bits 0).length o sc false loc (casNew x bits b c) (casPush bits)))

/-! ### Ply cells (R284 to R290) -/

/-- A cell; one never written stands at epoch 1 with the eight bytes memory holds (R284). Memory keeps sibling 0, which plain reads return
(R285). -/
def plyCell (s : State) (pa : Nat) : PlyCell :=
  (s.ply.find? fun c => c.pa == pa).getD { pa := pa, epoch := 1, siblings := [Memory.readWord s.mem pa] }

def setPly (s : State) (c : PlyCell) : State :=
  { s with ply := c :: s.ply.filter (fun d => d.pa != c.pa), mem := Memory.writeWord s.mem c.pa (c.siblings.headD 0) }

def nextEpoch (e : Nat) : Nat := if e ≥ 2 ^ 40 - 1 then 1 else e + 1

/-- Entries of a die's ply store in use: siblings 2 to 7 of the cells it homes. -/
def plyUsed (s : State) (die : Nat) : Nat :=
  ((s.ply.filter fun c => homeDie c.pa == die).map fun c => c.siblings.length - 2).foldl (· + ·) 0

def plyCapacity : Nat := 8388608

/-- R286's address check. -/
def plyCheck (va : Word) : Nat := field va 3 16 ^^^ field va 19 16

def knotOf (c : PlyCell) (va : Word) : Word := word (c.epoch * 2 ^ 24 + (2 ^ c.siblings.length - 1) * 2 ^ 16 + plyCheck va)

/-- A knot is current when it is the one the cell would give now (R286); the blind knot never is. -/
def isCurrent (c : PlyCell) (va k : Word) : Bool := k != 0 && k == knotOf c va

/-- R383: a consumer of a cell that is poisoned, or stands in a poisoned line. -/
def plyPoison (s : State) (pa : Nat) (c : PlyCell) : Option Nat :=
  if c.poisoned then some 0x0B else if meetsPoison s pa then some 0x07 else none

/-- A cell replaced by a current knot's value, poison gone (R289, R290, R383). -/
def plyReplace (s : State) (c : PlyCell) (v : Word) : State :=
  setPly s { c with epoch := nextEpoch c.epoch, siblings := [v], poisoned := false }

def ordered (x : Issue) (o : Order) (sc : Scope) (s : State) (l : Nat) : State :=
  let s := if releases o then releaseAt s sc x.w.id l else s
  if acquires o then acquireAt s sc x.w.die x.w.core else s

/-- A cell whose line is undefined holds free values: its epoch, its siblings and how many they are (R234). -/
def freeCell (s : State) (c : PlyCell) : PlyCell × State :=
  let (bs, s) := takeFreeBytes s 70
  let sib := fun (k : Nat) => leWord ((bs.drop (6 + 8 * k)).take 8)
  ({ c with epoch := leNat (bs.take 5) % 2 ^ 40, siblings := (List.range ((bs.getD 5 0).toNat % 8 + 1)).map sib }, s)

/-- Whether a current knot's store can reach its cell: a line whose stack has failed completes poisoned whatever the knot (R392). -/
def clears (s : State) (c : PlyCell) (va k : Word) : Bool := isCurrent c va k && !cannotStore s c.pa

/-- The order of a ply operation (R265): a read, and an RMW where it changed its cell. -/
def orderPly (x : Issue) (l : Nat) (o : Order) (sc : Scope) (loc : Loc) (old : State) (d : LaneDone) : LaneDone :=
  if noneLoose old || d.bad.isSome then d
  else
    let s := orderRead d.s x.w l 8 o sc loc
    { d with s := if d.s.ply == old.ply then s else orderWrite s x.w l 8 o sc true loc }

/-- A ply operation of a lane at its cell. -/
def plyLane (x : Issue) (o : Order) (sc : Scope) (va : Word) (loc : Nat → Loc) (f : State → PlyCell → LaneDone) (s : State) (l : Nat) :
    LaneDone :=
  let s := ordered x o sc s l
  match loc l with
  | .glob pa treat _ =>
    let s := touchLine s treat pa
    let c := { plyCell s pa with ctx := x.w.ctx, va := va }
    orderPly x l o sc (loc l) s (if isUndef s pa then let (c, s) := freeCell s c; f s c else f s c)
  | _ => { s := s }

def ldvLane (va i : Word) (s : State) (c : PlyCell) : LaneDone :=
  match plyPoison s c.pa c with
  | some k => poisonDone s k 3
  | none => { s := s, push := [c.siblings.getD i.toNat 0, word c.siblings.length, knotOf c va] }

def execLdv (g : Guard) (peg : PegSel) (sc : Scope) (o : Order) (a b : Src) (s : State) : Result :=
  issue (.ldv g peg sc o a b) s fun x s => closing s fun s =>
    let m := acting x.w g
    checked x s .read m (srcA x a) (fun l => globFate s x.w (srcA x a l) 8 .ply false) fun s loc =>
      .ok (performLanes s m peg (srcA x a) fun s l => plyLane x o sc (srcA x a l) loc (ldvLane (srcA x a l) (srcB x b l)) s l)

/-- R289. -/
def stvLane (ctx : Nat) (va v k : Word) (s : State) (c : PlyCell) : LaneDone :=
  let n := c.siblings.length
  if clears s c va k then { s := plyReplace s c v, push := [1] }
  else
    match plyPoison s c.pa c with
    | some e => poisonDone s e 1
    | none =>
      if n ≥ 8 || plyUsed s (homeDie c.pa) ≥ plyCapacity then
        { s := sendEvent s (.context ctx) Ev.plyfull va 0, push := [0] }
      else { s := setPly s { c with siblings := c.siblings ++ [v] }, push := [word (n + 1)] }

def execStv (g : Guard) (peg : PegSel) (sc : Scope) (o : Order) (a b c : Src) (s : State) : Result :=
  issue (.stv g peg sc o a b c) s fun x s => closing s fun s =>
    let m := acting x.w g
    checked x s .rmw m (srcA x a) (fun l => globFate s x.w (srcA x a l) 8 .ply true) fun s loc =>
      .ok (performLanes s m peg (srcA x a) fun s l => plyLane x o sc (srcA x a l) loc (stvLane x.w.ctx (srcA x a l) (srcB x b l) (srcC x c l)) s l)

/-- R290. -/
def reconLane (va v k : Word) (s : State) (c : PlyCell) : LaneDone :=
  if clears s c va k then { s := plyReplace s c v, push := [1] }
  else
    match plyPoison s c.pa c with
    | some e => poisonDone s e 1
    | none => { s := s, push := [word (0x100 + c.siblings.length)] }

def execRecon (g : Guard) (peg : PegSel) (sc : Scope) (o : Order) (a b c : Src) (s : State) : Result :=
  issue (.recon g peg sc o a b c) s fun x s => closing s fun s =>
    let m := acting x.w g
    checked x s .rmw m (srcA x a) (fun l => globFate s x.w (srcA x a l) 8 .ply true) fun s loc =>
      .ok (performLanes s m peg (srcA x a) fun s l => plyLane x o sc (srcA x a l) loc (reconLane (srcA x a l) (srcB x b l) (srcC x c l)) s l)

end Sys2Proof.Machine
end

