-- ==== Sys2Proof/Machine/Barrier.lean ====
section
/-! DEFINITION. The barrier instructions (R299 to R302). Each is performed once for its warp, on the operands of the lowest acting lane. -/

namespace Sys2Proof.Machine

/-- Where an object address leads, short of its mark (R294, R299). -/
def objFate (s : State) (w : Warp) (sp : Space) (a : Word) (rd wr : Bool) : Fate :=
  if field a 0 4 != 0 then .misalign
  else
    match sp with
    | .scratch =>
      match scratchPlace s w a 16 with
      | some (core, off) => .fine (.scratch (scratchKey core off) (a.getLsbD 31))
      | none => .range
    | .global =>
      if outOfRange a.toNat 16 then .range
      else
        fateOf (translate s w.die (some w.core) w.ctx a.toNat) rd wr fun pa treat =>
          if (treat == 0 || treat == 2) && targetOf s pa == .hbm && !(wr && (hwOffset s w.ctx a.toNat).isSome) && !inDeviceArea s w.ctx a.toNat 16 then .fine (.glob pa treat false)
          else .refused

def placeOf (w : Warp) (sp : Space) : Loc → ObjPlace
  | .glob pa _ _ => { space := sp, at_ := pa }
  | .scratch a _ => { space := sp, group := w.group, at_ := a }
  | _ => { space := sp, at_ := 0 }

/-- R299's checks of an object address, in order; `m` is what a trap reports. -/
def reachObject (x : Issue) (s : State) (k : AccKind) (m : Mask) (sp : Space) (a : Word) (rd wr : Bool) (body : State → ObjPlace → End) : End :=
  match objFate s x.w sp a rd wr with
  | .misalign => trapWith s Cause.misalign m a
  | .range | .refused => trapWith s Cause.access m a
  | .page => trapWith s Cause.page m a
  | .held n => .stall (.stack n)
  | .replay st lv ad e => parkOn x s k [(m, a, .replay st lv ad e)]
  | .clobber => trapWith s Cause.bclobber m a
  | .fine loc =>
    match holdOf s loc with
    | some n => .stall (.stack n)
    | none =>
      let s := match loc with
        | .glob pa treat _ => loosen (touchLine (walked s x.w.die (some x.w.core) x.w.ctx a.toNat) treat pa) pa
        | _ => s
      body s (placeOf x.w sp loc)

/-- The same for an instruction that acts on the object itself, after the matrix operations its warp issued (R263). -/
def onObject (x : Issue) (s : State) (k : AccKind) (m : Mask) (sp : Space) (a : Word) (rd wr : Bool) (body : State → ObjPlace → End) : End :=
  reachObject x s k m sp a rd wr fun s p => afterJobs s x.w (body s p)

/-- The instruction once, where some lane acts. -/
def oncePerWarp (x : Issue) (s : State) (g : Guard) (body : Mask → Nat → End) : End :=
  match lowest (acting x.w g) with
  | some l => body (acting x.w g) l
  | none => .ok s

/-- A marked object, else ACCESS. -/
def onMarked (s : State) (m : Mask) (a : Word) (p : ObjPlace) (k : End) : End := if isMarked s p then k else trapWith s Cause.access m a

/-- A marked object read or changed. One that meets poison is not, and SOFT is due: where the instruction pushes, `read`, zeros are pushed
(R383). -/
def onLive (s : State) (m : Mask) (a : Word) (p : ObjPlace) (read : Bool) (k : End) : End :=
  onMarked s m a p (match objPoison s p with
    | some kind => .ok (softReport (if read then pushAll s m fun _ => 0 else s) s.warp.id kind a m)
    | none => k)

/-- The object's RMW, its peg attached. -/
def objStep (s : State) (m : Mask) (peg : PegSel) (p : ObjPlace) (e : ObjEvent) : State := objEvent (beginOp s m peg true).2 p e

/-- Entries of a die's home table in use, of 65,536 (R294). -/
def homeFull (s : State) (p : ObjPlace) : Bool :=
  p.space == .global && (s.homes.filter fun h => homeDie h.pa == homeDie p.at_).length ≥ 65536

def markObject (s : State) (w : Warp) (p : ObjPlace) : State :=
  match p.space with
  | .global => { s with homes := { pa := p.at_, ctx := w.ctx, group := w.group } :: s.homes }
  | .scratch => updateGroup s (p.group.getD 0) fun g => { g with marks := p.at_ :: g.marks }

/-- R300. -/
def execBinit (g : Guard) (peg : PegSel) (sp : Space) (a b c : Src) (s : State) : Result :=
  issue (.binit g peg sp a b c) s fun x s => closing s fun s => oncePerWarp x s g fun m l =>
    let n := srcB x b l
    let by_ := srcC x c l
    if n == 0 || field n 16 48 != 0 then trapWith s Cause.illopnd m n
    else if field by_ 31 33 != 0 then trapWith s Cause.illopnd m by_
    else
      onObject x s .write m sp (srcA x a l) false true fun s p =>
        if isMarked s p then trapWith s Cause.bclobber m (srcA x a l)
        else if homeFull s p then trapWith s Cause.access m (srcA x a l)
        else
          let s := (beginOp s m peg true).2
          if p.space == .global && cannotStore s p.at_ then .ok (poisonLine s p.at_)
          else
          let o : Obj := { expArr := n.toNat, pendArr := n.toNat, expBytes := by_.toNat, pendBytes := by_.toNat, init := true }
          .ok (markObject (writeObj s p o) x.w p)

def sameObject (p : ObjPlace) (r : Registration) : Bool := r.space == p.space && r.place == p.at_

/-- The warp is registered with the phase its arrival is applied in (R296). -/
def Warp.register (w : Warp) (p : ObjPlace) (a : Word) (q : BitVec 16) : Warp :=
  if w.regs.any (sameObject p) then { w with regs := updateWhere (sameObject p) (fun r => { r with phase := q }) w.regs }
  else { w with regs := w.regs ++ [{ space := p.space, addr := a, place := p.at_, phase := q }] }

/-- R301. -/
def execBarrive (g : Guard) (peg : PegSel) (sp : Space) (a b : Src) (s : State) : Result :=
  issue (.barrive g peg sp a b) s fun x s => closing s fun s => oncePerWarp x s g fun m l =>
    let n := srcB x b l
    if field n 31 33 != 0 then trapWith s Cause.illopnd m n
    else
      onObject x s .rmw m sp (srcA x a l) true true fun s p => onLive s m (srcA x a l) p false (
        if s.warp.regs.length ≥ 8 && !s.warp.regs.any (sameObject p) then trapWith s Cause.illopnd m (srcA x a l)
        else
          let s := releaseInto (releaseWarp s sp x.w.id) p x.w.id x.w.core
          let s := { s with warp := s.warp.register p (srcA x a l) (objPhase s p) }
          .ok (objStep s m peg p (.arrive n.toNat)))

def execBexpect (g : Guard) (peg : PegSel) (sp : Space) (a b : Src) (s : State) : Result :=
  issue (.bexpect g peg sp a b) s fun x s => closing s fun s => oncePerWarp x s g fun m l =>
    let n := srcB x b l
    if field n 31 33 != 0 then trapWith s Cause.illopnd m n
    else onObject x s .rmw m sp (srcA x a l) true true fun s p => onLive s m (srcA x a l) p false (.ok (objStep s m peg p (.expect n.toNat)))

def execBdrop (g : Guard) (peg : PegSel) (sp : Space) (a : Src) (s : State) : Result :=
  issue (.bdrop g peg sp a) s fun x s => closing s fun s => oncePerWarp x s g fun m l =>
    onObject x s .rmw m sp (srcA x a l) true true fun s p => onLive s m (srcA x a l) p false (
      let s := releaseInto (releaseWarp s sp x.w.id) p x.w.id x.w.core
      let s := { s with warp := { s.warp with regs := s.warp.regs.filter fun r => !sameObject p r } }
      .ok (objStep s m peg p .drop))

/-- A test's word delivered; one that reports the phase passed is an acquire (R262). -/
def deliver (s : State) (w : Warp) (sp : Space) (m : Mask) (v : Word) : State :=
  pushAll (if v.getLsbD 16 then acquireAt s (objScope sp) w.die w.core else s) m fun _ => v

/-- The same for the phase p0 of an object tested now. -/
def deliverTest (s : State) (w : Warp) (p : ObjPlace) (p0 : Nat) (m : Mask) (v : Word) : State :=
  deliver (if v.getLsbD 16 then seeObject s w p p0 else s) w p.space m v

/-- R302: BTEST. -/
def execBtest (g : Guard) (sp : Space) (a b : Src) (s : State) : Result :=
  issue (.btest g sp a b) s fun x s => oncePerWarp x s g fun m l =>
    onObject x s .read m sp (srcA x a l) true false fun s p => onLive s m (srcA x a l) p true (
      let q := (readObj s p).phase
      let p0 := field (srcB x b l) 0 16
      .ok (deliverTest s x.w p p0 m (waitWord q (phasePassed q p0) false)))

/-- R302: BWAIT. A woken warp delivers what it was woken with; one whose BWAIT is issued again on restore finds an unmarked object gone. -/
def execBwait (g : Guard) (sp : Space) (a b : Src) (s : State) : Result :=
  issue (.bwait g sp a b) s fun x s => closing s fun s => oncePerWarp x s g fun m l =>
    match x.w.wake with
    | some v => .ok (deliver { s with warp := { s.warp with wake := none } } x.w sp m v)
    | none =>
      onObject x s .read m sp (srcA x a l) true false fun s p =>
        let q := (readObj s p).phase
        let p0 := field (srcB x b l) 0 16
        let s1 := { s with warp := { s.warp with reissue := false } }
        if x.w.reissue && !isMarked s p then .ok (deliver s1 x.w sp m (waitWord q false true))
        else
          onLive s m (srcA x a l) p true (
            if phasePassed q p0 then .ok (deliverTest s1 x.w p p0 m (waitWord q true false))
            else
              let s2 := tick s1
              .done { s2 with warp := { s2.warp with
                status := .blocked sp p.at_ (BitVec.ofNat 16 p0) s2.now, wcount := x.w.wcount } })

end Sys2Proof.Machine
end

