-- ==== Sys2Proof/Machine/Control.lean ====
section
/-! DEFINITION. Control: branches, splits and seams, loops, calls, EXIT (R165 to R181). -/

namespace Sys2Proof.Machine

/-! ### Targets and guards -/

/-- The address a number of blocks from the warp's block (R43, R44). -/
def blockAt (w : Warp) (o : Int) : Word := word (((w.base.toNat : Int) + 128 * o) % ((2 ^ 57 : Nat) : Int)).toNat

/-- Active lanes whose guard differs from the lowest active lane's (R181). -/
def guardDiffers (w : Warp) (g : Guard) : Mask :=
  match lowest w.active with
  | some l0 => maskOf fun l => w.active.getLsbD l && guardHolds w l g != guardHolds w l0 g
  | none => 0

/-- R169, R176, R177: NONUNIFORM where the guard differs; on to the next block where it holds for no lane; else the instruction. -/
def uniformly (x : Issue) (s : State) (g : Guard) (k : End) : End :=
  let m := guardDiffers x.w g
  if m != 0 then trapWith s Cause.nonuniform m 1
  else if acting x.w g == 0 then .jump s x.w.nextBlock
  else k

/-- A target's alignment (R43). -/
def aligned (x : Issue) (s : State) (g : Guard) (t : Word) (k : End) : End :=
  if field t 0 7 != 0 then trapWith s Cause.misalign (acting x.w g) t else k

/-- The target that every acting lane must agree on (R169). -/
def agreed (x : Issue) (s : State) (g : Guard) (a : Src) (k : Word → End) : End :=
  match lowest (acting x.w g) with
  | none => .jump s x.w.nextBlock
  | some l0 =>
    let t := srcA x a l0
    let m := maskOf fun l => x.w.active.getLsbD l && srcA x a l != t
    if m != 0 then trapWith s Cause.nonuniform m 2 else aligned x s g t (k t)

/-! ### NOP, YIELD, uniform branches -/

def execNop (g : Guard) (s : State) : Result := issue (.nop g) s fun _ s => .ok s

/-- R179. -/
def execYield (g : Guard) (s : State) : Result :=
  issue (.yield g) s fun x s => if acting x.w g == 0 then .ok s else .ok { s with warp := { s.warp with stood := true } }

/-- R169. -/
def execBra (g : Guard) (o : BitVec 33) (s : State) : Result :=
  issue (.bra g o) s fun x s =>
    let t := blockAt x.w o.toInt
    uniformly x s g (aligned x s g t (.jump s t))

/-- R169. -/
def execBrx (g : Guard) (a : Src) (s : State) : Result :=
  issue (.brx g a) s fun x s => uniformly x s g (agreed x s g a fun t => .jump s t)

/-! ### Pleat entries -/

/-- R166's limit of 64, and the four that a handler may push (R365). -/
def pleatRoom (s : State) (k : End) : End :=
  let w := s.warp
  if w.pleats.length ≥ 64 then trapWith s Cause.pleatovf w.active 0
  else
    match w.shadow with
    | some sh => if w.h && w.pleats.length ≥ sh.depth + 4 then hFault s 2 else k
    | none => k

/-- The innermost entry of the current frame. -/
def Warp.innermost (w : Warp) : Option Pleat := if w.frameDepth = 0 then none else w.pleats.head?

def Warp.ds (w : Warp) : List Nat := w.lanes.map (·.d)

/-- Depths set in the lanes of a mask. -/
def Warp.setDs (w : Warp) (m : Mask) (f : Nat → Nat) : Warp := mapLanes w fun l x => if m.getLsbD l then { x with d := f l } else x

/-- An entry popped: the watchdog's count is zero (R183). -/
def Warp.pop (w : Warp) : Warp := { w with pleats := w.pleats.drop 1, wcount := 0 }

/-- The innermost entry replaced. -/
def Warp.setTop (w : Warp) (e : Pleat) : Warp := { w with pleats := e :: w.pleats.drop 1 }

/-- Lanes go on past an entry with n more picks than it saved. -/
def Warp.resumeLanes (w : Warp) (m : Mask) (e : Pleat) (n : Nat) : Warp :=
  ({ w with active := m }.setDs m fun l => min (e.savedD.getD l 0 + n) 16).pop

/-- R181: no matching entry, wrong k or second resume. -/
def noEntry (s : State) : End := trapWith s Cause.seamlayout s.warp.active 0xFF

/-- R170. -/
def execBrc (g : Guard) (o : BitVec 33) (so : BitVec 13) (s : State) : Result :=
  issue (.brc g o so) s fun x s => closing s fun s =>
    let t := blockAt x.w o.toInt
    aligned x s g t (pleatRoom s (
      let w := s.warp
      let taken := acting x.w g
      let rest := w.active &&& ~~~taken
      let e : Pleat := { kind := .split, span := w.active, waiting := taken, resume := some t, seam := blockAt x.w so.toInt, savedD := w.ds }
      let w1 := w.setDs w.active fun _ => 0
      if rest != 0 then .jump { s with warp := { w1 with pleats := e :: w1.pleats, active := rest } } x.w.nextBlock
      else
        .jump { s with warp := { w1 with pleats := { e with phase := true, waiting := 0, resume := some e.seam } :: w1.pleats } } t))

/-- The weft a lane leaves an arm with (R171): exports, then what lay below the arm's d picks. -/
def rebuild (sel : List Nat) (d : Nat) (weft : List Slot) : List Slot :=
  ((sel.map fun k => weft.getD k ({} : Slot)) ++ weft.drop d ++ emptyWeft).take 16

def SeamDecl.sels (d : SeamDecl) (taken : Bool) : List Nat :=
  ((if taken then [d.s4, d.s5, d.s6, d.s7] else [d.s0, d.s1, d.s2, d.s3]).map (·.val)).take d.n.val

/-- R171. -/
def execSeam (g : Guard) (d : SeamDecl) (s : State) : Result :=
  issue (.seam g d) s fun _ s => closing s fun s =>
    let w := s.warp
    match w.innermost with
    | none => noEntry s
    | some e =>
      if e.kind != .split || e.seam != w.base then noEntry s
      else
        let want := if e.phase then d.d1.val else d.d0.val
        let bad := maskOf fun l => w.active.getLsbD l && (w.lane l).d != want
        if bad != 0 then trapWith s Cause.seamlayout bad (word (want + b2w e.phase * 2 ^ 8))
        else
          let sel := SeamDecl.sels d e.phase
          let w1 := mapLanes w fun l x => if w.active.getLsbD l then { x with weft := rebuild sel want x.weft } else x
          if !e.phase && e.waiting != 0 then
            let e1 := { e with phase := true, count := some d.n.val, waiting := w.active, resume := some e.seam }
            .jump { s with warp := { w1.setTop e1 with active := e.waiting } } (e.resume.getD 0)
          else .event { s with warp := w1.resumeLanes (w.active ||| (if e.phase then e.waiting else 0)) e d.n.val } 3

/-- R173. -/
def execMark (g : Guard) (k : Fin 16) (s : State) : Result :=
  issue (.mark g k) s fun _ s => closing s fun s => pleatRoom s (
    let w := s.warp
    let e : Pleat := { kind := .loop, span := w.active, seam := 0, count := some k.val, savedD := w.ds.map fun d => d - min d k.val }
    .event { s with warp := { w.setDs w.active (fun _ => k.val) with pleats := e :: w.pleats } } 4)

def ConformSel.sels (k : Nat) (c : ConformSel) : List Nat :=
  ([c.c0, c.c1, c.c2, c.c3, c.c4, c.c5, c.c6, c.c7].map (·.val)).take k

/-- R174. -/
def execConform (g : Guard) (k : Fin 16) (c : ConformSel) (s : State) : Result :=
  issue (.conform g k c) s fun _ s => closing s fun s =>
    let w := s.warp
    match w.innermost with
    | none => noEntry s
    | some e =>
      if e.kind != .loop || e.count != some k.val then noEntry s
      else
        let full := maskOf fun l => w.active.getLsbD l && (w.lane l).d == 16
        if full != 0 then trapWith s Cause.seamlayout full (word k.val)
        else
          let sel := ConformSel.sels k.val c
          .ok { s with warp := mapLanes w fun l x =>
            if w.active.getLsbD l then { x with weft := rebuild sel x.d x.weft, d := k.val } else x }

/-- R175. -/
def execBrl (g : Guard) (o : BitVec 33) (s : State) : Result :=
  issue (.brl g o) s fun x s => closing s fun s =>
    let t := blockAt x.w o.toInt
    aligned x s g t (
      let w := s.warp
      match w.innermost with
      | none => noEntry s
      | some e =>
        if e.kind != .loop then noEntry s
        else
          let k := e.count.getD 0
          let bad := maskOf fun l => w.active.getLsbD l && (w.lane l).d != k
          if bad != 0 then trapWith s Cause.seamlayout bad (word k)
          else
            let stay := acting x.w g
            let go := w.active &&& ~~~stay
            let next := x.w.nextBlock
            if go != 0 && e.resume.isSome && e.resume != some next then noEntry s
            else
              let e1 := if go != 0 then { e with resume := some next, waiting := e.waiting ||| go } else e
              if stay != 0 then .jump { s with warp := { w.setTop e1 with active := stay } } t
              else .jump { s with warp := w.resumeLanes e1.waiting e k } next)

/-! ### Calls -/

/-- The call level pushed, and the callee's frame entered (R176). -/
def Warp.enterCall (w : Warp) (frame nargs : Nat) : Warp :=
  let level : CallLevel :=
    { lanes := w.lanes.map (fun x => { weft := x.weft, d := x.d, pocket := x.pocket }), frame := w.frame, active := w.active
      depth := w.pleats.length, ret := w.nextBlock }
  let w1 := mapLanes w fun l x =>
    { x with
      weft := (x.weft.take nargs ++ emptyWeft).take 16
      d := if w.active.getLsbD l then nargs else x.d
      pocket := List.replicate frame 0 }
  { w1 with calls := level :: w1.calls, frame := frame }

/-- What CALL and CALLX share once the target is known: the stall of R14, the limit of R18, the call. -/
def callTo (s : State) (frame nargs : Nat) (t : Word) : End :=
  let w := s.warp
  if w.lanes.any fun x => x.weft.any fun v => v.pend.isSome then .stall .values
  else if w.calls.length ≥ 256 then trapWith s Cause.callovf w.active 0
  else .jump { s with warp := w.enterCall frame nargs } t

def execCall (g : Guard) (o : BitVec 33) (frame : Fin 64) (nargs : Fin 16) (s : State) : Result :=
  issue (.call g o frame nargs) s fun x s => closing s fun s =>
    if s.warp.h then hFault s 1
    else
      let t := blockAt x.w o.toInt
      uniformly x s g (aligned x s g t (callTo s frame.val nargs.val t))

def execCallx (g : Guard) (a : Src) (frame : Fin 64) (nargs : Fin 16) (s : State) : Result :=
  issue (.callx g a frame nargs) s fun x s => closing s fun s =>
    if s.warp.h then hFault s 1
    else uniformly x s g (agreed x s g a fun t => callTo s frame.val nargs.val t)

/-- A lane's weft, depth and pocket as a call level holds them. -/
def Lane.restored (x : Lane) (v : SavedLane) : Lane := { x with weft := v.weft, d := v.d, pocket := v.pocket }

/-- The caller's frame as it stood (R177, R167). -/
def Warp.leaveCall (w : Warp) (c : CallLevel) : Warp :=
  { w with
    lanes := mapFrom (fun l x => match c.lanes[l]? with | some v => Lane.restored x v | none => x) 0 w.lanes
    frame := c.frame, calls := w.calls.drop 1 }

/-- R177. -/
def execRet (g : Guard) (nres : Fin 16) (s : State) : Result :=
  issue (.ret g nres) s fun x s => closing s fun s =>
    if s.warp.h then hFault s 1
    else
      let w := s.warp
      let depth := w.pleats.length
      match w.calls with
      | [] => trapWith s Cause.retmatch w.active (word (0x7F + depth * 2 ^ 8))
      | c :: _ =>
        if depth != c.depth then trapWith s Cause.retmatch w.active (word (c.depth + depth * 2 ^ 8))
        else
          uniformly x s g (
            let results := fun (l : Nat) => (w.lane l).weft.take nres.val
            let w1 := w.leaveCall c
            let w2 := mapLanes w1 fun l y => if w.active.getLsbD l then (results l).foldr (fun v z => z.push v) y else y
            .jump { s with warp := { w2 with active := c.active &&& ~~~w.gone } } c.ret)

/-! ### EXIT -/

/-- Where R167 leaves a warp. -/
inductive TakeUp where
  | exited (w : Warp)
  | runs (w : Warp)

/-- R167's procedure; `fuel` counts entries and call levels. -/
def takeUp : Nat → Warp → TakeUp
  | 0, w => .exited w
  | fuel + 1, w =>
    match w.innermost with
    | none =>
      match w.calls with
      | [] => .exited w
      | c :: _ => takeUp fuel (w.leaveCall c)
    | some e =>
      match e.kind with
      | .split =>
        if !e.phase && e.waiting != 0 then
          .runs ({ w.setTop { e with phase := true, waiting := 0, resume := some e.seam } with active := e.waiting }.goTo (e.resume.getD 0))
        else if e.waiting != 0 then
          let w1 := w.resumeLanes e.waiting e (e.count.getD 0)
          .runs { w1.goTo e.seam with phase := .fetch .seam, idx := 2 }
        else takeUp fuel w.pop
      | .loop =>
        if e.waiting != 0 then .runs ((w.resumeLanes e.waiting e (e.count.getD 0)).goTo (e.resume.getD 0))
        else takeUp fuel w.pop

/-- Lanes that go are cleared from every mask (R165). -/
def Warp.clearLanes (w : Warp) (m : Mask) : Warp :=
  { w with
    active := w.active &&& ~~~m
    gone := w.gone ||| m
    pleats := w.pleats.map fun e => { e with span := e.span &&& ~~~m, waiting := e.waiting &&& ~~~m }
    calls := w.calls.map fun c => { c with active := c.active &&& ~~~m }
    shadow := w.shadow.map fun h => { h with active := h.active &&& ~~~m } }

/-- A handler whose last lane went: its entries are discarded and handler mode ends (R365). -/
def Warp.endHandler (w : Warp) : Warp :=
  match w.h, w.shadow with
  | true, some sh => { w with pleats := w.pleats.drop (w.pleats.length - sh.depth), h := false, shadow := none }
  | _, _ => w

/-- Each lane that goes makes its record's join arrival, a release at `pkg` (R200). -/
def exitJoins (s : State) (m : Mask) : State :=
  let w := s.warp
  let s1 := (lanesOf m).foldl (fun s l => match w.recs.getD l none with
    | some r =>
      if r.join then
        let s := releaseAt s .pkg w.id l
        r.joinPa.elim s fun pa => releaseInto s { space := .global, at_ := pa } w.id w.core (some l)
      else s
    | none => s) s
  joinLanes s1 w m

/-- The stack in self-refresh that the join arrivals of some lanes wait for (R392). -/
def exitHeld (s : State) (m : Mask) : Option Nat :=
  (lanesOf m).findSome? fun l => (s.warp.recs.getD l none).bind (joinHeld s s.warp.ctx)

/-- Whether a lane's record owes a join arrival. -/
def owesJoin (w : Warp) (l : Nat) : Bool := ((w.recs.getD l none).map (·.join)).getD false

/-- R180. A join arrival is a release, so it follows the matrix operations the warp issued (R263). -/
def execExit (g : Guard) (s : State) : Result :=
  issue (.exit g) s fun x s => closing s fun s =>
    let m := acting x.w g
    if m == 0 then .jump s x.w.nextBlock
    else if (lanesOf m).any (owesJoin s.warp) && jobsDue s s.warp then .stall .matrixDone
    else if let some n := exitHeld s m then .stall (.stack n)
    else
      let s1 := exitJoins s m
      let w1 := s1.warp.clearLanes m
      if w1.active != 0 then .jump { s1 with warp := w1 } x.w.nextBlock
      else
        match takeUp (w1.pleats.length + w1.calls.length + 1) w1.endHandler with
        | .runs w2 => .done { s1 with warp := w2 }
        | .exited w2 => .done (leaveIfQuiet { s1 with warp := { w2 with status := .leaving } } w2.id)

end Sys2Proof.Machine
end

