-- ==== Sys2Proof/Machine/Matrix.lean ====
section
/-! DEFINITION. The matrix unit: what each instruction checks and queues, and what an operation does when it is performed (R140 to R163). -/

namespace Sys2Proof.Machine

/-! ### Planes and tiles (R140 to R144) -/

/-- The plane that is physically 1 when `one`. -/
def MatrixUnit.plane (u : MatrixUnit) (one : Bool) : Plane := if one then u.plane1 else u.plane0

def MatrixUnit.setPlane (u : MatrixUnit) (one : Bool) (p : Plane) : MatrixUnit := if one then { u with plane1 := p } else { u with plane0 := p }



/-- Ownership, modes, formats and plane roles after a queued operation. -/
def viewStep (u : MatrixUnit) (j : MatrixJob) : MatrixUnit :=
  match j.what with
  | .mzero t md => u.setTile t { u.tile t with owner := some j.warp, mode := md }
  | .mlds fmt _ _ => { u.setPlane (!u.active) { u.plane (!u.active) with fmt := some fmt } with holder := some j.warp }
  | .mswap => { u with active := !u.active, holder := some j.warp }
  | _ => u

/-- The unit as its queue will leave it: what an instruction that issues now meets (R152). -/
def viewOf (u : MatrixUnit) : MatrixUnit := u.jobs.foldl viewStep u

/-- R144. -/
def formatFits (fmt : PlaneFmt) (md : TileMode) : Bool :=
  match md with
  | .fp32 => fmt != .res
  | .exact => fmt == .int8 || fmt == .int4
  | .raw => fmt == .res

/-- The type code of a plane format (R144). -/
def formatCode : PlaneFmt → Nat
  | .bi8 => 24
  | .bi4 => 25
  | .e2m1 => 22
  | .int8 => 0
  | .int4 => 11
  | .res => 26

def tileModeCode : TileMode → Nat
  | .fp32 => 0
  | .exact => 1
  | .raw => 2

/-- MATFMT's report (R363). -/
def matfmtInfo (fmt : Option PlaneFmt) (md : TileMode) : Word := word ((fmt.elim 0x1F formatCode) + tileModeCode md * 2 ^ 8)

/-- A tile's status word (R143). -/
def statusWord (t : Tile) : Word :=
  word (t.steps * 2 ^ 16 + tileModeCode t.mode * 2 ^ 4 + b2w t.inx * 8 + b2w t.inv * 4 + b2w t.sat * 2 + b2w t.ovr)

/-- Sticky flags of a tile from the flags of R89: OVF is its OVR, and underflow is not recorded. -/
def Tile.raise (t : Tile) (f : Flags) : Tile :=
  { t with
    inx := t.inx || f &&& Flag.inx != 0, inv := t.inv || f &&& Flag.inv != 0, sat := t.sat || f &&& Flag.sat != 0
    ovr := t.ovr || f &&& Flag.ovf != 0 }

/-! ### Issue (R155) -/

/-- The mask of R155. -/
def wholeWarp (x : Issue) (s : State) (g : Guard) (k : End) : End :=
  let m := acting x.w g
  if m == 0 then .ok s else if m != BitVec.allOnes 32 then trapWith s Cause.partmask m (word x.w.active.toNat) else k

def allLanes : Mask := BitVec.allOnes 32

/-- n bytes of the issuing core's allocation (R155). DESIGN CHOICE: an operand with a bit of [63:32] set names none (log 166). -/
def inAllocation (s : State) (w : Warp) (a n : Nat) : Bool :=
  match groupOf s w with
  | some g => decide (a < 2 ^ 19) && decide (a + n ≤ g.scratch)
  | none => false

/-- A job joins the unit's queue of eight; a follow-on takes no place until its copy lands (R163). -/
def enqueue (x : Issue) (s : State) (peg : PegSel) (what : MatrixOp) (note : Warp → MatrixUnit → Warp) (pages : List (Nat × Nat × Nat) := []) : End :=
  let u := unitOf s x.w
  if (u.jobs.filter fun j => j.copy.isNone).length ≥ 8 then .stall .matrixQueue
  else
    let (op, s) := beginOp s allLanes peg false
    let s := { s with warp := note s.warp (viewOf u) }
    .ok (setUnit s { u with jobs := u.jobs ++ [{ warp := x.w.id, op := some op, what := what, raced := looseRuns s x.w, pages := pages }] })

def noNote (w : Warp) (_ : MatrixUnit) : Warp := w

/-- The open region takes note of a claim of free planes (R386). -/
def noteClaim (w : Warp) (v : MatrixUnit) : Warp :=
  match w.region with
  | some r => if v.holder.isNone && r.plane.isNone then { w with region := some { r with plane := some v.active } } else w
  | none => w

def physBit (one : Bool) : BitVec 2 := if one then 2 else 1

def tileBit (t : Nat) : BitVec 4 := BitVec.ofNat 4 (2 ^ t)

def noteLoad (w : Warp) (v : MatrixUnit) : Warp :=
  let w := noteClaim w v
  { w with region := w.region.map fun r => { r with loaded := r.loaded ||| physBit (!v.active) } }

def noteZero (t : Nat) (w : Warp) (_ : MatrixUnit) : Warp :=
  { w with region := w.region.map fun r => { r with zeroed := r.zeroed ||| tileBit t } }

/-- ACCOWN for the planes (R141). -/
def planesFree (x : Issue) (s : State) (k : End) : End :=
  match (viewOf (unitOf s x.w)).holder with
  | some h => if h == x.w.id then k else trapWith s Cause.accown allLanes 4
  | none => k

/-- R156. -/
def execMzero (g : Guard) (m : TileMode) (tile : Fin 4) (s : State) : Result :=
  issue (.mzero g m tile) s fun x s => wholeWarp x s g (
    match ((viewOf (unitOf s x.w)).tile tile.val).owner with
    | some o => if o == x.w.id then enqueue x s { a := false, b := false } (.mzero tile.val m) (noteZero tile.val)
                else trapWith s Cause.accown allLanes (word tile.val)
    | none => enqueue x s { a := false, b := false } (.mzero tile.val m) (noteZero tile.val))

/-- R157. -/
def execMlds (g : Guard) (peg : PegSel) (fmt : PlaneFmt) (a b : Src) (s : State) : Result :=
  issue (.mlds g peg fmt a b) s fun x s => wholeWarp x s g (planesFree x s (
    let p := srcA x a 0
    let sc := srcB x b 0
    if field p 0 7 != 0 then trapWith s Cause.misalign allLanes p
    else if !inAllocation s x.w p.toNat (planeBytes fmt) then trapWith s Cause.access allLanes p
    else if hasScales fmt && !inAllocation s x.w sc.toNat 32 then trapWith s Cause.access allLanes sc
    else enqueue x s peg (.mlds fmt p.toNat sc.toNat) noteLoad))

/-- R158. -/
def execMswap (g : Guard) (s : State) : Result :=
  issue (.mswap g) s fun x s => wholeWarp x s g (planesFree x s (enqueue x s { a := false, b := false } .mswap noteClaim))

/-- Tiles that a stream of `rows` rows to tile t writes. -/
def streamTiles (t rows : Nat) : List Nat := (List.range ((rows + 31) / 32)).map (t + ·)

/-- The checks of R159 that follow ILLOPND's, as the trap they end in. -/
def streamCheck (s : State) (w : Warp) (tile rows : Nat) (a b c : Nat) : Option (Nat × Word) :=
  let v := viewOf (unitOf s w)
  let ts := streamTiles tile rows
  let fmt := (v.plane v.active).fmt
  if v.holder.elim false (· != w.id) then some (Cause.accown, 4)
  else
    match ts.find? fun t => (v.tile t).owner != some w.id with
    | some t => some (Cause.accown, word t)
    | none =>
      match ts.find? fun t => !(fmt.elim false fun f => formatFits f (v.tile t).mode) with
      | some t => some (Cause.matfmt, matfmtInfo fmt (v.tile t).mode)
      | none =>
        let f := fmt.getD .bi8
        if a % 16 != 0 then some (Cause.misalign, word a)
        else if c % 16 != 0 then some (Cause.misalign, word c)
        else if !inAllocation s w a ((rows - 1) * c + rowBytes f) then some (Cause.access, word a)
        else if hasScales f && !inAllocation s w b rows then some (Cause.access, word b)
        else none

/-- A stream in an open region that keeps it open (R387). -/
def streamKeeps (s : State) (w : Warp) (tile rows : Nat) : Bool :=
  match w.region with
  | none => true
  | some r =>
    (streamTiles tile rows).all (fun t => r.zeroed &&& tileBit t != 0) && r.loaded &&& physBit (viewOf (unitOf s w)).active != 0

def unlessKept (s : State) (keeps : Bool) (k : State → End) : End := if keeps then k s else closing s k

/-- R159. -/
def execMstream (g : Guard) (peg : PegSel) (m1 : Fin 128) (tile : Fin 4) (a b c : Src) (s : State) : Result :=
  issue (.mstream g peg m1 tile a b c) s fun x s => wholeWarp x s g (
    let rows := m1.val + 1
    let va := field (srcA x a 0) 0 32
    let vb := field (srcB x b 0) 0 32
    let vc := field (srcC x c 0) 0 32
    if tile.val + (rows + 31) / 32 > 4 then .trap s { illOpnd x with tmask := allLanes }
    else
      unlessKept s (streamKeeps s x.w tile.val rows) fun s =>
        match streamCheck s x.w tile.val rows va vb vc with
        | some (code, v) => trapWith s code allLanes v
        | none =>
          let v := viewOf (unitOf s x.w)
          enqueue x s peg (.mstream (((v.plane v.active).fmt).getD .bi8) tile.val rows va vb vc) noNote)

/-! ### MDRAIN (R160) -/

/-- The 4 KiB pages that runs of bytes touch, in order. -/
def pagesOf (runs : List (Nat × Nat)) : List Nat :=
  (runs.flatMap fun r => (List.range ((r.1 % 4096 + r.2 + 4095) / 4096)).map fun k => (r.1 / 4096 + k) * 4096).eraseDups

/-- A run cut at page ends. -/
def pagePieces (a : Nat) : Nat → Nat → List (Nat × Nat)
  | 0, _ => []
  | fuel + 1, n => if n = 0 then [] else
    let k := min n (4096 - a % 4096)
    (a, k) :: pagePieces (a + k) fuel (n - k)

/-- Where the pages of a drain put an address. -/
def inPages (pages : List (Nat × Nat × Nat)) (a : Nat) : Option (Nat × Nat) :=
  (pages.find? fun p => p.1 == a / 4096 * 4096).map fun p => (p.2.1 + a % 4096, p.2.2)

/-- Whether a queued drain's stores meet a stack in self-refresh (R392). -/
def jobHeld (s : State) (j : MatrixJob) : Bool :=
  match j.what with
  | .mdrain _ cv _ true _ a _ c _ =>
    s.hbmStacks.any (fun k => k.st == .holding) && (drainRuns cv a.toNat c).any fun r => (List.range (r.2 / 128 + 2)).any fun k =>
      let va := max r.1 ((r.1 / 128 + k) * 128)
      decide (va < r.1 + r.2) && (inPages j.pages (va % 2 ^ 64)).elim false fun q => isHeld s q.1
  | _ => false

/-- The checks of a drain to global memory: every page translated with write permission, no marked granule. -/
def drainGlobal (x : Issue) (s : State) (runs : List (Nat × Nat)) (k : State → List (Nat × Nat × Nat) → End) : End :=
  match runs.find? fun r => outOfRange r.1 r.2 with
  | some r => trapWith s Cause.access allLanes (word r.1)
  | none =>
    let fates := (pagesOf runs).map fun p => (p, pageFate s x.w.die (some x.w.core) x.w.ctx (word p) 1 .store true)
    let first := fun (f : Fate → Bool) => fates.find? fun q => f q.2
    let held := fates.findSome? fun q => match q.2 with
      | .held n => some n
      | _ => none
    let replays := fates.filter fun q => sameWalk q.2 q.2
    let at_ := fun (p : Nat) => word (((runs.flatMap fun r => pagePieces r.1 16 r.2).find? fun r => r.1 / 4096 * 4096 == p).elim p (·.1))
    match held, replays with
    | some n, _ => .stall (.stack n)
    | none, _ :: _ => parkOn x s .write (replays.map fun q => (allLanes, at_ q.1, q.2))
    | none, [] =>
      match first (· == .page), first (fun f => f == .refused || f == .range) with
      | some (p, _), _ => trapWith s Cause.page allLanes (at_ p)
      | none, some (p, _) => trapWith s Cause.access allLanes (at_ p)
      | none, none =>
        let pages := (pagesOf runs).filterMap fun p => match translate s x.w.die (some x.w.core) x.w.ctx p with
          | .ok pa treat _ _ _ _ => some (p, pa, treat)
          | _ => none
        let pieces := runs.flatMap fun r => pagePieces r.1 16 r.2
        match pieces.find? fun r => (inPages pages r.1).elim false fun q => touchesMark s q.1 r.2 with
        | some r => trapWith s Cause.bclobber allLanes (word r.1)
        | none => k ((pagesOf runs).foldl (fun s p => walked s x.w.die (some x.w.core) x.w.ctx p) s) pages

/-- A drain into scratchpad: its range and marks. -/
def drainScratch (x : Issue) (s : State) (a : Nat) (runs : List (Nat × Nat)) (k : End) : End :=
  if runs.any fun r => !inAllocation s x.w r.1 r.2 then trapWith s Cause.access allLanes (word a)
  else
    match runs.find? fun r => touchesScratchMark s (x.w.group.getD 0) (scratchKey (inQuad x.w.core) r.1) r.2 with
    | some r => trapWith s Cause.bclobber allLanes (word r.1)
    | none => k

/-- The largest generation among a warp's records, plus 1 (R203). -/
def warpGen (w : Warp) : Nat := ((List.range 32).map fun l => genOf w l).foldl max 1

/-- Element size of a drain: 8 for a raw tile (R160). -/
def drainRunsOf (raw : Bool) (cv : DrainConv) (gl : Bool) (a c : Nat) : List (Nat × Nat) :=
  (drainRuns (if raw then .s64 else cv) a c).map fun r => (if gl then r.1 % 2 ^ 64 else r.1, r.2)

def execMdrain (g : Guard) (peg : PegSel) (cv : DrainConv) (act : DrainAct) (gl bias : Bool) (tile : Fin 4) (a b c : Src) (s : State) : Result :=
  issue (.mdrain g peg cv act gl bias tile a b c) s fun x s => wholeWarp x s g (
    let v := viewOf (unitOf s x.w)
    let t := v.tile tile.val
    let raw := t.mode == .raw
    let va := srcA x a 0
    let vb := srcB x b 0
    let vc := field (srcC x c 0) 0 32
    if t.owner != some x.w.id then trapWith s Cause.accown allLanes (word tile.val)
    else if raw && (cv != .s64 || act != .none || bias) then
      trapWith s Cause.matfmt allLanes (matfmtInfo (v.plane v.active).fmt .raw)
    else if field va 0 4 != 0 then trapWith s Cause.misalign allLanes va
    else if !raw && field vb 0 4 != 0 then trapWith s Cause.misalign allLanes vb
    else if vc % 16 != 0 then trapWith s Cause.misalign allLanes (word vc)
    else
      let runs := drainRunsOf raw cv gl va.toNat vc
      let what : MatrixOp := .mdrain tile.val cv act gl bias va vb.toNat vc (warpGen x.w)
      if !gl && runs.any fun r => !inAllocation s x.w r.1 r.2 then trapWith s Cause.access allLanes va
      else if !raw && !inAllocation s x.w vb.toNat (epilogueBytes act bias) then trapWith s Cause.access allLanes vb
      else if gl then drainGlobal x s runs fun s pages => enqueue x s peg what noNote pages
      else drainScratch x s va.toNat runs (enqueue x s peg what noNote))

/-- R162. -/
def execMstat (g : Guard) (clr : Bool) (tile : Fin 4) (s : State) : Result :=
  issue (.mstat g clr tile) s fun x s => wholeWarp x s g (
    let u := unitOf s x.w
    if ((viewOf u).tile tile.val).owner != some x.w.id then trapWith s Cause.accown allLanes (word tile.val)
    else if jobsDue s x.w then .stall .matrixDone
    else
      let t := u.tile tile.val
      let s := pushAll s allLanes fun _ => statusWord t
      .ok (if clr then setUnit s (u.setTile tile.val { t with inx := false, inv := false, sat := false, ovr := false }) else s))

end Sys2Proof.Machine
end

