-- ==== Sys2Proof/Machine/Copies.lean ====
section
/-! DEFINITION. Copies: their issue, the landing of their bytes, their failure and its report (R303 to R308). -/

namespace Sys2Proof.Machine

/-! ### Geometry -/

/-- Address of row i. -/
def rowAt (base stride i : Nat) : Nat := (base + i * stride) % 2 ^ 64

/-- A scratchpad address as `Group.mem` numbers it, for an agent of a core. -/
def addrKey (core a : Nat) : Nat := scratchKey (if a.testBit 31 then a / 2 ^ 19 % 4 else inQuad core) (a % 2 ^ 19)

def Copy.dstScratch (c : Copy) : Bool :=
  match c.shape with
  | .rows dir _ _ => dir != .s2g
  | .gather .. => true

def Copy.srcScratch (c : Copy) : Bool :=
  match c.shape with
  | .rows dir _ _ => dir != .g2s
  | .gather .. => false

/-- The cores of its quad whose scratchpad a copy uses, by number within the quad (R226). -/
def Copy.cores (c : Copy) : List Nat :=
  let at_ : Nat → Nat := fun a => addrKey c.core a / 2 ^ 19
  (if c.dstScratch then [at_ c.dst.toNat] else []) ++ (if c.srcScratch then [at_ c.src.toNat] else [])
    ++ (match c.shape with
      | .gather index _ => [at_ index]
      | _ => [])

def Copy.dstRow (c : Copy) (i : Nat) : Nat :=
  match c.shape with
  | .rows _ _ ds => rowAt c.dst.toNat ds i
  | .gather .. => rowAt c.dst.toNat c.s i

/-- Source of row i, with the row's index already read for a gather; none is the row of zeros (R308). -/
def Copy.srcRow (c : Copy) (index : Nat) (i : Nat) : Option Nat :=
  match c.shape with
  | .rows _ ss _ => some (rowAt c.src.toNat ss i)
  | .gather _ t => if index == 0xFFFFFFFF then none else some (rowAt c.src.toNat t index)

def Copy.total (c : Copy) : Nat := c.s * c.n

/-- Bytes not credited yet. -/
def Copy.due (c : Copy) : Nat := (c.left.map (·.2)).foldl (· + ·) 0

/-- Whether a scratchpad byte is a source byte of the copy (R304). -/
def Copy.isSource (c : Copy) (key : Nat) : Bool :=
  match c.shape with
  | .rows .s2s ss _ =>
    let o := addrKey c.core c.src.toNat
    if key < o then false
    else
      let d := key - o
      let i := if ss = 0 then 0 else min (d / ss) (c.n - 1)
      decide (d - i * ss < c.s)
  | _ => false

/-! ### Issue (R303, R304, R307, R308) -/

/-- What a copy instruction asks for. -/
structure CopyAsk where
  shape : CopyShape
  dst : Word
  src : Word
  s : Nat
  n : Nat
  most : Nat                      -- largest row
  fields : Bool                   -- fields that must be zero are
  extra : Word                    -- the operand that holds the strides
  obj : Word
  sp : Space
  follow : Option (Nat × Nat × Nat × Nat × Nat) := none   -- tile, rows, A, B, C of the follow-on

def CopyAsk.proto (q : CopyAsk) : Copy :=
  { cid := 0, warp := 0, op := 0, ctx := 0, group := none, queue := 0, die := 0, core := 0, shape := q.shape, dst := q.dst, src := q.src
    s := q.s, n := q.n, space := q.sp, obj := none, left := [] }

/-- What misaligns a copy, if anything. -/
def CopyAsk.misaligned (q : CopyAsk) : Option Word :=
  if q.s % 16 != 0 then some (word q.s)
  else if field q.dst 0 4 != 0 then some q.dst
  else if field q.src 0 4 != 0 then some q.src
  else if (match q.shape with
    | .rows _ ss ds => ss % 16 != 0 || ds % 16 != 0
    | .gather i t => i % 4 != 0 || t % 16 != 0) then some q.extra
  else if q.obj != BitVec.allOnes 64 && field q.obj 0 4 != 0 then some q.obj
  else none

/-- Rows that lie in a scratchpad allocation, or whose global address R270 lets pass. -/
def rowsFit (s : State) (w : Warp) (scratch : Bool) (n k : Nat) (row : Nat → Nat) : Bool :=
  (List.range n).all fun i => if scratch then (scratchPlace s w (word (row i)) k).isSome else !outOfRange (row i) k

/-- What of a copy's ranges is out of reach, if anything. DESIGN CHOICE: a gather's table base is no address of an access, so that each row's source
is checked where the row is read (R308), and the base never (log 171). -/
def CopyAsk.unreachable (q : CopyAsk) (s : State) (w : Warp) : Option Word :=
  let c := q.proto
  if !rowsFit s w c.dstScratch q.n q.s c.dstRow then some q.dst
  else
    match q.shape with
    | .rows .. => if rowsFit s w c.srcScratch q.n q.s (fun i => (c.srcRow 0 i).getD 0) then none else some q.src
    | .gather i _ => if (scratchPlace s w (word i) (4 * q.n)).isSome then none else some (word i)

def followCheck (s : State) (w : Warp) (q : CopyAsk) : Option (Nat × Word) :=
  q.follow.bind fun f => streamCheck s w f.1 f.2.1 f.2.2.1 f.2.2.2.1 f.2.2.2.2

/-- The issue of a copy is a release, which what its warp's drains write precedes (R261, R263); what its other matrix operations read races with
the copy (R154). -/
def afterDrains (s : State) (w : Warp) (k : End) : End :=
  let drains := (unitOf s w).jobs.any fun j => j.warp == w.id && (match j.what with
    | .mdrain .. => true
    | _ => false)
  if drains then .stall .matrixDone else k

/-- The copy enters its quad's queue, with its release (R261) and its follow-on's place in the matrix order (R153). -/
def startCopy (x : Issue) (s : State) (peg : PegSel) (q : CopyAsk) (obj : Option ObjPlace) : End :=
  let w := x.w
  let here := fun (c : Copy) => c.die == w.die && c.core / 4 == w.core / 4
  if (s.copies.filter here).length ≥ 64 then .stall .copyQueue
  else
    let c0 := q.proto
    let s := if c0.dstScratch && c0.srcScratch then s else releaseWarp s .global w.id
    let (op, s) := beginOp s allLanes peg false
    let (cid, s) := fresh s
    let c : Copy := { c0 with
      cid := cid, warp := w.id, op := op, ctx := w.ctx, group := w.group, queue := w.queue, die := w.die, core := w.core
      obj := obj.map (·.at_), objAddr := q.obj, left := [(0, q.s * q.n)], gen := warpGen w }
    let s := carryTo { s with copies := s.copies ++ [c] } cid w.id
    match q.follow with
    | none => .ok s
    | some (tile, rows, a, b, k) =>
      let u := unitOf s w
      let v := viewOf u
      let job : MatrixJob :=
        { warp := w.id, op := none, what := .mstream (((v.plane v.active).fmt).getD .bi8) tile rows a b k, copy := some cid
          raced := looseRuns s w }
      .ok (setUnit s { u with jobs := u.jobs ++ [job] })

/-- R303's checks in order, then the issue. DESIGN CHOICE: what is out of reach by its address alone, a global range among it, comes before the
object's page and mark, and `cr.tinfo` is that range's base (log 170). -/
def copyIssue (x : Issue) (s : State) (g : Guard) (peg : PegSel) (q : CopyAsk) (tileOk : Bool) : End :=
  wholeWarp x s g (
    let none_ := q.obj == BitVec.allOnes 64
    let keeps := none_ && (q.follow.elim true fun f => streamKeeps s x.w f.1 f.2.1)
    unlessKept s keeps fun s =>
      let early := fun (p : Nat × Word) => p.1 == Cause.accown || p.1 == Cause.matfmt
      let fc := followCheck s x.w q
      if !q.fields || !tileOk || (q.s % 16 == 0 && (q.s < 16 || q.s > q.most)) || q.s * q.n > 2 ^ 31 - 16 then
        .trap s { illOpnd x with tmask := allLanes }
      else
        match fc.filter early, q.misaligned, fc.filter (·.1 == Cause.misalign), q.unreachable s x.w, fc with
        | some p, _, _, _, _ => trapWith s p.1 allLanes p.2
        | none, some v, _, _, _ => trapWith s Cause.misalign allLanes v
        | none, none, some p, _, _ => trapWith s p.1 allLanes p.2
        | none, none, none, some v, _ => trapWith s Cause.access allLanes v
        | none, none, none, none, some p => trapWith s p.1 allLanes p.2
        | none, none, none, none, none =>
          if none_ then afterDrains s x.w (startCopy x s peg q none)
          else
            reachObject x s .rmw allLanes q.sp q.obj true true fun s p =>
              onMarked s allLanes q.obj p (afterDrains s x.w (startCopy x s peg q (some p))))

/-- The shape that COPY and COPYM share (R304). -/
def rowsAsk (x : Issue) (dir : CopyDir) (sp : Space) (twoD : Bool) (a b : Src) (obj : Word) : CopyAsk :=
  let lo := srcB x b 0
  let hi := readHigh x.w 0 b
  { shape := if twoD then .rows dir (field hi 0 32) (field hi 32 32) else .rows dir 0 0
    dst := srcA x a 0, src := readHigh x.w 0 a, s := field lo 0 32, n := if twoD then field lo 32 16 + 1 else 1, most := 2 ^ 20
    fields := field lo 48 16 == 0 && (twoD || field lo 32 16 == 0), extra := hi, obj := obj, sp := sp }

def execCopy (g : Guard) (peg : PegSel) (dir : CopyDir) (sp : Space) (twoD : Bool) (a b c : Src) (s : State) : Result :=
  issue (.copy g peg dir sp twoD a b c) s fun x s => copyIssue x s g peg (rowsAsk x dir sp twoD a b (srcC x c 0)) true

/-- R307. -/
def execCopym (g : Guard) (peg : PegSel) (dir : CopyDir) (sp : Space) (twoD : Bool) (a b c : Src) (s : State) : Result :=
  issue (.copym g peg dir sp twoD a b c) s fun x s =>
    let ch := readHigh x.w 0 c
    let q := rowsAsk x dir sp twoD a b (srcC x c 0)
    let rows := field ch 32 7 + 1
    let tile := field ch 39 2
    let v := viewOf (unitOf s x.w)
    let stride := if twoD then field (readHigh x.w 0 b) 32 32 else ((v.plane v.active).fmt).elim 32 rowBytes
    copyIssue x s g peg { q with follow := some (tile, rows, field q.dst 0 32, field ch 0 32, stride) }
      (field ch 41 23 == 0 && tile + (rows + 31) / 32 ≤ 4)

/-- R308. -/
def execCopyg (g : Guard) (peg : PegSel) (sp : Space) (a b c : Src) (s : State) : Result :=
  issue (.copyg g peg sp a b c) s fun x s =>
    let lo := srcB x b 0
    let hi := readHigh x.w 0 b
    copyIssue x s g peg
      { shape := .gather (field hi 0 32) (field hi 32 32), dst := srcA x a 0, src := readHigh x.w 0 a, s := field lo 0 32
        n := field lo 32 16 + 1, most := 2 ^ 16, fields := field lo 48 16 == 0, extra := hi, obj := srcC x c 0, sp := sp } true

/-! ### Landing (R305, R306) -/

/-- What the engine meets on a piece of a copy. -/
inductive CopyMove where
  | land (bs : List Byte) (s : State)
  | suspend (k : AccKind) (stage level addr entry : Nat) (va : Nat)
  | fail (code : Nat) (addr : Nat) (kind : Nat)
  | wait

def Copy.agent (c : Copy) : Agent := { die := some c.die }

/-- A fate of a copy's own access. -/
def copyFate (k : AccKind) (a : Nat) (f : Fate) (fine : Loc → CopyMove) : CopyMove :=
  match f with
  | .fine l => fine l
  | .held _ => .wait
  | .replay st lv ad e => .suspend k st lv ad e a
  | .page => .fail Cause.page a 0
  | .clobber => .fail Cause.bclobber a 0
  | _ => .fail Cause.access a 0

/-- A source byte that the copy itself has written over, as it was. -/
def Copy.before (c : Copy) (key : Nat) (b : Byte) : Byte := ((c.kept.find? fun x => x.1 == key).map (·.2)).getD b

/-- Source bytes at an address as the copy names it, within one line. -/
def copyRead (s : State) (c : Copy) (a n : Nat) : CopyMove :=
  if c.srcScratch then
    let key := addrKey c.core a
    if poisonedWords s (c.group.getD 0) key n then .fail Cause.soft a 4
    else .land (mapFrom c.before key (scratchRead s (c.group.getD 0) key n)) s
  else
    copyFate .copyRead a (pageFate s c.die none c.ctx (word a) n .load false) fun l =>
      match l with
      | .glob pa treat zero =>
        if isHeld s pa then .wait
        else
          match poisonAt s 0 n l with
          | some k => .fail Cause.soft a k
          | none =>
            if zero then .land (List.replicate n 0) s
            else
              let (bs, s) := performRead (walked s c.die none c.ctx a) c.agent (if treat == 0 && homeOf s pa == .die c.die then .load else .home) treat pa n
              .land bs s
      | _ => .wait

/-- Source bytes of a run, which may meet two lines. -/
def copyReadRun (s : State) (c : Copy) (a n : Nat) : CopyMove :=
  let k := min n (128 - a % 128)
  match copyRead s c a k with
  | .land bs s =>
    if n ≤ k then .land bs s
    else
      match copyRead s c ((a + k) % 2 ^ 64) (n - k) with
      | .land bs2 s => .land (bs ++ bs2) s
      | other => other
  | other => other

/-- Bytes that are also source bytes of the same copy are free (R304). -/
def overlapFree (c : Copy) (key : Nat) : List Byte → State → List Byte × State
  | [], s => ([], s)
  | b :: bs, s =>
    let (v, s1) := if c.isSource key then takeFreeByte s else (b, s)
    let (vs, s2) := overlapFree c (key + 1) bs s1
    (v :: vs, s2)

/-- The pegs of an operation of a warp. -/
def pegsOf (s : State) (warp op : Nat) : BitVec 12 :=
  ((findWarp s warp).bind fun w => w.ops.find? fun o => o.id == op).elim 0 (·.pegs)

/-- A copy's write to its group's scratchpad, as the order has it. -/
def Copy.write (c : Copy) (s : State) (key n : Nat) : LooseWrite :=
  { at_ := key, bytes := n, agent := c.cid, owner := c.warp, core := c.core, copy := true, pegs := pegsOf s c.warp c.op, unseen := [] }

/-- The bytes written at their destination. -/
def copyWrite (s : State) (c : Copy) (a : Nat) (bs : List Byte) : CopyMove :=
  if c.dstScratch then
    let key := addrKey c.core a
    if touchesScratchMark s (c.group.getD 0) key bs.length then .fail Cause.bclobber a 0
    else
      let (vs, s) := overlapFree c key bs s
      .land vs (storeScratch s (c.group.getD 0) (c.write s key vs.length) true (fun j => j.copy == some c.cid) vs)
  else
    copyFate .copyWrite a (pageFate s c.die none c.ctx (word a) bs.length .store true) fun l =>
      match l with
      | .glob pa treat _ => if isHeld s pa then .wait else .land bs (performWrite (walked s c.die none c.ctx a) c.agent .home treat pa c.gen bs)
      | _ => .wait

/-- What a copy keeps of the source bytes that a write of n bytes at an address takes (R304). -/
def Copy.keep (c : Copy) (s : State) (a n : Nat) : Copy :=
  let key := addrKey c.core a
  let lost := (mapFrom (fun k b => (k, b)) key (scratchRead s (c.group.getD 0) key n)).filter fun x =>
    c.isSource x.1 && !c.kept.any fun y => y.1 == x.1
  if c.dstScratch && c.srcScratch then { c with kept := c.kept ++ lost } else c

/-- A gather's index for row i: the one it has read, or read now from scratchpad (R308). -/
def copyIndex (s : State) (c : Copy) (i : Nat) : CopyMove :=
  match c.shape, c.indexes.find? fun x => x.1 == i with
  | .gather .., some x => .land (leBytes 4 x.2) s
  | .gather ix _, none =>
    let key := addrKey c.core (ix + 4 * i)
    if poisonedWords s (c.group.getD 0) key 4 then .fail Cause.soft (ix + 4 * i) 4 else .land (scratchRead s (c.group.getD 0) key 4) s
  | _, _ => .land [] s

/-- The copy with a row's index noted. -/
def Copy.indexed (c : Copy) (i n : Nat) : Copy :=
  match c.shape with
  | .gather .. => if c.indexes.any fun x => x.1 == i then c else { c with indexes := (i, n) :: c.indexes }
  | _ => c

/-- A piece read and written: n bytes at offset `off` of the copy, within one row and one line of the destination; how many, and the copy after
it. -/
def movePiece (s : State) (c : Copy) (off n : Nat) : CopyMove × Nat × Copy :=
  let i := off / c.s
  let r := off % c.s
  match copyIndex s c i with
  | .land ib s =>
    let dst := (c.dstRow i + r) % 2 ^ 64
    let k := min (min n (c.s - r)) (128 - dst % 128)
    let c1 := (c.indexed i (leNat ib)).keep s dst k
    match c.srcRow (leNat ib) i with
    | none => (copyWrite s c1 dst (List.replicate k 0), k, c1)
    | some sa =>
      match copyReadRun s c ((sa + r) % 2 ^ 64) k with
      | .land bs s => (copyWrite s c1 dst bs, k, c1)
      | other => (other, k, c)
  | other => (other, 0, c)

/-- The object a copy credits. -/
def Copy.place (c : Copy) : Option ObjPlace := c.obj.map fun a => { space := c.space, group := c.group, at_ := a }

/-- Whether a stack in self-refresh holds what a copy does next: its next piece, or the event on its object (R392). -/
def copyHeld (s : State) (c : Copy) : Bool :=
  match c.status, c.left with
  | .going, (o, l) :: _ => c.place.any (objHeld s) || (match (movePiece s c o l).1 with
    | .wait => true
    | _ => false)
  | .failing .., _ => c.place.any (objHeld s)
  | _, _ => false

/-- A run [off, off + n) taken out of the runs not landed. -/
def takeRun (off n : Nat) (left : List (Nat × Nat)) : List (Nat × Nat) :=
  left.flatMap fun r =>
    if r.1 ≤ off && off + n ≤ r.1 + r.2 then [(r.1, off - r.1), (off + n, r.1 + r.2 - (off + n))].filter fun q => q.2 != 0 else [r]

/-- A credit is a release of what the copy wrote (R261). -/
def creditCopy (s : State) (c : Copy) (e : ObjEvent) : State :=
  match c.place with
  | some p => objEvent (releaseInto s p c.cid c.core) p e
  | none => s

/-- The kind of storage whose poison a credit meets, the object still being one (R383). -/
def creditPoison (s : State) (c : Copy) : Option Nat := c.place.bind fun p => if isMarked s p then objPoison s p else none

/-- An operation of a warp is performed. -/
def opDone (s : State) (warp op : Nat) : State :=
  updateWarp s warp fun w => { w with ops := updateWhere (fun o => o.id == op) (fun o => { o with done := true }) w.ops }

/-- A copy leaves the queue. -/
def endCopy (s : State) (c : Copy) : State :=
  leaveIfQuiet (opDone { s with copies := s.copies.filter fun x => x.cid != c.cid } c.warp c.op) c.warp

/-- Some of the copy has landed. -/
def Copy.begun (c : Copy) : Bool := c.left != [(0, c.total)]

/-- Copies of a quad that its engines are working on. -/
def engaged (s : State) (c : Copy) : List Copy :=
  s.copies.filter fun x => x.die == c.die && x.core / 4 == c.core / 4 && x.status == .going && x.begun

/-- Whether one of the quad's two engines works on a copy, or can begin it (R305). A suspended copy leaves its engine to others. -/
def engineTakes (s : State) (c : Copy) : Bool :=
  if c.begun then ((engaged s c).take 2).any fun x => x.cid == c.cid else decide ((engaged s c).length < 2)

/-- R305: up to n bytes at an offset land and are credited. Where the run is not due, or the engine is held up, nothing happens. -/
def execCopyLand (cid chunk n : Nat) (s : State) : Result :=
  .next (match findCopy s cid with
    | none => s
    | some c =>
      match c.status, c.left.find? fun r => r.1 ≤ chunk && chunk < r.1 + r.2 with
      | .going, some (o, l) =>
        if !engineTakes s c || c.place.any (objHeld s) then s
        else if let some kind := creditPoison s c then updateCopy s cid fun x => { x with status := .failing 0x11 c.objAddr kind }
        else
        match movePiece s c chunk (min n (o + l - chunk)) with
        | (.land _ s1, k, c1) =>
          let s2 := creditCopy s1 c (.credit k)
          let c1 := { c1 with left := takeRun chunk k c.left }
          if c1.left.isEmpty then endCopy s2 c else updateCopy s2 cid fun _ => c1
        | (.suspend kd st lv ad e va, _, _) =>
          let (id, s1) := parkFault (wakeWalk s c.die none c.ctx va) (vfOfContext s c.ctx) c.ctx c.die kd st lv ad e (.copy cid)
          updateCopy s1 cid fun x => { x with status := .suspended id (word va) }
        | (.fail code a kind, _, _) => updateCopy s cid fun x => { x with status := .failing (BitVec.ofNat 8 code) (word a) kind }
        | (.wait, _, _) => s
      | _, _ => s)

/-! ### Failure (R306, R307) -/

/-- The failure told to the warp: a report it takes before its next instruction; the flush of its queue where its lanes are gone. -/
def reportFailure (s : State) (c : Copy) (code : BitVec 8) (addr : Word) (kind : Nat) : State :=
  if (findWarp s c.warp).isNone then s
  else reportTo (if code == 0x11 then eccue s c.ctx kind addr else s) c.warp { code := code, addr := addr } false 7 0

/-- A follow-on whose copy failed is abandoned (R307). -/
def abandonFollow (s : State) (cid : Nat) : State :=
  { s with units := s.units.map fun u => { u with jobs := u.jobs.filter fun j => j.copy != some cid } }

/-- R306. A failure credit that meets poison is not performed, and SOFT is due beside another failure (R383). -/
def execCopyFail (cid : Nat) (s : State) : Result :=
  .next (match findCopy s cid with
    | none => s
    | some c =>
      match c.status with
      | .failing code addr kind =>
        if c.place.any (objHeld s) then s
        else
          let soft := if code == 0x11 then none else creditPoison s c
          let s := creditCopy s c (.failCredit c.due)
          let s := opDone (abandonFollow { s with copies := s.copies.filter fun x => x.cid != cid } cid) c.warp c.op
          let s := reportFailure s c code addr kind
          leaveIfQuiet (soft.elim s fun k => reportFailure s c 0x11 c.objAddr k) c.warp
      | _ => s)

/-- Whether a warp has a report to take: in handler mode only one of a fault cancelled or an error detected there
(R306, R342, R395). -/
def Warp.reportDue (w : Warp) : Bool :=
  match w.reports with
  | [] => false
  | r :: _ => r.here || r.now || !w.h

/-- The oldest report of a warp becomes a trap before its next instruction issues (R306, R342, R383). -/
def execCopyFailReport (s : State) : Result :=
  .next (match s.warp.reports with
    | [] => s
    | r :: rs =>
      let w := s.warp
      if !w.reportDue then s
      else if trapWaits s then { s with warp := { w with stalled := some .quiet } }
      else
        let k := if w.phase = .issue then w.idx else 1
        let tpc := match w.phase with
          | .issue => w.wordAddr w.idx
          | .fetch (.resumeAt n) | .check (.resumeAt n) | .fetch (.tretAt n) | .check (.tretAt n) => w.wordAddr n
          | .fetch .seam | .check .seam => w.wordAddr 2
          | _ => w.wordAddr k
        let clause := r.here && w.phase != .issue
        let tnext := if r.here then w.nextAddr (wordLits w.cur) else tpc
        takeTrap { s with warp := { w with reports := rs } }
          { code := r.code.toNat, tmask := r.mask, tinfo := r.addr } (if clause then w.base else tpc) (if clause then w.base else tnext))

end Sys2Proof.Machine
end

