-- ==== Sys2Proof/Machine/Clause.lean ====
section
/-! DEFINITION. What a warp does around its instructions: fetching a clause, checking and starting it (R30 to R32, R36, R44, R47), entries that
fill, pegs that clear (R14, R20), the watchdog (R183, R365), translations kept (R340). -/

namespace Sys2Proof.Machine

/-! ### Fetch (R31 step 1) -/

/-- A trap of a clause: it reports the block's base twice (R31, R362). -/
def clauseTrap (s : State) (t : Trap) : State :=
  if trapWaits s then { s with warp := { s.warp with stalled := some .quiet } } else takeTrap s t s.warp.base s.warp.base

/-- A block taken into the warp. -/
def Warp.took (w : Warp) (e : Enter) (ws : List Word) : Warp := { w with buf := ws, phase := .check e }

/-- A byte of code: the die's own dirty byte of it, else memory's. -/
def codeByte (s : State) (die pa : Nat) : Byte :=
  ((s.caches.dirty.find? fun d => d.die == die && d.pa == pa).map (·.val)).getD (Memory.read s.mem pa)

/-- The words of a block as a die sees them: a self-invalidating one with the die's own dirty bytes. DESIGN CHOICE: a fetch that misses its path reads
no clean copy of the die, which R279's sequence need not drop (log 177). -/
def blockWords (s : State) (die treat pa : Nat) : List Word :=
  (List.range 16).map fun k =>
    if treat == 1 then leWord (bytesBy (codeByte s die) (pa + 8 * k) 8) else Memory.readWord s.mem (pa + 8 * k)

/-- A block fetched from memory, kept in the core's fetch path (R36). A poisoned block gives SOFT. `zero`: the reserved part of a hardware area
(R19). -/
def fetchFrom (s : State) (e : Enter) (pa treat : Nat) (zero : Bool) : State :=
  let w := s.warp
  if isHeld s pa then { s with warp := { w with stalled := some (.stack (stackOf pa)) } }
  else if meetsPoison s pa then softReport s w.id 0x07 w.base w.active
  else
    let s := loosen (touchLine (walked s w.die (some w.core) w.ctx w.base.toNat) treat pa) pa
    let ws := if zero then List.replicate 16 0 else blockWords s w.die treat pa
    let line : CodeLine := { die := w.die, core := w.core, ctx := w.ctx, va := w.base, pa := pa, words := ws }
    { s with warp := s.warp.took e ws, caches := { s.caches with code := line :: s.caches.code } }

/-- Where a block's fetch leads: the permission, the treatments and the areas a fetch needs (R19, R233, R339). -/
def fetchFate (s : State) (w : Warp) : Fate :=
  if outOfRange w.base.toNat 128 then .range
  else
    match translate s w.die (some w.core) w.ctx w.base.toNat with
    | .ok pa treat _ _ x _ => if !x || treat ≥ 3 then .refused else placeFate s w.ctx w.base 128 .load false pa treat
    | x => fateOf x false false fun _ _ => .refused

/-- A fetch that the fetch path does not hold. -/
def fetchMiss (s : State) (e : Enter) : State :=
  let w := s.warp
  let stop := fun (code : Nat) => clauseTrap s { code := code, tmask := w.active, tinfo := w.base }
  match fetchFate s w with
  | .replay st lv a en =>
    let (fs, s) := parkWalks s w .fetch [(w.active, w.base, .replay st lv a en)]
    { s with warp := { s.warp with status := .faulted fs } }
  | .held n => { s with warp := { w with stalled := some (.stack n) } }
  | .page => stop Cause.page
  | .fine (.glob pa treat zero) => fetchFrom s e pa treat zero
  | _ => stop Cause.access

def isCodeOf (w : Warp) (c : CodeLine) : Bool := c.die == w.die && c.core == w.core && c.ctx == w.ctx && c.va == w.base

def execClauseFetch (s : State) : Result :=
  .next (match s.warp.phase with
    | .fetch e =>
      match s.caches.code.find? (isCodeOf s.warp) with
      | some c => { s with warp := s.warp.took e c.words }
      | none => fetchMiss s e
    | _ => s)

/-! ### The check of a clause, and its start (R30 to R33, R47) -/

/-- What breaks R30's rules for the header. -/
def headerBad (h : Word) : Bool :=
  field h 62 2 != 0 || Header.length h == 0 || field h 0 32 != 0 || (!h.getLsbD 45 && field h 41 4 != 0)
    || (!h.getLsbD 40 && field h 36 4 != 0)

/-- A peg number of 12 to 15 in a valid set. -/
def headerPegBad (h : Word) : Bool := (h.getLsbD 45 && decide (12 ≤ field h 41 4)) || (h.getLsbD 40 && decide (12 ≤ field h 36 4))

/-- Opcodes of branch type (R32): BRA, BRC, BRL, BRX, CALL, CALLX, RET, EXIT. -/
def isBranchOp (op : Nat) : Bool := [0x001, 0x002, 0x006, 0x007, 0x008, 0x009, 0x00A, 0x00B].contains op

/-- The words at which instructions of a block begin. -/
def startsFrom (buf : List Word) (n : Nat) : Nat → Nat → List Nat
  | 0, _ => []
  | fuel + 1, k => if k > n then [] else k :: startsFrom buf n fuel (k + 1 + wordLits (buf.getD k 0))

def starts (buf : List Word) : List Nat := startsFrom buf (Header.length (buf.getD 0 0)) 15 1

/-- R32's placement rules for the instruction at word k of n. -/
def placedBad (buf : List Word) (n k : Nat) : Bool :=
  let w := buf.getD k 0
  let last := k + wordLits w
  decide (n < last) || (isSeam w && k != 1) || (isBranchOp (w.toNat / 2 ^ 54) && last != n)

/-- What a block breaks: its trap code, or none. -/
def clauseBad (buf : List Word) : Option Nat :=
  let h := buf.getD 0 0
  let n := Header.length h
  if headerBad h || (buf.drop (n + 1)).any (· != 0) || (starts buf).any (placedBad buf n) then some Cause.illclause
  else if headerPegBad h then some Cause.illopnd
  else none

/-- The innermost split of the warp's frame waits for the block it has reached, and that block's first word is not SEAM (R44). Entries that
stood at a trap are not the handler's. -/
def seamMissing (w : Warp) (e : Enter) : Bool :=
  e == .start && !isSeam (w.buf.getD 1 0) && !(w.h && decide (w.pleats.length ≤ (w.shadow.map (·.depth)).getD 0))
    && (match w.innermost with
      | some p => p.kind == .split && p.seam == w.base
      | none => false)

/-- What a warp's block breaks where it is reached (R30, R32, R44, R47). -/
def reachedBad (w : Warp) (e : Enter) : Option Nat := if seamMissing w e then some Cause.illclause else clauseBad w.buf

/-- Whether a start waits for pegs: reached by control, not resumed within (R31, R373). -/
def Enter.tests : Enter → Bool
  | .start | .seam => true
  | _ => false

/-- The warp begins to issue its block, with the selvage that R384 gives. -/
def Warp.begin_ (w : Warp) (e : Enter) : Warp :=
  let sig := fun (v : Word) (x : Warp) => if x.h then x else { x with sig := v }
  match e with
  | .start => sig w.base { w with idx := 1, phase := .issue }
  | .seam =>
    let w1 := sig (sigAt w w.buf 2) { w with idx := 2, phase := .issue }
    if 2 > Header.length w.header then w1.goTo w1.nextBlock else w1
  | .tretAt k => sig (sigAt w w.buf k) { w with idx := k, phase := .issue }
  | .resumeAt k => { w with idx := k, phase := .issue }

def execClauseStart (s : State) : Result :=
  .next (match s.warp.phase with
    | .check e =>
      let w := s.warp
      match reachedBad w e with
      | some code => clauseTrap s { code := code, tmask := w.active, tinfo := w.header }
      | none =>
        if e.tests && w.pegs &&& Header.waitMask w.header != 0 then
          { s with warp := { w with stalled := some (.pegs (w.pegs &&& Header.waitMask w.header)) } }
        else
          let s := if e.tests && Header.waitMask w.header != 0 then seePegs s w (Header.waitMask w.header) else s
          match e with
          | .tretAt k =>
            if (starts w.buf).contains k then { s with warp := w.begin_ e }
            else
              let t : Trap := { code := Cause.hfault, tmask := w.active, tinfo := 5 }
              failWarp { s with warp := { w.report_ t w.tpc w.tpc with h := true } } t
          | _ => { s with warp := w.begin_ e }
    | _ => s)

/-! ### Reports of what was performed (R14, R20) -/

/-- Entries of an operation filled. -/
def Warp.fillOp (w : Warp) (op : Nat) : Warp :=
  { w with lanes := w.lanes.map fun x => { x with weft := x.weft.map fun v => if v.pend == some op then v.fill else v } }

def execPendingFill (warp op : Nat) (s : State) : Result :=
  .next (leaveIfQuiet (updateWarp s warp fun w => w.fillOp op) warp)

/-- An operation that has been performed no longer holds its pegs. -/
def Warp.clearOp (w : Warp) (op : Nat) : Warp := { w with ops := w.ops.filter fun o => !(o.id == op && o.done) }

def execPegClear (warp op : Nat) (s : State) : Result :=
  .next (leaveIfQuiet (updateWarp s warp fun w => w.clearOp op) warp)

/-! ### The watchdog (R181, R183, R365) -/

def Warp.overLimit (w : Warp) : Bool := decide (2 ^ w.wdog.toNat ≤ w.wcount)

/-- STALL's report: the innermost entry with parked lanes, and how many entries there are. -/
def stallInfo (w : Warp) : Word :=
  let e := w.pleats.find? fun p => p.waiting &&& ~~~w.active != 0
  word (((e.bind (·.resume)).getD 0).toNat % 2 ^ 57 + w.pleats.length % 2 ^ 7 * 2 ^ 57)

def execWatchdogStall (s : State) : Result :=
  let w := s.warp
  let n := wordLits w.cur
  if w.phase != .issue || !w.overLimit then .next s
  else settle s n (if w.h then hFault s 3 else .trap s { code := Cause.stall, tmask := w.parked, tinfo := stallInfo w })

/-! ### Entries that move to the hardware area and back (R17 to R19) -/

/-- One move of a spool: whether it writes, its offset in the hardware area and its bytes, and how many entries and levels are out after it. -/
structure SpoolMove where
  out : Bool
  off : Nat
  size : Nat
  pleatsOut : Nat
  callsOut : Nat
  deriving DecidableEq, Repr

/-- Where the n-th oldest pleat entry lies, and the n-th oldest call level. -/
def pleatOffset (n : Nat) : Nat := 0x800 + 64 * n
def levelOffset (fmax n : Nat) : Nat := 0x2000 + n * (4160 + 256 * fmax)

/-- Bytes of a level that saves a frame (R19, R224). -/
def levelSize (frame : Nat) : Nat := 4160 + 256 * frame

/-- The next move: the oldest on chip goes out, or the youngest that is out comes back where none is left on chip. -/
def Warp.spoolMove (w : Warp) (fmax : Nat) : SpoolMove :=
  let np := w.pleats.length
  let nc := w.calls.length
  let frame := fun (k : Nat) => ((w.calls[nc - 1 - k]?).map (·.frame)).getD 0
  if 16 < w.chipPleats then { out := true, off := pleatOffset w.pleatsOut, size := 64, pleatsOut := w.pleatsOut + 1, callsOut := w.callsOut }
  else if 2 < w.chipCalls then
    { out := true, off := levelOffset fmax w.callsOut, size := levelSize (frame w.callsOut), pleatsOut := w.pleatsOut, callsOut := w.callsOut + 1 }
  else if w.pleatsOut != 0 && w.chipPleats == 0 then
    { out := false, off := pleatOffset (np - 1), size := if np = 0 then 0 else 64, pleatsOut := np - 1, callsOut := w.callsOut }
  else
    { out := false, off := levelOffset fmax (nc - 1), size := if nc = 0 then 0 else levelSize (frame (nc - 1)), pleatsOut := w.pleatsOut
      callsOut := nc - 1 }

/-- A run of bytes, line by line. -/
def linePieces (a n : Nat) : List (Nat × Nat) :=
  (List.range (if n = 0 then 0 else (a % 128 + n + 127) / 128)).map fun k =>
    let lo := max a (a / 128 * 128 + 128 * k)
    (lo, min (a + n) (a / 128 * 128 + 128 * (k + 1)) - lo)

/-- Bytes of a spilled entry, whose form is not architectural (R166): free values, written by the device (R203) where the page takes a write of its
(R233, R293, R354). -/
def spillLine (w : Warp) (s : State) (x : Nat × Nat) : State :=
  match translate s w.die (some w.core) w.ctx x.1 with
  | .ok pa treat _ _ _ true =>
    let s := walked s w.die (some w.core) w.ctx x.1
    if treat == 4 || !reachable s pa || touchesMark s pa x.2 then s
    else let (bs, s) := takeFreeBytes s x.2; performWrite s {} .home treat pa 0 bs
  | _ => s

/-- One move of the focus's spool. A page fault parks the warp, and the move is made again once it is resolved (R19). -/
def spool (s : State) : State :=
  let w := s.warp
  let m := w.spoolMove (((findPattern s w.ctx w.pat).map (·.image.fmax)).getD 0)
  let ps := linePieces (w.spill.toNat + m.off) m.size
  let walk := fun (x : Nat × Nat) => translate s w.die (some w.core) w.ctx x.1
  let fault := ps.findSome? fun x => match walk x with
    | .fault st lv a e => some (x.1, st, lv, a, e)
    | _ => none
  let held := ps.findSome? fun x => match walk x with
    | .ok pa .. => if isHeld s pa then some (stackOf pa) else none
    | .held n => some n
    | _ => none
  match fault, held with
  | some (va, st, lv, a, e), _ =>
    let s := wakeWalk s w.die (some w.core) w.ctx va
    let (id, s) := parkFault s (vfOfContext s w.ctx) w.ctx w.die (if m.out then .write else .read) st lv a e (.warp w.id)
    { s with warp := { s.warp with status := .faulted [{ id := id, mask := w.active, addr := word va }] } }
  | none, some n => { s with warp := { w with stalled := some (.stack n) } }
  | none, none =>
    let s1 := if m.out then ps.foldl (spillLine w) s else ps.foldl (fun s x => walked s w.die (some w.core) w.ctx x.1) s
    { s1 with warp := { s1.warp with pleatsOut := m.pleatsOut, callsOut := m.callsOut } }

/-! ### Translations kept (R340) -/

/-- A walk whose translation the die keeps. One that ends in a fault is told to the access that needs it, which makes its own report. -/
def execPageWalk (die ctx : Nat) (va : Word) (_k : AccKind) (s : State) : Result := .next (walked s die none ctx va.toNat)

end Sys2Proof.Machine
end

