-- ==== Sys2Proof/Machine/Image.lean ====
section
/-! DEFINITION. Warp images to the byte (R224, R298, R399), written at a pre-emption and read back at a restore. The form of pleat entries is
the device's own (R166). -/

namespace Sys2Proof.Machine

/-! ### Writing -/

/-- One word of every lane. -/
def perLaneBytes (f : Nat → Word) : List Byte := (List.range 32).flatMap fun l => wordBytes (f l)

/-- The first n positions of every lane's weft. -/
def weftBytes (wefts : List (List Slot)) (n : Nat) : List Byte :=
  (List.range n).flatMap fun k => perLaneBytes fun l => ((wefts.getD l []).getD k ({} : Slot)).val

def pocketBytes (pockets : List (List Word)) (n : Nat) : List Byte :=
  (List.range n).flatMap fun k => perLaneBytes fun l => (pockets.getD l []).getD k 0

/-- The predicates in PTOV form, D, zeros (R117, R224). -/
def laneBytes (x : Lane) : List Byte :=
  wordBytes (word (x.preds.toNat % 2 ^ 47 + 2 ^ 47)) ++ leBytes 24 x.d

def boolsWord (bs : List Bool) : Nat := bs.foldr (fun b n => n * 2 + b2w b) 0

/-- A pleat entry's 64 bytes. -/
def pleatBytes (e : Pleat) : List Byte :=
  wordBytes (word (boolsWord [e.kind == .loop, e.phase, e.resume.isSome, e.count.isSome] + (e.count.getD 0) % 16 * 16 + e.span.toNat * 2 ^ 32))
    ++ wordBytes (word e.waiting.toNat) ++ wordBytes (e.resume.getD 0) ++ wordBytes e.seam
    ++ (List.range 32).flatMap fun l => leBytes 1 (e.savedD.getD l 0)

/-- A call level's weft, pocket and tail. -/
def levelBytes (c : CallLevel) : List Byte :=
  weftBytes (c.lanes.map (·.weft)) 16 ++ pocketBytes (c.lanes.map (·.pocket)) c.frame
    ++ ((List.range 32).flatMap fun l => leBytes 1 ((c.lanes[l]?.map (·.d)).getD 0))
    ++ leBytes 4 c.active.toNat ++ leBytes 1 c.frame ++ leBytes 1 c.depth ++ leBytes 2 0 ++ wordBytes c.ret ++ leBytes 16 0

/-- A region's snapshot (R386). -/
def shadowBytes (r : Region) (frame : Nat) : List Byte :=
  ((List.range r.keep).flatMap fun k => perLaneBytes fun l => (r.lanes.getD l ([], 0, [])).1.getD k 0)
    ++ pocketBytes (r.lanes.map (·.2.2)) frame

def elemBytes (e : Elem) : List Byte :=
  leBytes 4 e.f.toNat ++ leBytes 2 e.r2047 ++ leBytes 2 e.r2048 ++ leBytes 2 e.r2049 ++ leBytes 6 e.r31

def tileBytes (t : Tile) : List Byte :=
  ((List.range 1024).flatMap fun k => elemBytes (t.elems.getD k {})) ++ wordBytes (statusWord t) ++ leBytes 56 0

/-- Bytes padded with zeros, or cut, to n. -/
def padTo (n : Nat) (bs : List Byte) : List Byte := (bs ++ List.replicate (n - bs.length) 0).take n

def fmtCode : Option PlaneFmt → Nat
  | none => 0x1F
  | some f => f.code

def planesBytes (p0 p1 : Plane) (active : Bool) : List Byte :=
  padTo 64 (leBytes 1 (b2w active) ++ leBytes 1 (fmtCode p0.fmt) ++ leBytes 1 (fmtCode p1.fmt))
    ++ padTo 8192 p0.data ++ padTo 64 p0.scales ++ padTo 8192 p1.data ++ padTo 64 p1.scales

/-- Where a warp resumes (R35). -/
def Warp.resumeAddr (w : Warp) : Word :=
  match w.phase with
  | .issue => w.wordAddr w.idx
  | .fetch .start | .check .start => w.base
  | .fetch .seam | .check .seam => w.wordAddr 2
  | .fetch (.resumeAt k) | .check (.resumeAt k) | .fetch (.tretAt k) | .check (.tretAt k) => w.wordAddr k

/-- The first word it will issue, whose liveness byte counts (R52). -/
def Warp.firstWord (w : Warp) : Word :=
  match w.phase with
  | .fetch .start | .check .start => w.wordAddr 1
  | _ => w.resumeAddr

/-- The open region's header field (R386). -/
def regionWord : Option Region → Word
  | none => 0
  | some r =>
    word (r.keep % 32 + r.replays % 4 * 2 ^ 5 + b2w (r.plane.getD false) * 2 ^ 7 + r.zeroed.toNat * 2 ^ 8 + r.loaded.toNat * 2 ^ 12
      + b2w r.plane.isSome * 2 ^ 14)

/-- The tiles and planes a warp's image holds. -/
structure Held where
  tiles : List (Nat × Tile) := []
  planes : Option (Plane × Plane × Bool) := none
  deriving DecidableEq, Repr

/-- What a warp owns and holds in its unit (R164). -/
def heldOf (s : State) (w : Warp) : Held :=
  let u := unitOf s w
  { tiles := (List.range 4).filterMap fun t => if (u.tile t).owner == some w.id then some (t, u.tile t) else none
    planes := if u.holder == some w.id then some (u.plane0, u.plane1, u.active) else none }

/-- How many pleat entries and call levels stand on chip (R17, R18). -/
def onChipPleats (w : Warp) : Nat := min 16 w.chipPleats
def onChipCalls (w : Warp) : Nat := min 2 w.chipCalls

def headerWords (w : Warp) (h : Held) (live : Nat) : List Word :=
  let r := w.reports.head?
  let owned := (List.range 4).foldl (fun n t => n + (if h.tiles.any (·.1 == t) then 2 ^ t else 0)) 0
  [w.resumeAddr,
    word (live + w.frame * 2 ^ 8 + onChipPleats w * 2 ^ 16 + onChipCalls w * 2 ^ 24 + owned * 2 ^ 32 + b2w h.planes.isSome * 2 ^ 36
      + b2w w.region.isSome * 2 ^ 37),
    word (w.active.toNat + w.gone.toNat * 2 ^ 32)] ++ w.ux ++
  [w.sig, w.fpmode, w.fpflags, w.wdog, word w.wcount, w.regionPc, regionWord w.region,
    word (w.pleats.length + w.calls.length * 2 ^ 16), w.tcause, w.tpc, w.tnext, w.tmask, w.tinfo, w.hret,
    word ((r.map (·.code.toNat)).getD 0), (r.map (·.addr)).getD 0]

/-- The image of R224, of as many positions as the liveness byte gives. -/
def imageBytes (w : Warp) (h : Held) (live : Nat) : List Byte :=
  padTo 256 ((headerWords w h live).flatMap wordBytes) ++ w.lanes.flatMap laneBytes ++ weftBytes (w.lanes.map (·.weft)) live
    ++ pocketBytes (w.lanes.map (·.pocket)) w.frame ++ (w.pleats.take (onChipPleats w)).reverse.flatMap pleatBytes
    ++ (w.calls.take (onChipCalls w)).reverse.flatMap levelBytes
    ++ (match w.region with
      | some r => shadowBytes r w.frame
      | none => [])
    ++ h.tiles.flatMap (fun t => tileBytes t.2)
    ++ (match h.planes with
      | some (p0, p1, a) => planesBytes p0 p1 a
      | none => [])

/-- The registrations as R298 lays them out. -/
def regsBytes (rs : List Registration) : List Byte :=
  padTo 128 (rs.flatMap fun r => wordBytes r.addr ++ wordBytes (word (r.phase.toNat + r.space.code * 2 ^ 16 + 2 ^ 17)))

/-- A core's mark bitmap (R298). -/
def marksBytes (marks : List Nat) (core : Nat) : List Byte :=
  (List.range 3584).map fun k =>
    BitVec.ofNat 8 (boolsWord ((List.range 8).map fun b => marks.contains (scratchKey core (16 * (8 * k + b)))))

/-- The marks of a core that a bitmap names. -/
def readMarks (core : Nat) (bs : List Byte) : List Nat :=
  (mapFrom (fun k b => (k, b)) 0 bs).flatMap fun x =>
    ((List.range 8).filter fun b => x.2.getLsbD b).map fun b => scratchKey core (16 * (8 * x.1 + b))

/-- Bytes of an image slot, and the offsets in it that R298 uses. -/
def slotBytes : Nat := 147456
def marksOffset : Nat := 0x23180
def regsOffset : Nat := 0x23F80

/-! ### Reading back -/

def bytesAt (bs : List Byte) (off n : Nat) : List Byte := (bs.drop off).take n
def wordAt (bs : List Byte) (off : Nat) : Word := leWord (bytesAt bs off 8)
def numAt (bs : List Byte) (off n : Nat) : Nat := leNat (bytesAt bs off n)

/-- What a restore reads: w0 to w(L − 1), zero from there (R225). DESIGN CHOICE: R402's values of w8 to w13 after a stop at the boundary before its
block 1, whose liveness byte is 7 (R398), do not change that (log 174). -/
def readWeft (bs : List Byte) (off live l : Nat) : List Slot :=
  (List.range 16).map fun k => if k < live then { val := wordAt bs (off + 256 * k + 8 * l) } else {}

def readPocket (bs : List Byte) (off n l : Nat) : List Word := (List.range n).map fun k => wordAt bs (off + 256 * k + 8 * l)

def readPleat (bs : List Byte) : Pleat :=
  let w := numAt bs 0 8
  { kind := if w % 2 == 1 then .loop else .split, phase := w / 2 % 2 == 1, span := BitVec.ofNat 32 (w / 2 ^ 32)
    waiting := BitVec.ofNat 32 (numAt bs 8 4), resume := if w / 4 % 2 == 1 then some (wordAt bs 16) else none, seam := wordAt bs 24
    count := if w / 8 % 2 == 1 then some (w / 16 % 16) else none, savedD := (List.range 32).map fun l => numAt bs (32 + l) 1 }

/-- A level read back; the frame it saved is known beside the image, whose size rests on it. -/
def readLevel (bs : List Byte) (frame : Nat) : CallLevel :=
  let t := 4096 + 256 * frame
  { lanes := (List.range 32).map fun l => { weft := readWeft bs 0 16 l, d := numAt bs (t + l) 1, pocket := readPocket bs 4096 frame l }
    frame := frame, active := BitVec.ofNat 32 (numAt bs (t + 32) 4), depth := numAt bs (t + 37) 1, ret := wordAt bs (t + 40) }

/-- The on-chip levels, oldest first, from an offset; and where they end. -/
def readLevels (bs : List Byte) : List Nat → Nat → List CallLevel × Nat
  | [], off => ([], off)
  | f :: fs, off =>
    let n := 4096 + 256 * f + 64
    let (ls, e) := readLevels bs fs (off + n)
    (readLevel (bytesAt bs off n) f :: ls, e)

def readElem (bs : List Byte) (off : Nat) : Elem :=
  { f := BitVec.ofNat 32 (numAt bs off 4), r2047 := numAt bs (off + 4) 2, r2048 := numAt bs (off + 6) 2, r2049 := numAt bs (off + 8) 2
    r31 := numAt bs (off + 10) 1 }

def readTile (bs : List Byte) (off : Nat) : Tile :=
  let st := wordAt bs (off + 16384)
  { mode := (TileMode.ofCode (field st 4 2)).getD .fp32, elems := (List.range 1024).map fun k => readElem bs (off + 16 * k), steps := field st 16 14
    inx := st.getLsbD 3, inv := st.getLsbD 2, sat := st.getLsbD 1, ovr := st.getLsbD 0 }

def readPlane (bs : List Byte) (off : Nat) (code : Nat) : Plane :=
  match PlaneFmt.ofCode code with
  | some f => { fmt := some f, data := bytesAt bs off (planeBytes f), scales := if hasScales f then bytesAt bs (off + 8192) 32 else [] }
  | none => {}

def readRegs (bs : List Byte) (kept : List Registration) : List Registration :=
  (List.range 8).filterMap fun k =>
    let a := wordAt bs (16 * k)
    let v := wordAt bs (16 * k + 8)
    if v.getLsbD 17 then
      (kept[k]?).map fun r => { r with addr := a, phase := BitVec.ofNat 16 (field v 0 16) }
    else none

/-- The phase a restored warp takes up issue in (R35). -/
def resumePhase (seam : Bool) (a : Word) : Phase :=
  match field a 3 4 with
  | 0 => .fetch .start
  | k => if seam && k == 2 then .fetch .seam else .fetch (.resumeAt k)

/-- A warp rebuilt from an image, and what the device keeps beside it (R225). -/
def applyImage (bs : List Byte) (x : SavedWarp) : SavedWarp :=
  let w := x.warp
  let h1 := wordAt bs 8
  let live := field h1 0 8
  let frame := field h1 8 8
  let np := field h1 16 8
  let nc := field h1 24 8
  let oPocket := 1280 + 256 * live
  let oPleat := oPocket + 256 * frame
  let oCall := oPleat + 64 * np
  let frames := ((w.calls.take nc).map (·.frame)).reverse
  let (levels, oShadow) := readLevels bs frames oCall
  let rw := wordAt bs 0x88
  let region := if h1.getLsbD 37 then
      w.region.map fun r =>
        { r with
          keep := field rw 0 5, replays := field rw 5 2, plane := if rw.getLsbD 14 then some (rw.getLsbD 7) else none
          zeroed := BitVec.ofNat 4 (field rw 8 4), loaded := BitVec.ofNat 2 (field rw 12 2)
          lanes := mapFrom (fun l q => ((List.range (field rw 0 5)).map (fun k => wordAt bs (oShadow + 256 * k + 8 * l)), q.2.1,
            readPocket bs (oShadow + 256 * field rw 0 5) frame l)) 0 r.lanes }
    else none
  let oTiles := oShadow + (if region.isSome then 256 * (field rw 0 5 + frame) else 0)
  let nums := (List.range 4).filter fun t => h1.getLsbD (32 + t)
  let oPlanes := oTiles + 16448 * nums.length
  let a := wordAt bs 0
  let code := numAt bs 0xC8 1
  let w1 : Warp := { w with
    base := word (a.toNat - a.toNat % 128), idx := 1
    phase := resumePhase (w.phase == .fetch .seam) a
    frame := frame
    lanes := mapFrom (fun l (y : Lane) => { y with
      weft := readWeft bs 1280 live l, d := numAt bs (256 + 32 * l + 8) 1, preds := BitVec.ofNat 48 (numAt bs (256 + 32 * l) 8 % 2 ^ 47)
      pocket := readPocket bs oPocket frame l }) 0 w.lanes
    ux := (List.range 8).map fun k => wordAt bs (0x18 + 8 * k)
    active := BitVec.ofNat 32 (numAt bs 0x10 4), gone := BitVec.ofNat 32 (numAt bs 0x14 4)
    pleats := ((List.range np).map fun k => readPleat (bytesAt bs (oPleat + 64 * k) 64)).reverse ++ w.pleats.drop np
    calls := levels.reverse ++ w.calls.drop nc
    sig := wordAt bs 0x58, fpmode := wordAt bs 0x60, fpflags := wordAt bs 0x68, wdog := wordAt bs 0x70, wcount := numAt bs 0x78 8
    regionPc := wordAt bs 0x80, region := region
    tcause := wordAt bs 0x98, tpc := wordAt bs 0xA0, tnext := wordAt bs 0xA8, tmask := wordAt bs 0xB0, tinfo := wordAt bs 0xB8
    hret := wordAt bs 0xC0
    reports := if code == 0 then w.reports.drop 1 else
      { (w.reports.headD { code := 0, addr := 0 }) with code := BitVec.ofNat 8 code, addr := wordAt bs 0xD0 } :: w.reports.drop 1
    regs := readRegs (bytesAt bs regsOffset 128) w.regs
    reissue := match w.status with
      | .blocked .. => true
      | _ => false
    ops := [], status := .running, wake := none, stalled := none, yielded := true, stood := false, behind := [], waited := 0 }
  { x with
    warp := w1
    tiles := mapFrom (fun k t => (t, readTile bs (oTiles + 16448 * k))) 0 nums
    planes := if h1.getLsbD 36 then
        some (readPlane bs (oPlanes + 64) (numAt bs (oPlanes + 1) 1), readPlane bs (oPlanes + 64 + 8256) (numAt bs (oPlanes + 2) 1),
          numAt bs oPlanes 1 == 1)
      else none }

end Sys2Proof.Machine
end

