-- ==== Sys2Proof/Machine/Slots.lean ====
section
/-! DEFINITION. Warp slots: which are free, what reserves hold back, where a group fits, how a warp is made (R10, R16, R19, R22, R28,
R194, R219, R220). -/

namespace Sys2Proof.Machine

/-! ### Free slots -/

/-- The free slots of a core, as partition and slot; a package has 8 dies of 96 cores (R1). -/
def freeSlots (s : State) (die core : Nat) : List (Nat × Nat) :=
  let here := coreWarps s die core
  if 8 ≤ die || 96 ≤ core then [] else ((List.range 4).flatMap fun p => (List.range 16).map fun k => (p, k)).filter fun x => !here.any fun w => w.part == x.1 && w.slot == x.2

def freeIn (free : List (Nat × Nat)) (p : Nat) : Nat := (free.filter fun x => x.1 == p).length

/-- The lowest free slot of the partition with most of them. -/
def pickSlot (free : List (Nat × Nat)) : Option (Nat × Nat) :=
  let best := (List.range 4).foldl (fun b p => if freeIn free p > freeIn free b then p else b) 0
  free.find? fun x => x.1 == best

/-- Slots for n warps, the first as given. -/
def pickSlots : Nat → List (Nat × Nat) → List (Nat × Nat)
  | 0, _ => []
  | n + 1, free =>
    match pickSlot free with
    | some x => x :: pickSlots n (free.filter fun y => y != x)
    | none => []

/-! ### Reserves (R194) -/

/-- Slots of a core that a stage of a pattern holds. -/
def heldSlots (s : State) (die core ctx : Nat) (pat : Word) (stage : BitVec 4) : Nat :=
  ((coreWarps s die core).filter fun w => w.ctx == ctx && w.pat == pat && w.stage == stage).length

/-- Slots that the other stages of a pattern still need on a core. -/
def reservedFor (s : State) (die core : Nat) (p : Pattern) (stage : BitVec 4) : Nat :=
  ((p.image.stages.filter fun d => d.num != stage).map fun d => d.reserve - heldSlots s die core p.ctx p.addr d.num).foldl (· + ·) 0

def reservesAllow (s : State) (die core : Nat) (p : Pattern) (stage : BitVec 4) (n : Nat) : Bool :=
  decide (reservedFor s die core p stage + n ≤ (freeSlots s die core).length)

/-! ### Groups (R219) -/

/-- The most scratchpad of a core (R22). -/
def scratchMost : Nat := 448 * 1024

def Group.onCore (g : Group) (die core : Nat) : Bool :=
  g.die == die && (if g.wide then g.core / 4 == core / 4 else g.core == core)

/-- Scratchpad of a core that resident groups claim. -/
def claimedOn (s : State) (die core : Nat) : Nat :=
  ((s.groups.filter fun g => !g.saved && g.onCore die core).map (·.scratch)).foldl (· + ·) 0

/-- The most that groups on a core may claim there together: the least that the launch of any of them chose (R22). -/
def mostOn (s : State) (die core : Nat) : Nat :=
  ((s.groups.filter fun g => !g.saved && g.onCore die core).map (·.most)).foldl min scratchMost

/-- Whether n more bytes may be claimed on a core for a launch that chose `most`. -/
def claimFits (s : State) (die core n most : Nat) : Bool := decide (claimedOn s die core + n ≤ min most (mostOn s die core))

/-- The cores a group runs on: its own, or the four of its quad. -/
def coresOf (wide : Bool) (core : Nat) : List Nat := if wide then (List.range 4).map fun j => core / 4 * 4 + j else [core]

/-- Warps of a group that the j-th of k cores takes: warp i goes to core i modulo k. -/
def shareOf (size k j : Nat) : Nat := ((List.range size).filter fun i => i % k == j).length

/-- The core whose bobbin a stage's records for a core wait in: the lowest of the quad for a group of more than 64 warps (R219). -/
def leadCore (d : StageDecl) (core : Nat) : Nat := if d.isGroup && decide (64 < d.size) then core / 4 * 4 else core

/-- The slots that a launch of a stage takes on a core. -/
def slotsOn (d : StageDecl) (core : Nat) : Nat :=
  if d.isGroup then (if 64 < d.size then shareOf d.size 4 (inQuad core) else d.size) else 1

/-- Whether a group of a stage, of a launch that chose `most`, finds its slots and scratchpad, at a core: of a quad, the lowest. -/
def groupFits (s : State) (die core : Nat) (p : Pattern) (d : StageDecl) (most : Nat) : Bool :=
  leadCore d core == core && (coresOf (decide (64 < d.size)) core).all fun c =>
    decide (slotsOn d c ≤ (freeSlots s die c).length) && claimFits s die c d.scratch most && reservesAllow s die c p d.num (slotsOn d c)

/-! ### A new warp (R16, R19, R28) -/

/-- Hardware areas of a pattern in use, by their base. -/
def areaUsed (s : State) (p : Pattern) (base : Word) : Bool :=
  (warps s).any (fun w => w.resident && w.ctx == p.ctx && w.pat == p.addr && w.spill == base)
    || s.saved.any fun x => x.warp.ctx == p.ctx && x.warp.pat == p.addr && x.warp.spill == base

/-- A free hardware area: the slot's own where no earlier warp took it along, else the lowest. -/
def freeArea (s : State) (p : Pattern) (die core part slot : Nat) : Word :=
  let at_ := fun (k : Nat) => p.hwBase + word (k * hwAreaSize p.image.fmax)
  let own := ((die * 96 + core) * 4 + part) * 16 + slot
  if areaUsed s p (at_ own) then at_ (((List.range 49152).find? fun k => !areaUsed s p (at_ k)).getD own) else at_ own

/-- A warp of a stage in a slot, before its records are copied (R28). -/
def newWarp (s : State) (p : Pattern) (d : StageDecl) (die core part slot : Nat) (recs : List (Option Record)) : Warp × State :=
  let (name, s) := fresh s
  let first := (recs.findSome? id).getD {}
  ({ id := name, status := .creating, die := die, core := core, part := part, slot := slot, homeCore := core, ctx := p.ctx, pat := p.addr, stage := d.num
     gidx := first.gidx, queue := first.queue.toNat, seq := first.seq, spill := freeArea s p die core part slot
     livebase := p.image.liveTable - (p.image.codeBase >>> 3), signed := p.signed, frame := d.frame, recs := recs
     lanes := List.replicate 32 { Lane.blank with pocket := List.replicate d.frame 0 }
     base := d.entry.getD 0, phase := .fetch .start, yielded := true }, s)

/-- A warp enters its slot. -/
def seatWarp (s : State) (w : Warp) : State := addWarp (wakeFor s w.die w.core w.part) w

end Sys2Proof.Machine
end

