-- ==== Sys2Proof/Machine/Preempt.lean ====
section
/-! DEFINITION. Pre-emption, parking, restore (R35, R164, R195, R221, R223 to R225, R298), power states (R226). -/

namespace Sys2Proof.Machine

/-! ### Spans of a context's memory -/

/-- Bytes the device writes from a virtual address on, page by page (R190), by the TLB of a die; none where some page does not take them. -/
def writeSpan (s : State) (die ctx : Nat) : Nat → Nat → List Byte → Option State
  | 0, _, _ => some s
  | fuel + 1, va, bs =>
    if bs.isEmpty then some s
    else
      let n := 4096 - va % 4096
      match deviceWrite (changed 0) s die ctx va (bs.take n) with
      | some s1 => writeSpan s1 die ctx fuel (va + n) (bs.drop n)
      | none => none

def deviceStore (s : State) (die ctx va : Nat) (bs : List Byte) : Option State := writeSpan s die ctx (bs.length / 4096 + 2) va bs

/-- n bytes the device reads from a virtual address on. -/
def readSpan (s : State) (die ctx : Nat) : Nat → Nat → Nat → Option (List Byte)
  | 0, _, _ => some []
  | fuel + 1, va, n =>
    if n == 0 then some []
    else
      let k := min n (4096 - va % 4096)
      match deviceRead s die ctx va k, readSpan s die ctx fuel (va + k) (n - k) with
      | some a, some b => some (a ++ b)
      | _, _ => none

def deviceLoad (s : State) (die ctx va n : Nat) : Option (List Byte) := readSpan s die ctx (n / 4096 + 2) va n

/-! ### Stopping (R35, R223) -/

/-- Where issue may stop for pre-emption: a clause boundary, a blocked BWAIT, a page fault; never in handler mode. -/
def Warp.atStop (w : Warp) : Bool :=
  !w.h && (match w.status with
    | .blocked .. | .faulted .. => !w.replay
    | .running => !w.replay && !w.spoolDue && (w.phase == .fetch .start || w.phase == .fetch .seam)
    | _ => false)

def isStopping (s : State) (id : Nat) : Bool := s.stopping.any fun x => x.warp == id

/-- A warp to be stopped; a group of more than 64 warps goes whole. -/
def askStop (s : State) (w : Warp) (park : Bool) : State :=
  let all : List Warp := match groupOf s w with
    | some g => if g.wide then (warps s).filter fun v => v.resident && v.group == some g.key else [w]
    | none => [w]
  all.foldl (fun s v => if isStopping s v.id || v.status == .leaving then s
    else { s with stopping := s.stopping ++ [{ warp := v.id, park := park }] }) s

/-- A pre-emption that fails flushes the queue of its warp (R223). -/
def failPreempt (s : State) (w : Warp) : State := flushQueue s w.queue 3 0 false 0

/-! ### Saving (R224) -/

/-- Where the liveness byte of the first word a warp will issue lies (R52). -/
def livenessVa (w : Warp) : Nat := (w.livebase.toNat + w.firstWord.toNat / 8) % 2 ^ 57

/-- That byte, at most 16; none where the table cannot be read: not mapped, refused, poisoned (R52, R223). -/
def livenessOf (s : State) (w : Warp) : Option Nat :=
  match translate (unheld s) w.die none w.ctx (livenessVa w) with
  | .ok pa _ true _ _ _ => if runMeets s pa 1 || !reachable s pa then none else some (min 16 (Memory.read s.mem pa).toNat)
  | _ => none

def imageSlot (s : State) (p : Pattern) : Option Nat :=
  (List.range p.parkImages).find? fun k => !s.saved.any fun x => x.warp.ctx == p.ctx && x.warp.pat == p.addr && x.image == k

def imageVa (p : Pattern) (k : Nat) : Nat := p.parkBase.toNat + slotBytes * k

/-- A group save slot's address, and the lowest free one (R224). -/
def groupVa (p : Pattern) (k : Nat) : Nat :=
  p.parkBase.toNat + slotBytes * p.parkImages + k * (4 * (p.image.stages.map (·.scratch)).foldl max 0)

def groupSlot (s : State) (p : Pattern) : Nat :=
  ((List.range p.parkGroups).find? fun k => !s.groups.any fun g => g.saved && g.ctx == p.ctx && g.pat == p.addr && g.slot == k).getD 0

/-- The cores of its quad that a group's scratchpad lies on. -/
def scratchCores (g : Group) : List Nat := if g.wide then List.range 4 else [inQuad g.core]

def groupBytes (g : Group) : List Byte :=
  (scratchCores g).flatMap fun c => Memory.readBytes g.mem (scratchKey c 0) g.scratch

/-- The bytes that go into a warp's image slot: the image, the registrations. -/
def slotWrites (s : State) (w : Warp) (live : Nat) : List (Nat × List Byte) :=
  [(0, imageBytes w (heldOf s w) live), (regsOffset, regsBytes w.regs)]

/-- The saved warp whose slot holds the marks of a core of the group's quad: the group's lowest-numbered one there (R298). -/
def marksWarp (s : State) (key core : Nat) : Option SavedWarp :=
  (sortBy (fun a b => decide (a.warp.index ≤ b.warp.index))
    (s.saved.filter fun x => x.warp.group == some key && inQuad x.warp.core == core)).head?

def storeAll (s : State) (die ctx base : Nat) (ws : List (Nat × List Byte)) : Option State :=
  ws.foldl (fun r x => r.bind fun s => deviceStore s die ctx (base + x.1) x.2) (some s)

/-- The mark bitmaps of a group, each into its warp's slot (R298). -/
def storeMarks (s : State) (p : Pattern) (g : Group) : Option State :=
  (scratchCores g).foldl (fun r c => r.bind fun s =>
    match marksWarp s g.key c with
    | some x => if g.scratch == 0 then some s else deviceStore s g.die p.ctx (imageVa p x.image + marksOffset) (marksBytes g.marks c)
    | none => some s) (some s)

/-- The last warp of a group is saved: its scratchpad follows it (R223). -/
def saveGroup (s : State) (p : Pattern) (key : Nat) : Option State :=
  match findGroup s key with
  | none => some s
  | some g =>
    if (warps s).any fun w => w.resident && w.group == some key then some s
    else
      let k := groupSlot s p
      let s1 := updateGroup s key fun g => { g with saved := true, slot := k }
      ((deviceStore s1 g.die p.ctx (groupVa p k) (groupBytes g)).bind fun s2 => storeMarks s2 p g).map fun s2 => refuseQuad s s2 g.die (g.core / 4)

/-- A warp leaves its slot for its image. -/
def liftWarp (s : State) (w : Warp) (k : Nat) (park : Bool) : State :=
  let h := heldOf s w
  let s := tick (removeWarp (releaseMatrix s w) w.id)
  let s := dropWaiters s fun x => x == .warp w.id
  { s with
    saved := s.saved ++ [{ warp := w.fillAll, tiles := h.tiles, planes := h.planes, image := k, parked := park, since := s.now }]
    stopping := s.stopping.filter fun x => x.warp != w.id }

/-- R223, R224. Where the liveness byte lies on a stack in self-refresh the save waits (R392). -/
def execPreemptSave (warp : Nat) (s : State) : Result :=
  .next (match s.stopping.find? fun x => x.warp == warp, findWarp s warp with
    | some x, some w =>
      if !w.atStop || !isQuiet s w || deviceHeld s w.die w.ctx (livenessVa w) 1 then s
      else
        let s := deviceTouch s w.die w.ctx (livenessVa w) 1
        match findPattern s w.ctx w.pat, livenessOf s w with
        | some p, some live =>
          match imageSlot s p with
          | none => failPreempt s w
          | some k =>
            match storeAll s w.die w.ctx (imageVa p k) (slotWrites s w live) with
            | none => failPreempt s w
            | some s1 =>
              let s2 := liftWarp s1 w k x.park
              match w.group with
              | none => s2
              | some key => (saveGroup s2 p key).getD (failPreempt s2 w)
        | _, _ => failPreempt s w
    | _, _ => s)

/-- A copy that waits for the host to resolve a fault (R305, R306). -/
def Copy.isSuspended (c : Copy) : Bool :=
  match c.status with
  | .suspended .. => true
  | _ => false

/-- Whether what a warp waits for pauses its timeout: a page fault of a copy of its own (R305), or a stack in self-refresh (R223, R392). -/
def waitsOnHold (s : State) (w : Warp) : Bool :=
  (s.copies.any fun c => c.warp == w.id && c.isSuspended)
    || s.hbmStacks.any fun k => k.st == .holding
      && (w.stalled == some (.stack k.num) || (s.copies.any fun c => c.warp == w.id && copyHeld s c)
        || s.units.any fun u => u.jobs.any fun j => j.warp == w.id && jobHeld s j)

/-- R223's timeout: the warp has stopped and has not drained. -/
def execPreemptTimeout (warp : Nat) (s : State) : Result :=
  .next (match findWarp s warp with
    | some w => if isStopping s warp && w.atStop && !isQuiet s w && !waitsOnHold s w then failPreempt s w else s
    | none => s)

/-! ### Who is pre-empted for whom (R195, R223) -/

def prioOf (s : State) (w : Warp) : Nat := ((declOf s w.ctx w.pat w.stage).map (·.prio)).getD 0

/-- The queue that a group's records came from. -/
def groupQueue (s : State) (key : Nat) : Option Nat := ((warps s).find? fun w => w.resident && w.group == some key).map (·.queue)

/-- The warps and groups a starved launch would have gone: youngest first, as many as it takes until its group fits some core. -/
def victims (p : Pattern) (d : StageDecl) (die most : Nat) : List Group → State → List Nat
  | [], _ => []
  | g :: gs, s =>
    if (List.range 96).any fun c => groupFits s die c p d most then []
    else
      let gone := (warps s).filter fun w => w.resident && w.group == some g.key
      let s1 := gone.foldl (fun s w => removeWarp s w.id) { s with groups := s.groups.filter fun x => x.key != g.key }
      g.key :: victims p d die most gs s1

/-- Groups in order of age, the youngest first. -/
def youngest (gs : List Group) : List Group := sortBy (fun a b => decide (b.launched ≤ a.launched)) gs

def execStarvePreempt (launch die : Nat) (s : State) : Result :=
  .next (match findLaunch s launch with
    | none => s
    | some l =>
      match findPattern s l.ctx l.pat, declOf s l.ctx l.pat 0 with
      | some p, some d =>
        let waiting := s.bobbins.any fun b =>
          b.ctx == l.ctx && b.pat == l.pat && b.stage == 0 && b.die == die && b.recs.any fun r => r.launch == some l.key
        let mine := (queueOf s l.queue).prio
        let lower := s.groups.filter fun g =>
          !g.saved && g.die == die && g.ctx != l.ctx && (match groupQueue s g.key with
            | some q => decide ((queueOf s q).prio < mine)
            | none => false)
        if !waiting || contextHeld s l.ctx then s
        else
          let keys := victims p d die l.most (youngest lower) s
          ((warps s).filter fun w => w.resident && (w.group.map keys.contains).getD false).foldl (fun s w => askStop s w false) s
      | _, _ => s)

/-- R195's three conditions. -/
def parkable (s : State) (w : Warp) : Bool :=
  let blockedGlobal := fun (v : Warp) => !v.h && (match v.status with
    | .blocked .global .. => true
    | _ => false)
  blockedGlobal w && (match groupOf s w with
    | some g => !g.wide || (warps s).all fun v => !v.resident || v.group != some g.key || blockedGlobal v
    | none => true)

def blockedSince (w : Warp) : Nat :=
  match w.status with
  | .blocked _ _ _ t => t
  | _ => 0

/-- Whether a bobbin can launch (R192). -/
def gathered (d : StageDecl) (b : Bobbin) : Bool :=
  if d.isGroup then !b.recs.isEmpty else decide (d.gather ≤ b.recs.length) || (b.expired && !b.recs.isEmpty)

/-- A parked warp is ready once its phase has passed or its object is gone; a pre-empted one always (R195, R302). -/
def readyToRestore (s : State) (x : SavedWarp) : Bool :=
  !contextHeld s x.warp.ctx && (!x.parked || (match x.warp.status with
    | .blocked sp at_ q _ =>
      let p : ObjPlace := { space := sp, group := x.warp.group, at_ := at_ }
      !isMarked s p || phasePassed (readObj s p).phase q.toNat
    | _ => true))

/-- Where a group may have its scratchpad: where it stands, or wherever it finds room once it is saved. -/
def groupAllows (s : State) (g : Group) (die core : Nat) : Bool :=
  if g.saved then (coresOf g.wide core).all fun c => claimFits s die c g.scratch g.most else g.onCore die core

/-- Whether a saved warp could go to a core of its die if a slot were free there, and whether one is that it may take (R194, R221). -/
def couldGo (s : State) (x : SavedWarp) (core : Nat) : Bool :=
  (x.warp.group.bind (findGroup s)).elim true fun g => groupAllows s g x.warp.die core

def slotFor (s : State) (x : SavedWarp) (core : Nat) : Bool :=
  couldGo s x core && (findPattern s x.warp.ctx x.warp.pat).any fun p => reservesAllow s x.warp.die core p x.warp.stage 1

/-- A saved warp that is ready to go on and finds a slot on no core of its die, where it could go to this one (R195, R196). DEDUCED: R195 parks for
records that wait, and R196's promise needs it for such a warp too (log 178). -/
def restoreDenied (s : State) (die core : Nat) : Bool :=
  s.saved.any fun x => x.warp.die == die && readyToRestore s x && couldGo s x core && !(List.range 96).any (slotFor s x)

/-- A stage that has a record waiting on a core and may not be assigned there the slots it takes (R194, R195). -/
def recordDenied (s : State) (die core : Nat) : Bool :=
  s.patterns.any fun p => !contextHeld s p.ctx && p.image.stages.any fun d =>
    let b := findBobbin s p.ctx p.addr d.num die (leadCore d core)
    let seg := findSegment s p.ctx p.addr d.num die
    (gathered d b || (!seg.entries.isEmpty && (List.range 96).any fun c => bobbinRoom d (findBobbin s p.ctx p.addr d.num die c)))
      && !reservesAllow s die core p d.num (slotsOn d core)

def denied (s : State) (die core : Nat) : Bool := recordDenied s die core || restoreDenied s die core

def execPark (die core : Nat) (s : State) : Result :=
  .next (
    let able := (coreWarps s die core).filter fun w => parkable s w && !isStopping s w.id
    let busy := s.stopping.any fun x => x.park && ((findWarp s x.warp).map fun w => w.die == die && w.core == core).getD false
    match able with
    | [] => s
    | w :: ws =>
      if denied s die core && !busy then askStop s (ws.foldl (fun a b => if blockedSince b < blockedSince a then b else a) w) true else s)

/-! ### Restore (R164, R221, R225) -/

/-- The tiles and planes the warp owns are free where it would go, once what is queued there is performed (R152). -/
def unitTakes (u : MatrixUnit) (x : SavedWarp) : Bool :=
  let v := viewOf u
  x.tiles.all (fun t => (v.tile t.1).owner.isNone) && (x.planes.isNone || v.holder.isNone)

/-- R221, R194: where one saved warp may go, its group apart. -/
def mayTake (s : State) (x : SavedWarp) (die core part slot : Nat) : Bool :=
  readyToRestore s x && die == x.warp.die && (freeSlots s die core).contains (part, slot) && unitTakes (findUnit s die core part) x
    && (match findPattern s x.warp.ctx x.warp.pat with
      | some p => reservesAllow s die core p x.warp.stage 1
      | none => false)

/-- A scratchpad place moved to another core of a quad. -/
def rekey (q a : Nat) : Nat := scratchKey q (a % 2 ^ 19)

def rekeyWarp (q : Nat) (w : Warp) : Warp :=
  { w with
    regs := w.regs.map fun r => if r.space == .scratch then { r with place := rekey q r.place } else r
    status := match w.status with
      | .blocked .scratch at_ p t => .blocked .scratch (rekey q at_) p t
      | st => st }

/-- A write of a group's scratchpad, and the releases after it, as they lie once the group has moved. -/
def LooseWrite.moved (x : LooseWrite) (key : Nat) (re : Nat → Nat) : LooseWrite :=
  { x with
    at_ := re x.at_
    released := x.released.map fun r =>
      if r.place.space == .scratch && r.place.group == some key then { r with place := { r.place with at_ := re r.place.at_ } } else r }

/-- The bytes of a saved group written back to the cores it now takes. -/
def groupMem (g : Group) (cores : List Nat) (bs : List Byte) : List Host.Cell :=
  (mapFrom (fun j c => (j, c)) 0 cores).foldl (fun m x => Memory.writeBytes m (scratchKey x.2 0) ((bs.drop (x.1 * g.scratch)).take g.scratch)) []

/-- The marks of a core of a saved group as the slot of its warp has them; as they were where no slot holds them or it cannot be read. -/
def savedMarks (s : State) (p : Pattern) (g : Group) (core : Nat) : List Nat :=
  let kept := g.marks.filter fun a => a / 2 ^ 19 == core
  match marksWarp s g.key core with
  | some x => if g.scratch == 0 then kept else ((deviceLoad s x.warp.die p.ctx (imageVa p x.image + marksOffset) 3584).map (readMarks core)).getD kept
  | none => kept

/-- A saved group becomes resident on a core, or on a quad. -/
def placeGroup (s : State) (key die core : Nat) : Option State :=
  match findGroup s key with
  | none => some s
  | some g =>
    if !g.saved then some s
    else
      match findPattern s g.ctx g.pat with
      | none => none
      | some p =>
        let q := inQuad core
        let cores := if g.wide then List.range 4 else [q]
        let n := cores.length * g.scratch
        let s := deviceTouch s die g.ctx (groupVa p g.slot) n
        (deviceLoad s die g.ctx (groupVa p g.slot) n).map fun bs =>
          let re := fun (a : Nat) => if g.wide then a else rekey q a
          let s1 := updateGroup s key fun g =>
            { g with saved := false, die := die, core := if g.wide then core / 4 * 4 else core, mem := groupMem g cores bs
                     marks := ((scratchCores g).flatMap (savedMarks s p g)).map re, poison := g.poison.map re
                     loose := g.loose.map fun x => x.moved key re }
          let s2 := if g.wide then s1 else
            { s1 with saved := s1.saved.map fun x => if x.warp.group == some key then { x with warp := rekeyWarp q x.warp } else x }
          trimL1 (refuseQuad s s2 die (core / 4)) die (coresOf g.wide core)

/-- The unit takes back the tiles and planes of an image. -/
def fillUnit (u : MatrixUnit) (id : Nat) (x : SavedWarp) : MatrixUnit :=
  let u := x.tiles.foldl (fun u t => u.setTile t.1 { t.2 with owner := some id }) u
  match x.planes with
  | some (p0, p1, a) => { u with plane0 := p0, plane1 := p1, active := a, holder := some id }
  | none => u

/-- A warp takes its slot again with what its image holds (R225): none where its image or its group's scratchpad cannot be read. The L1 copies
of the core it comes to are older than what its lanes have seen (R250), so they go. -/
def restoreOne (s : State) (x : SavedWarp) (die core part slot : Nat) : Option State :=
  let w := x.warp
  match findPattern s w.ctx w.pat with
  | none => none
  | some p =>
    let s := deviceTouch s die w.ctx (imageVa p x.image) slotBytes
    match deviceLoad s die w.ctx (imageVa p x.image) slotBytes, (match w.group with
      | some key => placeGroup s key die core
      | none => some s) with
    | some bs, some s1 =>
      let kept := (s1.saved.find? fun y => y.warp.id == w.id).getD x
      let y := applyImage bs kept
      let s2 := { s1 with saved := s1.saved.filter fun z => z.warp.id != w.id }
      let s3 := if y.tiles.isEmpty && y.planes.isNone then s2 else setUnit s2 (fillUnit (findUnit s2 die core part) w.id y)
      some (seatWarp (acquireAt s3 .die die core) { y.warp with die := die, core := core, part := part, slot := slot })
    | _, _ => none

/-- The saved warps of a group that spans a quad, in order. -/
def wideMembers (s : State) (key : Nat) : List SavedWarp :=
  sortBy (fun a b => decide (a.warp.index ≤ b.warp.index)) (s.saved.filter fun x => x.warp.group == some key)

/-- The warps of such a group restored together, each on its own core of the quad; none where one finds no slot (R221). -/
def restoreMembers (die quad : Nat) : List SavedWarp → State → Option State
  | [], s => some s
  | x :: xs, s =>
    let core := 4 * quad + inQuad x.warp.core
    ((freeSlots s die core).find? fun y => mayTake s x die core y.1 y.2).bind fun y =>
      (restoreOne s x die core y.1 y.2).bind (restoreMembers die quad xs)

/-- The state after a saved warp is restored on a core, with its whole group where that spans a quad (R221); none where it may not be. -/
def restored (s : State) (x : SavedWarp) (die core part slot : Nat) : Option State :=
  if !mayTake s x die core part slot then none
  else
    match x.warp.group.bind (findGroup s) with
    | none => restoreOne s x die core part slot
    | some g =>
      if !groupAllows s g die core then none
      else if !g.wide then restoreOne s x die core part slot
      else if (warps s).any fun w => w.resident && w.group == some g.key then none
      else restoreMembers die (core / 4) (wideMembers s g.key) s

/-- Whether a test of bytes holds of the image of a saved warp, or of its group's save slot. -/
def imageAny (s : State) (x : SavedWarp) (test : Nat → Nat → Nat → Nat → Bool) : Bool :=
  match findPattern s x.warp.ctx x.warp.pat with
  | none => false
  | some p =>
    test x.warp.die p.ctx (imageVa p x.image) slotBytes || (match x.warp.group.bind (findGroup s) with
      | some g => g.saved && test x.warp.die p.ctx (groupVa p g.slot) ((scratchCores g).length * g.scratch)
      | none => false)

/-- Whether one of them is poisoned, or lies on a stack in self-refresh. -/
def imagePoisoned (s : State) (x : SavedWarp) : Bool := imageAny s x (devicePoisoned s)
def imageHeld (s : State) (x : SavedWarp) : Bool := s.hbmStacks.any (fun k => k.st == .holding) && imageAny s x (deviceHeld s)

/-- A saved warp may be restored, or finds its image poisoned where it might be; not while its image is held (R392). -/
def mayRestore (s : State) (x : SavedWarp) (die core part slot : Nat) : Bool :=
  !imageHeld s x && ((restored s x die core part slot).isSome || (mayTake s x die core part slot && imagePoisoned s x))

/-- A restore; an image that is poisoned resets its context (R382), one that is held waits (R392). -/
def restore (s : State) (x : SavedWarp) (die core part slot : Nat) : State :=
  if imageHeld s x then s
  else if mayTake s x die core part slot && imagePoisoned s x then escalateFrom s x.warp.ctx 0x09 (((findPattern s x.warp.ctx x.warp.pat).map fun p => imageVa p x.image).getD 0) (.context x.warp.ctx)
  else (restored s x die core part slot).getD s

def execRestore (warp die core part slot : Nat) (s : State) : Result :=
  .next (match s.saved.find? fun x => x.warp.id == warp with
    | some x => restore s x die core part slot
    | none => s)

/-! ### Power (R226) -/

/-- LATTOL of a scheduler partition: the least that the VFs of its die's device partition have written; 0 where one has not. -/
def tolerance (s : State) (die core part : Nat) : Nat :=
  let k := (die * 96 + core) * 4 + part
  let vs := vfsOf s (partitionOfDie s die)
  let one := fun (v : Nat) => (((vfPage s v).bind fun p => p.lattol.find? fun x => x.1 == k).map fun x => x.2.toNat).getD 0
  match vs with
  | [] => 0
  | v :: rest => rest.foldl (fun m u => min m (one u)) (one v)

def coreTolerance (s : State) (die core : Nat) : Nat :=
  (List.range 4).foldl (fun m p => min m (tolerance s die core p)) (2 ^ 32)

def islandCores (h : Nat) : List Nat := (List.range 48).map fun k => 48 * h + k

/-- Whether a unit is idle (R226). -/
def unitIdle (s : State) : PowerUnit → Bool
  | .part d c p =>
    !((coreWarps s d c).any fun w => w.part == p) && (findUnit s d c p).jobs.isEmpty
  | .core d c =>
    (coreWarps s d c).isEmpty && (List.range 4).all (fun p => (findUnit s d c p).jobs.isEmpty)
      && !(s.bobbins.any fun b => b.die == d && b.core == c && !b.recs.isEmpty)
      && !(s.copies.any fun x => x.die == d && x.core / 4 == c / 4 && x.cores.contains (inQuad c))
  | .island d h => (islandCores h).all fun c => s.gated.contains (.core d c)
  | .die d =>
    s.gated.contains (.island d 0) && s.gated.contains (.island d 1) && s.heddles.isEmpty
      && !(s.launches.any fun l => l.dists.any fun x => x.die == d && (x.lo < x.hi || x.blocks != 0))

/-- Whether the latency tolerance allows a unit's state. -/
def toleranceAllows (s : State) : PowerUnit → Bool
  | .part d c p => decide (40 ≤ tolerance s d c p)
  | .core d c => decide (2000 ≤ coreTolerance s d c)
  | .island d h => (islandCores h).all fun c => decide (30000 ≤ coreTolerance s d c)
  | .die d => (List.range 96).all fun c => decide (400000 ≤ coreTolerance s d c)

/-- The units of a package: 8 dies, each of 2 islands and 96 cores of 4 partitions (R1). -/
def realUnit : PowerUnit → Bool
  | .part d c p => decide (d < 8) && decide (c < 96) && decide (p < 4)
  | .core d c => decide (d < 8) && decide (c < 96)
  | .island d h => decide (d < 8) && decide (h < 2)
  | .die d => decide (d < 8)

/-- An island or a die that goes down first writes back the dirty bytes of its self-invalidating copies (R240). -/
def settleUnit (s : State) : PowerUnit → State
  | .island d h => { writeBack s (fun die _ => die == d) with retained := if s.retained.contains (d, h) then s.retained else (d, h) :: s.retained }
  | .die d => writeBack s fun die _ => die == d
  | _ => s

def execPowerGate (unit : PowerUnit) (s : State) : Result :=
  .next (
    if realUnit unit && unitIdle s unit && toleranceAllows s unit && !s.gated.contains unit then
      let s := settleUnit s unit
      { s with gated := unit :: s.gated }
    else s)

def execPowerWake (unit : PowerUnit) (s : State) : Result := .next (wakeUnit s unit)

end Sys2Proof.Machine
end

