-- ==== Sys2Proof/Machine/Launch.lean ====
section
/-! DEFINITION. Records on their way to warps: overflow segments, gather timers, launches from bobbins, slot assignment, warp creation,
distributors and stealing (R28, R191, R192, R217 to R220). -/

namespace Sys2Proof.Machine

/-! ### Segments and timers (R191, R192) -/

/-- A record taken from a segment: read back, and what the device kept beside it. -/
def segRecord (e : SegEntry) (bs : List Byte) : Record :=
  { recordOf bs with joinPa := e.joinPa, launch := e.launch, hkey := e.heddle.map (·.1), priv := e.priv }

/-- R191: the oldest record of a segment goes to the lowest core whose bobbin has room; one of a heddle with records in a bobbin goes there
(R205). A context held keeps its records where they are (R334); a record that is poisoned resets it (R382). -/
def execOverflowToBobbin (ctx : Nat) (pat : Word) (stage die : Nat) (s : State) : Result :=
  .next (
    let st := BitVec.ofNat 4 stage
    let g := findSegment s ctx pat st die
    match g.entries, findPattern s ctx pat, declOf s ctx pat st with
    | e :: es, some p, some d =>
      let cores := match heddleCore s ctx pat st die (e.heddle.map (·.1)) with
        | some c => [c]
        | none => List.range 96
      if contextHeld s ctx then s
      else if devicePoisoned s die ctx e.va.toNat 64 then escalateFrom s ctx 0x09 e.va.toNat (.context ctx)
      else if deviceHeld s die ctx e.va.toNat 64 then s
      else
        match cores.find? fun c => bobbinRoom d (findBobbin s ctx pat st die c) with
        | none => s
        | some c =>
          let s := deviceTouch s die ctx e.va.toNat 64
          match deviceRead s die ctx e.va.toNat 64 with
          | none => s
          | some bs =>
            let r := segRecord e bs
            let s := setSegment s { g with entries := es }
            if recordBad ((stageDecl p r.stage).isSome) r then flushQueue s e.queue 6 0 false 0
            else enterRecord s d (findBobbin s ctx pat st die c) r
    | _, _, _ => s)

def execGatherTimerExpire (ctx : Nat) (pat : Word) (stage die core : Nat) (s : State) : Result :=
  .next (
    let b := findBobbin s ctx pat (BitVec.ofNat 4 stage) die core
    if b.recs.isEmpty || s.gated.contains (.core die core) then s else setBobbin s { b with expired := true })

/-! ### Launches from bobbins (R192, R219) -/

/-- A bobbin after its oldest n records went. -/
def Bobbin.gave (b : Bobbin) (d : StageDecl) (n : Nat) : Bobbin := { b with recs := b.recs.drop n, expired := d.timer == 0 }

/-- The records of a warp by lane. -/
def laneRecords (rs : List Record) : List (Option Record) := (List.range 32).map fun l => rs[l]?

def launchThreads (s : State) (p : Pattern) (d : StageDecl) (b : Bobbin) (part slot : Nat) : State :=
  let n := min d.gather b.recs.length
  let (w, s) := newWarp s p d b.die b.core part slot (laneRecords (b.recs.take n))
  seatWarp (setBobbin s (b.gave d n)) w

/-- The warps of a group, in order, each on its core in the slots still free there. -/
def seatGroup (p : Pattern) (d : StageDecl) (key die : Nat) (cores : List Nat) (r : Record) (first : Nat × Nat) : Nat → Nat → State → State
  | 0, _, s => s
  | n + 1, i, s =>
    let core := cores.getD (i % cores.length) 0
    let free := freeSlots s die core
    match (if i = 0 && free.contains first then some first else pickSlot free) with
    | none => s
    | some (part, slot) =>
      let (w, s) := newWarp s p d die core part slot (List.replicate 32 (some r))
      seatGroup p d key die cores r first n (i + 1) (seatWarp s { w with group := some key, index := i })

def launchGroup (s : State) (p : Pattern) (d : StageDecl) (b : Bobbin) (part slot : Nat) : State :=
  match b.recs with
  | [] => s
  | r :: _ =>
    let (key, s) := fresh s
    let l := r.launch.bind (findLaunch s)
    let wide := decide (64 < d.size)
    let cores := coresOf wide b.core
    let g : Group :=
      { key := key, ctx := p.ctx, pat := p.addr, stage := d.num, gidx := r.gidx, die := b.die, core := b.core, wide := wide, nwarps := d.size
        scratch := d.scratch, fused := (l.map (·.fused)).getD false, most := (l.map (·.most)).getD scratchMost, prio := d.prio, launched := s.now }
    let s1 := tick { setBobbin s (b.gave d 1) with groups := s.groups ++ [g] }
    noteReady (seatGroup p d key b.die cores r (part, slot) d.size 0 (trimL1 (refuseQuad s s1 b.die (b.core / 4)) b.die cores))

/-- The scratchpad that the launch of a bobbin's oldest record chose. -/
def Bobbin.most (s : State) (b : Bobbin) : Nat := (((b.recs.head?.bind (·.launch)).bind (findLaunch s)).map (·.most)).getD scratchMost

/-- Whether a bobbin's stage may be launched on its core now (R192, R194, R219, R334). -/
def mayLaunch (s : State) (p : Pattern) (d : StageDecl) (b : Bobbin) : Bool :=
  !contextHeld s b.ctx && gathered d b
    && (if d.isGroup then groupFits s b.die b.core p d (b.most s) else reservesAllow s b.die b.core p d.num 1)

def launchBobbin (s : State) (p : Pattern) (d : StageDecl) (b : Bobbin) (part slot : Nat) : State :=
  if d.isGroup then launchGroup s p d b part slot else launchThreads s p d b part slot

def execBobbinLaunch (ctx : Nat) (pat : Word) (stage die core part slot : Nat) (s : State) : Result :=
  .next (
    let st := BitVec.ofNat 4 stage
    let b := findBobbin s ctx pat st die core
    match findPattern s ctx pat, declOf s ctx pat st with
    | some p, some d => if mayLaunch s p d b && (freeSlots s die core).contains (part, slot) then launchBobbin s p d b part slot else s
    | _, _ => s)

/-! ### Slot assignment (R220) -/

/-- A stage that could be launched on a core. -/
structure Candidate where
  p : Pattern
  d : StageDecl
  b : Bobbin
  pressed : Bool
  deriving DecidableEq, Repr

/-- R220's order of stages: the first goes before the second, or they are equal. -/
def Candidate.before (a b : Candidate) : Bool :=
  let fr := fun (c : Candidate) => if c.d.isGroup then (1, 1) else (c.b.recs.length, c.d.gather)
  if a.pressed != b.pressed then b.pressed
  else if a.d.prio != b.d.prio then decide (b.d.prio < a.d.prio)
  else if (fr a).1 * (fr b).2 != (fr b).1 * (fr a).2 then decide ((fr b).1 * (fr a).2 < (fr a).1 * (fr b).2)
  else decide (a.d.num ≤ b.d.num)

/-- The stages of which a SPAWN was refused on a die; how long ago is told by a free value for each (R220). -/
def refusedStages (s : State) (die : Nat) : List (Nat × Word × BitVec 4) :=
  ((s.bobbins.filter fun b => b.die == die && b.refused).map fun b => (b.ctx, b.pat, b.stage)).eraseDups

def candidates (s : State) (die core : Nat) (pressed : List (Nat × Word × BitVec 4)) : List Candidate :=
  sortBy Candidate.before (s.patterns.flatMap fun p => p.image.stages.filterMap fun d =>
    let b := findBobbin s p.ctx p.addr d.num die core
    if mayLaunch s p d b then some { p := p, d := d, b := b, pressed := pressed.contains (p.ctx, p.addr, d.num) } else none)

/-- Saved warps that may be restored on a core, with a slot for each: by priority, then parked ones first, then by how long they wait. -/
def restorable (s : State) (die core : Nat) : List (SavedWarp × (Nat × Nat)) :=
  let prio := fun (x : SavedWarp × (Nat × Nat)) => prioOf s x.1.warp
  sortBy (fun a b =>
      if prio a != prio b then decide (prio b < prio a)
      else if a.1.parked != b.1.parked then a.1.parked
      else decide (a.1.since ≤ b.1.since))
    (s.saved.filterMap fun x => ((freeSlots s die core).find? fun y => mayRestore s x die core y.1 y.2).map fun y => (x, y))

/-- One slot, or one group's slots, assigned by R220. -/
def assignSlot (s : State) (die core : Nat) (pressed : List (Nat × Word × BitVec 4)) : State :=
  let launch := fun (c : Candidate) => match pickSlot (freeSlots s die core) with
    | some (part, slot) => launchBobbin s c.p c.d c.b part slot
    | none => s
  let restore := fun (x : SavedWarp × (Nat × Nat)) => restore s x.1 die core x.2.1 x.2.2
  match restorable s die core, candidates s die core pressed with
  | [], [] => s
  | [], c :: _ => launch c
  | x :: _, [] => restore x
  | x :: _, c :: _ => if c.d.prio ≤ prioOf s x.1.warp then restore x else launch c

def execSlotAssign (die core : Nat) (s : State) : Result :=
  .next (
    if (restorable s die core).isEmpty && (candidates s die core []).isEmpty then s
    else
      let (bs, s) := takeFreeBytes s (refusedStages s die).length
      assignSlot s die core (((refusedStages s die).zip bs).filterMap fun x => if x.2.getLsbD 0 then some x.1 else none))

/-! ### Warp creation (R28) -/

/-- A lane's state from its record. -/
def seedLane (frame : Nat) : Option Record → Lane
  | some r =>
    { weft := ([r.p0, r.p1, r.p2, r.p3].map fun v => ({ val := v } : Slot)) ++ emptyWeft.drop 4, pocket := List.replicate frame 0 }
  | none => { Lane.blank with pocket := List.replicate frame 0 }

/-- A warp whose records are copied begins with an acquire, at its stage's entry. -/
def startWarp (s : State) (id : Nat) : State :=
  match findWarp s id with
  | none => s
  | some w =>
    let m := maskOf fun l => (w.recs.getD l none).isSome
    let s := updateWarp s id fun w =>
      { w with status := .running, lanes := w.recs.map (seedLane w.frame), active := m, gone := ~~~m, phase := .fetch .start }
    acquireAt s .pkg w.die w.core

/-- R28: a warp that cannot be created is killed, with the joins of its records, and its queue flushed. -/
def createFail (s : State) (w : Warp) : State :=
  let m := maskOf fun l => (w.recs.getD l none).isSome
  let s := killWarp (updateWarp s w.id fun w => { w with gone := ~~~m }) w.id
  flushQueue s w.queue 10 0 false w.spill

/-- The copies of a warp's records, at lane · 64 from a physical address. -/
def recordCopies (w : Warp) (pa : Nat) : List (Nat × List Byte) :=
  (List.range 32).filterMap fun l => (w.recs.getD l none).map fun r => (pa + 64 * l, recordBytes r)

/-- One record's bytes, which the device writes at a physical address (R28, R203). -/
def copyRecord (treat : Nat) (s : State) (x : Nat × List Byte) : State := performWrite s {} .home treat x.1 0 x.2

/-- R28: the copies of a warp's records, by its die's translation. What no write of the device may change, a ply page (R233) or a marked granule
(R293), or what it has no route to (R354), is refused as a lacking permission is; a stack in self-refresh delays them (R392). -/
def execWarpCreate (warp : Nat) (s : State) : Result :=
  .next (match findWarp s warp with
    | none => s
    | some w =>
      if w.status != .creating then s
      else
        match deviceXlat s w.die w.ctx w.spill.toNat true with
        | (.fault st lv a e, s) =>
          let (id, s) := parkFault s (vfOfContext s w.ctx) w.ctx w.die .recordCopy st lv a e (.creation warp)
          updateWarp s warp fun w => { w with status := .held id }
        | (.held _, _) => s
        | (.page, s) | (.access, s) => createFail s w
        | (.ok pa treat _ _ _ w2, s) =>
          if !w2 || treat == 4 || !reachable s pa || touchesMark s pa 2048 then createFail s w
          else if runHeld s pa 2048 then s
          else startWarp ((recordCopies w pa).foldl (copyRecord treat) s) warp)

/-! ### Distributors (R217, R218) -/

/-- The next index of a share, and the share without it. -/
def Distributor.take (groups : Nat) (d : Distributor) : Option (Nat × Distributor) :=
  if d.lo < d.hi then some (d.lo, { d with lo := d.lo + 1 })
  else if d.blocks = 0 then none
  else some (8 * d.first, { d with
    lo := 8 * d.first + 1, hi := min groups (8 * d.first + 8), first := d.first + d.step, blocks := d.blocks - 1 })

/-- What a victim gives up: its highest block not started, else the upper half of what is left of its current one (R218): a stolen
block is its thief's current one, as the example of R219 has it. -/
def Distributor.give (groups : Nat) (d : Distributor) : Option ((Nat × Nat) × Distributor) :=
  if d.blocks ≠ 0 then
    let b := d.first + d.step * (d.blocks - 1)
    some ((8 * b, min groups (8 * b + 8)), { d with blocks := d.blocks - 1 })
  else if 2 ≤ d.hi - d.lo then
    let m := d.hi - (d.hi - d.lo) / 2
    some ((m, d.hi), { d with hi := m })
  else none

def setDist (l : Launch) (d : Distributor) : Launch := { l with dists := updateWhere (fun x => x.die == d.die) (fun _ => d) l.dists }

/-- A group record (R27). -/
def groupRecord (l : Launch) (g : Nat) : Record :=
  { kind := 1, gidx := BitVec.ofNat 32 g, p0 := word g, p1 := l.arg, queue := BitVec.ofNat 10 l.queue, seq := BitVec.ofNat 32 (l.index + 1)
    launch := some l.key, priv := l.priv }

/-- The cores whose stage-0 bobbins take group records: for a group of more than 64 warps, the lowest of each quad (R219). -/
def groupCores (d : StageDecl) : List Nat := (List.range 96).filter fun c => d.size ≤ 64 || c % 4 == 0

/-- The next index of a die made, and entered in a core's bobbin. -/
def makeGroup (s : State) (l : Launch) (d : StageDecl) (die core : Nat) : State :=
  match (l.dists.find? fun x => x.die == die).bind (Distributor.take l.groups) with
  | none => s
  | some (g, x) =>
    let s := updateLaunch s l.key fun l => setDist l x
    noteReady (enterRecord s d (findBobbin s l.ctx l.pat 0 die core) (groupRecord l g))

/-- Group records in a core's stage-0 bobbin. -/
def groupRecords (s : State) (l : Launch) (die core : Nat) : Nat := (findBobbin s l.ctx l.pat 0 die core).recs.length

/-- The core of the quad, lowest first, whose bobbin holds two group records or more. -/
def donor (s : State) (l : Launch) (die core : Nat) : Option Nat :=
  ((List.range 4).map fun j => core / 4 * 4 + j).find? fun c => c != core && decide (2 ≤ groupRecords s l die c)

/-- The core with fewest stage-0 records that takes the next index: it holds fewer than two, and no other of its quad has one for it (R219). -/
def emptiest (s : State) (l : Launch) (d : StageDecl) (die : Nat) : Option Nat :=
  let n := groupRecords s l die
  ((groupCores d).filter fun c => decide (n c < 2) && (donor s l die c).isNone).foldl
    (fun b c => match b with
      | none => some c
      | some x => if n c < n x then some c else some x) none

def execGroupRecordMake (launch die : Nat) (s : State) : Result :=
  .next (match findLaunch s launch with
    | none => s
    | some l =>
      match declOf s l.ctx l.pat 0 with
      | none => s
      | some d =>
        match emptiest s l d die with
        | some c => makeGroup s l d die c
        | none => s)

/-- The dies a thief asks, in R218's order. -/
def victimOrder (l : Launch) (die : Nat) : List Distributor :=
  sortBy (fun a b => if a.left l.groups != b.left l.groups then decide (b.left l.groups < a.left l.groups) else decide (a.die ≤ b.die))
    (l.dists.filter fun d => d.die != die)

def execSteal (launch die : Nat) (s : State) : Result :=
  .next (match findLaunch s launch with
    | none => s
    | some l =>
      match l.dists.find? fun d => d.die == die with
      | none => s
      | some t =>
        if t.left l.groups != 0 || t.done then s
        else
          match (victimOrder l die).findSome? fun v => Distributor.give l.groups v with
          | some ((lo, hi), v) =>
            updateLaunch s launch fun l => setDist (setDist l v) { t with lo := lo, hi := hi }
          | none => updateLaunch s launch fun l => setDist l { t with done := true })

/-! ### R219 -/

/-- A record taken from another core of the quad, else the next index (R219); a context held keeps its records where they are (R334). -/
def execBobbinTake (launch die core : Nat) (s : State) : Result :=
  .next (match findLaunch s launch with
    | none => s
    | some l =>
      match declOf s l.ctx l.pat 0 with
      | none => s
      | some d =>
        let b := findBobbin s l.ctx l.pat 0 die core
        if 2 ≤ b.recs.length || !(groupCores d).contains core || contextHeld s l.ctx then s
        else
          match donor s l die core with
          | some c =>
            let v := findBobbin s l.ctx l.pat 0 die c
            match v.recs.getLast? with
            | some r => enterRecord (setBobbin s { v with recs := v.recs.dropLast }) d b r
            | none => s
          | none => makeGroup s l d die core)

end Sys2Proof.Machine
end

