-- ==== Sys2Proof/Machine/Queues.lean ====
section
/-! DEFINITION. Queues: doorbells, ring reads, write-backs, dispatch, pattern loads and unloads, completion (R189, R210 to R215, R350, R359,
R405). -/

namespace Sys2Proof.Machine

/-! ### Doorbells (R211, R346, R348) -/

/-- A queue in error state consumes what is published to it at once. -/
def Queue.consume (x : Queue) : Queue := { x with c := x.p, s := x.p, wbDue := !x.wbFailed }

def ringSize (x : Queue) : Nat := 2 ^ x.lgSize

/-- A doorbell (R211). DESIGN CHOICE: of one out of range the record index that QFLUSH carries (R368) is the value rung (log 173). -/
def ringDoorbell (s : State) (vf q : Nat) (p : Word) : State :=
  if queueOwner s q != some vf then s
  else
    let x := queueOf s q
    if p.toNat < x.p.toNat || p.toNat > x.c.toNat + ringSize x then flushQueue s q 4 0 false p
    else
      let s := updateQueue s q fun x => { x with p := p }
      if x.error then updateQueue s q Queue.consume else s

def execDoorbell (vf q : Nat) (p : Word) (s : State) : Result := .next (afterHeld s (.doorbell vf q p) (ringDoorbell s vf q p))

/-! ### Ring reads (R211, R405) -/

/-- A record read enters the queue. -/
def tookRecord (s : State) (q : Nat) (bs : List Byte) : State :=
  let ws := (List.range 16).map fun k => leWord ((bs.drop (8 * k)).take 8)
  noteReady (updateQueue s q fun x =>
    { x with recs := x.recs ++ [{ index := x.c.toNat, words := ws }], c := x.c + 1, wbDue := !x.wbFailed })

/-- The die whose shared TLB the queues and the pattern loader use. DESIGN CHOICE: the manual names none (log 179). -/
def ioDie : Nat := 0

def execRingRead (q : Nat) (s : State) : Result :=
  .next (
    let x := queueOf s q
    if !x.enabled || x.error || x.ringWait.isSome || x.p.toNat ≤ x.c.toNat then s
    else
      let va := x.base.toNat + 128 * (x.c.toNat % ringSize x)
      match deviceXlat s ioDie x.ctx va true with
      | (.fault st lv a e, s) =>
        let (id, s) := parkFault s x.vf x.ctx 0 .ringRead st lv a e (.ring q)
        updateQueue s q fun x => { x with ringWait := some { fault := id, index := x.c.toNat } }
      | (.held _, _) => s
      | (.page, s) | (.access, s) => flushQueue s q 5 0 false x.c
      | (.ok pa _ r _ _ _, s) =>
        if isHeld s pa then s
        else if !r || !reachable s pa || meetsPoison s pa then flushQueue s q 5 0 false x.c
        else
          let s := deviceTouch s ioDie x.ctx va 128
          tookRecord s q (Memory.readBytes s.mem pa 128))

/-! ### Write-back (R211, R405) -/

/-- R405's last column: the queue is flushed and makes no write-back until its address is written again. -/
def writeBackFails (s : State) (q : Nat) : State :=
  let s := updateQueue s q fun x => { x with wbFailed := true, wbDue := false, wbWait := none }
  flushQueue s q 9 0 false (queueOf s q).wb

def execQueueWriteBack (q : Nat) (s : State) : Result :=
  .next (
    let x := queueOf s q
    if !x.wbDue || x.wbFailed || x.wbWait.isSome then s
    else
      match deviceXlat s ioDie x.ctx x.wb.toNat true with
      | (.fault st lv a e, s) =>
        let (id, s) := parkFault s x.vf x.ctx 0 .writeBack st lv a e (.writeBack q)
        updateQueue s q fun x => { x with wbWait := some { fault := id, index := x.c.toNat } }
      | (.held _, _) => s
      | (.page, s) | (.access, s) => writeBackFails s q
      | (.ok pa treat _ w _ _, s) =>
        if isHeld s pa then s
        else if !w || treat == 4 || !reachable s pa || touchesMark s pa 16 then writeBackFails s q
        else
          let s := performWrite s {} .home treat pa 0 (wordBytes x.c ++ wordBytes x.sOut)
          updateQueue s q fun x => { x with wbDue := false })

/-! ### Pattern loads (R26, R189, R213, R224, R359) -/

/-- R26's ranges and R189's conditions on one stage. -/
def stageOk (d : StageDecl) : Bool :=
  d.entry.isSome && decide (d.scratch ≤ scratchMost) && d.scratch % 32768 == 0 && decide (d.frame ≤ 32) && decide (d.reserve ≤ 8)
    && decide (d.overflow ≤ 65535) && decide (d.prio ≤ 7)
    && (if d.isGroup then decide (1 ≤ d.size) && decide (d.size ≤ 256) && d.gather == 32 && d.timer == 0
        else d.size == 1 && decide (1 ≤ d.gather) && decide (d.gather ≤ 32) && decide (d.timer ≤ 65535))

def stagesOk (ds : List StageDecl) : Bool :=
  ds.all stageOk && (ds.any fun d => d.num == 0 && d.isGroup) && decide (((ds.map (·.reserve)).foldl (· + ·) 0) ≤ 64)

/-- The greater of two counts, none being less than any. -/
def bestOf : Option Nat → Option Nat → Option Nat
  | some a, some b => some (max a b)
  | none, b => b
  | a, none => a

/-- The most groups of up to 64 warps that core j of a quad holds beside `wide` groups of each stage of more, within some slots and bytes of
scratchpad; none where those do not fit. `last` is the stage that took its slots last, whose own reserve no longer matters (R194). -/
def coreHolds (wide : BitVec 4 → Nat) (j : Nat) (last : BitVec 4) : List StageDecl → Nat → Nat → Option Nat
  | [], _, _ => some 0
  | d :: ds, slots, bytes =>
    let least := if d.num == last then 0 else d.reserve
    let take := fun (n use mem : Nat) =>
      if max least use ≤ slots && mem ≤ bytes then (coreHolds wide j last ds (slots - max least use) (bytes - mem)).map (n + ·) else none
    if !d.isGroup then take 0 0 0
    else if 64 < d.size then take 0 (wide d.num * shareOf d.size 4 j) (wide d.num * d.scratch)
    else (List.range (slots / max 1 d.size + 1)).foldl (fun b n => bestOf b (take n (n * d.size) (n * d.scratch))) none

/-- The most groups that a quad holds, over every count of groups of more than 64 warps of the stages in a list. -/
def quadHolds (all : List StageDecl) : List StageDecl → (BitVec 4 → Nat) → Option Nat
  | [], wide =>
    let most := fun (j : Nat) => (all.map (·.num)).foldl (fun b t => bestOf b (coreHolds wide j t all 64 scratchMost)) none
    (List.range 4).foldl (fun b j => b.bind fun a => (most j).map (a + ·)) (some 0)
  | d :: ds, wide =>
    if d.isGroup && decide (64 < d.size) then
      (List.range (256 / d.size + 1)).foldl (fun b n =>
        bestOf b ((quadHolds all ds fun k => if k == d.num then n else wide k).map (n + ·))) none
    else quadHolds all ds wide

/-- Groups of a pattern that can be resident on a number of dies: a die has 24 quads. -/
def groupsResident (dies : Nat) (ds : List StageDecl) : Nat := dies * 24 * (quadHolds ds ds fun _ => 0).getD 0

/-- R224: image slots for every warp slot of the device partition, group save slots for every group that can be resident there. -/
def parkEnough (dies images groups : Nat) (ds : List StageDecl) : Bool :=
  decide (dies * 6144 ≤ images) && decide (groupsResident dies ds ≤ groups)

/-- A byte of a context's memory as the loader reads it; none where it does not translate, may not be read, or is poisoned. One of an undefined line
is free (R234). -/
def contextByte (s : State) (ctx va : Nat) : Option Byte :=
  match translate s ioDie none ctx va with
  | .ok pa _ true _ _ _ =>
    if meetsPoison s pa || !reachable s pa then none
    else some (if isUndef s pa then (Config.freeEntry pa s.freeCtr).setWidth 8 else Memory.read s.mem pa)
  | _ => none

/-- n bytes from an address on; none where some byte cannot be read. -/
def contextBytes (s : State) (ctx va n : Nat) : Option (List Byte) := ((List.range n).map fun k => contextByte s ctx (va + k)).mapM id

/-- A pattern signature block: its format, the key, the signature (R359). -/
structure SignatureBlock where
  fmt : Nat
  key : List Byte
  signature : List Byte
  deriving DecidableEq, Repr

/-- Bytes of a pattern signature block. -/
def blockBytes : Nat := 1844

/-- R359: the block that the last bytes of an image are, where they begin with the magic and name the block's own offset as the length of the
signed part. -/
def readBlock (bytes : Nat) (tail : List Byte) : Option SignatureBlock :=
  if leNat (tail.take 4) = 0x53474150 ∧ leNat ((tail.drop 8).take 8) = bytes - blockBytes then
    some { fmt := leNat ((tail.drop 4).take 4), key := (tail.drop 0x10).take 56, signature := (tail.drop 0x48).take 1772 }
  else none

/-- A block verifies: it has format 1, its key is Karhar's, its signature is one of the signed part (R359). -/
def blockVerifies (b : SignatureBlock) (signed : List Byte) : Bool :=
  b.fmt == 1 && Config.isKarharKey b.key && Config.lmsVerifies b.key signed b.signature

/-- The signature block that an image carries, with the part that it signs; none where the image cannot be read. -/
def imageBlock (s : State) (ctx va bytes : Nat) : Option (Option (SignatureBlock × List Byte)) :=
  if bytes < blockBytes then some none
  else
    match contextBytes s ctx (va + (bytes - blockBytes)) blockBytes with
    | none => none
    | some tail =>
      match readBlock bytes tail with
      | none => some none
      | some b => (contextBytes s ctx va (bytes - blockBytes)).map fun signed => some (b, signed)

/-- What a load finds at an image's address: the image, and whether a block makes it firmware-signed; none where the image is not one that gwas
writes, cannot be read, or carries a block that fails (R213, R359). -/
def readImage (s : State) (ctx : Nat) (va : Word) : Option (PatternImage × Bool) :=
  match Config.gwasImage va fun k => contextByte s ctx (va.toNat + k) with
  | none => none
  | some i =>
    match imageBlock s ctx va.toNat i.bytes with
    | none => none
    | some none => some (i, false)
    | some (some (b, signed)) => if blockVerifies b signed then some (i, true) else none

/-- R213's conditions on a pattern load: aligned areas, no pattern of the address loaded, stages that R26 and R189 allow, park area enough. -/
def loadOk (s : State) (x : Queue) (w : Nat → Word) (i : PatternImage) : Bool :=
  field (w 9) 0 12 == 0 && field (w 10) 0 12 == 0 && field (w 12) 0 12 == 0 && (findPattern s x.ctx (w 1)).isNone && stagesOk i.stages
    && parkEnough (diesOf s (partitionOfVf s x.vf)).length (field (w 11) 0 32) (field (w 11) 32 32) i.stages

/-- The pattern a load record loads; none where it fails. -/
def loadPattern (s : State) (x : Queue) (w : Nat → Word) : Option Pattern :=
  (readImage s x.ctx (w 1)).bind fun (i, signed) =>
    if loadOk s x w i then
      some { ctx := x.ctx, addr := w 1, image := i, ovfBase := w 9, parkBase := w 10, parkImages := field (w 11) 0 32
             parkGroups := field (w 11) 32 32, hwBase := w 12, signed := signed }
    else none

/-! ### Dispatch (R213 to R215, R350) -/

/-- R213's reserved bits, and the fields that every kind has in range. -/
def reservedBad (w : Nat → Word) : Bool :=
  field (w 0) 0 53 != 0 || decide (14 < field (w 0) 53 4) || field (w 2) 32 32 != 0 || w 13 != 0 || w 14 != 0 || w 15 != 0 || field (w 5) 10 53 != 0 || field (w 7) 10 53 != 0

/-- A launch's fields, against the pattern it names. -/
def launchOk (p : Pattern) (w : Nat → Word) : Bool :=
  decide (1 ≤ (w 2).toNat) && (w 4).toNat % 8 == 0 && decide ((w 4).toNat ≤ 65536)
    && decide ((p.image.stages.map (·.scratch)).foldl max 0 ≤ field (w 0) 53 4 * 32768)

/-- R217's shares: die δ(j) of k has blocks j, j + k, and so on. -/
def sharesOf (dies : List Nat) (groups : Nat) : List Distributor :=
  let blocks := (groups + 7) / 8
  mapFrom (fun j d => { die := d, first := j, step := dies.length, blocks := (blocks + dies.length - 1 - j) / dies.length }) 0 dies

def startLaunch (s : State) (x : Queue) (r : QueueRecord) (w : Nat → Word) : State :=
  let (key, s) := fresh s
  let l : Launch :=
    { key := key, queue := x.num, index := r.index, ctx := x.ctx, pat := w 1, groups := (w 2).toNat, arg := w 3, priv := (w 4).toNat
      most := field (w 0) 53 4 * 32768, fused := (w 0).getLsbD 57, dists := sharesOf (diesOf s (partitionOfVf s x.vf)) (w 2).toNat }
  let s := l.dists.foldl (fun s d => wakeDie s d.die) { s with launches := s.launches ++ [l] }
  updateQueue s x.num fun x => { x with recs := updateWhere (fun y => y.index == r.index) (fun y => { y with launch := some key }) x.recs }

def finishRecord (s : State) (q i : Nat) : State :=
  updateQueue s q fun x => { x with recs := updateWhere (fun y => y.index == i) (fun y => { y with done := true }) x.recs }

/-- The oldest unstarted record of a queue starts. -/
def startRecord (s : State) (x : Queue) (r : QueueRecord) : State :=
  let w := fun (k : Nat) => r.words.getD k 0
  let fail := flushQueue s x.num 5 0 false (word r.index)
  let s := updateQueue s x.num fun x => { x with recs := updateWhere (fun y => y.index == r.index) (fun y => { y with started := true }) x.recs }
  if reservedBad w then fail
  else
    match field (w 0) 60 4 with
    | 0 =>
      match findPattern s x.ctx (w 1) with
      | some p => if launchOk p w then startLaunch s x r w else fail
      | none => fail
    | 1 =>
      match loadPattern s x w with
      | some p =>
        let s := deviceTouch s ioDie x.ctx (w 1).toNat p.image.bytes
        finishRecord { s with patterns := s.patterns ++ [p] } x.num r.index
      | none => fail
    | 2 =>
      if (findPattern s x.ctx (w 1)).isSome then
        let mark := fun (p : Pattern) => if p.ctx == x.ctx && p.addr == w 1 then { p with unloading := p.unloading ++ [(x.num, r.index)] } else p
        { s with patterns := s.patterns.map mark }
      else finishRecord s x.num r.index
    | 3 => finishRecord s x.num r.index
    | _ => fail

/-- The queues of a device partition that take part in a decision. -/
def readyQueues (s : State) (part : Nat) : List (Queue × QueueRecord) :=
  s.queues.filterMap fun x => if partitionOfVf s x.vf == part then (readyRecord s x).map fun r => (x, r) else none

/-- Longest ready first, then the lower queue. -/
def longestReady (a b : Queue × QueueRecord) : Bool :=
  let t := fun (x : Queue × QueueRecord) => x.2.ready.getD 0
  if t a != t b then decide (t a < t b) else decide (a.1.num ≤ b.1.num)

/-- R350's share: decisions won over weight, the lower VF in a tie. -/
def leastServed (s : State) (a b : Queue × QueueRecord) : Bool :=
  let ca := vfConfig s a.1.vf
  let cb := vfConfig s b.1.vf
  let x := ca.won * cb.inForce.wDispatch
  let y := cb.won * ca.inForce.wDispatch
  if a.1.vf == b.1.vf then longestReady a b else if x != y then decide (x < y) else decide (a.1.vf < b.1.vf)

def decisionCount (s : State) (part : Nat) : Nat := ((s.decisions.find? fun x => x.1 == part).map (·.2)).getD 0

/-- R215's choice. -/
def chooseQueue (s : State) (part : Nat) (ready : List (Queue × QueueRecord)) : Option (Queue × QueueRecord) :=
  if decisionCount s part % 64 == 63 then (sortBy longestReady ready).head?
  else
    let top := (ready.map (·.1.prio)).foldl max 0
    (sortBy (leastServed s) (ready.filter fun x => x.1.prio == top)).head?

/-- Whether a record is a pattern load, whose reads a stack in self-refresh may hold (R392). -/
def loadHeld (s : State) (r : QueueRecord) : Bool := s.hbmStacks.any (fun k => k.st == .holding) && field (r.words.getD 0 0) 60 4 == 1

/-- R215: a decision. While a stack holds, a pattern load waits, as its reads would. -/
def execDispatchDecision (part : Nat) (s : State) : Result :=
  .next (
    let s0 := s
    let s := noteReady s
    match chooseQueue s part (readyQueues s part) with
    | none => s0
    | some (x, r) =>
      if loadHeld s r then s0
      else
      let n := decisionCount s part
      let s := { s with decisions := (part, n + 1) :: s.decisions.filter fun y => y.1 != part }
      let s := updateConfig s x.vf fun c => { c with won := c.won + 1 }
      forgetIdle (startRecord s x r))

/-! ### Completion (R212, R213) -/

/-- Everything a launch counts is gone. -/
def launchDone (s : State) (l : Launch) : Bool :=
  let mine := fun (r : Option Record) => (r.bind (·.launch)) == some l.key
  allMade l && !(s.bobbins.any fun b => b.recs.any fun r => r.launch == some l.key)
    && !(s.segments.any fun g => g.entries.any fun e => e.launch == some l.key)
    && !((warps s).any fun w => w.resident && w.recs.any mine) && !(s.saved.any fun x => x.warp.recs.any mine)

/-- Whether a record's work is done. -/
def workDone (s : State) (r : QueueRecord) : Bool :=
  r.done || (match r.launch.bind (findLaunch s) with
    | some l => launchDone s l
    | none => false)

/-- The oldest record of a queue that is not complete completes. -/
def execRecordComplete (q : Nat) (s : State) : Result :=
  .next (
    let x := queueOf s q
    match x.recs with
    | [] => s
    | r :: rs =>
      if x.error || !workDone s r then s
      else
        let s := { s with launches := s.launches.filter fun l => some l.key != r.launch }
        let s := updateQueue s q fun x => { x with recs := rs, s := x.s + 1, wbDue := !x.wbFailed }
        let w0 := r.words.getD 0 0
        let s := if w0.getLsbD 58 then sendEvent s (.queue q) Ev.qdone (queueOf s q).s (word (field w0 60 4)) else s
        noteReady s)

/-- Records of a pattern that wait somewhere. -/
def patternRecords (s : State) (ctx : Nat) (pat : Word) : Bool :=
  (s.bobbins.any fun b => b.ctx == ctx && b.pat == pat && !b.recs.isEmpty)
    || (s.segments.any fun g => g.ctx == ctx && g.pat == pat && !g.entries.isEmpty)
    || s.launches.any fun l => l.ctx == ctx && l.pat == pat && !allMade l

def patternWarps (s : State) (ctx : Nat) (pat : Word) : Bool :=
  (warps s).any (fun w => w.resident && w.ctx == ctx && w.pat == pat) || s.saved.any fun x => x.warp.ctx == ctx && x.warp.pat == pat

/-- R213: with no warp left the pattern's heddles go; with no record left either, the pattern. -/
def execPatternUnload (ctx : Nat) (pat : Word) (s : State) : Result :=
  .next (match (findPattern s ctx pat).map (·.unloading) with
    | none | some [] => s
    | some us =>
      if patternWarps s ctx pat then s
      else
        let s := { s with heddles := s.heddles.filter fun h => !(h.ctx == ctx && h.pat == pat) }
        if patternRecords s ctx pat then s
        else
          us.foldl (fun s u => finishRecord s u.1 u.2) { s with
            patterns := s.patterns.filter (fun p => !(p.ctx == ctx && p.addr == pat))
            bobbins := s.bobbins.filter fun b => !(b.ctx == ctx && b.pat == pat)
            segments := s.segments.filter fun g => !(g.ctx == ctx && g.pat == pat) })

end Sys2Proof.Machine
end

