-- ==== Sys2Proof/Machine/Registers.lean ====
section
/-! DEFINITION. The register pages (R210, R226, R331 to R335, R346): what each register reads as, the checks on a write, and its effect. -/

namespace Sys2Proof.Machine

/-! ### Ring registers (R333) -/

/-- The checks of R333 on a ring's base. -/
def ringBaseOk (v : Word) (prod cons : Word) : Bool := field v 0 12 == 0 && field v 52 12 == 0 && prod == cons

def ringSizeOk (v : Word) (prod cons : Word) : Bool := decide (6 ≤ v.toNat) && decide (v.toNat ≤ 16) && prod == cons

def ringConsOk (v : Word) (prod cons : Word) : Bool := decide (cons.toNat ≤ v.toNat) && decide (v.toNat ≤ prod.toNat)

/-- Held events go as far as there is room. -/
def drainEvents (s : State) (vf : Nat) : State :=
  releaseEvents vf ((((vfPage s vf).map fun p => p.heldEvents.length).getD 0) + 1) s

/-- Held fault records go as far as there is room. -/
def drainFaults (s : State) (vf : Nat) : State :=
  releaseFaults vf ((((vfPage s vf).map fun p => p.heldFaults.length).getD 0) + 1) s

/-- A write to a register of a VF's page that passes its check; none where it is ignored. -/
def writeRing (s : State) (vf : Nat) (ok : VfPage → Bool) (f : VfPage → VfPage) (drain : State → Nat → State) : State :=
  match pageOf s vf with
  | none => s
  | some p => if ok p then drain (updateVf s vf f) vf else s

def writeEvtCons (s : State) (vf : Nat) (v : Word) : State :=
  writeRing s vf (fun p => ringConsOk v p.evtProd p.evtCons) (fun p => { p with evtCons := v }) drainEvents

def writeFltCons (s : State) (vf : Nat) (v : Word) : State :=
  writeRing s vf (fun p => ringConsOk v p.fltProd p.fltCons) (fun p => { p with fltCons := v }) drainFaults

def execEvtCons (vf : Nat) (v : Word) (s : State) : Result := .next (afterHeld s (.evtCons vf v) (writeEvtCons s vf v))

def execFltCons (vf : Nat) (v : Word) (s : State) : Result := .next (afterHeld s (.fltCons vf v) (writeFltCons s vf v))

/-! ### Queue configuration (R210, R332, R346, R405) -/

/-- Whether a queue may stand enabled: its context live in the VF, its size and its addresses legal (R210). -/
def mayEnable (s : State) (x : Queue) : Bool :=
  (match findContext s x.ctx with
    | some c => c.vf == x.vf
    | none => false) && decide (1 ≤ x.lgSize) && decide (x.lgSize ≤ 16) && field x.base 0 12 == 0 && field x.wb 0 4 == 0

/-- The queue's fields with one word of its QCFG entry written; none where the value is not legal. -/
def qcfgWord (x : Queue) (off : Nat) (v : Word) : Option Queue :=
  match off with
  | 0x00 => if field v 4 60 == 0 then some { x with enabled := v.getLsbD 0, prio := field v 1 3 } else none
  | 0x08 => if v.toNat < 4096 then some { x with ctx := v.toNat } else none
  | 0x10 => if field v 0 12 == 0 && field v 57 7 == 0 then some { x with base := v } else none
  | 0x18 => if 1 ≤ v.toNat ∧ v.toNat ≤ 16 then some { x with lgSize := v.toNat } else none
  | 0x20 => if field v 0 4 == 0 && field v 57 7 == 0 then some { x with wb := v, wbFailed := false, wbDue := x.wbDue || x.wbFailed } else none
  | _ => none

/-- A queue that leaves its error state at an index (R334, R346). -/
def Queue.restartAt (x : Queue) (i : Word) : Queue :=
  { x with error := false, resetOff := false, c := i, s := i, recs := [], ringWait := none, wbDue := !x.wbFailed }

/-- Enabling a queue that a reset disabled acts as a restart at its C (R346). -/
def qcfgEnable (old new : Queue) : Queue :=
  if !old.enabled && new.enabled then (if old.error && old.resetOff then new.restartAt new.c else { new with resetOff := false }) else new

def writeQcfg (s : State) (vf q off : Nat) (v : Word) : State :=
  if (pageOf s vf).isNone || queueOwner s q != some vf || !([0x00, 0x08, 0x10, 0x18, 0x20].contains off) then s
  else
    let x := { queueOf s q with vf := vf }
    match qcfgWord x off v with
    | some y =>
      if !y.enabled || mayEnable s y then
        noteReady (updateQueue s q fun _ => { qcfgEnable x y with refused := false })
      else updateQueue s q fun _ => { x with refused := true }
    | none => updateQueue s q fun _ => { x with refused := true }

def execQcfgWrite (vf q off : Nat) (v : Word) (s : State) : Result := .next (afterHeld s (.qcfgWrite vf q off v) (writeQcfg s vf q off v))

/-! ### Latency tolerance (R226) -/

/-- A scheduler partition belongs to the VF's device partition. -/
def ownsPartition (s : State) (vf p : Nat) : Bool := decide (p < 3072) && partitionOfDie s (p / 384) == partitionOfVf s vf

def writeLattol (s : State) (vf p : Nat) (v : BitVec 32) : State :=
  if (pageOf s vf).isSome && ownsPartition s vf p then updateVf s vf fun x => { x with lattol := (p, v) :: x.lattol.filter fun y => y.1 != p } else s

def execLattol (vf p : Nat) (v : BitVec 32) (s : State) : Result := .next (afterHeld s (.lattol vf p v) (writeLattol s vf p v))

/-! ### The VF page (R332, R334) -/

/-- CMD: a code that is listed is taken and performed by its own row; any other completes at once with result 1. -/
def vfCommands : List Nat := [0x01, 0x02, 0x03, 0x04, 0x05, 0x06, 0x07, 0x08, 0x09, 0x0A, 0x0B, 0x0C, 0x0D]
def pfCommands : List Nat := [0x81, 0x82, 0x83, 0x84, 0x85]

def VfPage.takeCommand (p : VfPage) (v : Word) : VfPage :=
  if p.busy then p
  else if vfCommands.contains v.toNat then { p with busy := true, cmd := some (BitVec.ofNat 8 v.toNat) }
  else { p with result := 1 }

/-- A write to a VF's page, by the offset of the register. -/
def writeVfPage (s : State) (vf off : Nat) (v : Word) : State :=
  match off with
  | 0x40 => updateVf s vf fun p => p.takeCommand v
  | 0x48 => updateVf s vf fun p => { p with arg0 := v }
  | 0x50 => updateVf s vf fun p => { p with arg1 := v }
  | 0x58 => updateVf s vf fun p => { p with arg2 := v }
  | 0x60 => updateVf s vf fun p => { p with arg3 := v }
  | 0x100 => writeRing s vf (fun p => ringBaseOk v p.evtProd p.evtCons) (fun p => { p with evtBase := v }) drainEvents
  | 0x108 => writeRing s vf (fun p => ringSizeOk v p.evtProd p.evtCons) (fun p => { p with evtSize := v }) drainEvents
  | 0x118 => writeEvtCons s vf v
  | 0x120 => writeRing s vf (fun _ => field v 3 61 == 0) (fun p => { p with evtVec := v }) fun s _ => s
  | 0x140 => writeRing s vf (fun p => ringBaseOk v p.fltProd p.fltCons) (fun p => { p with fltBase := v }) drainFaults
  | 0x148 => writeRing s vf (fun p => ringSizeOk v p.fltProd p.fltCons) (fun p => { p with fltSize := v }) drainFaults
  | 0x158 => writeFltCons s vf v
  | _ =>
    if 0x4000 ≤ off ∧ off < 0x7000 ∧ off % 4 = 0 then writeLattol s vf ((off - 0x4000) / 4) (BitVec.ofNat 32 (field v 0 32))
    else if 0x10000 ≤ off ∧ off < 0x20000 then writeQcfg s vf ((off - 0x10000) / 64) (off % 64) v
    else s

/-! ### The PF page (R335) -/

def PfPage.takeCommand (p : PfPage) (v : Word) : PfPage :=
  if p.busy then p
  else if pfCommands.contains v.toNat then { p with busy := true, cmd := some (BitVec.ofNat 8 v.toNat) }
  else { p with result := 1 }

/-- The queues of a word of the ownership bits. -/
def ownWord (qs : List Nat) (k : Nat) (v : Word) : List Nat :=
  qs.filter (fun q => q / 64 != k) ++ ((List.range 64).filter fun b => v.getLsbD b).map fun b => 64 * k + b

/-- A VF's block with one word written; a window size or a weight outside its range leaves the block as it was. -/
def writeBlock (b : VfBlock) (off : Nat) (v : Word) : VfBlock :=
  match off with
  | 0x00 => { b with enabled := v.getLsbD 0, partition := field v 1 3 }
  | 0x08 => { b with root := v }
  | 0x10 => if 30 ≤ v.toNat ∧ v.toNat ≤ 40 then { b with window := v.toNat } else b
  | 0x18 =>
    if field v 0 8 = 0 ∨ field v 8 8 = 0 ∨ field v 16 8 = 0 then b
    else { b with wDispatch := field v 0 8, wHbm := field v 8 8, wTraux := field v 16 8 }
  | 0x20 => { b with ctxLimit := field v 0 12, heddleLimit := field v 16 10 }
  | 0x28 => { b with hartMask := v }
  | _ => if 0x80 ≤ off ∧ off < 0x100 ∧ off % 8 = 0 then { b with queues := ownWord b.queues ((off - 0x80) / 8) v } else b

/-- PARTMAP with the bits it gives as zero cleared. -/
def partmapMask (v : Word) : Word := v &&& 0x77777777

def writePfPage (s : State) (off : Nat) (v : Word) : State :=
  match off with
  | 0x40 => { s with pf := s.pf.takeCommand v }
  | 0x48 => { s with pf := { s.pf with arg0 := v } }
  | 0x50 => { s with pf := { s.pf with arg1 := v } }
  | 0x58 => { s with pf := { s.pf with arg2 := v } }
  | 0x60 => { s with pf := { s.pf with arg3 := v } }
  | 0x200 => { s with pf := { s.pf with partmap := partmapMask v } }
  | _ =>
    if 0x10000 ≤ off ∧ off < 0x20000 then
      updateConfig s ((off - 0x10000) / 0x400) fun c => { c with written := writeBlock c.written (off % 0x400) v }
    else s

/-- A write by the host to a function's page; a function that is not enabled has none. -/
def writeRegister (s : State) (fn off : Nat) (v : Word) : State :=
  if fn = 64 then writePfPage s off v else if (pageOf s fn).isSome then writeVfPage s fn off v else s

def execRegisterWrite (fn off : Nat) (v : Word) (s : State) : Result :=
  .next (afterHeld s (.registerWrite fn off v) (writeRegister s fn off v))

/-! ### Reading (R331, R332, R335) -/

def idWord (fn : Nat) : Word := word (0x0F08 + Config.revision.toNat * 2 ^ 16 + fn % 64 * 2 ^ 24)

def statusWordOf (busy : Bool) (result : BitVec 8) : Word := word (b2w busy + result.toNat * 2 ^ 8)

/-- A word of a queue's QCFG entry. -/
def readQcfg (s : State) (vf q off : Nat) : Word :=
  if queueOwner s q != some vf then 0
  else
    let x := queueOf s q
    match off with
    | 0x00 => word (b2w x.enabled + x.prio * 2)
    | 0x08 => word x.ctx
    | 0x10 => x.base
    | 0x18 => word x.lgSize
    | 0x20 => x.wb
    | 0x28 => word (b2w x.refused)
    | _ => 0

/-- LATTOL[p] as a VF reads it. -/
def readLattol (s : State) (vf p : Nat) : Word :=
  if ownsPartition s vf p then
    word ((((vfPage s vf).bind fun x => x.lattol.find? fun y => y.1 == p).map fun y => y.2.toNat).getD 0)
  else 0

def readVfPage (s : State) (p : VfPage) (off : Nat) : Word :=
  match off with
  | 0x00 => idWord p.vf
  | 0x48 => p.arg0
  | 0x50 => p.arg1
  | 0x58 => p.arg2
  | 0x60 => p.arg3
  | 0x68 => statusWordOf p.busy p.result
  | 0x100 => p.evtBase
  | 0x108 => p.evtSize
  | 0x110 => p.evtProd
  | 0x118 => p.evtCons
  | 0x120 => p.evtVec
  | 0x140 => p.fltBase
  | 0x148 => p.fltSize
  | 0x150 => p.fltProd
  | 0x158 => p.fltCons
  | _ =>
    if 0x4000 ≤ off ∧ off < 0x7000 ∧ off % 4 = 0 then readLattol s p.vf ((off - 0x4000) / 4)
    else if 0x10000 ≤ off ∧ off < 0x20000 then readQcfg s p.vf ((off - 0x10000) / 64) (off % 64)
    else 0

def blockWord (b : VfBlock) (off : Nat) : Word :=
  match off with
  | 0x00 => word (b2w b.enabled + b.partition * 2)
  | 0x08 => b.root
  | 0x10 => word b.window
  | 0x18 => word (b.wDispatch + b.wHbm * 2 ^ 8 + b.wTraux * 2 ^ 16)
  | 0x20 => word (b.ctxLimit + b.heddleLimit * 2 ^ 16)
  | 0x28 => b.hartMask
  | _ =>
    if 0x80 ≤ off ∧ off < 0x100 ∧ off % 8 = 0 then
      word ((List.range 64).foldl (fun n b' => n + (if b.queues.contains ((off - 0x80) / 8 * 64 + b') then 2 ^ b' else 0)) 0)
    else 0

def readPfPage (s : State) (off : Nat) : Word :=
  match off with
  | 0x00 => idWord 63
  | 0x48 => s.pf.arg0
  | 0x50 => s.pf.arg1
  | 0x58 => s.pf.arg2
  | 0x60 => s.pf.arg3
  | 0x68 => statusWordOf s.pf.busy s.pf.result
  | 0x200 => s.pf.partmap
  | _ =>
    if 0x10000 ≤ off ∧ off < 0x20000 then blockWord (vfConfig s ((off - 0x10000) / 0x400)).written (off % 0x400) else 0

/-- What a register reads as; a function that is not enabled has no page, and reads as zero. -/
def readRegister (s : State) (fn off : Nat) : Word :=
  if fn = 64 then readPfPage s off
  else
    match pageOf s fn with
    | some p => readVfPage s p off
    | none => 0

end Sys2Proof.Machine
end

