-- ==== Sys2Proof/Machine/Commands.lean ====
section
/-! DEFINITION. Commands (R330, R334, R335, R340 to R342, R356, R358, R360, R361, R393, R394): each row performs the command that a page has
taken, and nothing where it has taken another. -/

namespace Sys2Proof.Machine

/-! ### Taking and completing a command (R334) -/

/-- A VF's command completes with a result. -/
def endCommand (s : State) (vf r : Nat) : State :=
  updateVf s vf fun p => { p with busy := false, cmd := none, result := BitVec.ofNat 8 r }

/-- The page that has a command with this code to perform. -/
def taken (s : State) (vf code : Nat) : Option VfPage :=
  match vfPage s vf with
  | some p => if p.busy && p.cmd == some (BitVec.ofNat 8 code) then some p else none
  | none => none

/-- A VF's command performed at once: its result and what it leaves. -/
def perform (s : State) (vf code : Nat) (f : VfPage → Nat × State) : Result :=
  .next (match taken s vf code with
    | some p => let (r, s1) := f p; endCommand s1 vf r
    | none => s)

/-- R334's last row for a context number: 1 out of range, 2 not live or another VF's. -/
def contextResult (s : State) (vf n : Nat) : Nat :=
  if n > 4095 then 1
  else match findContext s n with
    | some c => if c.vf = vf then 0 else 2
    | none => 2

/-- The same for a queue number. -/
def queueResult (s : State) (vf q : Nat) : Nat := if q > 1023 then 1 else if queueOwner s q = some vf then 0 else 2

/-- A command on a context the VF owns. -/
def onContext (s : State) (vf : Nat) (p : VfPage) (f : Nat → Nat × State) : Nat × State :=
  match contextResult s vf p.arg0.toNat with
  | 0 => f p.arg0.toNat
  | r => (r, s)

/-! ### Contexts (R330, R334) -/

/-- The lowest context number not live. -/
def freeContext (s : State) : Option Nat := (List.range 4096).find? fun n => (findContext s n).isNone

def contextsOf (s : State) (vf : Nat) : List Context := s.contexts.filter fun c => c.vf == vf

/-- R330's fates, in order. -/
def createResult (s : State) (vf : Nat) (p : VfPage) : Nat :=
  let asid := field p.arg1 0 16
  let quota := field p.arg1 16 10
  let mine := contextsOf s vf
  if field p.arg0 0 12 ≠ 0 then 1
  else if quota > 512 then 1
  else if s.contexts.any fun c => c.asid.toNat == asid || (c.vf == vf && c.asid.toNat % 2 ^ 14 == asid % 2 ^ 14) then 2
  else if (mine.map (·.quota)).foldl (· + ·) 0 + quota > (vfBlock s vf).heddleLimit then 3
  else if mine.length ≥ (vfBlock s vf).ctxLimit then 3
  else 0

def execCtxCreate (vf : Nat) (s : State) : Result :=
  perform s vf 0x01 fun p =>
    match createResult s vf p, freeContext s with
    | 0, some n =>
      let c : Context := { num := n, vf := vf, asid := BitVec.ofNat 16 (field p.arg1 0 16), root := p.arg0, quota := field p.arg1 16 10 }
      (0, updateVf { s with contexts := s.contexts ++ [c] } vf fun p => { p with arg0 := word n })
    | 0, none => (3, s)
    | r, _ => (r, s)

def execCtxDestroy (vf : Nat) (s : State) : Result :=
  perform s vf 0x02 fun p => onContext s vf p fun c => (0, resetDone (destroyContext s c) vf 3 c)

def execCtxReset (vf : Nat) (s : State) : Result :=
  perform s vf 0x03 fun p => onContext s vf p fun c => (0, contextReset s c)

/-- Every warp of a context is asked to stop (R223). -/
def stopContext (s : State) (c : Nat) : State :=
  ((warps s).filter fun w => w.resident && w.ctx == c).foldl (fun s w => askStop s w false) s

def contextResident (s : State) (c : Nat) : Bool := (warps s).any fun w => w.resident && w.ctx == c

/-- CTX_PREEMPT completes when no warp of the context is resident; until then each performance asks again. -/
def execCtxPreempt (vf : Nat) (s : State) : Result :=
  .next (match taken s vf 0x04 with
    | none => s
    | some p =>
      match contextResult s vf p.arg0.toNat with
      | 0 =>
        let c := p.arg0.toNat
        let s1 := noteReady (updateContext s c fun x => { x with held := true })
        if contextResident s1 c then stopContext s1 c else endCommand s1 vf 0
      | r => endCommand s vf r)

def execCtxResume (vf : Nat) (s : State) : Result :=
  perform s vf 0x05 fun p => onContext s vf p fun c => (0, noteReady (updateContext s c fun x => { x with held := false }))

/-! ### Queues (R334, R346) -/

def execQueueFlush (vf : Nat) (s : State) : Result :=
  perform s vf 0x06 fun p =>
    match queueResult s vf p.arg0.toNat with
    | 0 => (0, flushQueue s p.arg0.toNat 0 0 false 0)
    | r => (r, s)

def execQueueRestart (vf : Nat) (s : State) : Result :=
  perform s vf 0x07 fun p =>
    match queueResult s vf p.arg0.toNat with
    | 0 =>
      let x := queueOf s p.arg0.toNat
      if !x.error then (4, s)
      else if p.arg1.toNat < x.c.toNat then (1, s)
      else (0, updateQueue s x.num fun x => x.restartAt p.arg1)
    | r => (r, s)

/-! ### Page flush (R234, R284, R340, R341) -/

/-- Virtual addresses that a flush covers; a length of 0 is the whole space. -/
def flushCovers (base len : Nat) (lo n : Nat) : Bool := len == 0 || (decide (lo < base + len) && decide (base < lo + n))

/-- Every line's copies recalled: what a home may do at any moment (R244, R245). -/
def recallAll (c : Coherence) : Coherence :=
  (c.busy.map (·.line) ++ c.dir.map (·.line) ++ c.copies.map (·.line)).foldl dirRecall c

/-- The leaves that a context's tables hold now, as virtual address and log2 of the page. -/
def leavesFrom (s : State) (vf : Nat) : Nat → Nat → Nat → List (Nat × Nat)
  | lv, table, va =>
    (List.range 512).flatMap fun k =>
      let a := va + k * 2 ^ (12 + 9 * lv)
      match (xlatIpa s vf (table + 8 * k)).1 with
      | .ok ea _ true _ _ _ =>
        match readEntry true lv (Memory.readWord s.mem ea) with
        | .leaf .. => [(a, 12 + 9 * lv)]
        | .table next =>
          match lv with
          | 0 => []
          | j + 1 => leavesFrom s vf j next a
        | _ => []
      | _ => []

/-- The 4 KiB physical pages that a flush covers: those that dropped translations reached and those that the tables reach now. -/
def flushedPages (s : State) (ctx base len : Nat) : List Nat :=
  let cut := fun (va lg : Nat) => (List.range (2 ^ (lg - 12))).filterMap fun k =>
    if flushCovers base len (va + 4096 * k) 4096 then some (va + 4096 * k) else none
  let held := (s.caches.tlb.filter fun e => e.ctx == ctx).flatMap fun e =>
    (cut e.va.toNat e.lg).map fun va => (e.pa + (va - e.va.toNat)) / 4096 * 4096
  let now := match findContext s ctx with
    | none => []
    | some c => (leavesFrom s c.vf 4 c.root.toNat 0).flatMap fun x => (cut x.1 x.2).filterMap fun va =>
      match (walkVa s ctx va).1 with
      | .ok pa .. => some (pa / 4096 * 4096)
      | _ => none
  held ++ now

/-- Lines that were undefined stand after the flush of their page with values that nothing constrains (R234). -/
def freeLine (s : State) (l : Nat) : State :=
  let (bs, s) := takeFreeBytes s 128
  { s with mem := Memory.writeBytes s.mem (l * 128) bs, caches := { s.caches with undef := s.caches.undef.filter fun x => x != l } }

def freeLines (s : State) (ctx base len : Nat) : State :=
  if s.caches.undef.isEmpty then s
  else
    let pages := flushedPages s ctx base len
    (s.caches.undef.filter fun l => pages.contains (l * 128 / 4096 * 4096)).foldl freeLine s

/-- A cell that a flush covers begins again where its page is no longer a ply page, or SCRUB has zeroed its line (R284, R383). -/
def plyKept (s : State) (ctx base len : Nat) (c : PlyCell) : Bool :=
  !(c.ctx == ctx && flushCovers base len (c.va.toNat / 4096 * 4096) 4096)
    || (!c.scrubbed && (match (walkVa s ctx c.va.toNat).1 with
      | .ok pa treat .. => pa == c.pa && treat == 4
      | _ => false))

/-- R340: translations and code of the range dropped, copies written back and dropped. -/
def flushPages (s : State) (ctx base len : Nat) : State :=
  let s := freeLines s ctx base len
  let s := dropL1 (dropClean (writeBack s fun _ _ => true) fun _ => true) fun _ => true
  let s := { s with
    coh := recallAll s.coh
    caches := { s.caches with
      tlb := s.caches.tlb.filter fun e => !(e.ctx == ctx && flushCovers base len e.va.toNat (2 ^ e.lg))
      code := s.caches.code.filter fun l => !(l.ctx == ctx && flushCovers base len l.va.toNat 128) } }
  { s with ply := s.ply.filter (plyKept s ctx base len) }

def execPageFlush (vf : Nat) (s : State) : Result :=
  perform s vf 0x08 fun p => onContext s vf p fun c =>
    if p.arg2.toNat % 4096 ≠ 0 then (1, s) else (0, flushPages s c p.arg1.toNat p.arg2.toNat)

/-! ### Fault resolution (R342, R405) -/

/-- The result of resolving an id: outstanding, and the VF's (R334, R342). -/
def faultResult (s : State) (vf id : Nat) : Nat :=
  match s.faults.find? fun f => f.id == id with
  | none => 5
  | some f => if f.vf = vf then 0 else 2

def waitersOf (s : State) (id : Nat) : List Waiter := ((s.faults.find? fun f => f.id == id).map (·.waiters)).getD []

/-- A fault of a warp replayed: its access is walked again once none of the warp's faults is outstanding (R341, R342). -/
def Warp.replayed (w : Warp) (id : Nat) : Warp :=
  match w.status with
  | .faulted fs =>
    let rest := fs.filter fun f => f.id != id
    { w with status := if rest.isEmpty then .running else .faulted rest }
  | _ => w

/-- A fault of a warp cancelled: PAGE at the instruction, for the lanes that met it. -/
def Warp.cancelled (w : Warp) (id : Nat) : Warp :=
  match w.status with
  | .faulted fs =>
    match fs.find? fun f => f.id == id with
    | some f => { w with status := .running, reports := { code := 0x06, addr := f.addr, mask := f.mask, here := true } :: w.reports }
    | none => w
  | _ => w

/-- What waited is walked again. -/
def replayWaiter (id : Nat) (s : State) : Waiter → State
  | .warp k => updateWarp s k fun w => w.replayed id
  | .creation id => updateWarp s id fun w => match w.status with
    | .held _ => { w with status := .creating }
    | _ => w
  | .copy cid => updateCopy s cid fun c => match c.status with
    | .suspended .. => { c with status := .going }
    | _ => c
  | .ring q => updateQueue s q fun x => { x with ringWait := none }
  | .writeBack q => updateQueue s q fun x => { x with wbWait := none }

/-- What waited ends as R342, R306, R28 and R405 say of a cancel. -/
def cancelWaiter (id : Nat) (s : State) : Waiter → State
  | .warp k => dropWaiters (updateWarp s k fun w => w.cancelled id) (· == .warp k)
  | .creation id =>
    match findWarp s id with
    | some w => if w.status == .free then s else createFail s w
    | none => s
  | .copy cid => updateCopy s cid fun c => match c.status with
    | .suspended _ a => { c with status := .failing 0x06 a 0 }
    | _ => c
  | .ring q =>
    match (queueOf s q).ringWait with
    | some x => flushQueue (updateQueue s q fun x => { x with ringWait := none }) q 5 0 false (word x.index)
    | none => s
  | .writeBack q => writeBackFails s q

/-- An id resolved: it is outstanding no longer, and each of its waiters moves. -/
def resolve (s : State) (id : Nat) (f : State → Waiter → State) : State :=
  (waitersOf s id).foldl f { s with faults := s.faults.filter fun x => x.id != id }

/-- FAULT_RESOLVE with ARG1 0; ARG1 above 1 is a bad argument. -/
def execFaultResolve (vf : Nat) (s : State) : Result :=
  match taken s vf 0x09 with
  | some p =>
    if p.arg1 = 1 then .next s
    else
      perform s vf 0x09 fun p =>
        match faultResult s vf p.arg0.toNat with
        | 0 => if p.arg1 = 0 then (0, resolve s p.arg0.toNat (replayWaiter p.arg0.toNat)) else (1, s)
        | r => (r, s)
  | none => .next s

/-- FAULT_RESOLVE with ARG1 1. -/
def execFaultCancel (vf : Nat) (s : State) : Result :=
  match taken s vf 0x09 with
  | some p =>
    if p.arg1 ≠ 1 then .next s
    else
      perform s vf 0x09 fun p =>
        match faultResult s vf p.arg0.toNat with
        | 0 => (0, resolve s p.arg0.toNat (cancelWaiter p.arg0.toNat))
        | r => (r, s)
  | none => .next s

/-! ### Attestation (R361) -/

/-- The pages of a span of IPAs with the permissions it needs, as physical address, offset and length; none where one does not translate, lacks a
permission, or lies with a package that refuses it. -/
def ipaRuns (s : State) (vf : Nat) (rd wr : Bool) : Nat → Nat → Nat → Nat → Option (List (Nat × Nat × Nat))
  | 0, _, _, _ => some []
  | fuel + 1, a, off, n =>
    if n = 0 then some []
    else
      let k := min n (4096 - a % 4096)
      match (xlatIpa s vf a).1, ipaRuns s vf rd wr fuel (a + k) (off + k) (n - k) with
      | .ok pa _ r w _ _, some rs => if (r || !rd) && (w || !wr) && reachable s pa then some ((pa, off, k) :: rs) else none
      | _, _ => none

def runsOf (s : State) (vf a n : Nat) (rd wr : Bool) : Option (List (Nat × Nat × Nat)) := ipaRuns s vf rd wr (n / 4096 + 2) a 0 n

/-- Whether some byte of a run of physical addresses is poisoned. -/
def runPoisoned (s : State) (pa n : Nat) : Bool :=
  plyPoisoned s pa n || (List.range (n / 128 + 2)).any fun k => decide ((pa / 128 + k) * 128 < pa + n) && meetsPoison s ((pa / 128 + k) * 128)

/-- The lines of a span of IPAs that stacks in self-refresh hold, its walks' entries among them (R392). -/
def ipaHeld (s : State) (vf : Nat) : Nat → Nat → Nat → Bool
  | 0, _, _ => false
  | fuel + 1, a, n =>
    if n = 0 then false
    else
      let k := min n (128 - a % 128)
      (match (xlatIpa s vf a).1 with
        | .held _ => true
        | .ok pa .. => isHeld s pa
        | _ => false) || ipaHeld s vf fuel (a + k) (n - k)

/-- Whether some stack holds, so that a span of IPAs must be looked at. -/
def spanHeld (s : State) (vf a n : Nat) : Bool := s.hbmStacks.any (fun k => k.st == .holding) && ipaHeld s vf (n / 128 + 2) a n

/-- What a reading of a span of IPAs leaves: the homes of its lines and of the entries of its walks powered, undefined lines free (R226, R234). -/
def ipaTouch (s : State) (vf a n : Nat) : State :=
  (runsOf s vf a n true false).elim s fun rs =>
    rs.foldl (fun s r => loosenRun ((linesOf r.1 r.2.2).foldl (fun s l => wakeArrays (wakeHome s (128 * l)) (128 * l)) (wakeIpa s vf (a + r.2.1))) r.1 r.2.2) s

/-- Bytes at an IPA; none where they cannot be read or are poisoned. -/
def readIpa (s : State) (vf a n : Nat) : Option (List Byte) :=
  (runsOf s vf a n true false).bind fun rs =>
    if rs.any fun r => runPoisoned s r.1 r.2.2 then none else some (rs.flatMap fun r => Memory.readBytes s.mem r.1 r.2.2)

/-- Bytes written at an IPA, all of them or none, after the recall of their lines (R245); a ply page (R233) and a marked granule (R293) refuse them. -/
def storeIpa (s : State) (vf a : Nat) (bs : List Byte) : Option State :=
  (runsOf s vf a bs.length false true).bind fun rs =>
    if rs.any fun r => writeBarred s r.1 r.2.2 then none
    else some (rs.foldl (fun s r =>
      let s := wakeIpa s vf (a + r.2.1)
      devicePut (recallRun s r.1 r.2.2) r.1 ((bs.drop r.2.1).take r.2.2)) s)

/-- The leaves of the identity tree. -/
def leafCount : Nat := 2 ^ 20

/-- What a report says after its nonce (R361), and the identity key's signature over all of it. -/
def attestReport (s : State) (vf leaf : Nat) (nonce : List Byte) : List Byte :=
  let body := nonce ++ Config.mModeHash s.sec.measured ++ Config.computeHash s.sec.measured
    ++ Config.reportFields vf (partitionOfVf s vf) (s.sec.records.map fun r => (r.typ, r.counter)) ++ Config.identityKey ++ Config.identityCert
  body ++ Config.identitySign leaf body

def execAttest (vf : Nat) (s : State) : Result :=
  match taken s vf 0x0A with
  | none => .next s
  | some p =>
    if spanHeld s vf p.arg0.toNat 4128 then .next s
    else
      perform s vf 0x0A fun p =>
        if s.sec.leaf ≥ leafCount then (3, s)
        else
          let s := ipaTouch s vf p.arg0.toNat 32
          match readIpa s vf p.arg0.toNat 32 with
          | none => (1, s)
          | some nonce =>
            let s1 := { s with sec := { s.sec with leaf := s.sec.leaf + 1 } }
            match storeIpa s1 vf (p.arg0.toNat + 32) ((attestReport s vf s.sec.leaf nonce).take 4096) with
            | some s2 => (0, s2)
            | none => (1, s1)

/-! ### Checkpoints (R393, R394) -/

/-- CRC-64/ECMA-182: one byte. -/
def crcBit (c : Word) : Word := if c.getLsbD 63 then (c <<< 1) ^^^ 0x42F0E1EBA9EA3693 else c <<< 1

def crcByte (c : Word) (b : Byte) : Word := (List.range 8).foldl (fun c _ => crcBit c) (c ^^^ (b.setWidth 64 <<< 56))

def crc64 (bs : List Byte) : Word := bs.foldl crcByte 0

def sealMagic : Nat := 0x4B504843

/-- The saved warps of a context, group by group, and each warp of none by itself. -/
def sealGroups (s : State) (c : Nat) : List (Option Group × List SavedWarp) :=
  let mine := s.saved.filter fun x => x.warp.ctx == c
  ((s.groups.filter fun g => g.ctx == c && g.saved).map fun g => (some g, mine.filter fun x => x.warp.group == some g.key))
    ++ (mine.filter fun x => x.warp.group.isNone).map fun x => (none, [x])

/-- A group's header: six fields of eight bytes, then zeros. -/
def groupHeader (g : Option Group) (xs : List SavedWarp) : List Byte :=
  let w := (xs.head?.map (·.warp)).getD Warp.empty
  let (gidx, stage, pat, scratch, cores) := match g with
    | some g => (g.gidx.toNat, g.stage.toNat, g.pat, g.scratch, (scratchCores g).length)
    | none => (w.gidx.toNat, w.stage.toNat, w.pat, 0, 0)
  padTo 64 ([word gidx, word stage, pat, word xs.length, word scratch, word cores].flatMap wordBytes)

/-- Where a group's scratchpad and its image slots lie in the park area, in the order of the layout: by which die, address and length. -/
def sealSpans (s : State) (c : Nat) (x : Option Group × List SavedWarp) : Option (List (Nat × Nat × Nat)) :=
  let pat := match x.1 with
    | some g => g.pat
    | none => ((x.2.head?.map (·.warp)).getD Warp.empty).pat
  (findPattern s c pat).map fun p =>
    (match x.1 with
      | some g => [(g.die, groupVa p g.slot, (scratchCores g).length * g.scratch)]
      | none => []) ++ x.2.map fun y => (y.warp.die, imageVa p y.image, slotBytes)

/-- A test of every span that a seal of a context reads. -/
def sealAny (s : State) (c : Nat) (test : Nat → Nat → Nat → Nat → Bool) : Bool :=
  (sealGroups s c).any fun x => ((sealSpans s c x).getD []).any fun y => test y.1 c y.2.1 y.2.2

/-- Whether a stack in self-refresh holds some of it (R392, R395). -/
def sealHeld (s : State) (c : Nat) : Bool := s.hbmStacks.any (fun k => k.st == .holding) && sealAny s c (deviceHeld s)

/-- What reading it leaves. -/
def sealTouch (s : State) (c : Nat) : State :=
  (sealGroups s c).foldl (fun s x => ((sealSpans s c x).getD []).foldl (fun s y => deviceTouch s y.1 c y.2.1 y.2.2) s) s

/-- A group's part of the layout: its header, its scratchpad, its image slots, as the park area holds them. -/
def sealOne (s : State) (c : Nat) (x : Option Group × List SavedWarp) : Option (List Byte) :=
  (sealSpans s c x).bind fun spans =>
    spans.foldl (fun r y => match r, deviceLoad s y.1 c y.2.1 y.2.2 with
      | some a, some b => some (a ++ b)
      | _, _ => none) (some (groupHeader x.1 x.2))

def sealAll (s : State) (c : Nat) : List (Option Group × List SavedWarp) → Option (List Byte)
  | [] => some []
  | x :: xs =>
    match sealOne s c x, sealAll s c xs with
    | some a, some b => some (a ++ b)
    | _, _ => none

/-- The first 64 bytes with a CRC field. -/
def sealHeader (gen c vf groups total : Nat) (crc : Word) : List Byte :=
  leBytes 4 sealMagic ++ leBytes 4 1 ++ wordBytes (word gen) ++ wordBytes (word (c + vf * 2 ^ 16)) ++ wordBytes (word groups)
    ++ wordBytes (word total) ++ wordBytes crc ++ leBytes 16 0

/-- The sealed buffer. -/
def sealBytes (gen c vf groups : Nat) (body : List Byte) : List Byte :=
  let total := 64 + body.length
  sealHeader gen c vf groups total (crc64 (sealHeader gen c vf groups total 0 ++ body)) ++ body

/-- A context held, with its pre-emptions complete. -/
def heldStill (s : State) (c : Nat) : Bool := contextHeld s c && !contextResident s c

def execCheckpointSeal (vf : Nat) (s : State) : Result :=
  match taken s vf 0x0B with
  | some p =>
    if p.arg3.getLsbD 0 || spanHeld s vf p.arg1.toNat p.arg2.toNat || sealHeld s p.arg0.toNat then .next s
    else
      perform s vf 0x0B fun p => onContext s vf p fun c =>
        if p.arg3 ≠ 0 || field p.arg1 0 12 ≠ 0 then (1, s)
        else if !heldStill s c then (4, s)
        else
          let gs := sealGroups s c
          let s := sealTouch s c
          match sealAll s c gs with
          | none => (1, s)
          | some body =>
            if p.arg2.toNat < 64 + body.length then (3, s)
            else
              let gen := ((findContext s c).map (·.ckpt)).getD 0 + 1
              match storeIpa s vf p.arg1.toNat (sealBytes gen c vf gs.length body) with
              | none => (1, s)
              | some s1 =>
                let s2 := updateContext s1 c fun x => { x with ckpt := gen }
                let s3 := { s2 with sealed := { ctx := c, gen := gen, groups := gs } :: s2.sealed.filter fun x => !(x.ctx == c && x.gen == gen) }
                (0, updateVf s3 vf fun p => { p with arg0 := word (64 + body.length) })
  | none => .next s

/-- What a buffer's first 64 bytes say. -/
structure SealHead where
  fits : Bool
  gen : Nat
  place : Nat
  groups : Nat
  total : Nat
  crc : Word
  deriving DecidableEq, Repr

def readSealHead (bs : List Byte) : SealHead :=
  { fits := numAt bs 0 4 == sealMagic && numAt bs 4 4 == 1 && numAt bs 0x30 16 == 0
    gen := numAt bs 8 8, place := numAt bs 0x10 8, groups := numAt bs 0x18 8, total := numAt bs 0x20 8, crc := wordAt bs 0x28 }

/-- The CRC of a buffer, its own field taken as zero. -/
def sealCrc (bs : List Byte) : Word := crc64 (bs.take 0x28 ++ leBytes 8 0 ++ bs.drop 0x30)

/-- A saved warp entered again: its image in a slot of the park area, its originating queue the one named (R393). -/
def enterWarp (q : Nat) (y : SavedWarp) (k : Nat) : SavedWarp :=
  let again := fun (r : Record) => { r with queue := BitVec.ofNat 10 q, launch := none }
  { y with warp := { y.warp with queue := q, recs := y.warp.recs.map fun r => r.map again }, image := k, parked := false }

def enterWarps (q c : Nat) (p : Pattern) : State → List Byte → List SavedWarp → Option State
  | s, _, [] => some s
  | s, bs, y :: ys =>
    match imageSlot s p with
    | none => none
    | some k =>
      match deviceStore s y.warp.die c (imageVa p k) (bs.take slotBytes) with
      | none => none
      | some s1 => enterWarps q c p { s1 with saved := s1.saved ++ [enterWarp q y k] } (bs.drop slotBytes) ys

/-- A group of a buffer entered as a pre-empted group; none where the park area lacks a slot. -/
def enterGroup (q c : Nat) (s : State) (bs : List Byte) (x : Option Group × List SavedWarp) : Option State :=
  let pat := match x.1 with
    | some g => g.pat
    | none => ((x.2.head?.map (·.warp)).getD Warp.empty).pat
  match findPattern s c pat with
  | none => none
  | some p =>
    match x.1 with
    | none => enterWarps q c p s (bs.drop 64) x.2
    | some g =>
      let n := (scratchCores g).length * g.scratch
      match (List.range p.parkGroups).find? fun k => !s.groups.any fun h => h.saved && h.ctx == c && h.pat == pat && h.slot == k with
      | none => none
      | some k =>
        match deviceStore s g.die c (groupVa p k) (bytesAt bs 64 n) with
        | none => none
        | some s1 => enterWarps q c p { s1 with groups := s1.groups ++ [{ g with saved := true, slot := k }] } (bs.drop (64 + n)) x.2

/-- A group's header as a buffer has it (R394). -/
structure SealPart where
  gidx : Nat
  stage : Nat
  pat : Word
  warps : Nat
  scratch : Nat
  cores : Nat
  deriving DecidableEq, Repr

def readPart (bs : List Byte) (off : Nat) : SealPart :=
  { gidx := numAt bs off 8, stage := numAt bs (off + 8) 8, pat := wordAt bs (off + 0x10), warps := numAt bs (off + 0x18) 8
    scratch := numAt bs (off + 0x20) 8, cores := numAt bs (off + 0x28) 8 }

def SealPart.size (h : SealPart) : Nat := 64 + h.cores * h.scratch + slotBytes * h.warps

/-- Where the n groups that begin at an offset end; none where they pass a buffer's end. -/
def partsEnd (bs : List Byte) : Nat → Nat → Option Nat
  | 0, off => some off
  | n + 1, off =>
    let e := off + (readPart bs off).size
    if e ≤ bs.length then partsEnd bs n e else none

/-- The frame size of a call level that an image holds at an offset: the size its own tail names (R399). -/
def levelFrame (bs : List Byte) (off : Nat) : Nat :=
  ((List.range 33).find? fun f => let t := off + 4096 + 256 * f; numAt bs (t + 36) 1 == f && numAt bs (t + 38) 2 == 0 && numAt bs (t + 48) 16 == 0).getD 0

/-- A warp of a buffer of which the device keeps nothing beside it: what the image does not hold is as a new warp has it. -/
def bareWarp (s : State) (p : Pattern) (c q die : Nat) (h : SealPart) (key : Option Nat) (i : Nat) (bs : List Byte) : SavedWarp :=
  let h1 := wordAt bs 8
  let oCall := 1280 + 256 * field h1 0 8 + 256 * field h1 8 8 + 64 * field h1 16 8
  let level := fun (off : Nat) => ({ lanes := [], frame := levelFrame bs off, active := 0, depth := 0, ret := 0 } : CallLevel)
  let first := level oCall
  let calls := ([level (oCall + 4096 + 256 * first.frame + 64), first]).drop (2 - field h1 24 8)
  let rw := wordAt bs 0x88
  let region : Region := { keep := field rw 0 5, lanes := List.replicate 32 ([], 0, []), mask := BitVec.ofNat 32 (numAt bs 0x10 4) }
  let r : Record := { kind := if key.isSome then 1 else 0, stage := BitVec.ofNat 4 h.stage, gidx := BitVec.ofNat 32 h.gidx, queue := BitVec.ofNat 10 q }
  { warp :=
      { id := s.nextId + 1 + i, status := .running, die := die, ctx := c, pat := h.pat, stage := BitVec.ofNat 4 h.stage, group := key, index := i
        gidx := BitVec.ofNat 32 h.gidx, queue := q, spill := freeArea s p die 0 0 i, livebase := p.image.liveTable - (p.image.codeBase >>> 3)
        signed := p.signed, calls := calls, region := if h1.getLsbD 37 then some region else none
        recs := (List.range 32).map fun l => if (BitVec.ofNat 32 (numAt bs 0x14 4)).getLsbD l then none else some r } }

/-- A group of a buffer of which the device keeps nothing beside it, in its context's device partition. -/
def bareGroup (q c : Nat) (s : State) (part : List Byte) : (Option Group × List SavedWarp) × State :=
  let h := readPart part 0
  let die := (diesOf s (partitionOfVf s (vfOfContext s c))).headD 0
  match findPattern s c h.pat with
  | none => ((none, []), s)
  | some p =>
    let st := BitVec.ofNat 4 h.stage
    let isGroup := ((stageDecl p st).map (·.isGroup)).getD false
    let key := if isGroup then some s.nextId else none
    let image := fun (i : Nat) => bytesAt part (64 + h.cores * h.scratch + slotBytes * i) slotBytes
    let ws := (List.range h.warps).map fun i => bareWarp s p c q die h key i (image i)
    let g : Group :=
      { key := s.nextId, ctx := c, pat := h.pat, stage := st, gidx := BitVec.ofNat 32 h.gidx, die := die, core := 0, wide := decide (64 < h.warps)
        nwarps := h.warps, scratch := h.scratch, most := h.scratch, prio := ((stageDecl p st).map (·.prio)).getD 0, saved := true, launched := s.now }
    ((if isGroup then some g else none, ws), { s with nextId := s.nextId + 1 + h.warps })

/-- The n groups of a buffer from an offset, one after another, each with what the seal of that generation left with the device of it, where it
left that (R393). -/
def enterAll (q c : Nat) (bs : List Byte) : Nat → State → Nat → List (Option Group × List SavedWarp) → Option State
  | 0, s, _, _ => some s
  | n + 1, s, off, kept =>
    let size := (readPart bs off).size
    let part := bytesAt bs off size
    let (x, s1) := match kept.head? with
      | some y => if part.take 64 = groupHeader y.1 y.2 then (y, s) else bareGroup q c s part
      | none => bareGroup q c s part
    if (findPattern s c (readPart bs off).pat).isNone then none
    else (enterGroup q c s1 part x).bind fun s2 => enterAll q c bs n s2 (off + size) kept.tail

/-- The buffer verified, and its groups entered (R393). -/
def restoreSeal (s : State) (vf c q : Nat) (size : Nat) (base : Nat) : Nat × State :=
  match readIpa s vf base 64 with
  | none => (1, s)
  | some hd =>
    let h := readSealHead hd
    if !h.fits || h.total < 64 || h.total > size then (4, s)
    else
      match readIpa s vf base h.total with
      | none => (1, s)
      | some bs =>
        if sealCrc bs ≠ h.crc || partsEnd bs h.groups 64 ≠ some h.total then (4, s)
        else if h.place ≠ c + vf * 2 ^ 16 || h.gen > ((findContext s c).map (·.ckpt)).getD 0 then (5, s)
        else
          match enterAll q c bs h.groups s 64 (((s.sealed.find? fun x => x.ctx == c && x.gen == h.gen).map (·.groups)).getD []) with
          | some s1 => (0, s1)
          | none => (3, s)

def execCheckpointRestore (vf : Nat) (s : State) : Result :=
  match taken s vf 0x0B with
  | some p =>
    if !p.arg3.getLsbD 0 || spanHeld s vf p.arg1.toNat p.arg2.toNat then .next s
    else
      perform s vf 0x0B fun p => onContext s vf p fun c =>
        let q := field p.arg3 16 10
        if field p.arg3 1 15 ≠ 0 || field p.arg3 26 38 ≠ 0 || field p.arg1 0 12 ≠ 0 then (1, s)
        else if queueResult s vf q ≠ 0 then (queueResult s vf q, s)
        else if !heldStill s c || s.saved.any fun x => x.warp.ctx == c then (4, s)
        else restoreSeal (ipaTouch s vf p.arg1.toNat p.arg2.toNat) vf c q p.arg2.toNat p.arg1.toNat
  | none => .next s

/-! ### Harts (R356) -/

def findHart (s : State) (h : Nat) : Hart := (s.harts.find? fun x => x.num == h).getD { num := h }

def setHart (s : State) (h : Hart) : State := { s with harts := h :: s.harts.filter fun x => x.num != h.num }

/-- The VF whose hart mask holds a hart. -/
def hartVf (s : State) (h : Nat) : Option Nat :=
  (s.configs.find? fun c => c.inForce.enabled && c.inForce.hartMask.getLsbD h).map (·.vf)

def hartResult (s : State) (vf h : Nat) : Nat := if h > 63 then 1 else if hartVf s h = some vf then 0 else 2

/-- A CSR of a hart: 0 until something has written it. -/
def Hart.csr (h : Hart) (k : Nat) : Word := ((h.csrs.find? fun x => x.1 == k).map (·.2)).getD 0

/-- A CSR written; the list stays in the order of numbers and names none that reads 0. -/
def Hart.setCsr (h : Hart) (k : Nat) (v : Word) : Hart :=
  let rest := h.csrs.filter fun x => x.1 != k
  { h with csrs := if v = 0 then rest else insertBy (fun a b => decide (a.1 ≤ b.1)) (k, v) rest }

/-- A guest runs (R356). -/
def Hart.isGuest (h : Hart) : Bool := h.mode == .vs || h.mode == .vu

/-- `hgatp`.VMID (R356). -/
def Hart.vmid (h : Hart) : Nat := field (h.csr 0x680) 44 14

/-- The hart's registers at its start: HS-mode at the entry, a0 its number, a1 the value given (R356). -/
def Hart.begin_ (h : Hart) (entry a1 : Word) : Hart :=
  { h with running := true, mode := .hs, pc := entry, x := (h.x.set 10 (word h.num)).set 11 a1, answer := none }

def execHartStart (vf : Nat) (s : State) : Result :=
  perform s vf 0x0C fun p =>
    match hartResult s vf p.arg0.toNat with
    | 0 => (0, setHart s ((findHart s p.arg0.toNat).begin_ p.arg1 p.arg2))
    | r => (r, s)

def execHartStop (vf : Nat) (s : State) : Result :=
  perform s vf 0x0D fun p =>
    match hartResult s vf p.arg0.toNat with
    | 0 => (0, setHart s { num := p.arg0.toNat })
    | r => (r, s)

/-! ### The PF's commands (R335) -/

/-- The PF's page has a command with this code to perform. -/
def performPf (s : State) (code : Nat) (f : PfPage → Nat × State) : Result :=
  .next (if s.pf.busy && s.pf.cmd == some (BitVec.ofNat 8 code) then
      let (r, s1) := f s.pf
      { s1 with pf := { s1.pf with busy := false, cmd := none, result := BitVec.ofNat 8 r } }
    else s)

/-- R335: why VF_APPLY is refused. -/
def applyRefused (s : State) (v : Nat) (b : VfBlock) : Bool :=
  let others := s.configs.filter fun c => c.vf != v
  !(contextsOf s v).isEmpty || (others.any fun c => c.inForce.queues.any b.queues.contains)
    || decide ((others.map fun c => c.inForce.heddleLimit).foldl (· + ·) 0 + b.heddleLimit > 512)

/-- Queues that change hands are configured no longer. -/
def rehome (s : State) : State :=
  { s with queues := s.queues.map fun x =>
      let o := (queueOwner s x.num).getD 64
      if o == x.vf then x else { x.unconfigured with vf := o, recs := [] } }

/-- Harts that leave the VF that held them lose what their registers held (R349). -/
def clearHarts (old s : State) : State := { s with harts := s.harts.filter fun h => hartVf old h.num == hartVf s h.num }

/-- The page that enabling a VF makes (R333): at its reset values, with the events that it was still owed (R345). -/
def enabledPage (s : State) (v : Nat) : VfPage :=
  match vfPage s v with
  | some p => { VfPage.reset v with heldEvents := p.heldEvents, discarded := p.discarded, evSeq := p.evSeq }
  | none => VfPage.reset v

/-- The block in force, with the VF's page as enabling makes it (R333). -/
def applyBlock (s : State) (v : Nat) (b : VfBlock) : State :=
  let on := (vfBlock s v).enabled && (vfPage s v).isSome
  let s := rehome (clearHarts s (updateConfig s v fun c => { c with inForce := b }))
  if !b.enabled then { s with vfs := s.vfs.filter fun p => p.vf != v }
  else if on then s
  else
    { s with
      vfs := s.vfs.filter (fun p => p.vf != v) ++ [enabledPage s v]
      queues := updateWhere (fun x => x.vf == v) Queue.unconfigured s.queues }

def execVfApply (s : State) : Result :=
  performPf s 0x81 fun p =>
    let v := p.arg0.toNat
    if v > 63 then (1, s)
    else
      let b := (vfConfig s v).written
      if applyRefused s v b then (4, s) else (0, applyBlock s v b)

/-- A physical range of this package's HBM, in whole 4 KiB pages. -/
def scrubRange (s : State) (pa n : Nat) : Option Nat :=
  if pa % 4096 ≠ 0 || n % 4096 ≠ 0 || targetOf s pa != .hbm || homePa s pa + n > 2 ^ 40 then none else some (homePa s pa)

/-- R335, R383: every copy dropped, the range zero, its lines and ply cells poisoned no longer. -/
def scrubTo (s : State) (a n : Nat) : State :=
  let inside := fun (k : Nat) => decide (a ≤ k) && decide (k < a + n)
  let line := fun (l : Nat) => inside (l * 128)
  let cell := fun (c : PlyCell) =>
    { c with siblings := mapFrom (fun k v => if k < 2 then 0 else v) 0 c.siblings, scrubbed := true }
  { s with
    mem := s.mem.filter fun c => !inside c.1
    poison := s.poison.filter fun l => !(line l && stackState s (l * 128) != .failed)
    ply := updateWhere (fun c => inside c.pa) cell s.ply
    coh := { emptyCoherence s.coh line with l1 := s.coh.l1.filter fun x => !line x.line }
    caches := { s.caches with dirty := s.caches.dirty.filter (fun d => !inside d.pa), clean := s.caches.clean.filter (fun c => !line c.line)
                              code := s.caches.code.filter fun c => !inside c.pa } }

/-- A write of a range powers the dies that home it (R226). -/
def touchRange (s : State) (a n : Nat) : State := if s.gated.isEmpty then s else (linesOf a n).foldl (fun s l => wakeHome s (128 * l)) s

/-- The watched granules of a range that a write of zeros changes. -/
def scrubChanges (s : State) (a n : Nat) : List Nat :=
  let inside := fun (k : Nat) => decide (a ≤ k) && decide (k < a + n)
  if s.heddles.isEmpty then []
  else
    let pages := ((s.heddles.flatMap (·.frames)).map (·.2)).filter inside
    let hit := pages.flatMap fun p => (List.range 512).filterMap fun k => if Memory.readWord s.mem (p + 8 * k) != 0 then some (p + 8 * k) else none
    hit.eraseDups

/-- Whether some line of a SCRUB's range lies on a stack in self-refresh (R392). -/
def scrubHeld (s : State) (p : PfPage) : Bool :=
  s.hbmStacks.any (fun k => k.st == .holding) && ((scrubRange s p.arg0.toNat p.arg1.toNat).elim false fun a => runHeld s a p.arg1.toNat)

/-- R335. The writes wait for a stack that holds some of them, and the command with them (R392). -/
def execScrub (s : State) : Result :=
  if scrubHeld s s.pf then .next s
  else
    performPf s 0x82 fun p =>
      match scrubRange s p.arg0.toNat p.arg1.toNat with
      | none => (1, s)
      | some a =>
        let hit := scrubChanges s a p.arg1.toNat
        (0, changed 0 (scrubTo (touchRange s a p.arg1.toNat) a p.arg1.toNat) hit)

def execPartitionReset (s : State) : Result :=
  performPf s 0x83 fun p => if p.arg0.toNat > 7 then (1, s) else (0, partitionResetTo s p.arg0.toNat)

def execDeviceReset (s : State) : Result := performPf s 0x84 fun _ => (0, deviceResetAll s)

/-! ### Configuration records (R360) -/

/-- A host bus address as a physical one (R229). -/
def hostPa (a : Nat) : Nat := 2 * 2 ^ 48 + a % 2 ^ 48

/-- A record read from host memory. -/
structure ConfigRecord where
  magic : Nat
  fmt : Nat
  serial : Word
  counter : Nat
  typ : Nat
  body : List Byte
  signed : List Byte
  signature : List Byte
  deriving DecidableEq, Repr

/-- Length of an LMS signature and of a public key (R358). -/
def signatureBytes : Nat := 1772
def keyBytes : Nat := 56

def readConfigRecord (m : List Host.Cell) (pa : Nat) : ConfigRecord :=
  let n := fun (off k : Nat) => leNat (Memory.readBytes m (pa + off) k)
  let len := n 0x18 8
  { magic := n 0 4, fmt := n 4 4, serial := word (n 8 8), counter := n 0x10 4, typ := n 0x14 4
    body := Memory.readBytes m (pa + 0x20) len, signed := Memory.readBytes m pa (0x20 + len)
    signature := Memory.readBytes m (pa + 0x20 + (len + 3) / 4 * 4) signatureBytes }

def storedOf (s : State) (typ : Nat) : Option StoredRecord := s.sec.records.find? fun r => r.typ == typ

/-- Whose key a record must verify under: Karhar's for an enrolment, for the others the owner's whose enrolment took effect at a device reset. -/
def recordVerifies (s : State) (r : ConfigRecord) : Bool :=
  if r.typ = 1 then Config.karharVerifies r.signed r.signature
  else match s.sec.owner with
    | some k => Config.lmsVerifies k r.signed r.signature
    | none => false

def recordFits (s : State) (r : ConfigRecord) : Bool :=
  r.magic == 0x52434D4B && r.fmt == 1 && decide (1 ≤ r.typ) && decide (r.typ ≤ 3) && (r.serial == 0 || r.serial == Config.serial)
    && (r.typ != 1 || r.body.length == keyBytes)
    && (match storedOf s r.typ with
      | some k => decide (k.counter < r.counter)
      | none => true)
    && recordVerifies s r

def execConfigLoad (s : State) : Result :=
  performPf s 0x85 fun p =>
    let r := readConfigRecord s.mem (hostPa p.arg0.toNat)
    if recordFits s r && !portLost s (hostPa p.arg0.toNat) then
      (0, { s with sec := { s.sec with
              records := { typ := r.typ, counter := r.counter, body := r.body } :: s.sec.records.filter fun k => k.typ != r.typ } })
    else (4, s)

/-! ### Resets from PCIe (R346, R351) -/

def execVfFlr (vf : Nat) (s : State) : Result := .next (if (pageOf s vf).isSome then vfReset s vf else s)

def execConventionalReset (s : State) : Result := .next (deviceResetAll s)

end Sys2Proof.Machine
end

