-- ==== Sys2Proof/Machine/Integer.lean ====
section
/-! DEFINITION. Integer arithmetic: exact results, wrapped or clamped once at the end (R103 to R107). -/

namespace Sys2Proof.Machine

/-! ### Elements and results -/

/-- Element i of an operand as the type's integer; a scalar is its own element 0. -/
def intElem (t : Ty) (v : Word) (i : Nat) : Int := intOf t (elemOf t.width i v.toNat)

/-- The pushed word of w-bit patterns: a scalar extended (R79), a packed container whole. -/
def placeElems (t : Ty) (f : Nat → Nat) : Word :=
  if t.isPacked then word (packElems t.width f t.elems) else extend t (f 0)

/-- Exact results per element, wrapped, or clamped with SAT (R80). -/
def intOut (t : Ty) (sat : Bool) (f : Nat → Int) : LaneOut :=
  { push := [placeElems t fun i => wrap t.width (if sat then (clamp t (f i)).1 else f i)]
    flags := flagIf (sat && (List.range t.elems).any fun i => (clamp t (f i)).2) Flag.sat }

def int2Lane (op : Int → Int → Int) (sat : Bool) (t : Ty) (a : OpA) (b : OpB) (x : Issue) (l : Nat) : LaneOut :=
  intOut t sat fun i => op (intElem t (valA x .arith t a l) i) (intElem t (valB x .arith t b l) i)

def int3Lane (op : Int → Int → Int → Int) (sat : Bool) (t : Ty) (a : OpA) (b : OpB) (c : Src) (x : Issue) (l : Nat) : LaneOut :=
  intOut t sat fun i => op (intElem t (valA x .arith t a l) i) (intElem t (valB x .arith t b l) i) (intElem t (srcC x c l) i)

/-! ### R103 -/

def execIadd (g : Guard) (u sat : Bool) (t : Ty) (a : OpA) (b : OpB) (s : State) : Result :=
  issue (.iadd g u sat t a b) s (lanewise u g (int2Lane (· + ·) sat t a b))

def execIsub (g : Guard) (u sat : Bool) (t : Ty) (a : OpA) (b : OpB) (s : State) : Result :=
  issue (.isub g u sat t a b) s (lanewise u g (int2Lane (· - ·) sat t a b))

def execImin (g : Guard) (u : Bool) (t : Ty) (a : OpA) (b : OpB) (s : State) : Result :=
  issue (.imin g u t a b) s (lanewise u g (int2Lane min false t a b))

def execImax (g : Guard) (u : Bool) (t : Ty) (a : OpA) (b : OpB) (s : State) : Result :=
  issue (.imax g u t a b) s (lanewise u g (int2Lane max false t a b))

/-- |A − B| as an unsigned value: a scalar is zero-extended even for a signed type. -/
def iabsdLane (t : Ty) (a : OpA) (b : OpB) (x : Issue) (l : Nat) : LaneOut :=
  { push := [word (packElems t.width
      (fun i => (intElem t (valA x .arith t a l) i - intElem t (valB x .arith t b l) i).natAbs) t.elems)] }

def execIabsd (g : Guard) (u : Bool) (t : Ty) (a : OpA) (b : OpB) (s : State) : Result :=
  issue (.iabsd g u t a b) s (lanewise u g (iabsdLane t a b))

def execIclamp (g : Guard) (u : Bool) (t : Ty) (a : OpA) (b : OpB) (c : Src) (s : State) : Result :=
  issue (.iclamp g u t a b c) s (lanewise u g (int3Lane (fun x lo hi => min (max x lo) hi) false t a b c))

/-! ### R104: the carry is of the unsigned views -/

def carryIn (x : Issue) (l : Nat) (c : Fin 64) : Int := if (x.w.lane l).pred c.val then 1 else 0

def unsignedOf (t : Ty) (v : Word) : Int := ((v.toNat % 2 ^ t.width : Nat) : Int)

def iadcLane (t : Ty) (c : Fin 64) (a : OpA) (b : OpB) (x : Issue) (l : Nat) : LaneOut :=
  let r := unsignedOf t (valA x .arith t a l) + unsignedOf t (valB x .arith t b l) + carryIn x l c
  { push := [extend t (wrap t.width r)], preds := [(c.val, decide (r ≥ ((2 ^ t.width : Nat) : Int)))] }

def execIadc (g : Guard) (t : Ty) (c : Fin 64) (a : OpA) (b : OpB) (s : State) : Result :=
  issue (.iadc g t c a b) s (lanewise false g (iadcLane t c a b))

def isbbLane (t : Ty) (c : Fin 64) (a : OpA) (b : OpB) (x : Issue) (l : Nat) : LaneOut :=
  let r := unsignedOf t (valA x .arith t a l) - unsignedOf t (valB x .arith t b l) - carryIn x l c
  { push := [extend t (wrap t.width r)], preds := [(c.val, decide (r < 0))] }

def execIsbb (g : Guard) (t : Ty) (c : Fin 64) (a : OpA) (b : OpB) (s : State) : Result :=
  issue (.isbb g t c a b) s (lanewise false g (isbbLane t c a b))

/-! ### R105 -/

def execImul (g : Guard) (u sat : Bool) (t : Ty) (a : OpA) (b : OpB) (s : State) : Result :=
  issue (.imul g u sat t a b) s (lanewise u g (int2Lane (· * ·) sat t a b))

/-- floor(A × B / 2^w). -/
def mulHigh (t : Ty) (p q : Int) : Int := p * q / ((2 ^ t.width : Nat) : Int)

def execImulh (g : Guard) (u : Bool) (t : Ty) (a : OpA) (b : OpB) (s : State) : Result :=
  issue (.imulh g u t a b) s (lanewise u g (int2Lane (mulHigh t) false t a b))

def execImad (g : Guard) (u sat : Bool) (t : Ty) (a : OpA) (b : OpB) (c : Src) (s : State) : Result :=
  issue (.imad g u sat t a b c) s (lanewise u g (int3Lane (fun p q r => p * q + r) sat t a b c))

/-- The 128-bit pattern of source C (R46). -/
def wideC (x : Issue) (c : Src) (l : Nat) : Nat := (readHigh x.w l c).toNat * 2 ^ 64 + (srcC x c l).toNat

def imadwLane (t : Ty) (a : OpA) (b : OpB) (c : Src) (x : Issue) (l : Nat) : LaneOut :=
  let r := wrap 128 (intOf t (valA x .arith t a l).toNat * intOf t (valB x .arith t b l).toNat + (wideC x c l : Nat))
  { push := [word (r / 2 ^ 64), word r] }

def execImadw (g : Guard) (u : Bool) (t : Ty) (a : OpA) (b : OpB) (c : Src) (s : State) : Result :=
  issue (.imadw g u t a b c) s (lanewise u g (imadwLane t a b c))

/-! ### R106 -/

def leaLane (t : Ty) (a : OpA) (b : OpB) (c : Src) (x : Issue) (l : Nat) : LaneOut :=
  let off := intOf (if t.isSigned then .s32 else .z32) (valB x .arith .z32 b l).toNat
  let n := (srcC x c l).toNat % 64
  { push := [wordI ((valA x .arith t a l).toNat + off * ((2 ^ n : Nat) : Int))] }

def execLea (g : Guard) (u : Bool) (t : Ty) (a : OpA) (b : OpB) (c : Src) (s : State) : Result :=
  issue (.lea g u t a b c) s (lanewise u g (leaLane t a b c))

def isatLane (st dt : Ty) (a : OpA) (x : Issue) (l : Nat) : LaneOut :=
  intOut dt true fun _ => intElem st (valA x .arith st a l) 0

def execIsat (g : Guard) (u : Bool) (st dt : Ty) (a : OpA) (s : State) : Result :=
  issue (.isat g u st dt a) s (lanewise u g (isatLane st dt a))

/-! ### R107 -/

/-- Σ a_k · b_k over n elements of w bits, of the type's signedness. -/
def dot (signed : Bool) (w n : Nat) (a b : Word) : Int :=
  let e := fun (v : Word) (k : Nat) =>
    let p := elemOf w k v.toNat
    if signed then signedOf w p else (p : Int)
  (List.range n).foldl (fun acc k => acc + e a k * e b k) 0

def idotLane (w n : Nat) (sat : Bool) (t : Ty) (a : OpA) (b : OpB) (c : Src) (x : Issue) (l : Nat) : LaneOut :=
  intOut t sat fun _ => intElem t (srcC x c l) 0 + dot t.isSigned w n (valA x .arith .z32 a l) (valB x .arith .z32 b l)

def execIdot4 (g : Guard) (u sat : Bool) (t : Ty) (a : OpA) (b : OpB) (c : Src) (s : State) : Result :=
  issue (.idot4 g u sat t a b c) s (lanewise u g (idotLane 8 4 sat t a b c))

def execIdot2 (g : Guard) (u sat : Bool) (t : Ty) (a : OpA) (b : OpB) (c : Src) (s : State) : Result :=
  issue (.idot2 g u sat t a b c) s (lanewise u g (idotLane 16 2 sat t a b c))

end Sys2Proof.Machine
end

