-- ==== Sys2Proof/Machine/Compare.lean ====
section
/-! DEFINITION. Compares and predicates (R114 to R117). -/

namespace Sys2Proof.Machine

/-- A condition on an order −1, 0, 1 of values that are not NaNs. -/
def Cond.holds (c : Cond) (o : Int) : Bool :=
  match c with
  | .eq => o == 0
  | .ne => o != 0
  | .lt => o < 0
  | .le => o ≤ 0
  | .gt => o > 0
  | .ge => o ≥ 0
  | .un => false
  | .ord => true

/-- The same where an operand is a NaN. -/
def Cond.ofNan : Cond → Bool
  | .ne | .un => true
  | _ => false

def Cond.isOrder : Cond → Bool
  | .lt | .le | .gt | .ge => true
  | _ => false

def icmpLane (t : Ty) (c : Cond) (pd : Fin 64) (a : OpA) (b : OpB) (x : Issue) (l : Nat) : LaneOut :=
  { preds := [(pd.val, Cond.holds c (intElem t (valA x .arith t a l) 0 - intElem t (valB x .arith t b l) 0))] }

def execIcmp (g : Guard) (t : Ty) (c : Cond) (pd : Fin 64) (a : OpA) (b : OpB) (s : State) : Result :=
  issue (.icmp g t c pd a b) s (lanewise false g (icmpLane t c pd a b))

def fcmpLane (t : Ty) (c : Cond) (pd : Fin 64) (a : OpA) (b : OpB) (x : Issue) (l : Nat) : LaneOut :=
  let f := formatOf t
  let va := f.value (valA x .float t a l).toNat
  let vb := f.value (valB x .float t b l).toNat
  let nan := va.isNan || vb.isNan
  { preds := [(pd.val, if nan then Cond.ofNan c else Cond.holds c (compareF va vb))]
    flags := flagIf (va.isSnan || vb.isSnan || (nan && Cond.isOrder c)) Flag.inv }

def execFcmp (g : Guard) (t : Ty) (c : Cond) (pd : Fin 64) (a : OpA) (b : OpB) (s : State) : Result :=
  issue (.fcmp g t c pd a b) s (lanewise false g (fcmpLane t c pd a b))

def selLane (ps : Fin 64) (a : OpA) (b : OpB) (x : Issue) (l : Nat) : LaneOut :=
  { push := [if (x.w.lane l).pred ps.val then valA x .arith .z64 a l else valB x .arith .z64 b l] }

def execSel (g : Guard) (u : Bool) (ps : Fin 64) (a : OpA) (b : OpB) (s : State) : Result :=
  issue (.sel g u ps a b) s (lanewise u g (selLane ps a b))

def plopLane (tab : BitVec 8) (pa pb pc : Fin 128) (pd : Fin 64) (x : Issue) (l : Nat) : LaneOut :=
  let p := fun (k : Fin 128) => b2w ((x.w.lane l).pred k.val)
  { preds := [(pd.val, tab.getLsbD (4 * p pa + 2 * p pb + p pc))] }

def execPlop (g : Guard) (tab : BitVec 8) (pa pb pc : Fin 128) (pd : Fin 64) (s : State) : Result :=
  issue (.plop g tab pa pb pc pd) s (lanewise false g (plopLane tab pa pb pc pd))

def psetLane (pd : Fin 64) (a : OpA) (x : Issue) (l : Nat) : LaneOut := { preds := [(pd.val, valA x .arith .z64 a l != 0)] }

def execPset (g : Guard) (pd : Fin 64) (a : OpA) (s : State) : Result := issue (.pset g pd a) s (lanewise false g (psetLane pd a))

/-- p0 to p47 as bits, p47 read as 1. -/
def predWord (y : Lane) : Word := word (y.preds.toNat % 2 ^ 47 + 2 ^ 47)

def execPtov (g : Guard) (s : State) : Result := issue (.ptov g) s (lanewise false g fun x l => { push := [predWord (x.w.lane l)] })

def vtopLane (a : OpA) (b : OpB) (x : Issue) (l : Nat) : LaneOut :=
  let va := valA x .arith .z64 a l
  let vb := valB x .arith .z64 b l
  { preds := ((List.range 47).filter fun n => vb.getLsbD n).map fun n => (n, va.getLsbD n) }

def execVtop (g : Guard) (a : OpA) (b : OpB) (s : State) : Result := issue (.vtop g a b) s (lanewise false g (vtopLane a b))

def itstLane (pd : Fin 64) (a : OpA) (b : OpB) (x : Issue) (l : Nat) : LaneOut :=
  { preds := [(pd.val, valA x .arith .z64 a l &&& valB x .arith .z64 b l != 0)] }

def execItst (g : Guard) (pd : Fin 64) (a : OpA) (b : OpB) (s : State) : Result :=
  issue (.itst g pd a b) s (lanewise false g (itstLane pd a b))

end Sys2Proof.Machine
end

