-- ==== Sys2Proof/Machine/Conversion.lean ====
section
/-! DEFINITION. Conversions between integers, floats, blocks and residues (R133 to R139). -/

namespace Sys2Proof.Machine

/-! ### CVT (R134) -/

/-- A float to an integer type. -/
def floatToInt (dt : Ty) (md : Rnd) (v : FVal) : Int × Flags :=
  match v with
  | .nan _ => (0, Flag.inv)
  | .inf s => (if s then Ty.low dt else Ty.high dt, Flag.inv)
  | .fin s m e =>
    let (n, inexact) := toIntegral md s m e
    if n > Ty.high dt then (Ty.high dt, Flag.inv)
    else if n < Ty.low dt then (Ty.low dt, Flag.inv)
    else (n, flagIf inexact Flag.inx)

/-- A value of type `st` as a dyadic, an infinity or a NaN. -/
def valueOf (st : Ty) (v : Word) : FVal :=
  if st.isInt then
    let n := intOf st v.toNat
    .fin (n < 0) n.natAbs 0
  else (formatOf st).value v.toNat

def cvtLane (r : Rnd) (st dt : Ty) (a : OpA) (x : Issue) (l : Nat) : LaneOut :=
  let v := valA x (if st.isInt then .arith else .float) st a l
  if dt.isInt then
    if st.isInt then { push := [extend dt (wrap dt.width (intOf st v.toNat))] }
    else
      let (n, fl) := floatToInt dt (roundingOf x r) (valueOf st v)
      { push := [extend dt (wrap dt.width n)], flags := fl }
  else floatOut (convertInto (formatOf dt) (roundingOf x r) (valueOf st v))

def execCvt (g : Guard) (u : Bool) (r : Rnd) (st dt : Ty) (a : OpA) (s : State) : Result :=
  issue (.cvt g u r st dt a) s (lanewise u g (cvtLane r st dt a))

/-! ### Blocks (R135 to R137) -/

/-- R135: one scale from the lanes that take part. -/
def execQscale (g : Guard) (st bt : Ty) (a : OpA) (s : State) : Result :=
  issue (.qscale g st bt a) s fun x s =>
    let m := acting x.w g
    let v := fun (l : Nat) => floatA x st a l
    let (code, _) := blockScale bt ((lanesOf m).map v)
    raiseFlags s m (fun l => flagIf (v l).isNan Flag.inv) fun s => .ok (pushAll s m fun _ => word code)

def qcvtLane (st bt : Ty) (a : OpA) (b : OpB) (x : Issue) (l : Nat) : LaneOut :=
  let ec := (valB x .arith .z64 b l).toNat % 256
  let (n, fl) := blockQuant bt ec (floatA x st a l)
  let q := match bt with
    | .bi8 => wordI (signedOf 8 n)
    | .bi4 => wordI (signedOf 4 n)
    | _ => word n
  { push := [q], flags := fl ||| flagIf (ec == 0xFF) Flag.inv }

def execQcvt (g : Guard) (st bt : Ty) (a : OpA) (b : OpB) (s : State) : Result :=
  issue (.qcvt g st bt a b) s (lanewise false g (qcvtLane st bt a b))

/-- R137. DESIGN CHOICE: a value beyond FP32, which R137's `exact` does not foresee, overflows as R87 gives (log 176). -/
def dqcvtLane (bt dt : Ty) (a : OpA) (b : OpB) (x : Issue) (l : Nat) : LaneOut :=
  let ec := (valB x .arith .z64 b l).toNat % 256
  let (n, fl) := convertInto (formatOf dt) .rne (blockValue bt ec (valA x .arith .z64 a l).toNat)
  floatOut (n, fl ||| flagIf (ec == 0xFF) Flag.inv)

def execDqcvt (g : Guard) (bt dt : Ty) (a : OpA) (b : OpB) (s : State) : Result :=
  issue (.dqcvt g bt dt a b) s (lanewise false g (dqcvtLane bt dt a b))

/-! ### Residues (R138, R139) -/

def resencLane (t : Ty) (a : OpA) (x : Issue) (l : Nat) : LaneOut := { push := [resEncode (intElem t (valA x .arith t a l) 0)] }

def execResenc (g : Guard) (u : Bool) (t : Ty) (a : OpA) (s : State) : Result :=
  issue (.resenc g u t a) s (lanewise u g (resencLane t a))

def resdecLane (t : Ty) (a : OpA) (x : Issue) (l : Nat) : LaneOut :=
  let (p, q, r, bad) := resRead (valA x .arith .z64 a l)
  let o := intOut t true fun _ => resDecode p q r
  { o with flags := o.flags ||| flagIf bad Flag.inv }

def execResdec (g : Guard) (u : Bool) (t : Ty) (a : OpA) (s : State) : Result :=
  issue (.resdec g u t a) s (lanewise u g (resdecLane t a))

end Sys2Proof.Machine
end

