-- ==== Sys2Proof/Machine/Directory.lean ====
section
/-! DEFINITION. The rows of the directory protocol: each request and each message by itself (R241 to R245), and dirty bytes of self-invalidating
lines written back when the home cache chooses (R240). -/

namespace Sys2Proof.Machine

/-! ### Requests (R242), from one of the package's eight dies (R1) -/

/-- The treatment a RdS is made under: a line is watched where the directory or a page table says so (R231, R234). -/
def isWatched (s : State) (line : Nat) : Bool :=
  match dirEntry s.coh line with
  | some e => e.watched
  | none => isMapped s 3 (line * 128)

def execRds (die line : Nat) (s : State) : Result :=
  .next (if 8 ≤ die then s else { s with coh := arrive s.coh (.rds (isWatched s line)) die line })

/-- No die asks for a watched line but to share it (R231). -/
def execRdx (die line : Nat) (s : State) : Result :=
  .next (if 8 ≤ die || isWatched s line then s else { s with coh := arrive s.coh .rdx die line })

def execUpg (die line : Nat) (s : State) : Result :=
  .next (if 8 ≤ die || isWatched s line then s else { s with coh := arrive s.coh .upg die line })

/-! ### Messages (R242, R243) -/

/-- The first message to or from a die for a line that satisfies p is received. -/
def receiveFirst (s : State) (die line : Nat) (p : MsgKind → Bool) : State :=
  match s.coh.msgs.find? fun m => m.line == line && m.die == die && p m.kind with
  | some m => { s with coh := receive { s.coh with msgs := s.coh.msgs.erase m } m.kind die line }
  | none => s

def execFwd (die line : Nat) (s : State) : Result :=
  .next (receiveFirst s die line fun k => match k with
    | .fwd .. => true
    | _ => false)

def execInv (die line : Nat) (s : State) : Result := .next (receiveFirst s die line (· == .inv))

def execBinv (die line : Nat) (s : State) : Result := .next (receiveFirst s die line (· == .binv))

/-- Data, for which the die's home cache makes room (R240). -/
def execData (die line : Nat) (s : State) : Result :=
  .next (receiveFirst (makeRoom s die line) die line fun k => match k with
    | .data .. => true
    | _ => false)

/-- An InvAck: a die's at the home, or the home's at a die. -/
def execInvack (die line : Nat) (s : State) : Result :=
  .next (receiveFirst s die line fun k => match k with
    | .ack _ | .nack => true
    | _ => false)

def execWbd (die line : Nat) (s : State) : Result :=
  .next (receiveFirst s die line fun k => match k with
    | .wbd _ => true
    | _ => false)

/-! ### Evictions (R243, R244) -/

def execDirectoryEvict (line : Nat) (s : State) : Result :=
  .next (if (busyOf s.coh line).isSome then s else { s with coh := arrive s.coh .evict 0 line })

/-- A die drops a copy; an M or O one is written back first. -/
def execCacheEvict (die line : Nat) (s : State) : Result :=
  .next (match copyOf s.coh die line with
    | some x =>
      let c := dropCopy s.coh die line
      { s with coh := if x.st == .m || x.st == .o then send c (.wbd false) line die else c }
    | none => s)

/-! ### Self-invalidating copies (R240) -/

def execSelfInvalidatingWriteBack (die line : Nat) (s : State) : Result := .next (writeBack s fun d l => d == die && l == line)

end Sys2Proof.Machine
end

