-- ==== Sys2Proof/Machine/Logic.lean ====
section
/-! DEFINITION. Logic, shifts, bit counts, fields and bytes (R109 to R113). -/

namespace Sys2Proof.Machine

/-- A 64-bit result taken as a value of the type (R109). -/
def asTyped (t : Ty) (v : Word) : Word := if t.isPacked then v else extend t v.toNat

def logic2Lane (op : Word → Word → Word) (t : Ty) (a : OpA) (b : OpB) (x : Issue) (l : Nat) : LaneOut :=
  { push := [asTyped t (op (valA x .logic t a l) (valB x .logic t b l))] }

def execAnd (g : Guard) (u : Bool) (t : Ty) (a : OpA) (b : OpB) (s : State) : Result :=
  issue (.and g u t a b) s (lanewise u g (logic2Lane (· &&& ·) t a b))

def execOr (g : Guard) (u : Bool) (t : Ty) (a : OpA) (b : OpB) (s : State) : Result :=
  issue (.or g u t a b) s (lanewise u g (logic2Lane (· ||| ·) t a b))

def execXor (g : Guard) (u : Bool) (t : Ty) (a : OpA) (b : OpB) (s : State) : Result :=
  issue (.xor g u t a b) s (lanewise u g (logic2Lane (· ^^^ ·) t a b))

/-- Bit k is table bit 4a + 2b + c: the union over the table's set bits of the places where the three operands spell that number. -/
def lop3 (tab : BitVec 8) (a b c : Word) : Word :=
  (List.range 8).foldl (fun r n =>
    if tab.getLsbD n then
      r ||| ((if n.testBit 2 then a else ~~~a) &&& (if n.testBit 1 then b else ~~~b) &&& (if n.testBit 0 then c else ~~~c))
    else r) 0

def lop3Lane (t : Ty) (tab : BitVec 8) (a : OpA) (b : OpB) (c : Src) (x : Issue) (l : Nat) : LaneOut :=
  { push := [asTyped t (lop3 tab (valA x .logic t a l) (valB x .logic t b l) (srcC x c l))] }

def execLop3 (g : Guard) (u : Bool) (t : Ty) (tab : BitVec 8) (a : OpA) (b : OpB) (c : Src) (s : State) : Result :=
  issue (.lop3 g u t tab a b c) s (lanewise u g (lop3Lane t tab a b c))

/-! ### Shifts (R110) -/

/-- Element by element on unsigned patterns; a scalar's result is extended. -/
def bits2Lane (op : Nat → Nat → Nat) (t : Ty) (a : OpA) (b : OpB) (x : Issue) (l : Nat) : LaneOut :=
  { push := [placeElems t fun i =>
      op (elemOf t.width i (valA x .logic t a l).toNat) (elemOf t.width i (valB x .logic t b l).toNat)] }

def shiftLeft (w n c : Nat) : Nat := if c ≥ w then 0 else n * 2 ^ c % 2 ^ w

def shiftRight (w n c : Nat) : Nat := if c ≥ w then 0 else n / 2 ^ c

/-- Bit w − 1 copied in. -/
def shiftArith (w n c : Nat) : Nat := wrap w (signedOf w n / ((2 ^ min c (w - 1) : Nat) : Int))

def rotateLeft (w n c : Nat) : Nat := (n * 2 ^ (c % w) + n / 2 ^ (w - c % w)) % 2 ^ w

def execShl (g : Guard) (u : Bool) (t : Ty) (a : OpA) (b : OpB) (s : State) : Result :=
  issue (.shl g u t a b) s (lanewise u g (bits2Lane (shiftLeft t.width) t a b))

def execShr (g : Guard) (u : Bool) (t : Ty) (a : OpA) (b : OpB) (s : State) : Result :=
  issue (.shr g u t a b) s (lanewise u g (bits2Lane (shiftRight t.width) t a b))

def execSar (g : Guard) (u : Bool) (t : Ty) (a : OpA) (b : OpB) (s : State) : Result :=
  issue (.sar g u t a b) s (lanewise u g (bits2Lane (shiftArith t.width) t a b))

def execRol (g : Guard) (u : Bool) (t : Ty) (a : OpA) (b : OpB) (s : State) : Result :=
  issue (.rol g u t a b) s (lanewise u g (bits2Lane (rotateLeft t.width) t a b))

def funnelLane (t : Ty) (a : OpA) (b : OpB) (c : Src) (x : Issue) (l : Nat) : LaneOut :=
  let w := t.width
  let n := (valA x .logic t a l).toNat % 2 ^ w * 2 ^ w + (valB x .logic t b l).toNat % 2 ^ w
  { push := [extend t (n / 2 ^ ((srcC x c l).toNat % (2 * w)) % 2 ^ w)] }

def execFunnel (g : Guard) (u : Bool) (t : Ty) (a : OpA) (b : OpB) (c : Src) (s : State) : Result :=
  issue (.funnel g u t a b c) s (lanewise u g (funnelLane t a b c))

/-! ### Counts and reversal (R111) -/

/-- One operand's w-bit pattern to a pushed word. -/
def bits1Lane (op : Nat → Word) (t : Ty) (a : OpA) (x : Issue) (l : Nat) : LaneOut :=
  { push := [op ((valA x .logic t a l).toNat % 2 ^ t.width)] }

def popCount (w n : Nat) : Nat := ((List.range w).filter fun k => n.testBit k).length

def leadingZeros (w n : Nat) : Nat := if n = 0 then w else w - 1 - Nat.log2 n

def trailingZeros (w n : Nat) : Nat := ((List.range w).find? fun k => n.testBit k).getD w

def reversed (w n : Nat) : Nat := packElems 1 (fun k => elemOf 1 (w - 1 - k) n) w

def execPopc (g : Guard) (u : Bool) (t : Ty) (a : OpA) (s : State) : Result :=
  issue (.popc g u t a) s (lanewise u g (bits1Lane (fun n => word (popCount t.width n)) t a))

def execClz (g : Guard) (u : Bool) (t : Ty) (a : OpA) (s : State) : Result :=
  issue (.clz g u t a) s (lanewise u g (bits1Lane (fun n => word (leadingZeros t.width n)) t a))

def execCtz (g : Guard) (u : Bool) (t : Ty) (a : OpA) (s : State) : Result :=
  issue (.ctz g u t a) s (lanewise u g (bits1Lane (fun n => word (trailingZeros t.width n)) t a))

def execBrev (g : Guard) (u : Bool) (t : Ty) (a : OpA) (s : State) : Result :=
  issue (.brev g u t a) s (lanewise u g (bits1Lane (fun n => extend t (reversed t.width n)) t a))

/-! ### Fields (R112) -/

/-- The n bits from position p of the value extended without end by its signedness, then read by its signedness. -/
def fieldOf (t : Ty) (v fd : Nat) : Nat :=
  let p := fd % 256
  let n := fd / 256 % 256
  let x := intOf t v / ((2 ^ p : Nat) : Int)
  wrap t.width (if n = 0 then 0 else if t.isSigned then signedOf n (wrap n x) else (wrap n x : Nat))

def bfxLane (t : Ty) (a : OpA) (b : OpB) (x : Issue) (l : Nat) : LaneOut :=
  { push := [extend t (fieldOf t (valA x .logic t a l).toNat (valB x .logic .z64 b l).toNat)] }

def execBfx (g : Guard) (u : Bool) (t : Ty) (a : OpA) (b : OpB) (s : State) : Result :=
  issue (.bfx g u t a b) s (lanewise u g (bfxLane t a b))

/-- The low bits of v put at position p, as many of n as lie below w. -/
def insertField (w a v fd : Nat) : Nat :=
  let p := fd % 256
  let n := min (fd / 256 % 256) (w - p)
  a - a / 2 ^ p % 2 ^ n * 2 ^ p + v % 2 ^ n * 2 ^ p

def bfiLane (t : Ty) (a : OpA) (b : OpB) (c : Src) (x : Issue) (l : Nat) : LaneOut :=
  { push := [extend t
      (insertField t.width ((valA x .logic t a l).toNat % 2 ^ t.width) (valB x .logic t b l).toNat (srcC x c l).toNat)] }

def execBfi (g : Guard) (u : Bool) (t : Ty) (a : OpA) (b : OpB) (c : Src) (s : State) : Result :=
  issue (.bfi g u t a b c) s (lanewise u g (bfiLane t a b c))

/-! ### Bytes (R113) -/

def permuteBytes (a b c : Word) : Word :=
  let all := a.toNat + b.toNat * 2 ^ 64
  word (packElems 8 (fun i => elemOf 8 (elemOf 4 i c.toNat) all) 8)

def permbLane (t : Ty) (a : OpA) (b : OpB) (c : Src) (x : Issue) (l : Nat) : LaneOut :=
  { push := [asTyped t (permuteBytes (valA x .logic t a l) (valB x .logic t b l) (srcC x c l))] }

def execPermb (g : Guard) (u : Bool) (t : Ty) (a : OpA) (b : OpB) (c : Src) (s : State) : Result :=
  issue (.permb g u t a b c) s (lanewise u g (permbLane t a b c))

end Sys2Proof.Machine
end

