-- ==== Sys2Proof/Machine/Harts.lean ====
section
/-! DEFINITION. Accesses to memory from outside the dies: performed at the home, through the host's window, by the Yeleram harts and what those do
themselves (R233, R245, R266, R267, R341, R351, R352, R355 to R357). -/

namespace Sys2Proof.Machine

/-! ### Accesses performed at the home (R245, R267) -/

/-- n bytes read at the home. -/
def homeRead (s : State) (pa n : Nat) : List Byte × State :=
  let s := wakeArrays (wakeHome s pa) pa
  if isUndef s pa then takeFreeBytes s n else (Memory.readBytes s.mem pa n, s)

/-- Bytes read at the home line by line, so that a line whose values are undefined makes only its own bytes free. -/
def homeReadLines (s : State) : Nat → Nat → Nat → List Byte × State
  | 0, _, _ => ([], s)
  | fuel + 1, pa, n =>
    if n = 0 then ([], s)
    else
      let k := min n (128 - pa % 128)
      let (a, s1) := homeRead s pa k
      let (b, s2) := homeReadLines s1 fuel (pa + k) (n - k)
      (a ++ b, s2)

/-- Bytes written at the home after the line's recall, with generation 0 (R203). -/
def homeWrite (s : State) (pa : Nat) (bs : List Byte) : State :=
  if cannotStore s pa then poisonLine s pa
  else
    let old := Memory.readBytes s.mem pa bs.length
    let s := overwritten (wakeArrays (wakeHome s pa) pa) { space := .global, at_ := pa, bytes := bs.length }
    let s := poisonAfter s pa bs.length
    changed 0 { s with coh := dirRecall s.coh (lineOf pa), mem := Memory.writeBytes s.mem pa bs } (changedGranules pa old bs)

/-- Bytes written at the home line by line. -/
def homeWriteLines (s : State) : Nat → Nat → List Byte → State
  | 0, _, _ => s
  | fuel + 1, pa, bs =>
    if bs.isEmpty then s
    else
      let k := 128 - pa % 128
      homeWriteLines (homeWrite s pa (bs.take k)) fuel (pa + k) (bs.drop k)

/-! ### Fault records of accesses that are not replayed (R341, R352, R356) -/

/-- Where stage 2 ends: the level and the address of the entry it read last. -/
def walkEnd (s : State) (ipa : Nat) : Nat → Nat → Nat × Nat
  | lv, table =>
    let ea := table + 8 * walkIndex ipa lv
    match readEntry false lv (entryAt s ea) with
    | .table addr =>
      match lv with
      | 0 => (0, ea)
      | k + 1 => walkEnd s ipa k addr
    | _ => (lv, ea)

/-- A record of a host's or a hart's access that did not translate or lacked permission. -/
def outsideFault (s : State) (vf ctx : Nat) (k : AccKind) (ipa : Nat) : State :=
  let (lv, e) := walkEnd s ipa 4 (vfBlock s vf).root.toNat
  (reportFault s vf ctx 0 k 1 lv ipa e).2

/-! ### The host's window (R351, R352, R383) -/

def answer (s : State) (a : Answer) : State := { s with answers := a :: s.answers }

def accBytes : HartAcc → Nat
  | .load n | .fetch n => n
  | .store bs => bs.length
  | .amo _ wide _ | .lrsc wide _ _ => if wide then 8 else 4
  | .cas16 .. => 16

def accReads : HartAcc → Bool
  | .store _ => false
  | _ => true

def accWrites : HartAcc → Bool
  | .load _ | .fetch _ => false
  | _ => true

/-- An RMW of an agent outside the dies. -/
def accAtomic : HartAcc → Bool
  | .load _ | .fetch _ | .store _ => false
  | _ => true

/-- An access from outside waits behind a stack's hold, and behind those that wait already (R392). -/
def holds (s : State) (vf ipa n : Nat) : Bool := !s.heldOutside.isEmpty || spanHeld s vf ipa n

/-- An access lies in the window and within one 4 KiB page, as PCIe requests do. -/
def inWindow (s : State) (vf off n : Nat) : Bool :=
  decide (0 < n) && decide (off + n ≤ 2 ^ (vfBlock s vf).window) && decide (off % 4096 + n ≤ 4096)

/-- The new value of an RMW; none where a compare finds another value. -/
def accNew (acc : HartAcc) (m : Nat) : Option Nat :=
  match acc with
  | .amo op wide v => some (rmwValue op (if wide then 64 else 32) m (v.toNat % 2 ^ (if wide then 64 else 32)))
  | .lrsc wide old new =>
    let w := if wide then 64 else 32
    if m == old.toNat % 2 ^ w then some (new.toNat % 2 ^ w) else none
  | .cas16 old new => if m == old.toNat then some new.toNat else none
  | _ => none

/-- RMWs that PCIe carries (R233, R351): FetchAdd, Swap, CAS. -/
def accCarried : HartAcc → Bool
  | .amo op _ _ => hostCarries op
  | _ => true

/-- An access from outside performed at the home: the bytes it answers. -/
def homeAccess (s : State) (pa : Nat) (acc : HartAcc) : Answer × State :=
  match acc with
  | .load n | .fetch n => let (bs, s) := homeReadLines s (n + 1) pa n; (.bytes bs, s)
  | .store bs => (.done, homeWriteLines s (bs.length + 1) pa bs)
  | _ =>
    let n := accBytes acc
    let (bs, s) := homeRead s pa n
    (.bytes bs, match accNew acc (leNat bs) with
      | some v => homeWrite s pa (leBytes n v)
      | none => s)

/-- What the card takes as a read or an AtomicOp (R351): an atomic is naturally aligned and one of the three operations. -/
def hostTakes (off : Nat) (acc : HartAcc) : Bool :=
  match acc with
  | .load _ => true
  | .store _ | .fetch _ => false
  | _ => accCarried acc && off % accBytes acc == 0

/-- A request that the card answers with data: a read, or an AtomicOp with the card as its completer. -/
def execHostWindowRead (vf off : Nat) (acc : HartAcc) (s : State) : Result :=
  .next (
    let n := accBytes acc
    if (pageOf s vf).isNone || !inWindow s vf off n || !hostTakes off acc then answer s .abort
    else if holds s vf off n then holdAccess s (.hostWindowRead vf off acc)
    else
      match runsOf s vf off n true (accWrites acc) with
      | some ((pa, _, _) :: _) =>
        if accWrites acc && writeBarred s pa n then answer (outsideFault s vf 0 .hostWindow off) .abort
        else if runPoisoned s pa n then answer s .poisoned
        else
          let (a, s) := homeAccess s pa acc
          answer s a
      | _ => answer (outsideFault s vf 0 .hostWindow off) .abort)

def execHostWindowWrite (vf off : Nat) (bytes : List Byte) (s : State) : Result :=
  .next (if (pageOf s vf).isNone || !inWindow s vf off bytes.length then s
    else if holds s vf off bytes.length then holdAccess s (.hostWindowWrite vf off bytes)
    else
      match runsOf s vf off bytes.length false true with
      | some ((pa, _, _) :: _) =>
        if writeBarred s pa bytes.length then outsideFault s vf 0 .hostWindow off else homeWriteLines s (bytes.length + 1) pa bytes
      | _ => outsideFault s vf 0 .hostWindow off)

/-! ### Harts (R266, R355, R356) -/

/-- The context a hart's guest is bound to (R356). -/
def boundContext (s : State) (vf hart : Nat) : Option Nat :=
  let h := findHart s hart
  if h.isGuest then ((contextsOf s vf).find? fun c => c.asid.toNat % 2 ^ 14 == h.vmid).map (·.num) else none

def hartAnswer (s : State) (hart : Nat) (a : Answer) : State := setHart s { findHart s hart with answer := some a }

/-- A status word as an exception leaves it: the interrupt enable moved to its saved place, the mode it came from noted. -/
def trapStatus (st : Word) (supervisor : Bool) : Word :=
  let spie : Word := if st.getLsbD 1 then 0x20 else 0
  (st &&& ~~~(0x122 : Word)) ||| spie ||| (if supervisor then 0x100 else 0)

/-- An exception entered in the guest, at its own vector. -/
def Hart.trapVs (h : Hart) (cause : Nat) (tval : Word) : Hart :=
  let r := (((h.setCsr 0x242 (word cause)).setCsr 0x241 h.pc).setCsr 0x243 tval).setCsr 0x200 (trapStatus (h.csr 0x200) (h.mode == .vs))
  { r with mode := .vs, pc := h.csr 0x205 &&& ~~~(3 : Word) }

/-- Exceptions whose `stval` is an address: breakpoint, misaligned, access, page and guest-page faults. -/
def tvalIsAddress (cause : Nat) : Bool := [0, 1, 3, 4, 5, 6, 7, 12, 13, 15, 20, 21, 23].contains cause

/-- An exception entered in HS-mode, at the hypervisor's vector; `gpa` is what a guest-page fault leaves in `htval`. -/
def Hart.trapHs (h : Hart) (cause : Nat) (tval : Word) (gpa : Nat := 0) : Hart :=
  let r := (((h.setCsr 0x142 (word cause)).setCsr 0x141 h.pc).setCsr 0x143 tval).setCsr 0x100
    (trapStatus (h.csr 0x100) (h.mode == .hs || h.mode == .vs))
  let hst := h.csr 0x600 &&& ~~~(if h.isGuest then 0x1C0 else 0xC0 : Word)
  let gva : Word := if tvalIsAddress cause then 0x40 else 0
  let guest : Word := if h.isGuest then 0x80 ||| gva ||| (if h.mode == .vs then 0x100 else 0) else 0
  { (r.setCsr 0x600 (hst ||| guest)).setCsr 0x643 (word (gpa / 4)) with mode := .hs, pc := h.csr 0x105 &&& ~~~(3 : Word) }

/-- An exception of a hart as the RISC-V hypervisor extension enters it: in the guest where HS-mode delegates its cause, else in HS-mode (R356). -/
def Hart.trap (h : Hart) (cause : Nat) (tval : Word) (gpa : Nat := 0) : Hart :=
  if h.isGuest && (h.csr 0x602).getLsbD cause then h.trapVs cause tval else h.trapHs cause tval gpa

/-- Causes of a hart's access faults, by the kind of access; and of an AMO that is not aligned. -/
def accessCause : HartAcc → Nat
  | .fetch _ => 1
  | .load _ => 5
  | _ => 7
def misalignedCause : Nat := 6

def trapHart (s : State) (hart cause : Nat) (tval : Word) : State :=
  setHart s { (findHart s hart).trap cause tval with answer := some .accessFault }

/-- A byte of the VF's register page, each from the register that holds it. -/
def pageByte (s : State) (vf off : Nat) : Byte :=
  let k := if 0x4000 ≤ off ∧ off < 0x7000 then 4 else 8
  (wordBytes (readRegister s vf (off - off % k))).getD (off % k) 0

/-- A hart's access to its VF's registers and doorbells. -/
def hartRegister (s : State) (vf hart off : Nat) (acc : HartAcc) (va : Word) : State :=
  match acc with
  | .load n =>
    if off < 0x20000 then hartAnswer s hart (.bytes (bytesBy (pageByte s vf) off n))
    else
      let q := (off - 0x20000) / 8
      let p := if queueOwner s q == some vf then (queueOf s q).p else 0
      hartAnswer s hart (.bytes (((wordBytes p).drop (off % 8)).take n))
  | .store bs =>
    if off < 0x20000 then hartAnswer (writeRegister s vf off (leWord bs)) hart .done
    else hartAnswer (ringDoorbell s vf ((off - 0x20000) / 8) (leWord bs)) hart .done
  | acc => trapHart s hart (accessCause acc) va

/-- Whether every page of an access lets it happen: the atomics host memory takes, ply pages and marks (R233, R293). -/
def hartAllowed (s : State) (acc : HartAcc) (rs : List (Nat × Nat × Nat)) : Bool :=
  rs.all fun r => !(targetOf s r.1 == .host && !accCarried acc) && !(accWrites acc && writeBarred s r.1 r.2.2)

/-- Whether stage 2 lets a hart fetch instructions from the pages of a span. -/
def fetchable (s : State) (vf ipa n : Nat) : Bool :=
  (List.range (n / 4096 + 2)).all fun k =>
    let a := max ipa ((ipa / 4096 + k) * 4096)
    decide (ipa + n ≤ a) || (match (xlatIpa s vf a).1 with
      | .ok _ _ _ _ x _ => x
      | _ => false)

/-- The bytes that an access reads or writes, page by page; an RMW lies in one page. -/
def hartPerform (s : State) (hart : Nat) (acc : HartAcc) (rs : List (Nat × Nat × Nat)) : State :=
  match acc with
  | .load _ | .fetch _ =>
    let (bs, s) := rs.foldl (fun (p : List Byte × State) r => let (b, s) := homeReadLines p.2 (r.2.2 + 1) r.1 r.2.2; (p.1 ++ b, s)) ([], s)
    hartAnswer s hart (.bytes bs)
  | .store bs => hartAnswer (rs.foldl (fun s r => homeWriteLines s (r.2.2 + 1) r.1 ((bs.drop r.2.1).take r.2.2)) s) hart .done
  | acc =>
    match rs with
    | r :: _ => let (a, s) := homeAccess s r.1 acc; hartAnswer s hart a
    | [] => s

/-- A hart's access to an IPA, which its own address `va` named; `again` is what is done again once a hold ends (R392). A fault goes to the mode that
delegation selects, with a record of kind 7 where stage 2 is at fault (R356). -/
def hartAccess (s : State) (hart ipa : Nat) (acc : HartAcc) (va : Word) (again : Happening) : State :=
  match hartVf s hart with
  | none => s
  | some vf =>
    let n := accBytes acc
    let fault := fun (s : State) => trapHart s hart (accessCause acc) va
    let record := fun (s : State) => outsideFault s vf ((boundContext s vf hart).getD 0) .hart ipa
    let hold := { s with heldOutside := s.heldOutside ++ [again] }
    if !(findHart s hart).running then s
    else if accAtomic acc && ipa % n != 0 then trapHart s hart misalignedCause va
    else if ipaTop ≤ ipa && ipa < ipaTop + 0x22000 then
      if s.heldOutside.isEmpty || accReads acc then hartRegister s vf hart (ipa - ipaTop) acc va else hold
    else if holds s vf ipa n then hold
    else
      let fetches := match acc with
        | .fetch _ => true
        | _ => false
      match runsOf s vf ipa n (accReads acc && !fetches) (accWrites acc) with
      | none => fault (record s)
      | some rs =>
        if !hartAllowed s acc rs || (fetches && !fetchable s vf ipa n) then fault (record s)
        else if accReads acc && rs.any fun r => runPoisoned s r.1 r.2.2 then fault s
        else hartPerform s hart acc rs

def execYeleramAccess (hart ipa : Nat) (acc : HartAcc) (s : State) : Result :=
  .next (hartAccess s hart ipa acc (word ipa) (.row (.yeleramAccess hart ipa acc)))

/-! ### A hart's own translation (R355, R356)

R355 names the modes of translation and no more; PRESUMED: the tables, their entries' fields and the causes of page faults are the RISC-V privileged
architecture's (log 180). -/

/-- How a hart's own translation ends. -/
inductive HartXlat where
  | ok (ipa : Nat)
  | page                          -- a page fault of the hart's own stage
  | guest (gpa : Nat)             -- a guest-page fault
  | access                        -- an entry could not be read
  | held (stack : Nat)
  deriving DecidableEq, Repr

/-- What an access asks of the pages it meets: the kind, whether user pages and supervisor pages serve it, whether executable ones are readable. -/
structure HartNeed where
  acc : HartAcc
  user : Bool                     -- made in user mode
  sum : Bool
  mxr : Bool
  deriving DecidableEq, Repr

/-- Whether a leaf serves an access: valid bit 0, R, W, X, U in bits 1 to 4, A and D in bits 6 and 7. -/
def HartNeed.served (k : HartNeed) (e : Word) : Bool :=
  let bit := e.getLsbD
  let mode := if k.user then bit 4 else !bit 4 || (k.sum && accessCause k.acc != 1)
  mode && bit 6 && (match k.acc with
    | .fetch _ => bit 3
    | .load _ => bit 1 || (k.mxr && bit 3)
    | .store _ => bit 2 && bit 7
    | _ => bit 1 && bit 2 && bit 7)

/-- The 8-byte entry at an IPA of a VF, which must lie where stage 2 lets it be read. -/
def hartEntry (s : State) (vf ipa : Nat) : HartXlat × Word :=
  match runsOf s vf ipa 8 true false with
  | some [(pa, _, _)] => if isHeld s pa then (.held (stackOf pa), 0) else if runPoisoned s pa 8 then (.access, 0) else (.ok ipa, entryAt s pa)
  | _ => if spanHeld s vf ipa 8 then (.held 0, 0) else (.access, 0)

/-- A leaf of a level for an address: aligned to its size, of 64 KiB where N is set, and serving the access. -/
def hartLeaf (k : HartNeed) (lv a : Nat) (e : Word) : Option Nat :=
  let ppn := field e 10 44
  let napot := e.getLsbD 63
  if ppn % 2 ^ (9 * lv) != 0 || (napot && !(lv == 0 && ppn % 16 == 8)) || !k.served e then none
  else if napot then some (ppn / 16 * 2 ^ 16 + a % 2 ^ 16)
  else some (ppn * 4096 + a % 2 ^ (12 + 9 * lv))

/-- A walk of a hart's tables. `read` gives the entry at an address of the stage; `bad` is the fault of the stage; a root has `wide` further index
bits. -/
def hartWalk (read : Nat → HartXlat × Word) (bad : HartXlat) (k : HartNeed) (a wide : Nat) : Nat → Nat → HartXlat
  | lv, table =>
    match read (table + 8 * (a / 2 ^ (12 + 9 * lv) % 2 ^ (9 + wide))) with
    | (.ok _, e) =>
      if !e.getLsbD 0 || (e.getLsbD 2 && !e.getLsbD 1) || field e 54 7 != 0 || field e 61 2 == 3 then bad
      else if e.getLsbD 1 || e.getLsbD 3 then ((hartLeaf k lv a e).map HartXlat.ok).getD bad
      else if field e 6 2 != 0 || e.getLsbD 4 || field e 61 3 != 0 then bad
      else
        match lv with
        | 0 => bad
        | n + 1 => hartWalk read bad k a 0 n (field e 10 44 * 4096)
    | (other, _) => other

/-- Levels below the root of Sv39, Sv48 and Sv57, by the mode field. -/
def svLevels : Nat → Option Nat
  | 8 => some 2
  | 9 => some 3
  | 10 => some 4
  | _ => none

/-- A guest's physical address through its G-stage, Sv57x4: every access there is a user's. -/
def hartGuest (s : State) (vf : Nat) (h : Hart) (acc : HartAcc) (gpa : Nat) : HartXlat :=
  let root := h.csr 0x680
  if field root 60 4 == 0 then .ok gpa
  else if 2 ^ 59 ≤ gpa then .guest gpa
  else
    hartWalk (hartEntry s vf) (.guest gpa) { acc := acc, user := true, sum := false, mxr := (h.csr 0x100).getLsbD 19 } gpa 2 4
      (field root 0 44 / 4 * 4 * 4096)

/-- A hart's own address made the IPA of its VF (R356). -/
def hartXlat (s : State) (vf : Nat) (h : Hart) (acc : HartAcc) (va : Word) : HartXlat :=
  let root := h.csr (if h.isGuest then 0x280 else 0x180)
  let status := h.csr (if h.isGuest then 0x200 else 0x100)
  let need : HartNeed := { acc := acc, user := h.mode == .u || h.mode == .vu, sum := status.getLsbD 18
                           mxr := status.getLsbD 19 || (h.csr 0x100).getLsbD 19 }
  let last := fun (pa : Nat) => if h.isGuest then hartGuest s vf h acc pa else .ok pa
  let read := fun (pa : Nat) =>
    if h.isGuest then
      match hartGuest s vf h (.load 8) pa with
      | .ok ipa => hartEntry s vf ipa
      | other => (other, 0)
    else hartEntry s vf pa
  match svLevels (field root 60 4) with
  | none => last va.toNat
  | some lv =>
    if va != wordI (signedOf (21 + 9 * lv) (va.toNat % 2 ^ (21 + 9 * lv))) then .page
    else
      match hartWalk read .page need va.toNat 0 lv (field root 0 44 * 4096) with
      | .ok pa => last pa
      | other => other

/-- The cause of a page fault, and of a guest-page fault, of an access. -/
def pageCause : HartAcc → Nat
  | .fetch _ => 12
  | .load _ => 13
  | _ => 15
def guestCause : HartAcc → Nat
  | .fetch _ => 20
  | .load _ => 21
  | _ => 23

/-- An access of a hart at an address of its own. -/
def hartMemory (s : State) (vf hart : Nat) (acc : HartAcc) (va : Word) : State :=
  let h := findHart s hart
  let again := Happening.hart hart (.access va acc)
  match hartXlat s vf h acc va with
  | .ok ipa => hartAccess s hart ipa acc va again
  | .page => setHart s { h.trap (pageCause acc) va with answer := none }
  | .guest gpa => setHart s { h.trap (guestCause acc) va gpa with answer := none }
  | .access => trapHart s hart (accessCause acc) va
  | .held _ => { s with heldOutside := s.heldOutside ++ [again] }

/-! ### What a hart's own instructions do (R355, R357) -/

/-- CSRs of the profile outside M-mode (R355). PRESUMED: their numbers are RISC-V's (log 180). -/
def userCsrs : List Nat := [0x001, 0x002, 0x003, 0x008, 0x009, 0x00A, 0x00F] ++ (List.range 32).map (0xC00 + ·)
def vectorCsrs : List Nat := [0xC20, 0xC21, 0xC22]
def supervisorCsrs : List Nat :=
  [0x100, 0x104, 0x105, 0x106, 0x10A, 0x10C, 0x10D, 0x10E, 0x10F, 0x140, 0x141, 0x142, 0x143, 0x144, 0x14D, 0x150, 0x151, 0x15C, 0x180, 0xDA0, 0xDB0]
def hypervisorCsrs : List Nat :=
  [0x600, 0x602, 0x603, 0x604, 0x605, 0x606, 0x607, 0x608, 0x609, 0x60A, 0x60C, 0x60D, 0x60E, 0x60F, 0x643, 0x644, 0x645, 0x646, 0x647, 0x64A, 0x680,
    0xE12, 0xEB0]
/-- A guest's own supervisor registers, which its supervisor names by the supervisor's numbers. -/
def guestCsrs : List Nat := [0x200, 0x204, 0x205, 0x240, 0x241, 0x242, 0x243, 0x244, 0x24D, 0x250, 0x251, 0x25C, 0x280]

def knownCsr (k : Nat) : Bool := (userCsrs ++ vectorCsrs ++ supervisorCsrs ++ hypervisorCsrs ++ guestCsrs).contains k

/-- The register that a number names in a mode. -/
def Hart.csrNamed (h : Hart) (k : Nat) : Nat := if h.isGuest && guestCsrs.contains (k + 0x100) && k / 256 % 4 == 1 then k + 0x100 else k

/-- The cause with which a write of a CSR is refused: illegal instruction, or in a guest virtual instruction where HS-mode may do it. -/
def Hart.csrRefusal (h : Hart) (k : Nat) : Option Nat :=
  let level := k / 256 % 4
  if !knownCsr k || k / 1024 == 3 then some 2
  else
    match h.mode with
    | .hs => none
    | .u => if level == 0 then none else some 2
    | .vs => if level ≤ 1 then none else some 22
    | .vu => if level == 0 then none else some 22

/-- A CSR written by an instruction. A translation mode that R355 does not list is not taken. -/
def Hart.writeCsr (h : Hart) (k : Nat) (v bits : Word) : Hart :=
  match h.csrRefusal k with
  | some cause => h.trap cause bits
  | none =>
    let k := h.csrNamed k
    let mode := field v 60 4
    if (k == 0x180 || k == 0x280) && mode != 0 && (svLevels mode).isNone then h
    else if k == 0x680 && mode != 0 && mode != 10 then h
    else h.setCsr k v

/-- The status word that SRET leaves: the saved enable in force again, its place set, the mode it came from cleared. -/
def sretStatus (st : Word) : Word := (st &&& ~~~(0x122 : Word)) ||| (if st.getLsbD 5 then 2 else 0) ||| 0x20

/-- SRET: to the mode and the place that the last trap into this one saved; in user mode it is refused. -/
def Hart.sret (h : Hart) : Hart :=
  match h.mode with
  | .u => h.trap 2 0
  | .vu => h.trap 22 0
  | .vs => { h.setCsr 0x200 (sretStatus (h.csr 0x200)) with mode := if (h.csr 0x200).getLsbD 8 then .vs else .vu, pc := h.csr 0x241 }
  | .hs =>
    let sup := (h.csr 0x100).getLsbD 8
    let guest := (h.csr 0x600).getLsbD 7
    let r := (h.setCsr 0x100 (sretStatus (h.csr 0x100))).setCsr 0x600 (h.csr 0x600 &&& ~~~(0x80 : Word))
    { r with mode := if guest then (if sup then .vs else .vu) else (if sup then .hs else .u), pc := h.csr 0x141 }

/-- The island of a hart: four of sixteen (R227, R355). -/
def hartIsland (hart : Nat) : Nat := hart / 16

/-- What a running hart's own instruction does (R355): x0 keeps reading zero; `time` counts its island's clock; an instruction or a CSR outside
R355's table is an illegal instruction. A guest's exceptions go to its hypervisor, but for those it delegates (R357); a call from HS-mode goes to
Karhar's M-mode, of which the manual says no more (R356). -/
def hartDeed (s : State) (hart : Nat) (d : HartDeed) : State :=
  let h := findHart s hart
  let setX := fun (k : Nat) (v : Word) => if k = 0 then h else { h with x := h.x.set k v }
  if !h.running then s
  else
    match hartVf s hart with
    | none => s
    | some vf =>
      match d with
      | .setPc pc => setHart s { h with pc := pc }
      | .setX k v => setHart s (setX k v)
      | .setF k v => setHart s { h with f := h.f.set k v }
      | .setV k v => setHart s { h with v := h.v.set k v }
      | .setVl vl vtype => setHart s ((h.setCsr 0xC20 vl).setCsr 0xC21 vtype)
      | .setCsr k v bits => setHart s (h.writeCsr k v bits)
      | .access va acc => hartMemory s vf hart acc va
      | .trap cause tval => if cause == 9 && h.mode == .hs then s else setHart s (h.trap cause tval)
      | .sret => setHart s h.sret
      | .readTime k =>
        let now := s.islandTime.getD (hartIsland hart) 0 + 1 + word (Config.clockGap s.freeCtr)
        setHart { s with islandTime := s.islandTime.set (hartIsland hart) now, freeCtr := s.freeCtr + 1 } (setX k now)
      | .illegal bits => setHart s (h.trap 2 bits)

end Sys2Proof.Machine
end

