-- ==== Sys2Proof/Machine/Perform.lean ====
section
/-! DEFINITION. Matrix operations performed in the unit: loads of planes, streams of row steps, drains through the epilogue (R145 to R161), and
their reports (R148, R383). -/

namespace Sys2Proof.Machine

/-! ### Bytes a matrix operation reads (R154) -/

/-- Scratchpad bytes of the warp's core that a copy under way is still to write, or another agent wrote since the issue. -/
def isRaced (s : State) (j : MatrixJob) (group : Option Nat) (key : Nat) : Bool :=
  j.raced.any (fun r => runsMeet r.1 r.2 key 1)
    || s.copies.any fun c => c.dstScratch && c.group == group
      && (List.range c.n).any fun i => runsMeet (addrKey c.core (c.dstRow i)) c.s key 1

/-- Bytes as the operation reads them, each free where it is raced. -/
def racedBytes (s : State) (j : MatrixJob) (group : Option Nat) : Nat → List Byte → List Byte × State
  | _, [] => ([], s)
  | key, b :: bs =>
    let (vs, s1) := racedBytes s j group (key + 1) bs
    if isRaced s j group key then let (v, s2) := takeFreeByte s1; (v :: vs, s2) else (b :: vs, s1)

/-- n bytes at an offset of the warp's own core. -/
def jobRead (s : State) (w : Warp) (j : MatrixJob) (a n : Nat) : List Byte × State :=
  let key := scratchKey (inQuad w.core) a
  let bs := scratchRead s (w.group.getD 0) key n
  if j.raced.isEmpty && s.copies.isEmpty then (bs, s) else racedBytes s j w.group key bs

/-- The first poisoned run that the operation reads. -/
def jobPoison (s : State) (w : Warp) (j : MatrixJob) : Option Nat :=
  (j.what.readRuns.find? fun r => poisonedWords s (w.group.getD 0) (scratchKey (inQuad w.core) r.1) r.2).map (·.1)

/-! ### Elements (R144 to R147) -/

/-- A byte of data. -/
def byteAt (bs : List Byte) (k : Nat) : Nat := (bs.getD k 0).toNat

/-- Twice the value of an E2M1 code. -/
def e2m1Twice (n : Nat) : Int :=
  let m : Int := match n % 8 with
    | 0 => 0
    | 1 => 1
    | 2 => 2
    | 3 => 3
    | 4 => 4
    | 5 => 6
    | 6 => 8
    | _ => 12
  if n / 8 % 2 = 1 then -m else m

/-- Integer value of element k of 32 that lie in bytes (R144, R145). -/
def elemInt (fmt : PlaneFmt) (bs : List Byte) (k : Nat) : Int :=
  let nib := byteAt bs (k / 2) / (if k % 2 = 0 then 1 else 16) % 16
  match fmt with
  | .bi8 | .int8 => signedOf 8 (byteAt bs k)
  | .e2m1 => e2m1Twice nib
  | _ => signedOf 4 nib

/-- The exact dot of 32 elements. -/
def dotInt (a b : List Int) : Int := (a.zip b).foldl (fun n p => n + p.1 * p.2) 0

/-- Residues of element k of a RES run, and whether its container is non-canonical. -/
def elemRes (bs : List Byte) (k : Nat) : Nat × Nat × Nat × Bool := resRead (leWord ((bs.drop (8 * k)).take 8))

def elemsInt (fmt : PlaneFmt) (bs : List Byte) : List Int := (List.range 32).map (elemInt fmt bs)
def elemsRes (bs : List Byte) : List (Nat × Nat × Nat × Bool) := (List.range 32).map (elemRes bs)

/-- The bytes of column j of a plane. -/
def columnBytes (fmt : PlaneFmt) (p : Plane) (j : Nat) : List Byte := (p.data.drop (rowBytes fmt * j)).take (rowBytes fmt)

/-! ### Row steps (R149 to R151) -/

def f32 : Format := formatOf .f32

/-- The value and the INV and OVR of one step in FP32 mode. -/
def fp32Step (acc : BitVec 32) (d : Int) (er ec : Nat) (e2 : Int) : BitVec 32 × Flags :=
  if er == 0xFF || ec == 0xFF then (BitVec.ofNat 32 f32.nan, Flag.inv)
  else
    match f32.value acc.toNat with
    | .nan _ | .inf _ => (acc, 0)
    | .fin n m e =>
      let sc := ((er : Int) - 127) + ((ec : Int) - 127) - e2
      let (v, q) := exactSum n m e (d < 0) d.natAbs sc
      if v == 0 then (0, 0)
      else
        let (p, fl) := roundInto f32 .rne (v < 0) v.natAbs q
        (BitVec.ofNat 32 p, fl &&& Flag.ovf)

/-- A step in exact mode (R150). -/
def exactStep (x : Elem) (d : Int) : Elem :=
  { x with
    r2047 := ((x.r2047 + d) % 2047).toNat, r2048 := ((x.r2048 + d) % 2048).toNat, r2049 := ((x.r2049 + d) % 2049).toNat
    r31 := ((x.r31 + d) % 31).toNat }

/-- A step in raw mode (R151). -/
def rawStep (x : Elem) (a b : List (Nat × Nat × Nat × Bool)) : Elem :=
  let z := a.zip b
  { x with
    r2047 := z.foldl (fun n p => (n + p.1.1 * p.2.1) % 2047) x.r2047
    r2048 := z.foldl (fun n p => (n + p.1.2.1 * p.2.2.1) % 2048) x.r2048
    r2049 := z.foldl (fun n p => (n + p.1.2.2.1 * p.2.2.2.1) % 2049) x.r2049 }

def Tile.elem (t : Tile) (k : Nat) : Elem := t.elems.getD k {}

/-- A tile with a row of 32 elements replaced. -/
def Tile.setRow (t : Tile) (row : Nat) (f : Nat → Elem) : Tile :=
  let all := if t.elems.isEmpty then List.replicate 1024 {} else t.elems
  { t with elems := mapFrom (fun k x => if k / 32 = row then f (k % 32) else x) 0 all }

/-- One row of a stream on its tile. -/
def streamRow (fmt : PlaneFmt) (p : Plane) (row : Nat) (bs : List Byte) (er : Nat) (t : Tile) : Tile :=
  match t.mode with
  | .raw =>
    let a := elemsRes bs
    let cols := (List.range 32).map fun j => elemsRes (columnBytes fmt p j)
    let bad := a.any (·.2.2.2) || cols.any fun c => c.any (·.2.2.2)
    (t.setRow row fun j => rawStep (t.elem (32 * row + j)) a (cols.getD j [])).raise (flagIf bad Flag.inv)
  | .exact =>
    let a := elemsInt fmt bs
    t.setRow row fun j => exactStep (t.elem (32 * row + j)) (dotInt a (elemsInt fmt (columnBytes fmt p j)))
  | .fp32 =>
    let a := elemsInt fmt bs
    let e2 : Int := if fmt == .e2m1 then 2 else 0
    let out := (List.range 32).map fun j =>
      fp32Step (t.elem (32 * row + j)).f (dotInt a (elemsInt fmt (columnBytes fmt p j))) er (if hasScales fmt then byteAt p.scales j else 127) e2
    (t.setRow row fun j => { f := (out.getD j (0, 0)).1 }).raise (out.foldl (fun f o => f ||| o.2) 0)

/-- A tile's step counted (R143, R150): the step that brings an exact tile to 8,192 sets OVR, and its value is undefined from there. -/
def countStep (u : MatrixUnit) (s : State) (t : Nat) : MatrixUnit × State :=
  let x := u.tile t
  let n := min (x.steps + 1) 8192
  let x1 := { x with steps := n, ovr := x.ovr || (x.mode == .exact && x.steps < 8192 && n == 8192) }
  let u1 := u.setTile t x1
  if x.mode == .exact && n == 8192 then freeTiles [t] u1 s else (u1, s)

/-! ### The epilogue (R161) -/

/-- The epilogue's per-column operands and bounds, as FP32 patterns. -/
structure Epilogue where
  cv : DrainConv
  act : DrainAct
  bias : Bool
  block : List Byte

def Epilogue.f (e : Epilogue) (off : Nat) : FVal := f32.value (leNat ((e.block.drop off).take 4))

def isIntConv (cv : DrainConv) : Bool := cv == .s32 || cv == .s64

/-- A value rounded to an integer, ties to even (step 1 and the bounds of an integer conversion). -/
def integralF : FVal → FVal × Flags
  | .fin n m e => let (v, inexact) := toIntegral .rne n m e; (.fin (v < 0) v.natAbs 0, flagIf inexact Flag.inx)
  | v => (v, 0)

/-- v × c + b before its one rounding, for an integer conversion. -/
def exactFma (v c b : FVal) : FVal × Flags :=
  let snan := flagIf (v.isSnan || c.isSnan || b.isSnan) Flag.inv
  match mulExact v c with
  | (.nan _, bad) => (.nan false, snan ||| flagIf bad Flag.inv)
  | (.inf x, _) =>
    match b with
    | .nan _ => (.nan false, snan)
    | .inf y => if x == y then (.inf x, snan) else (.nan false, Flag.inv)
    | _ => (.inf x, snan)
  | (.fin n m e, _) =>
    match b with
    | .nan _ => (.nan false, snan)
    | .inf y => (.inf y, snan)
    | .fin n2 m2 e2 => let (d, q) := exactSum n m e n2 m2 e2; (.fin (d < 0) d.natAbs q, snan)

/-- Step 1. A NaN epilogue operand sets INV (R143). -/
def epiloguePre (e : Epilogue) (v : FVal) (j : Nat) : FVal × Flags :=
  let c := e.f (4 * j)
  let b := if e.bias then e.f (128 + 4 * j) else .fin false 0 0
  let nan := flagIf (c.isNan || b.isNan) Flag.inv
  if isIntConv e.cv then
    let (y, f) := exactFma v c b
    let (z, h) := integralF y
    (z, f ||| h ||| nan)
  else let (n, f) := fmaF f32 .rne v c b; (f32.value n, f ||| nan)

/-- Step 2. -/
def epilogueAct (e : Epilogue) (y : FVal) : FVal × Flags :=
  match e.act with
  | .none => (y, 0)
  | .relu => (if !y.isNan && y.neg then .fin false 0 0 else y, 0)
  | .clamp =>
    let bound := fun (v : FVal) => if isIntConv e.cv then (integralF v).1 else v
    let lo := bound (e.f 256)
    let hi := bound (e.f 260)
    if lo.isNan || hi.isNan then (.nan false, Flag.inv)
    else if y.isNan then (y, 0)
    else if compareF lo hi > 0 then (hi, 0)
    else
      let y1 := if fminOrder y lo < 0 then lo else y
      (if fminOrder y1 hi > 0 then hi else y1, 0)

/-- An integer conversion's value (step 3). -/
def saturate (w : Nat) (y : FVal) : Nat × Flags :=
  let hi : Int := ((2 ^ (w - 1) : Nat) : Int) - 1
  let lo : Int := -((2 ^ (w - 1) : Nat) : Int)
  match y with
  | .nan _ => (0, Flag.inv)
  | .inf n => (wrap w (if n then lo else hi), Flag.sat)
  | .fin n m e =>
    let v := (toIntegral .rne n m e).1
    if v < lo then (wrap w lo, Flag.sat) else if v > hi then (wrap w hi, Flag.sat) else (wrap w v, 0)

/-- Step 3 for every conversion but BI8. -/
def drainConvert (cv : DrainConv) (y : FVal) : List Byte × Flags :=
  let n := drainBytes cv
  let float := fun (t : Ty) =>
    let (p, f) := convertInto (formatOf t) .rne y
    (leBytes n p, (f &&& ~~~Flag.unf) ||| flagIf y.isNan Flag.inv)
  match cv with
  | .bf16 => float .bf16
  | .f16 => float .f16
  | .e4m3 => float .e4m3
  | .s32 => let (p, f) := saturate 32 y; (leBytes n p, f)
  | .s64 => let (p, f) := saturate 64 y; (leBytes n p, f)
  | _ => float .f32

/-- A row of BI8: its codes and its scale (R93, R94). -/
def drainBlock (ys : List FVal) : List Byte × Nat × Flags :=
  let (ec, f) := blockScale .bi8 ys
  let qs := ys.map (blockQuant .bi8 ec)
  (qs.map fun q => BitVec.ofNat 8 q.1, ec, qs.foldl (fun g q => g ||| q.2) f)

/-- An element's value, and whether its check against res31 fails (R161). -/
def drainValue (t : Tile) (x : Elem) : FVal × Bool :=
  match t.mode with
  | .exact =>
    let v := resDecode x.r2047 x.r2048 x.r2049
    (.fin (v < 0) v.natAbs 0, t.steps < 8192 && (v % 31).toNat != x.r31)
  | _ => (f32.value x.f.toNat, false)

/-- A row's bytes, its BI8 scale and flags; none where a check fails. -/
def drainRow (e : Epilogue) (t : Tile) (row : Nat) : Option (List Byte × Nat × Flags) :=
  let xs := (List.range 32).map fun j => t.elem (32 * row + j)
  if t.mode == .raw then some (xs.flatMap fun x => wordBytes (resPack x.r2047 x.r2048 x.r2049), 0, 0)
  else
    let vs := xs.map (drainValue t)
    if vs.any (·.2) then none
    else
      let ys := (List.range 32).map fun j =>
        let (y, f) := epiloguePre e ((vs.getD j (.nan false, false)).1) j
        let (z, g) := epilogueAct e y
        (z, f ||| g)
      let f0 := ys.foldl (fun f y => f ||| y.2) 0
      if e.cv == .bi8 then let (bs, ec, f) := drainBlock (ys.map (·.1)); some (bs, ec, f0 ||| f)
      else
        let out := ys.map fun y => drainConvert e.cv y.1
        some (out.flatMap (·.1), 0, out.foldl (fun f o => f ||| o.2) f0)

/-! ### Writing a drain's rows -/

/-- One element stored by a lane, but for one in a granule marked since the drain issued, which only the events of R295 change (R293). -/
def storeElem (s : State) (w : Warp) (l treat pa gen : Nat) (bs : List Byte) : State :=
  if touchesMark s pa bs.length then s
  else performWrite (overwritten s { space := .global, at_ := pa, bytes := bs.length }) (agentOf w l) .own treat pa gen bs

/-- The elements of a row stored one by one, column j by lane j (R160); a line the row covers loses its poison (R383). DESIGN CHOICE: a row scale of
`.bi8`, which no column names, is lane 0's (log 167). -/
def storeElems (s : State) (w : Warp) (pages : List (Nat × Nat × Nat)) (gen e : Nat) (a : Nat) (bs : List Byte) : State :=
  let s := (pagePieces a 16 bs.length).foldl (fun s p => match inPages pages p.1 with
    | some (pa, _) => if cannotStore s pa || touchesMark s pa p.2 then s else poisonAfter s pa p.2
    | none => s) s
  (List.range (bs.length / e)).foldl (fun s j => match inPages pages (a + e * j) with
    | some (pa, treat) => storeElem s w (j % 32) treat pa gen ((bs.drop (e * j)).take e)
    | none => s) s

/-- A drain's write to scratchpad, as the order has it. -/
def drainWrite (s : State) (w : Warp) (op : Option Nat) (key n : Nat) : LooseWrite :=
  { at_ := key, bytes := n, agent := w.id, owner := w.id, core := w.core, pegs := op.elim 0 (pegsOf s w.id), unseen := [] }

/-- Bytes of a drain by the operation that holds its pegs. Those in a granule marked since it issued stay (R293). -/
def writeRun (s : State) (w : Warp) (op : Option Nat) (gl : Bool) (pages : List (Nat × Nat × Nat)) (gen e : Nat) (a : Nat) (bs : List Byte) : State :=
  if gl then storeElems s w pages gen e (a % 2 ^ 64) bs
  else
    let key := scratchKey (inQuad w.core) a
    let g := w.group.getD 0
    storeScratch s g (drainWrite s w op key bs.length) false (fun j => j.warp == w.id) (aroundMarks s g key bs)

/-! ### Performing a job -/

/-- MATERR (R148): the tile undefined, the event, and a replay or SOFT before the warp issues anything further, which in handler mode is a
double fault at once (R395). -/
def matErr (s : State) (u : MatrixUnit) (w : Warp) (t : Nat) : State :=
  let (u, s) := freeTiles [t] u s
  let s := setUnit s u
  let s := sendEvent s (.context w.ctx) Ev.materr (word (w.die * 2 ^ 9 + w.core * 4 + w.part)) w.tpc
  if canReplay w then replayDue s w.id else reportTo s w.id { code := 0x11, addr := 0, now := w.h } true 8 0x11

/-- The unit with its queue as it stands now: what a drain writes to scratchpad may race with what is queued (R154). -/
def withQueue (s : State) (u : MatrixUnit) : MatrixUnit := { u with jobs := (findUnit s u.die u.core u.part).jobs }

/-- What a performed drain does, row by row in ascending order; none of a row whose check fails, or of a later one, is written. -/
def drainRows (w : Warp) (op : Option Nat) (tile : Nat) (e : Epilogue) (gl : Bool) (a c gen : Nat) (pages : List (Nat × Nat × Nat)) :
    List Nat → MatrixUnit → State → State
  | [], u, s => setUnit s (withQueue s u)
  | r :: rs, u, s =>
    match drainRow e (u.tile tile) r with
    | none => matErr s (withQueue s u) w tile
    | some (bs, ec, f) =>
      let raw := (u.tile tile).mode == .raw
      let n := if raw then 8 else drainBytes e.cv
      let s := writeRun s w op gl pages gen n (a + r * c) bs
      let s := if e.cv == .bi8 && !raw then writeRun s w op gl pages gen 1 (a + 32 * c + r) [BitVec.ofNat 8 ec] else s
      drainRows w op tile e gl a c gen pages rs (u.setTile tile ((u.tile tile).raise f)) s

/-- The rows of a stream, each to its tile (R147). -/
def streamRows (w : Warp) (j : MatrixJob) (fmt : PlaneFmt) (p : Plane) (tile a b c : Nat) : List Nat → MatrixUnit → State → MatrixUnit × State
  | [], u, s => (u, s)
  | m :: ms, u, s =>
    let (bs, s) := jobRead s w j (a + m * c) (rowBytes fmt)
    let (sc, s) := if hasScales fmt then jobRead s w j (b + m) 1 else ([0x7F], s)
    let t := tile + m / 32
    streamRows w j fmt p tile a b c ms (u.setTile t (streamRow fmt p (m % 32) bs (byteAt sc 0) (u.tile t))) s

/-- A job taken from the queue and performed on the unit (R152). -/
def performJob (s : State) (u : MatrixUnit) (w : Warp) (j : MatrixJob) : State :=
  match j.what with
  | .mzero t md => setUnit s (u.setTile t { owner := some w.id, mode := md })
  | .mswap => setUnit s { u with active := !u.active, holder := some w.id }
  | .mlds fmt p sc =>
    let (bs, s) := jobRead s w j p (planeBytes fmt)
    let (ss, s) := if hasScales fmt then jobRead s w j sc 32 else ([], s)
    setUnit s { u.setPlane (!u.active) { fmt := some fmt, data := bs, scales := ss } with holder := some w.id }
  | .mstream fmt tile rows a b c =>
    let (u, s) := streamRows w j fmt (u.plane u.active) tile a b c (List.range rows) u s
    let (u, s) := (streamTiles tile rows).foldl (fun (p : MatrixUnit × State) t => countStep p.1 p.2 t) (u, s)
    setUnit s u
  | .mdrain tile cv act gl bias a b c gen =>
    let raw := (u.tile tile).mode == .raw
    let (bs, s) := if raw then ([], s) else jobRead s w j b (epilogueBytes act bias)
    drainRows w j.op tile { cv := cv, act := act, bias := bias, block := bs } gl a.toNat c gen j.pages (List.range 32) u s

/-- Poison met by a job: nothing of it is performed, the tiles a stream was writing are undefined, and SOFT is due (R383). -/
def poisonJob (s : State) (u : MatrixUnit) (w : Warp) (j : MatrixJob) (a : Nat) : State :=
  let ts := match j.what with
    | .mstream _ tile rows _ _ _ => streamTiles tile rows
    | _ => []
  let u := match j.what with
    | .mlds .. => { u with holder := some w.id }
    | _ => u
  let (u, s) := freeTiles ts u s
  softReport (setUnit s u) w.id 0x04 (word a) allLanes

/-- A raw drain reads no epilogue block. -/
def readsPoison (s : State) (u : MatrixUnit) (w : Warp) (j : MatrixJob) : Option Nat :=
  match j.what with
  | .mdrain tile .. => if (u.tile tile).mode == .raw then none else jobPoison s w j
  | _ => jobPoison s w j

/-- The first job of the queue that may be performed: its warp's first, not a follow-on that waits, its stores' stacks not held. -/
def readyJob (s : State) : List Nat → List MatrixJob → Option MatrixJob
  | _, [] => none
  | seen, j :: js =>
    if !seen.contains j.warp && j.copy.isNone && !jobHeld s j then some j
    else readyJob s (j.warp :: seen) js

/-- The first occurrence of a job removed. -/
def dropJob (j : MatrixJob) : List MatrixJob → List MatrixJob
  | [] => []
  | k :: ks => if k = j then ks else k :: dropJob j ks

/-- R152: a unit performs an operation; where none may be, nothing happens. -/
def execMatrixOpPerform (die core part : Nat) (s : State) : Result :=
  .next (
    let u := findUnit s die core part
    match readyJob s [] u.jobs with
    | none => s
    | some j =>
      let u := { u with jobs := dropJob j u.jobs }
      let s := setUnit s u
      match findWarp s j.warp with
      | none => s
      | some w =>
        let s := match readsPoison s u w j with
          | some a => poisonJob s u w j a
          | none => performJob s u w j
        leaveIfQuiet (match j.op with
          | some o => opDone s w.id o
          | none => s) w.id)

/-- R153: the last byte of its copy has landed, and the follow-on takes its place in the unit's queue. -/
def execFollowOnMstream (cid : Nat) (s : State) : Result :=
  .next (
    if (findCopy s cid).isSome then s
    else { s with units := s.units.map fun u => { u with jobs := updateWhere (fun j => j.copy == some cid) (fun j => { j with copy := none }) u.jobs } })

end Sys2Proof.Machine
end

