-- ==== Sys2Proof/Machine/Outside.lean ====
section
/-! DEFINITION. What else reaches the package from outside its dies: the Traux ports, other packages (R353, R354), errors, the escalation ladder,
the thermal hold (R381 to R392). -/

namespace Sys2Proof.Machine

/-! ### Traux (R353, R354) -/

def findPort (s : State) (k : Nat) : Port := (s.ports.find? fun p => p.num == k).getD { num := k }

def setPort (s : State) (p : Port) : State := { s with ports := p :: s.ports.filter fun x => x.num != p.num }

/-- A flit whose CRC fails is sent again. -/
def execTrauxFlit (port : Nat) (crcOk : Bool) (s : State) : Result :=
  .next (if crcOk || port > 8 then s else let p := findPort s port; setPort s { p with resent := p.resent + 1 })

/-- The third failed training in a row. -/
def execPortDown (port : Nat) (s : State) : Result :=
  .next (if port > 8 then s else setPort s { findPort s port with failures := 3, down := true })

/-- Whether another package may touch a range of this one's HBM. -/
def remoteAllowed (s : State) (pkg a n : Nat) : Bool :=
  s.remoteRanges.any fun r => r.1 == pkg && decide (r.2.1 ≤ a) && decide (a + n ≤ r.2.1 + r.2.2)

def execRemoteAccess (pkg pa : Nat) (acc : HartAcc) (s : State) : Result :=
  .next (
    let n := accBytes acc
    let a := pa % 2 ^ 40
    if pa / 2 ^ 48 != 1 || targetOf s pa != .hbm || !remoteAllowed s pkg a n then answer s .accessFault
    else if isHeld s a || !s.heldOutside.isEmpty then holdAccess s (.remoteAccess pkg pa acc)
    else if accWrites acc && writeBarred s a n then answer s .accessFault
    else if accReads acc && runPoisoned s a n then answer s .poisoned
    else
      let (r, s) := homeAccess s a acc
      answer s r)

/-! ### Errors (R381 to R383, R389, R391) -/

/-- The corrected value is written back: nothing that can be seen changes. -/
def execErrorCorrected (_kind _addr : Nat) (s : State) : Result := .next s

/-- An error attributed to a warp that is not replayed: one ECCUE, and SOFT before it issues again, in handler mode too. -/
def softNow (s : State) (id kind : Nat) (info : Word) : State :=
  match findWarp s id with
  | none => s
  | some w => reportTo (eccue s w.ctx kind info) id { code := 0x11, addr := info, mask := w.active, now := true } true 8 0x11

/-- An error that the open region undoes: ECCUE with bit 8 set, then the replay. -/
def replayNext (s : State) (id kind : Nat) (info : Word) : State :=
  match findWarp s id with
  | none => s
  | some w =>
    replayDue (eccue s w.ctx (kind + 2 ^ 8) info) id

/-- R382's attributed errors. -/
def attributed (s : State) (id kind : Nat) (info : Word) (marked : Warp → Bool) : State :=
  match findWarp s id with
  | none => s
  | some w => if !w.resident then s else if marked w && canReplay w then replayNext s id kind info else softNow s id kind info

/-- Whether a tile or a plane, numbered as `cr.tinfo` numbers them, was zeroed or loaded in the open region. -/
def madeInRegion (u : MatrixUnit) (w : Warp) (k : Nat) : Bool :=
  match w.region with
  | none => false
  | some r =>
    if k < 4 then r.zeroed.getLsbD k
    else r.loaded.getLsbD (if (k == 4) == u.active then 1 else 0)

/-- The warp that owns a tile or holds the planes; any other takes no error of them. -/
def holdsStorage (u : MatrixUnit) (id k : Nat) : Bool :=
  if k < 4 then (u.tile k).owner == some id else k < 6 && u.holder == some id

/-- Whether the mod-31 channel of a tile is checked: not in raw mode, and of an exact tile not from 8,192 steps on (R148, R150). -/
def checksTile (t : Tile) : Bool := t.mode != .raw && !(t.mode == .exact && decide (8192 ≤ t.steps))

/-- A scratchpad word poisoned. -/
def poisonWord (s : State) (warp addr : Nat) : State :=
  match (findWarp s warp).bind (·.group) with
  | some key => updateGroup s key fun g => { g with poison := if g.poison.contains (addr / 8 * 8) then g.poison else addr / 8 * 8 :: g.poison }
  | none => s

/-- A ply cell poisoned. -/
def poisonPly (s : State) (pa : Nat) : State :=
  let c := { plyCell s (pa / 8 * 8) with poisoned := true }
  { s with ply := c :: s.ply.filter fun d => d.pa != c.pa }

/-- What a die's L1s, fetch paths and TLBs hold of a line or of its page dropped, to be fetched and walked again. -/
def dropFetched (s : State) (die pa : Nat) : State :=
  let s := dropL1 s fun x => x.at_ die pa
  { s with caches := { s.caches with
      code := s.caches.code.filter fun c => !(c.die == die && lineOf c.pa == lineOf pa)
      tlb := s.caches.tlb.filter fun e => !(e.die == die && decide (e.pa ≤ pa) && decide (pa < e.pa + 2 ^ e.lg)) } }

/-- A die's clean copy of a line dropped, to be fetched again. A tracked or watched one leaves the die's L1s too (R237). -/
def dropCopyOf (s : State) (die pa : Nat) : State :=
  let s := dropClean s fun c => c.die == die && c.line == lineOf pa
  match copyOf s.coh die (lineOf pa) with
  | some x => if x.st == .e || x.st == .s then { s with coh := dropCopy s.coh die (lineOf pa) } else s
  | none => s

/-- A hart's cache: its guest stops and its hypervisor is told by a hardware error, and the bound context, or the VF, has the ECCUE (R356, R357). -/
def hartError (s : State) (hart addr : Nat) : State :=
  match hartVf s hart with
  | none => s
  | some vf =>
    let s1 := match boundContext s vf hart with
      | some c => eccue s c 0x0D (word addr)
      | none => sendEvent s (.vf vf) Ev.eccue (word addr) 0x0D
    setHart s1 ((findHart s1 hart).trapHs 19 (word addr))

/-- The state in which one stack alone holds. -/
def onlyHolding (s : State) (n : Nat) : State :=
  { s with hbmStacks := updateWhere (fun k => k.st == .holding && k.num != n) (fun k => { k with st := .ok }) s.hbmStacks }

/-- The queues, with their contexts, that have an access held by a stack: of a warp at issue, of a copy, of a drain its warp has queued. -/
def heldQueues (s : State) (stack : Nat) : List (Nat × Nat) :=
  let t := onlyHolding s stack
  let drains := fun (w : Warp) => s.units.any fun u => u.jobs.any fun j => j.warp == w.id && jobHeld t j
  (((warps s).filter fun w => w.resident && (w.stalled == some (.stack stack) || drains w)).map (fun w => (w.queue, w.ctx))
    ++ (s.copies.filter (copyHeld t)).map fun c => (c.queue, c.ctx)).eraseDups

/-- What a hold held from outside is performed now, before anything else from there. -/
def releaseOutside (s : State) : State := { s with agenda := s.heldOutside ++ s.agenda, heldOutside := [] }

def setStack (s : State) (n : Nat) (st : StackState) : State :=
  { s with hbmStacks := { num := n, st := st } :: s.hbmStacks.filter fun k => k.num != n }

/-- The lines that a place's bytes touch. -/
def Loc.lines (n : Nat) : Loc → List Nat
  | .glob pa _ _ => linesOf pa n
  | .priv runs => runs.flatMap fun r => linesOf r.1 r.2
  | _ => []

/-- The lines that a warp's stalled instruction, where it is a store, is to write. -/
def heldStore (s : State) (w : Warp) : List Nat :=
  let x := fun (i : Instr) => Issue.of w i
  let lanes := fun (g : Guard) (n : Nat) (fate : Nat → Fate) => (lanesOf (acting w g)).flatMap fun l => match fate l with
    | .fine loc => loc.lines n
    | _ => []
  match w.phase, decode w.mt w.cur with
  | .issue, .ok (i@(.st g _ _ _ _ sz a _)) => lanes g (sizeBytes sz) fun l => globFate s w (srcA (x i) a l) (sizeBytes sz) .store true
  | .issue, .ok (i@(.stp g _ sz a _)) => lanes g (sizeBytes sz) fun l => privateFate s w l (srcA (x i) a l) (sizeBytes sz) true
  | .issue, .ok (i@(.binit g _ .global a _ _)) =>
    match lowest (acting w g) with
    | some l => (match objFate s w .global (srcA (x i) a l) false true with
      | .fine loc => loc.lines 16
      | _ => [])
    | none => []
  | _, _ => []

/-- The lines that a drain to global memory is to write. -/
def MatrixJob.lines (j : MatrixJob) : List Nat :=
  match j.what with
  | .mdrain _ cv _ true _ a _ c _ =>
    (drainRuns cv a.toNat c).flatMap fun r => (pagePieces r.1 16 r.2).flatMap fun p => (inPages j.pages (p.1 % 2 ^ 64)).elim [] fun q => linesOf q.1 p.2
  | _ => []

/-- The lines that a copy's next piece is to write, its source being scratchpad. -/
def Copy.lines (s : State) (c : Copy) : List Nat :=
  match c.status, c.left with
  | .going, (o, l) :: _ =>
    if c.dstScratch then []
    else
      let dst := (c.dstRow (o / c.s) + o % c.s) % 2 ^ 64
      match pageFate s c.die none c.ctx (word dst) (min l (128 - dst % 128)) .store true with
      | .fine loc => loc.lines (min l (128 - dst % 128))
      | _ => []
  | _, _ => []

/-- The stores that a stack holds are not performed and poison their lines (R392): those of stalled warps, of the drain each warp has at the head of
its matrix operations, of copies. -/
def poisonHeld (s : State) (stack : Nat) : State :=
  let t := onlyHolding s stack
  let stores := ((warps s).filter fun w => w.stalled == some (.stack stack)).flatMap (heldStore (unheld s))
  let drains := (warps s).flatMap fun w => s.units.flatMap fun u =>
    match u.jobs.find? fun j => j.warp == w.id with
    | some j => if jobHeld t j then j.lines else []
    | none => []
  let copies := (s.copies.filter (copyHeld t)).flatMap (Copy.lines (unheld s))
  (s.heldLines ++ stores ++ drains ++ copies).foldl (fun s l => if stackOf (l * 128) == stack then poisonLine s (l * 128) else s) s

/-- The events that a stack held are performed on their objects in the order in which they came, and a warp that waited for one of its own leaves. A
stack that failed instead lets none be performed, each meeting poison (R392). -/
def releaseObjects (s : State) : State :=
  let due := s.heldObj.filter fun e => !isHeld s e.1
  let s := due.foldl (fun s e => applyObj s { space := .global, at_ := e.1 } e.2) { s with heldObj := s.heldObj.filter fun e => isHeld s e.1 }
  ((warps s).filter fun w => w.status == .leaving).foldl (fun s w => leaveIfQuiet s w.id) s

/-- A stack declared failed (R392). -/
def failStack (s : State) (stack : Nat) : State :=
  let qs := heldQueues s stack
  let s := poisonHeld s stack
  let s := { s with heldLines := s.heldLines.filter fun l => stackOf (l * 128) != stack }
  let s := releaseObjects (releaseOutside (setStack s stack .failed))
  qs.foldl (fun s q =>
    let (bs, s) := takeFreeBytes s 8
    flushQueue (eccue s q.2 0x0F (leWord bs)) q.1 8 0 false 0) s

/-- R382, each kind's fate. For kind 0x02 the address 1 is the model's own name for the region shadow, whose error closes the region first. Kind 0x100 is the model's own number for an error that the mod-31 channel of a tile finds (R148, R381). -/
def execErrorUncorrectable (kind addr warp ctx die : Nat) (s : State) : Result :=
  .next (match kind with
    | 0x01 => attributed s warp kind 0 fun _ => true
    | 0x02 =>
      let s := if addr == 1 then updateWarp s warp Warp.spoilRegion else s
      attributed s warp kind 0 fun _ => false
    | 0x03 =>
      match findWarp s warp with
      | some w =>
        let u := unitOf s w
        if holdsStorage u warp addr then attributed s warp kind (word addr) fun w => madeInRegion u w addr else s
      | none => s
    | 0x04 => poisonWord s warp addr
    | 0x05 => dropFetched s die addr
    | 0x06 => dropCopyOf s die addr
    | 0x07 => poisonLine s addr
    | 0x08 => escalateFrom s ctx kind addr (.partition (partitionOfDie s die))
    | 0x09 | 0x0A => escalateFrom s ctx kind addr (.context ctx)
    | 0x0B => poisonPly s addr
    | 0x0C => escalateFrom s ctx kind addr (.partition (partitionOfDie s die))
    | 0x0D => hartError s warp addr
    | 0x0F => failStack s addr
    | 0x100 =>
      match findWarp s warp with
      | some w =>
        let u := unitOf s w
        if holdsStorage u warp addr && addr < 4 && checksTile (u.tile addr) then matErr s u w addr else s
      | none => s
    | _ => escalateFrom s ctx kind addr .device)

def execEscalationTimeout (s : State) : Result :=
  .next (match s.escalating with
    | none => s
    | some l => escalateTo { s with escalating := none } (nextLevel s l))

/-! ### Thermal hold (R392) -/

def execThermalSignal (stack : Nat) (s : State) : Result :=
  .next (if stack < 16 && !(s.hbmStacks.any fun k => k.num == stack) then setStack s stack .holding else s)

def execThermalClear (stack : Nat) (s : State) : Result :=
  .next (if isHolding s stack then releaseObjects (releaseOutside { s with
      hbmStacks := s.hbmStacks.filter fun k => k.num != stack, heldLines := s.heldLines.filter fun l => stackOf (l * 128) != stack }) else s)

def execThermalHoldExpire (stack : Nat) (s : State) : Result :=
  .next (if isHolding s stack then failStack s stack else s)

end Sys2Proof.Machine
end

