-- ==== Sys2Proof/Machine/Quick.lean ====
section
/-! DEFINITION. The quick functions (R97, R98, R130 to R132). Where the exact value is irrational it is found to 256 fractional bits, far
closer than any FP32 operand's value comes to a point where its rounding into Q12 changes. -/

namespace Sys2Proof.Machine

/-- Fractional bits of the fixed-point work. -/
def fx : Nat := 256

/-- floor(ln 2 · 2^256) and floor(π · 2^256). -/
def fxLn2 : Nat := 80260960185991308862233904206310070533990667611589946606122867505419956976171
def fxPi : Nat := 363771576891766324280234942777729862653393377328392429958772151117938894466185

def fxMul (a b : Nat) : Nat := a * b / 2 ^ fx

/-- Σ y^k / k!, from the k-th term on; `fuel` terms. -/
def expSeries (y : Nat) : Nat → Nat → Nat → Nat
  | 0, _, _ => 0
  | fuel + 1, k, term => term + expSeries y fuel (k + 1) (fxMul term y / (k + 1))

/-- 2^(f / 2^256) for f below 2^256, in fixed point. -/
def fxExp2 (f : Nat) : Nat := expSeries (fxMul f fxLn2) 64 0 (2 ^ fx)

/-- sin y = Σ (−1)^k y^(2k+1) / (2k+1)! as the even terms less the odd ones. -/
def sinSeries (y2 : Nat) : Nat → Nat → Nat → Nat × Nat
  | 0, _, _ => (0, 0)
  | fuel + 1, k, term =>
    let (p, n) := sinSeries y2 fuel (k + 1) (fxMul term y2 / ((2 * k + 2) * (2 * k + 3)))
    (term + n, p)

def fxSin (y : Nat) : Nat := let (p, n) := sinSeries (fxMul y y) 36 0 y; p - n

/-- atanh z = Σ z^(2k+1) / (2k+1). -/
def atanhSeries (z2 : Nat) : Nat → Nat → Nat → Nat
  | 0, _, _ => 0
  | fuel + 1, k, term => term / (2 * k + 1) + atanhSeries z2 fuel (k + 1) (fxMul term z2)

/-- ln(p / q) for 1 ≤ p / q < 2. -/
def fxLn (p q : Nat) : Nat :=
  let z := (p - q) * 2 ^ fx / (p + q)
  2 * atanhSeries (fxMul z z) 84 0 z

/-! ### One operand's function: NaNs, then each function's own cases -/

def qnan : Nat × Flags := (Format.q12.nan, 0)
def qinv : Nat × Flags := (Format.q12.nan, Flag.inv)
def qinf (neg : Bool) : Nat × Flags := (signBit .q12 neg + Format.q12.infinity, 0)
def qone (neg : Bool) : Nat × Flags := roundInto .q12 .rne neg 1 0

def frcpQ : FVal → Nat × Flags
  | .nan s => (Format.q12.nan, flagIf s Flag.inv)
  | .inf s => (signBit .q12 s, 0)
  | .fin s m e => if m = 0 then ((qinf s).1, Flag.dze) else roundQuotient .q12 .rne s 1 m (-e)

def frsqQ : FVal → Nat × Flags
  | .nan s => (Format.q12.nan, flagIf s Flag.inv)
  | .inf s => if s then qinv else (0, 0)
  | .fin s m e =>
    if m = 0 then ((qinf s).1, Flag.dze)
    else if s then qinv
    else
      let m0 := if e % 2 = 0 then m else 2 * m
      let e0 := if e % 2 = 0 then e else e - 1
      let k := 20 + Nat.log2 m0
      let r := natSqrt (2 ^ (2 * k) / m0)
      if r * r * m0 = 2 ^ (2 * k) then roundInto .q12 .rne false r (-(e0 / 2) - k) else roundBetween .q12 .rne false r (-(e0 / 2) - k)

/-- A finite value in fixed point, rounded down; no FP32 value has more than 149 fractional bits. -/
def fxOf (m : Nat) (e : Int) : Nat := if e ≥ 0 then m * 2 ^ (fx + e.toNat) else m * 2 ^ fx / 2 ^ (-e).toNat

def fex2Q : FVal → Nat × Flags
  | .nan s => (Format.q12.nan, flagIf s Flag.inv)
  | .inf s => if s then (0, 0) else qinf false
  | .fin s m e =>
    if m = 0 then qone false
    else if compareF (.fin false m e) (.fin false 200 0) ≥ 0 then roundInto .q12 .rne false 1 (if s then -200 else 200)
    else
      let y : Int := signedM s (fxOf m e)
      let n := y / ((2 ^ fx : Nat) : Int)
      let f := (y % ((2 ^ fx : Nat) : Int)).toNat
      if f = 0 then roundInto .q12 .rne false 1 n else roundBetween .q12 .rne false (fxExp2 f) (n - fx)

def flg2Q : FVal → Nat × Flags
  | .nan s => (Format.q12.nan, flagIf s Flag.inv)
  | .inf s => if s then qinv else qinf false
  | .fin s m e =>
    if m = 0 then ((qinf true).1, Flag.dze)
    else if s then qinv
    else
      let k := Nat.log2 m
      let n := e + k
      if m = 2 ^ k then roundInto .q12 .rne (n < 0) n.natAbs 0
      else
        let y : Int := n * ((2 ^ fx : Nat) : Int) + (fxLn m (2 ^ k) * 2 ^ fx / fxLn2 : Nat)
        roundBetween .q12 .rne (y < 0) (if y < 0 then y.natAbs - 1 else y.natAbs) (-(fx : Int))

/-- sin(π r) for a fixed-point r; `zero` is the sign that an exact zero takes. -/
def sinPi (flip zero : Bool) (r : Nat) : Nat × Flags :=
  let r2 := r % 2 ^ (fx + 1)
  let neg := flip != decide (r2 ≥ 2 ^ fx)
  let r1 := r2 % 2 ^ fx
  let h := if 2 * r1 > 2 ^ fx then 2 ^ fx - r1 else r1
  if h = 0 then (signBit .q12 zero, 0)
  else if 2 * h = 2 ^ fx then qone neg
  else roundBetween .q12 .rne neg (fxSin (fxMul h fxPi)) (-(fx : Int))

def fsinQ : FVal → Nat × Flags
  | .nan s => (Format.q12.nan, flagIf s Flag.inv)
  | .inf _ => qinv
  | .fin s m e => sinPi s s (fxOf m e)

def fcosQ : FVal → Nat × Flags
  | .nan s => (Format.q12.nan, flagIf s Flag.inv)
  | .inf _ => qinv
  | .fin _ m e => sinPi false false (fxOf m e + 2 ^ (fx - 1))

/-- tanh x is a little below x for small x, a little below 1 for large x, and (2^z − 1) / (2^z + 1) with z = 2x / ln 2 between. -/
def ftanhQ : FVal → Nat × Flags
  | .nan s => (Format.q12.nan, flagIf s Flag.inv)
  | .inf s => qone s
  | .fin s m e =>
    if m = 0 then (signBit .q12 s, 0)
    else if compareF (.fin false m e) (.fin false 1 (-45)) < 0 then roundBetween .q12 .rne s (m * 2 ^ 60 - 1) (e - 60)
    else if compareF (.fin false m e) (.fin false 32 0) > 0 then roundBetween .q12 .rne s (2 ^ 60 - 1) (-60)
    else
      let z := 2 * fxOf m e * 2 ^ fx / fxLn2
      let t := fxExp2 (z % 2 ^ fx) * 2 ^ (z / 2 ^ fx)
      roundBetween .q12 .rne s ((t - 2 ^ fx) * 2 ^ fx / (t + 2 ^ fx)) (-(fx : Int))

/-! ### The instructions -/

/-- A Q12 pattern as FP32. -/
def quickLane (q : FVal → Nat × Flags) (a : OpA) (x : Issue) (l : Nat) : LaneOut :=
  let (n, fl) := q (floatA x .f32 a l)
  { push := [word (n * 2 ^ 12)], flags := fl }

def execFrcp (g : Guard) (u : Bool) (a : OpA) (s : State) : Result := issue (.frcp g u a) s (lanewise u g (quickLane frcpQ a))
def execFrsq (g : Guard) (u : Bool) (a : OpA) (s : State) : Result := issue (.frsq g u a) s (lanewise u g (quickLane frsqQ a))
def execFex2 (g : Guard) (u : Bool) (a : OpA) (s : State) : Result := issue (.fex2 g u a) s (lanewise u g (quickLane fex2Q a))
def execFlg2 (g : Guard) (u : Bool) (a : OpA) (s : State) : Result := issue (.flg2 g u a) s (lanewise u g (quickLane flg2Q a))
def execFsin (g : Guard) (u : Bool) (a : OpA) (s : State) : Result := issue (.fsin g u a) s (lanewise u g (quickLane fsinQ a))
def execFcos (g : Guard) (u : Bool) (a : OpA) (s : State) : Result := issue (.fcos g u a) s (lanewise u g (quickLane fcosQ a))
def execFtanh (g : Guard) (u : Bool) (a : OpA) (s : State) : Result := issue (.ftanh g u a) s (lanewise u g (quickLane ftanhQ a))

end Sys2Proof.Machine
end

