-- ==== Sys2Proof/Machine/Spawn.lean ====
section
/-! DEFINITION. Group 0xD: SPAWN, WATCH, UNWATCH, BOBQ (R197 to R209). Every one closes an open region (R387). -/

namespace Sys2Proof.Machine

/-- R198: the stage must be a declared thread stage of the warp's pattern. -/
def threadStage (x : Issue) (s : State) (g : Guard) (st : Fin 16) (k : StageDecl → End) : End :=
  match declOf s x.w.ctx x.w.pat (BitVec.ofNat 4 st.val) with
  | some d => if d.isGroup then trapWith s Cause.illopnd (acting x.w g) (word st.val) else k d
  | none => trapWith s Cause.illopnd (acting x.w g) (word st.val)

/-- The lanes of a mask from a lane up. -/
def lanesFrom (m : Mask) (l : Nat) : Mask := maskOf fun k => m.getLsbD k && decide (l ≤ k)

/-- The checks of lanes that act for themselves, in the order of R198, reported as R209 gives: PAGE names the one lane and the address that
faults, whether it is met at once or a fault is cancelled. A replayable fault parks the warp. -/
def perLane (x : Issue) (s : State) (k : AccKind) (m : Mask) (addr fault : Nat → Word) (fate : Nat → Fate) (body : State → (Nat → Loc) → End) :
    End :=
  let fates := (List.range 32).map fun l => if m.getLsbD l then fate l else .fine .none
  let at_ := fun (l : Nat) => fates.getD l (.fine .none)
  let who := fun (p : Fate → Bool) => maskOf fun l => p (at_ l)
  let first := fun (b : Mask) => (lowest b).getD 0
  let one := fun (l : Nat) => BitVec.ofNat 32 (2 ^ l)
  let mis := who (· == .misalign)
  let acc := who fun f => f == .range || f == .refused
  let pg := who (· == .page)
  let rep := who fun f => sameWalk f f
  let held := fates.findSome? fun f => match f with
    | .held n => some n
    | _ => none
  let lowestOf := fun (l : Nat) => !(lanesOf rep).any fun j => decide (j < l) && sameWalk (at_ j) (at_ l)
  if mis != 0 then trapWith s Cause.misalign mis (addr (first mis))
  else
    match held with
    | some n => .stall (.stack n)
    | none =>
      if rep != 0 then parkOn x s k (((lanesOf rep).filter lowestOf).map fun l => (one l, fault l, at_ l))
      else if acc != 0 then trapWith s Cause.access (lanesFrom m (first acc)) (addr (first acc))
      else if pg != 0 then trapWith s Cause.page (one (first pg)) (fault (first pg))
      else
        let loc := fun (l : Nat) => match at_ l with
          | .fine p => p
          | _ => .none
        match (lanesOf m).findSome? fun l => holdOf s (loc l) with
        | some n => .stall (.stack n)
        | none => afterJobs s x.w (body (fillLanes s x.w addr loc) loc)

/-! ### SPAWN (R199, R200) -/

/-- The join object's check: mapped writable, tracked or uncached, and a barrier object. -/
def joinFate (s : State) (w : Warp) (a : Word) : Fate :=
  match objFate s w .global a false true with
  | .fine (.glob pa t z) => if isMarked s { space := .global, at_ := pa } then .fine (.glob pa t z) else .refused
  | f => f

/-- The record that a lane's SPAWN makes. -/
def spawnRecord (x : Issue) (st : Fin 16) (join : Bool) (a b c : Src) (pa : Option Nat) (l : Nat) : Record :=
  let own := (x.w.recs.getD l none).getD {}
  { kind := 0, stage := BitVec.ofNat 4 st.val, join := join, gidx := own.gidx
    p0 := srcA x a l, p1 := readHigh x.w l a, p2 := srcB x b l, p3 := readHigh x.w l b
    joinAddr := if join then srcC x c l else 0, gen := own.gen, queue := own.queue, seq := own.seq, joinPa := pa, launch := own.launch
    priv := own.priv }

/-- Whether the object can take another arrival. -/
def joinRoom (s : State) : Option Nat → Bool
  | some pa => (readObj s { space := .global, at_ := pa }).pendArr < 65535
  | none => true

/-- A lane's SPAWN: a release, then the record is entered with its arrival, or refused. -/
def spawnLane (x : Issue) (st : Fin 16) (join : Bool) (a b c : Src) (loc : Nat → Loc) (s : State) (l : Nat) : LaneDone :=
  let w := x.w
  let s := releaseAt s .pkg w.id l
  let pa := match loc l with
    | .glob pa _ _ => some pa
    | _ => none
  let r := spawnRecord x st join a b c pa l
  let placed := if joinRoom s pa then placeRecord (changed 0) s w.ctx w.pat r.stage w.die w.core r else none
  match placed with
  | some s1 =>
    { s := match pa with
        | some p => objEvent s1 { space := .global, at_ := p } .spawn
        | none => s1
      push := [1] }
  | none =>
    let bob := findBobbin s w.ctx w.pat w.stage w.die w.core
    { s := setBobbin s { bob with refused := true }, push := [0] }

def execSpawn (g : Guard) (peg : PegSel) (join : Bool) (st : Fin 16) (a b c : Src) (s : State) : Result :=
  issue (.spawn g peg join st a b c) s fun x s => closing s fun s => threadStage x s g st fun _ =>
    let m := acting x.w g
    perLane x s .write m (srcC x c) (srcC x c) (fun l => if join then joinFate s x.w (srcC x c l) else .fine .none) fun s loc =>
      .ok (performLanes s m peg (srcC x c) (spawnLane x st join a b c loc))

/-! ### WATCH (R206) -/

/-- The 4 KiB pages of a range that begins and ends on its own alignment. -/
def rangePages (a lg : Nat) : List Nat := (List.range ((2 ^ lg + 4095) / 4096)).map fun k => a / 4096 * 4096 + 4096 * k

/-- The worst that a list of pages meets, in R198's order. -/
def worstFate (fs : List Fate) : Fate :=
  match fs.find? fun f => match f with
    | .replay .. | .held _ => true
    | _ => false with
  | some f => f
  | none =>
    if fs.any fun f => f == .range || f == .refused then .refused
    else if fs.contains .page then .page else .fine .none

/-- A page's part of WATCH's check: translatable, and readable. -/
def watchPage (s : State) (w : Warp) (va : Nat) : Fate :=
  if outOfRange va 1 then .range
  else fateOf (translate s w.die (some w.core) w.ctx va) true false fun pa _ => if reachable s pa then .fine .none else .refused

def watchFate (s : State) (w : Warp) (lg : Nat) (a : Word) : Fate :=
  if a.toNat % 2 ^ lg != 0 then .misalign else worstFate ((rangePages a.toNat lg).map (watchPage s w))

/-- The address of a range at which its worst page faults: the range's own in its first page, else the page's. -/
def watchFault (s : State) (w : Warp) (lg : Nat) (a : Word) : Word :=
  let worst := watchFate s w lg a
  match (rangePages a.toNat lg).find? fun va => watchPage s w va == worst with
  | some va => word (max a.toNat va)
  | none => a

/-- The frames of a range every page of which is watched. -/
def watchedFrames (s : State) (w : Warp) (a lg : Nat) : Option (List (Word × Nat)) :=
  (rangePages a lg).mapM fun va =>
    match translate s w.die (some w.core) w.ctx va with
    | .ok pa 3 _ _ _ _ => some (word va, pa)
    | _ => none

/-- The lowest free heddle id. -/
def freeHeddle (s : State) : Option Nat := (List.range 512).find? fun h => !s.heddles.any fun x => x.id == h

/-- Heddles that a context holds, of its quota. -/
def quotaUsed (s : State) (ctx : Nat) : Bool :=
  decide (((findContext s ctx).map (·.quota)).getD 0 ≤ (s.heddles.filter fun h => h.ctx == ctx).length)

/-- A lane's WATCH: a heddle of every die's table, or −1. -/
def watchLane (x : Issue) (lg : Nat) (st : Fin 16) (a : Src) (s : State) (l : Nat) : LaneDone :=
  let w := x.w
  match watchedFrames s w (srcA x a l).toNat lg, quotaUsed s w.ctx, freeHeddle s with
  | some fr, false, some h =>
    let (key, s) := fresh s
    let own := (w.recs.getD l none).getD {}
    let hd : Heddle :=
      { id := h, key := key, ctx := w.ctx, pat := w.pat, stage := BitVec.ofNat 4 st.val, base := srcA x a l, lg := lg, frames := fr
        die := w.die, core := w.core, gidx := own.gidx, queue := own.queue.toNat, seq := own.seq, priv := own.priv }
    { s := { s with heddles := s.heddles ++ [hd] }, push := [word h] }
  | _, _, _ => { s := s, push := [-1] }

def execWatch (g : Guard) (peg : PegSel) (lg : Fin 32) (st : Fin 16) (a : Src) (s : State) : Result :=
  issue (.watch g peg lg st a) s fun x s => closing s fun s => threadStage x s g st fun _ =>
    let m := acting x.w g
    perLane x s .read m (srcA x a) (fun l => watchFault s x.w lg.val (srcA x a l)) (fun l => watchFate s x.w lg.val (srcA x a l)) fun s _ =>
      .ok (performLanes s m peg (srcA x a) (watchLane x lg.val st a))

/-! ### UNWATCH, BOBQ (R207, R208) -/

/-- A heddle of the context. -/
def ownsHeddle (s : State) (ctx : Nat) (v : Word) : Bool := s.heddles.any fun h => h.id == v.toNat && h.ctx == ctx

def execUnwatch (g : Guard) (peg : PegSel) (a : Src) (s : State) : Result :=
  issue (.unwatch g peg a) s fun x s => closing s fun s =>
    let m := acting x.w g
    let big := maskOf fun l => m.getLsbD l && decide (511 < (srcA x a l).toNat)
    let not_ := maskOf fun l => m.getLsbD l && !ownsHeddle s x.w.ctx (srcA x a l)
    if big != 0 then trapWith s Cause.illopnd big (srcA x a ((lowest big).getD 0))
    else if not_ != 0 then
      let l := (lowest not_).getD 0
      trapWith s Cause.access (lanesFrom m l) (srcA x a l)
    else
      afterJobs s x.w (.ok (performLanes s m peg (srcA x a) fun s l =>
        { s := { s with heddles := s.heddles.filter fun h => h.id != (srcA x a l).toNat } }))

/-- R208's snapshot. -/
def bobqWord (s : State) (w : Warp) (st : BitVec 4) : Word :=
  let segs := s.segments.filter fun g => g.ctx == w.ctx && g.pat == w.pat && g.stage == st
  word (((segs.map fun g => g.entries.length).foldl (· + ·) 0) % 2 ^ 32 * 2 ^ 16
    + (findBobbin s w.ctx w.pat st w.die w.core).recs.length % 2 ^ 8)

def execBobq (g : Guard) (st : Fin 16) (s : State) : Result :=
  issue (.bobq g st) s fun x s => closing s fun s => threadStage x s g st fun _ =>
    .ok (pushAll s (acting x.w g) fun _ => bobqWord s x.w (BitVec.ofNat 4 st.val))

end Sys2Proof.Machine
end

