-- ==== Sys2Proof/Machine/System.lean ====
section
/-! DEFINITION. Regions and the selvage check (R385 to R388), control registers, TRAP, BKPT, TRET, CLOCK (R369 to R374), opcodes that name
nothing (R37). -/

namespace Sys2Proof.Machine

/-! ### Regions and CHKSIG -/

/-- The operation that a weft position below `keep` waits for (R386). -/
def pendingBelow (w : Warp) (keep : Nat) : Option Nat :=
  (w.lanes.flatMap fun x => (x.weft.take keep).filterMap (·.pend)).head?

/-- The plane that is physically active once the warp's queued operations are performed, where it then holds the planes (R386). -/
def heldPlane (s : State) (w : Warp) : Option Bool :=
  let u := viewOf (unitOf s w)
  if u.holder == some w.id then some u.active else none

/-- The snapshot of R386. -/
def openRegion (s : State) (w : Warp) (keep : Nat) : Region :=
  { keep := keep, lanes := w.lanes.map fun x => ((x.weft.take keep).map (·.val), x.d, x.pocket), mask := w.active, plane := heldPlane s w }

def execIregion (g : Guard) (keep : Fin 32) (s : State) : Result :=
  issue (.iregion g keep) s fun _ s =>
    if s.warp.h then .ok s
    else
      closing s fun s =>
        match pendingBelow s.warp keep.val with
        | some o => .stall (.value o)
        | none =>
          .ok { s with warp := { s.warp with region := some (openRegion s s.warp keep.val), regionPc := s.warp.nextAddr 0 } }

def execIregionClose (g : Guard) (s : State) : Result :=
  issue (.iregionClose g) s fun _ s => if s.warp.h then .ok s else closing s .ok

/-- R385. The compare is made before the word folds in. -/
def execChksig (g : Guard) (a : Src) (s : State) : Result :=
  issue (.chksig g a) s fun x s =>
    let w := s.warp
    if w.h || w.sig == x.la then .ok s
    else
      let s1 := sendEvent s (.context w.ctx) Ev.sigfail (w.wordAddr w.idx) w.sig
      if canReplay w then .done { s1 with warp := { s1.warp with replay := true } }
      else .trap s1 { code := Cause.soft, tmask := w.active, tinfo := 0 }

/-! ### Control registers (R23, R369) -/

/-- A control register as a lane reads it; none where no register has the number. -/
def readCr (w : Warp) (l : Nat) (n : Nat) : Option Word :=
  match n with
  | 0x000 => some (word l)
  | 0x001 => some (word w.index)
  | 0x002 => some (laneGidx w l)
  | 0x003 => some (word w.stage.toNat)
  | 0x004 => some (word w.homeCore)
  | 0x005 => some (word (w.homeCore / 4))
  | 0x006 => some (word w.die)
  | 0x007 => some (word w.ctx)
  | 0x008 => some w.spill
  | 0x009 => some w.livebase
  | 0x010 => some w.fpmode
  | 0x011 => some w.fpflags
  | 0x012 => some w.wdog
  | 0x013 => some (word (b2w w.h * 2 + b2w w.mt))
  | 0x014 => some w.sig
  | 0x015 => some w.regionPc
  | 0x020 => some w.tcause
  | 0x021 => some w.tpc
  | 0x022 => some w.tnext
  | 0x023 => some w.tmask
  | 0x024 => some w.tinfo
  | 0x025 => some w.hret
  | _ => none

/-- Whether a CSRW to a register traps with PRIV in a mode. -/
def crPriv (h : Bool) (n : Nat) : Bool :=
  !(n == 0x010 || n == 0x011 || n == 0x012 || n == 0x013 || (h && (n == 0x021 || n == 0x025)))

/-- The checks of R369, R89, R90, R183 on a value written. -/
def crLegal (n : Nat) (v : Word) : Bool :=
  match n with
  | 0x010 => field v 14 50 == 0 && field v 3 5 == 0 && decide (1 ≤ field v 0 3) && decide (field v 0 3 ≤ 4)
  | 0x011 => field v 6 58 == 0
  | 0x012 => decide (20 ≤ v.toNat) && decide (v.toNat ≤ 32)
  | 0x013 => field v 2 62 == 0
  | 0x021 => field v 57 7 == 0 && field v 0 3 == 0
  | _ => decide (v.toNat ≤ 2)

/-- A register written; a write to `cr.wdog` zeroes the watchdog's count (R183). -/
def writeCr (w : Warp) (n : Nat) (v : Word) : Warp :=
  match n with
  | 0x010 => { w with fpmode := v }
  | 0x011 => { w with fpflags := v }
  | 0x012 => { w with wdog := v, wcount := 0 }
  | 0x013 => { w with mt := v.getLsbD 0 }
  | 0x021 => { w with tpc := v }
  | 0x025 => { w with hret := v }
  | _ => w

/-- R371. -/
def execCsrr (g : Guard) (u : Bool) (n : BitVec 12) (s : State) : Result :=
  issue (.csrr g u n) s fun x s =>
    if (readCr x.w 0 n.toNat).isNone then .trap s (illOpnd x)
    else lanewise u g (fun x l => { push := [(readCr x.w l n.toNat).getD 0] }) x s

def execCsrw (g : Guard) (n : BitVec 12) (a : Src) (s : State) : Result :=
  issue (.csrw g n a) s fun x s =>
    let k := n.toNat
    let m := acting x.w g
    if (readCr x.w 0 k).isNone then .trap s (illOpnd x)
    else
      match lowest m with
      | none => .ok s
      | some l =>
        let v := srcA x a l
        if crPriv x.w.h k then trapWith s Cause.priv m (word k)
        else if !crLegal k v then trapWith s Cause.illopnd m x.w.cur
        else if k == 0x013 && v.getLsbD 0 && !x.w.signed then trapWith s Cause.priv m (word k)
        else .ok { s with warp := writeCr s.warp k v }

/-! ### TRAP, BKPT, TRET, CLOCK -/

/-- R372. -/
def execTrap (g : Guard) (c : BitVec 8) (a : Src) (s : State) : Result :=
  issue (.trap g c a) s fun x s =>
    match lowest (acting x.w g) with
    | none => .ok s
    | some l => .trap s { code := c.toNat, sw := true, tmask := acting x.w g, tinfo := srcA x a l }

def execBkpt (g : Guard) (t : BitVec 8) (s : State) : Result :=
  issue (.bkpt g t) s fun x s =>
    if acting x.w g == 0 then .ok s else trapWith s Cause.bkpt (acting x.w g) (word t.toNat)

/-- The state that TRET restores, with the results the handler passes back (R373). -/
def Warp.leaveHandler (w : Warp) (sh : HandlerShadow) : Warp :=
  let n := field w.hret 0 2
  let back := sh.active &&& ~~~w.gone
  let w1 := mapLanes w fun l x =>
    let (weft, d) := sh.lanes.getD l (x.weft, x.d)
    let y : Lane := { x with weft := weft, d := d }
    if back.getLsbD l then (x.weft.take n).foldr (fun v z => z.push v) y else y
  { w1 with
    active := back, wcount := sh.wcount, h := false, shadow := none, wake := none, reissue := sh.bwait == some w.tpc
    base := word (w.tpc.toNat - w.tpc.toNat % 128), idx := 1, phase := .fetch (.tretAt (field w.tpc 3 4)) }

/-- An entry among the results still pending. -/
def pendingResult (w : Warp) : Option Nat :=
  ((lanesOf w.active).flatMap fun l => ((w.lane l).weft.take (field w.hret 0 2)).filterMap (·.pend)).head?

/-- R373. `cr.tinfo` of a PRIV is a register's number (R363); TRET names no register, so outside handler mode that one is a free value. -/
def execTret (g : Guard) (s : State) : Result :=
  issue (.tret g) s fun x s =>
    match s.warp.h, s.warp.shadow with
    | true, some sh =>
      if g != .always then .trap s (illOpnd x)
      else if s.warp.pleats.length != sh.depth then hFault s 4
      else
        match pendingResult s.warp with
        | some o => .stall (.value o)
        | none => .done { s with warp := s.warp.leaveHandler sh }
    | _, _ => let (bs, s) := takeFreeBytes s 8; trapWith s Cause.priv x.w.active (leWord bs)

/-- The cycle counter of a core, brought to now (R374). -/
def tickClock (s : State) (die core : Nat) : Word × State :=
  let v := word (min ((findCore s die core).clock.toNat + Config.clockGap s.freeCtr) (2 ^ 64 - 1))
  (v, { updateCore s die core (fun c => { c with clock := v }) with freeCtr := s.freeCtr + 1 })

/-- R374. -/
def execClock (g : Guard) (u : Bool) (s : State) : Result :=
  issue (.clock g u) s fun x s =>
    let (v, s) := tickClock s x.w.die x.w.core
    lanewise u g (fun _ _ => { push := [v] }) x s

/-! ### Opcodes that name no instruction (R37) -/

def execUnassignedOpcode (v : Word) (s : State) : Result :=
  issue (.unassignedOpcode v) s fun x s => .trap s { code := Cause.illop, tmask := x.w.active, tinfo := v }

end Sys2Proof.Machine
end

