-- ==== Sys2Proof/Machine/WarpWide.lean ====
section
/-! DEFINITION. Instructions that read across the lanes of a warp (R184 to R188). -/

namespace Sys2Proof.Machine

/-- A predicate written and a value pushed in every acting lane. -/
def writePred (s : State) (m : Mask) (pd : Nat) (v : Nat → Bool) : State :=
  { s with warp := mapLanes s.warp fun l y => if m.getLsbD l then y.setPred pd (v l) else y }

/-- R185. -/
def execVote (g : Guard) (md : VoteMode) (pd : Fin 64) (a : Src) (s : State) : Result :=
  issue (.vote g md pd a) s fun x s =>
    let m := acting x.w g
    let b := fun (l : Nat) => srcA x a l != 0
    let all := (lanesOf m).all b
    let any := (lanesOf m).any b
    let uni := match lowest m with
      | some l0 => (lanesOf m).all fun l => srcA x a l == srcA x a l0
      | none => true
    match md with
    | .all => .ok (writePred s m pd.val fun _ => all)
    | .any => .ok (writePred s m pd.val fun _ => any)
    | .uni => .ok (writePred s m pd.val fun _ => uni)
    | .ballot => .ok (pushAll s m fun _ => word (maskOf fun l => m.getLsbD l && b l).toNat)

def execActive (g : Guard) (s : State) : Result :=
  issue (.active g) s fun x s => .ok (pushAll s (acting x.w g) fun _ => word x.w.active.toNat)

/-- A value read from lane k, where it acts; else the reader's own (R184). -/
def moveLanes (x : Issue) (s : State) (g : Guard) (pv : Nat) (a : Src) (from_ : Nat → Option Nat) : End :=
  let m := acting x.w g
  let valid := fun (l : Nat) => match from_ l with
    | some k => k < 32 && m.getLsbD k
    | none => false
  let v := fun (l : Nat) => if valid l then srcA x a ((from_ l).getD l) else srcA x a l
  .ok (writePred (pushAll s m v) m pv valid)

/-- R186. -/
def execShfl (g : Guard) (md : ShflMode) (pv : Fin 64) (a b : Src) (s : State) : Result :=
  issue (.shfl g md pv a b) s fun x s =>
    moveLanes x s g pv.val a fun l =>
      let n := (srcB x b l).toNat
      match md with
      | .idx => some n
      | .up => if n ≤ l then some (l - n) else none
      | .down => some (l + n)
      | .xor => some (l ^^^ n)

def execBcast (g : Guard) (pv : Fin 64) (a b : Src) (s : State) : Result :=
  issue (.bcast g pv a b) s fun x s =>
    moveLanes x s g pv.val a fun _ => (lowest (acting x.w g)).map fun l0 => (srcB x b l0).toNat

/-! ### Trees (R187) -/

/-- Two patterns combined, with flags. -/
def combine2 (op : RedOp) (t : Ty) (md : Rnd) (a b : Nat) : Nat × Flags :=
  if t.isInt then
    let p := intOf t a
    let q := intOf t b
    (match op with
      | .add => wrap t.width (p + q)
      | .min => if p ≤ q then a else b
      | .max => if p ≥ q then a else b
      | .and => a &&& b
      | .or => a ||| b
      | .xor => a ^^^ b, 0)
  else
    let f := formatOf t
    match op with
    | .min => minMaxF isLow f a b
    | .max => minMaxF isHigh f a b
    | _ => addF f md (f.value a) (f.value b)

def combine (op : RedOp) (t : Ty) (md : Rnd) : Option Nat × Flags → Option Nat × Flags → Option Nat × Flags
  | (some a, f), (some b, h) => let (n, k) := combine2 op t md a b; (some n, f ||| h ||| k)
  | (some a, f), (none, h) => (some a, f ||| h)
  | (none, f), (b, h) => (b, f ||| h)

/-- One level of the tree. -/
def pairUp (op : RedOp) (t : Ty) (md : Rnd) : List (Option Nat × Flags) → List (Option Nat × Flags)
  | a :: b :: rest => combine op t md a b :: pairUp op t md rest
  | short => short

def treeUp (op : RedOp) (t : Ty) (md : Rnd) : Nat → List (Option Nat × Flags) → List (Option Nat × Flags)
  | 0, l => l
  | k + 1, l => treeUp op t md k (pairUp op t md l)

/-- The root over the lanes of a set, none where it is empty. -/
def treeRoot (op : RedOp) (t : Ty) (md : Rnd) (v : Nat → Nat) (m : Mask) : Option Nat × Flags :=
  ((treeUp op t md 5 ((List.range 32).map fun l => (if m.getLsbD l then some (v l) else none, (0 : Flags)))).head?).getD (none, 0)

/-- The identity of an empty prefix. -/
def identityOf (op : RedOp) (t : Ty) : Nat :=
  if t.isInt then
    match op with
    | .min => wrap t.width (Ty.high t)
    | .max => wrap t.width (Ty.low t)
    | .and => 2 ^ t.width - 1
    | _ => 0
  else
    let f := formatOf t
    match op with
    | .min => f.infinity
    | .max => signBit f true + f.infinity
    | _ => 0

/-- What a root is pushed as: integers extended, NaNs canonical. -/
def rootWord (t : Ty) (n : Nat) : Word :=
  if t.isInt then extend t n else if ((formatOf t).value n).isNan then word (formatOf t).nan else word n

/-- Roots pushed in the acting lanes, each over its own set; a signalling NaN in any acting lane raises INV. -/
def reduce (x : Issue) (s : State) (g : Guard) (op : RedOp) (t : Ty) (r : Rnd) (a : Src) (set : Mask → Nat → Mask) : End :=
  let m := acting x.w g
  let v := fun (l : Nat) => (srcA x a l).toNat % 2 ^ t.width
  let md := modeOf x.w.fpmode r
  let roots := (List.range 32).map fun l => if m.getLsbD l then treeRoot op t md v (set m l) else (none, 0)
  let snan := !t.isInt && (lanesOf m).any fun l => ((formatOf t).value (v l)).isSnan
  let flags := roots.foldl (fun f p => f ||| p.2) (flagIf snan Flag.inv)
  raiseFlags s m (fun _ => flags) fun s =>
    .ok (pushAll s m fun l => rootWord t (((roots.getD l (none, 0)).1).getD (identityOf op t)))

def execWred (g : Guard) (op : RedOp) (t : Ty) (r : Rnd) (a : Src) (s : State) : Result :=
  issue (.wred g op t r a) s fun x s => reduce x s g op t r a fun m _ => m

def execWscan (g : Guard) (excl : Bool) (op : RedOp) (t : Ty) (r : Rnd) (a : Src) (s : State) : Result :=
  issue (.wscan g excl op t r a) s fun x s =>
    reduce x s g op t r a fun m l => maskOf fun k => m.getLsbD k && (k < l || (k == l && !excl))

/-- R188. -/
def execMatchLanes (g : Guard) (t : Ty) (a : Src) (s : State) : Result :=
  issue (.matchLanes g t a) s fun x s =>
    let m := acting x.w g
    let v := fun (l : Nat) => (srcA x a l).toNat % 2 ^ t.width
    .ok (pushAll s m fun l => word (maskOf fun k => m.getLsbD k && v k == v l).toNat)

end Sys2Proof.Machine
end

