-- ==== Sys2Proof/Machine/Weft.lean ====
section
/-! DEFINITION. The weft group: PICK, SAVE, PACK, UNPACK (R101, R102). -/

namespace Sys2Proof.Machine

def pickLane (a : OpA) (x : Issue) (l : Nat) : LaneOut := { push := [valA x .arith .z64 a l] }

def execPick (g : Guard) (u : Bool) (a : OpA) (s : State) : Result := issue (.pick g u a) s (lanewise u g (pickLane a))

def saveLane (a : OpA) (slot : Fin 32) (x : Issue) (l : Nat) : LaneOut := { save := some (slot.val, valA x .arith .z64 a l) }

def execSave (g : Guard) (a : OpA) (slot : Fin 32) (s : State) : Result := issue (.save g a slot) s (lanewise false g (saveLane a slot))

/-- A container with element i replaced. -/
def setElem (w i : Nat) (c : Word) (n : Nat) : Word := word (c.toNat - elemOf w i c.toNat * 2 ^ (w * i) + n % 2 ^ w * 2 ^ (w * i))

def packLane (sat : Bool) (idx : Fin 16) (t : Ty) (a : OpA) (b : OpB) (x : Issue) (l : Nat) : LaneOut :=
  let v : Int := intOf (if t.isSigned then .s64 else .z64) (valB x .arith t b l).toNat
  let (c, moved) := clamp t v
  { push := [setElem t.width idx.val (valA x .arith t a l) (wrap t.width (if sat then c else v))], flags := flagIf (sat && moved) Flag.sat }

def execPack (g : Guard) (sat : Bool) (idx : Fin 16) (t : Ty) (a : OpA) (b : OpB) (s : State) : Result :=
  issue (.pack g sat idx t a b) s (lanewise false g (packLane sat idx t a b))

def unpackLane (idx : Fin 16) (t : Ty) (a : OpA) (x : Issue) (l : Nat) : LaneOut :=
  { push := [extend t (elemOf t.width idx.val (valA x .arith t a l).toNat)] }

def execUnpack (g : Guard) (idx : Fin 16) (t : Ty) (a : OpA) (s : State) : Result :=
  issue (.unpack g idx t a) s (lanewise false g (unpackLane idx t a))

end Sys2Proof.Machine
end

