-- ==== Sys2Proof/Machine/Dispatch.lean ====
section
/-! DEFINITION. The meaning of each instruction of `Instr`, one arm each. -/

namespace Sys2Proof.Machine

open Sys2Proof

/-- What an instruction, or a step of the device, does to the state. -/
def exec (i : Instr) (s : State) : Host.Outcome State Fault Refusal :=
  match i with
  | .nop g => Sys2Proof.Machine.execNop g s
  | .bra g o => Sys2Proof.Machine.execBra g o s
  | .brc g o so => Sys2Proof.Machine.execBrc g o so s
  | .seam g d => Sys2Proof.Machine.execSeam g d s
  | .mark g k => Sys2Proof.Machine.execMark g k s
  | .conform g k c => Sys2Proof.Machine.execConform g k c s
  | .brl g o => Sys2Proof.Machine.execBrl g o s
  | .brx g a => Sys2Proof.Machine.execBrx g a s
  | .call g o frame nargs => Sys2Proof.Machine.execCall g o frame nargs s
  | .callx g a frame nargs => Sys2Proof.Machine.execCallx g a frame nargs s
  | .ret g nres => Sys2Proof.Machine.execRet g nres s
  | .exit g => Sys2Proof.Machine.execExit g s
  | .yield g => Sys2Proof.Machine.execYield g s
  | .pick g u a => Sys2Proof.Machine.execPick g u a s
  | .save g a slot => Sys2Proof.Machine.execSave g a slot s
  | .pack g sat idx t a b => Sys2Proof.Machine.execPack g sat idx t a b s
  | .unpack g idx t a => Sys2Proof.Machine.execUnpack g idx t a s
  | .iadd g u sat t a b => Sys2Proof.Machine.execIadd g u sat t a b s
  | .isub g u sat t a b => Sys2Proof.Machine.execIsub g u sat t a b s
  | .iadc g t c a b => Sys2Proof.Machine.execIadc g t c a b s
  | .isbb g t c a b => Sys2Proof.Machine.execIsbb g t c a b s
  | .imul g u sat t a b => Sys2Proof.Machine.execImul g u sat t a b s
  | .imulh g u t a b => Sys2Proof.Machine.execImulh g u t a b s
  | .imad g u sat t a b c => Sys2Proof.Machine.execImad g u sat t a b c s
  | .imadw g u t a b c => Sys2Proof.Machine.execImadw g u t a b c s
  | .imin g u t a b => Sys2Proof.Machine.execImin g u t a b s
  | .imax g u t a b => Sys2Proof.Machine.execImax g u t a b s
  | .iabsd g u t a b => Sys2Proof.Machine.execIabsd g u t a b s
  | .iclamp g u t a b c => Sys2Proof.Machine.execIclamp g u t a b c s
  | .lea g u t a b c => Sys2Proof.Machine.execLea g u t a b c s
  | .isat g u st dt a => Sys2Proof.Machine.execIsat g u st dt a s
  | .idot4 g u sat t a b c => Sys2Proof.Machine.execIdot4 g u sat t a b c s
  | .idot2 g u sat t a b c => Sys2Proof.Machine.execIdot2 g u sat t a b c s
  | .and g u t a b => Sys2Proof.Machine.execAnd g u t a b s
  | .or g u t a b => Sys2Proof.Machine.execOr g u t a b s
  | .xor g u t a b => Sys2Proof.Machine.execXor g u t a b s
  | .lop3 g u t tab a b c => Sys2Proof.Machine.execLop3 g u t tab a b c s
  | .shl g u t a b => Sys2Proof.Machine.execShl g u t a b s
  | .shr g u t a b => Sys2Proof.Machine.execShr g u t a b s
  | .sar g u t a b => Sys2Proof.Machine.execSar g u t a b s
  | .rol g u t a b => Sys2Proof.Machine.execRol g u t a b s
  | .funnel g u t a b c => Sys2Proof.Machine.execFunnel g u t a b c s
  | .popc g u t a => Sys2Proof.Machine.execPopc g u t a s
  | .clz g u t a => Sys2Proof.Machine.execClz g u t a s
  | .ctz g u t a => Sys2Proof.Machine.execCtz g u t a s
  | .brev g u t a => Sys2Proof.Machine.execBrev g u t a s
  | .bfx g u t a b => Sys2Proof.Machine.execBfx g u t a b s
  | .bfi g u t a b c => Sys2Proof.Machine.execBfi g u t a b c s
  | .permb g u t a b c => Sys2Proof.Machine.execPermb g u t a b c s
  | .icmp g t c pd a b => Sys2Proof.Machine.execIcmp g t c pd a b s
  | .fcmp g t c pd a b => Sys2Proof.Machine.execFcmp g t c pd a b s
  | .sel g u ps a b => Sys2Proof.Machine.execSel g u ps a b s
  | .plop g tab pa pb pc pd => Sys2Proof.Machine.execPlop g tab pa pb pc pd s
  | .pset g pd a => Sys2Proof.Machine.execPset g pd a s
  | .ptov g => Sys2Proof.Machine.execPtov g s
  | .vtop g a b => Sys2Proof.Machine.execVtop g a b s
  | .itst g pd a b => Sys2Proof.Machine.execItst g pd a b s
  | .fadd g u t r a b => Sys2Proof.Machine.execFadd g u t r a b s
  | .fsub g u t r a b => Sys2Proof.Machine.execFsub g u t r a b s
  | .fmul g u t r a b => Sys2Proof.Machine.execFmul g u t r a b s
  | .ffma g u t r a b c => Sys2Proof.Machine.execFfma g u t r a b c s
  | .fmin g u t a b => Sys2Proof.Machine.execFmin g u t a b s
  | .fmax g u t a b => Sys2Proof.Machine.execFmax g u t a b s
  | .frnd g u t r a => Sys2Proof.Machine.execFrnd g u t r a s
  | .fscale g u t r a b => Sys2Proof.Machine.execFscale g u t r a b s
  | .fclass g u t a => Sys2Proof.Machine.execFclass g u t a s
  | .fdot2 g u t r a b c => Sys2Proof.Machine.execFdot2 g u t r a b c s
  | .fsqrt g u t r a => Sys2Proof.Machine.execFsqrt g u t r a s
  | .fdiv g u t r a b => Sys2Proof.Machine.execFdiv g u t r a b s
  | .frcp g u a => Sys2Proof.Machine.execFrcp g u a s
  | .frsq g u a => Sys2Proof.Machine.execFrsq g u a s
  | .fex2 g u a => Sys2Proof.Machine.execFex2 g u a s
  | .flg2 g u a => Sys2Proof.Machine.execFlg2 g u a s
  | .fsin g u a => Sys2Proof.Machine.execFsin g u a s
  | .fcos g u a => Sys2Proof.Machine.execFcos g u a s
  | .ftanh g u a => Sys2Proof.Machine.execFtanh g u a s
  | .cvt g u r st dt a => Sys2Proof.Machine.execCvt g u r st dt a s
  | .qscale g st bt a => Sys2Proof.Machine.execQscale g st bt a s
  | .qcvt g st bt a b => Sys2Proof.Machine.execQcvt g st bt a b s
  | .dqcvt g bt dt a b => Sys2Proof.Machine.execDqcvt g bt dt a b s
  | .resenc g u t a => Sys2Proof.Machine.execResenc g u t a s
  | .resdec g u t a => Sys2Proof.Machine.execResdec g u t a s
  | .vote g m pd a => Sys2Proof.Machine.execVote g m pd a s
  | .shfl g m pv a b => Sys2Proof.Machine.execShfl g m pv a b s
  | .wred g op t r a => Sys2Proof.Machine.execWred g op t r a s
  | .wscan g excl op t r a => Sys2Proof.Machine.execWscan g excl op t r a s
  | .matchLanes g t a => Sys2Proof.Machine.execMatchLanes g t a s
  | .bcast g pv a b => Sys2Proof.Machine.execBcast g pv a b s
  | .active g => Sys2Proof.Machine.execActive g s
  | .ld g peg sc o h sx sz a => Sys2Proof.Machine.execLd g peg sc o h sx sz a s
  | .st g peg sc o h sz a b => Sys2Proof.Machine.execSt g peg sc o h sz a b s
  | .lds g peg sc o sx sz a => Sys2Proof.Machine.execLds g peg sc o sx sz a s
  | .sts g peg sc o sz a b => Sys2Proof.Machine.execSts g peg sc o sz a b s
  | .ldp g peg sx sz a => Sys2Proof.Machine.execLdp g peg sx sz a s
  | .stp g peg sz a b => Sys2Proof.Machine.execStp g peg sz a b s
  | .pref g lv a => Sys2Proof.Machine.execPref g lv a s
  | .fence g peg sc o => Sys2Proof.Machine.execFence g peg sc o s
  | .cctl g peg op a => Sys2Proof.Machine.execCctl g peg op a s
  | .atom g peg sc o op w a b => Sys2Proof.Machine.execAtom g peg sc o op w a b s
  | .acas g peg sc o w a b c => Sys2Proof.Machine.execAcas g peg sc o w a b c s
  | .red g peg sc o op w a b => Sys2Proof.Machine.execRed g peg sc o op w a b s
  | .atoms g peg sc o op w a b => Sys2Proof.Machine.execAtoms g peg sc o op w a b s
  | .acass g peg sc o w a b c => Sys2Proof.Machine.execAcass g peg sc o w a b c s
  | .ldv g peg sc o a b => Sys2Proof.Machine.execLdv g peg sc o a b s
  | .stv g peg sc o a b c => Sys2Proof.Machine.execStv g peg sc o a b c s
  | .recon g peg sc o a b c => Sys2Proof.Machine.execRecon g peg sc o a b c s
  | .binit g peg sp a b c => Sys2Proof.Machine.execBinit g peg sp a b c s
  | .barrive g peg sp a b => Sys2Proof.Machine.execBarrive g peg sp a b s
  | .bexpect g peg sp a b => Sys2Proof.Machine.execBexpect g peg sp a b s
  | .bwait g sp a b => Sys2Proof.Machine.execBwait g sp a b s
  | .btest g sp a b => Sys2Proof.Machine.execBtest g sp a b s
  | .bdrop g peg sp a => Sys2Proof.Machine.execBdrop g peg sp a s
  | .copy g peg dir sp twoD a b c => Sys2Proof.Machine.execCopy g peg dir sp twoD a b c s
  | .copym g peg dir sp twoD a b c => Sys2Proof.Machine.execCopym g peg dir sp twoD a b c s
  | .copyg g peg sp a b c => Sys2Proof.Machine.execCopyg g peg sp a b c s
  | .mzero g m tile => Sys2Proof.Machine.execMzero g m tile s
  | .mlds g peg fmt a b => Sys2Proof.Machine.execMlds g peg fmt a b s
  | .mswap g => Sys2Proof.Machine.execMswap g s
  | .mstream g peg m1 tile a b c => Sys2Proof.Machine.execMstream g peg m1 tile a b c s
  | .mdrain g peg cv act gl bias tile a b c => Sys2Proof.Machine.execMdrain g peg cv act gl bias tile a b c s
  | .mstat g clr tile => Sys2Proof.Machine.execMstat g clr tile s
  | .spawn g peg join stage a b c => Sys2Proof.Machine.execSpawn g peg join stage a b c s
  | .watch g peg lg stage a => Sys2Proof.Machine.execWatch g peg lg stage a s
  | .unwatch g peg a => Sys2Proof.Machine.execUnwatch g peg a s
  | .bobq g stage => Sys2Proof.Machine.execBobq g stage s
  | .iregion g keep => Sys2Proof.Machine.execIregion g keep s
  | .iregionClose g => Sys2Proof.Machine.execIregionClose g s
  | .chksig g a => Sys2Proof.Machine.execChksig g a s
  | .csrr g u n => Sys2Proof.Machine.execCsrr g u n s
  | .csrw g n a => Sys2Proof.Machine.execCsrw g n a s
  | .trap g c a => Sys2Proof.Machine.execTrap g c a s
  | .tret g => Sys2Proof.Machine.execTret g s
  | .clock g u => Sys2Proof.Machine.execClock g u s
  | .bkpt g t => Sys2Proof.Machine.execBkpt g t s
  | .unassignedOpcode w => Sys2Proof.Machine.execUnassignedOpcode w s
  | .clauseFetch => Sys2Proof.Machine.execClauseFetch s
  | .clauseStart => Sys2Proof.Machine.execClauseStart s
  | .pendingFill warp op => Sys2Proof.Machine.execPendingFill warp op s
  | .pegClear warp op => Sys2Proof.Machine.execPegClear warp op s
  | .watchdogStall => Sys2Proof.Machine.execWatchdogStall s
  | .pageWalk die ctx va k => Sys2Proof.Machine.execPageWalk die ctx va k s
  | .matrixOpPerform die core part => Sys2Proof.Machine.execMatrixOpPerform die core part s
  | .followOnMstream cid => Sys2Proof.Machine.execFollowOnMstream cid s
  | .copyLand cid chunk n => Sys2Proof.Machine.execCopyLand cid chunk n s
  | .copyFail cid => Sys2Proof.Machine.execCopyFail cid s
  | .copyFailReport => Sys2Proof.Machine.execCopyFailReport s
  | .overflowToBobbin ctx pat stage die => Sys2Proof.Machine.execOverflowToBobbin ctx pat stage die s
  | .gatherTimerExpire ctx pat stage die core => Sys2Proof.Machine.execGatherTimerExpire ctx pat stage die core s
  | .bobbinLaunch ctx pat stage die core part slot => Sys2Proof.Machine.execBobbinLaunch ctx pat stage die core part slot s
  | .slotAssign die core => Sys2Proof.Machine.execSlotAssign die core s
  | .warpCreate warp => Sys2Proof.Machine.execWarpCreate warp s
  | .groupRecordMake launch die => Sys2Proof.Machine.execGroupRecordMake launch die s
  | .steal launch die => Sys2Proof.Machine.execSteal launch die s
  | .bobbinTake launch die core => Sys2Proof.Machine.execBobbinTake launch die core s
  | .doorbell vf q p => Sys2Proof.Machine.execDoorbell vf q p s
  | .ringRead q => Sys2Proof.Machine.execRingRead q s
  | .queueWriteBack q => Sys2Proof.Machine.execQueueWriteBack q s
  | .dispatchDecision part => Sys2Proof.Machine.execDispatchDecision part s
  | .patternUnload ctx pat => Sys2Proof.Machine.execPatternUnload ctx pat s
  | .recordComplete q => Sys2Proof.Machine.execRecordComplete q s
  | .preemptSave warp => Sys2Proof.Machine.execPreemptSave warp s
  | .preemptTimeout warp => Sys2Proof.Machine.execPreemptTimeout warp s
  | .starvePreempt launch die => Sys2Proof.Machine.execStarvePreempt launch die s
  | .park die core => Sys2Proof.Machine.execPark die core s
  | .restore warp die core part slot => Sys2Proof.Machine.execRestore warp die core part slot s
  | .powerGate unit => Sys2Proof.Machine.execPowerGate unit s
  | .powerWake unit => Sys2Proof.Machine.execPowerWake unit s
  | .rds die line => Sys2Proof.Machine.execRds die line s
  | .rdx die line => Sys2Proof.Machine.execRdx die line s
  | .upg die line => Sys2Proof.Machine.execUpg die line s
  | .fwd die line => Sys2Proof.Machine.execFwd die line s
  | .inv die line => Sys2Proof.Machine.execInv die line s
  | .invack die line => Sys2Proof.Machine.execInvack die line s
  | .data die line => Sys2Proof.Machine.execData die line s
  | .wbd die line => Sys2Proof.Machine.execWbd die line s
  | .binv die line => Sys2Proof.Machine.execBinv die line s
  | .directoryEvict line => Sys2Proof.Machine.execDirectoryEvict line s
  | .cacheEvict die line => Sys2Proof.Machine.execCacheEvict die line s
  | .evtCons vf v => Sys2Proof.Machine.execEvtCons vf v s
  | .fltCons vf v => Sys2Proof.Machine.execFltCons vf v s
  | .qcfgWrite vf q off v => Sys2Proof.Machine.execQcfgWrite vf q off v s
  | .lattol vf p v => Sys2Proof.Machine.execLattol vf p v s
  | .registerWrite fn off v => Sys2Proof.Machine.execRegisterWrite fn off v s
  | .ctxCreate vf => Sys2Proof.Machine.execCtxCreate vf s
  | .ctxDestroy vf => Sys2Proof.Machine.execCtxDestroy vf s
  | .ctxReset vf => Sys2Proof.Machine.execCtxReset vf s
  | .ctxPreempt vf => Sys2Proof.Machine.execCtxPreempt vf s
  | .ctxResume vf => Sys2Proof.Machine.execCtxResume vf s
  | .queueFlush vf => Sys2Proof.Machine.execQueueFlush vf s
  | .queueRestart vf => Sys2Proof.Machine.execQueueRestart vf s
  | .pageFlush vf => Sys2Proof.Machine.execPageFlush vf s
  | .faultResolve vf => Sys2Proof.Machine.execFaultResolve vf s
  | .faultCancel vf => Sys2Proof.Machine.execFaultCancel vf s
  | .attest vf => Sys2Proof.Machine.execAttest vf s
  | .checkpointSeal vf => Sys2Proof.Machine.execCheckpointSeal vf s
  | .checkpointRestore vf => Sys2Proof.Machine.execCheckpointRestore vf s
  | .hartStart vf => Sys2Proof.Machine.execHartStart vf s
  | .hartStop vf => Sys2Proof.Machine.execHartStop vf s
  | .vfApply => Sys2Proof.Machine.execVfApply s
  | .scrub => Sys2Proof.Machine.execScrub s
  | .partitionReset => Sys2Proof.Machine.execPartitionReset s
  | .deviceReset => Sys2Proof.Machine.execDeviceReset s
  | .configLoad => Sys2Proof.Machine.execConfigLoad s
  | .vfFlr vf => Sys2Proof.Machine.execVfFlr vf s
  | .conventionalReset => Sys2Proof.Machine.execConventionalReset s
  | .hostWindowRead vf off acc => Sys2Proof.Machine.execHostWindowRead vf off acc s
  | .hostWindowWrite vf off bytes => Sys2Proof.Machine.execHostWindowWrite vf off bytes s
  | .yeleramAccess hart ipa acc => Sys2Proof.Machine.execYeleramAccess hart ipa acc s
  | .trauxFlit port crcOk => Sys2Proof.Machine.execTrauxFlit port crcOk s
  | .portDown port => Sys2Proof.Machine.execPortDown port s
  | .errorCorrected kind addr => Sys2Proof.Machine.execErrorCorrected kind addr s
  | .errorUncorrectable kind addr warp ctx die => Sys2Proof.Machine.execErrorUncorrectable kind addr warp ctx die s
  | .escalationTimeout => Sys2Proof.Machine.execEscalationTimeout s
  | .thermalSignal stack => Sys2Proof.Machine.execThermalSignal stack s
  | .thermalClear stack => Sys2Proof.Machine.execThermalClear stack s
  | .thermalHoldExpire stack => Sys2Proof.Machine.execThermalHoldExpire stack s
  | .remoteAccess pkg pa acc => Sys2Proof.Machine.execRemoteAccess pkg pa acc s
  | .selfInvalidatingWriteBack die line => Sys2Proof.Machine.execSelfInvalidatingWriteBack die line s

end Sys2Proof.Machine
end

