-- ==== Sys2Proof/Machine/Turn.lean ====
section
/-! DEFINITION. Whose turn it is. The manual leaves the order of warps and of the device's own doings open (R5, R31, R220): the agenda names what
happens next, and where it is empty the rules here choose. -/

namespace Sys2Proof.Machine

/-! ### Rows that move something along -/

/-- Operations that some entry of a warp waits for. -/
def pendingOps (w : Warp) : List Nat := (w.lanes.flatMap fun x => x.weft.filterMap (·.pend)).eraseDups

/-- A copy's next happening. -/
def copyRows (c : Copy) : List Instr :=
  match c.status, c.left with
  | .going, (o, n) :: _ => [.copyLand c.cid o n]
  | .failing .., _ => [.copyFail c.cid]
  | _, _ => []

/-- A matrix unit's next happening. -/
def unitRows (s : State) (u : MatrixUnit) : List Instr :=
  match u.jobs with
  | [] => []
  | j :: _ =>
    match j.copy with
    | none => [.matrixOpPerform u.die u.core u.part]
    | some cid =>
      match findCopy s cid with
      | some c => copyRows c
      | none => [.followOnMstream cid]

/-- What completes everything a warp issued. -/
def quietRows (s : State) (w : Warp) : List Instr :=
  (pendingOps w).map (fun o => .pendingFill w.id o) ++ (w.ops.filter (·.done)).map (fun o => .pegClear w.id o.id)
    ++ (s.copies.filter fun c => c.warp == w.id).flatMap copyRows
    ++ (s.units.filter fun u => u.jobs.any fun j => j.warp == w.id).flatMap (unitRows s)

/-- What a stalled warp waits for. -/
def stallRows (s : State) (w : Warp) : Stall → List Instr
  | .value o => [.pendingFill w.id o]
  | .values => (pendingOps w).map fun o => .pendingFill w.id o
  | .pegs m =>
    (w.ops.filter fun o => o.pegs &&& m != 0).flatMap fun o =>
      if o.done then [.pegClear w.id o.id]
      else (s.copies.filter fun c => c.op == o.id).flatMap copyRows
        ++ (s.units.filter fun u => u.jobs.any fun j => j.op == some o.id).flatMap (unitRows s)
  | .copyQueue => (s.copies.filter fun c => c.die == w.die && c.core / 4 == w.core / 4).flatMap copyRows
  | .matrixQueue | .matrixDone => unitRows s (unitOf s w)
  | .quiet => quietRows s w
  | .stack _ => []

/-- A command taken and not performed (R334). -/
def commandRows (vf : Nat) (code : BitVec 8) : List Instr :=
  match code.toNat with
  | 0x01 => [.ctxCreate vf]
  | 0x02 => [.ctxDestroy vf]
  | 0x03 => [.ctxReset vf]
  | 0x04 => [.ctxPreempt vf]
  | 0x05 => [.ctxResume vf]
  | 0x06 => [.queueFlush vf]
  | 0x07 => [.queueRestart vf]
  | 0x08 => [.pageFlush vf]
  | 0x09 => [.faultResolve vf, .faultCancel vf]
  | 0x0A => [.attest vf]
  | 0x0B => [.checkpointSeal vf, .checkpointRestore vf]
  | 0x0C => [.hartStart vf]
  | 0x0D => [.hartStop vf]
  | 0x81 => [.vfApply]
  | 0x82 => [.scrub]
  | 0x83 => [.partitionReset]
  | 0x84 => [.deviceReset]
  | 0x85 => [.configLoad]
  | _ => []

def pageRows (s : State) : List Instr :=
  s.vfs.flatMap (fun p => (p.cmd.map (commandRows p.vf)).getD []) ++ (s.pf.cmd.map (commandRows 64)).getD []

/-- A coherence message under way (R242). -/
def msgRow (m : Msg) : Instr :=
  match m.kind with
  | .fwd .. => .fwd m.die m.line
  | .inv => .inv m.die m.line
  | .binv => .binv m.die m.line
  | .ack _ | .nack => .invack m.die m.line
  | .data .. => .data m.die m.line
  | .wbd _ => .wbd m.die m.line

def warpRows (s : State) (w : Warp) : List Instr :=
  match w.status with
  | .creating => [.warpCreate w.id]
  | .leaving => quietRows s w
  | _ => if isStopping s w.id && w.atStop then quietRows s w ++ [.preemptSave w.id] else []

/-- A queue's happenings: its oldest record completes, its pair is written back, its next line is read. -/
def queueRows (q : Queue) : List Instr :=
  (if q.recs.isEmpty then [] else [.recordComplete q.num]) ++ (if q.wbDue then [.queueWriteBack q.num] else [])
    ++ (if q.enabled && decide (q.c.toNat < q.p.toNat) then [.ringRead q.num] else [])

/-- The device partitions with a record that has not started. -/
def dispatchRows (s : State) : List Instr :=
  (((s.queues.filter fun q => q.recs.any fun r => !r.started).map fun q => partitionOfVf s q.vf).eraseDups).map .dispatchDecision

/-- A take from another bobbin that does more than change which of the two holds one record more. -/
def takeHelps (s : State) (l : Launch) (c : Nat × Nat) : Bool :=
  (donor s l c.1 c.2).any fun v => decide (groupRecords s l c.1 c.2 + 2 ≤ groupRecords s l c.1 v)

/-- Group records: those that move between the bobbins of a quad, and those that the dies make evenly, the die with most left first. A die steals
when none can make one. -/
def launchRows (s : State) (l : Launch) : List Instr :=
  let left := l.dists.filter fun d => d.left l.groups != 0
  let full := s.bobbins.filter fun b => b.ctx == l.ctx && b.pat == l.pat && b.stage == 0 && decide (2 ≤ b.recs.length)
  (full.flatMap fun b => ((List.range 4).map fun j => (b.die, b.core / 4 * 4 + j)).filter (takeHelps s l)).map
      (fun c => .bobbinTake l.key c.1 c.2)
    ++ (sortBy (fun a b => decide (b.left l.groups ≤ a.left l.groups)) left).map (fun d => .groupRecordMake l.key d.die)
    ++ (l.dists.filter fun d => !d.done && d.left l.groups == 0).map (fun d => .steal l.key d.die)

/-- The cores on which a slot may be assigned. -/
def busyCores (s : State) : List (Nat × Nat) :=
  ((s.bobbins.filter fun b => !b.recs.isEmpty).map (fun b => (b.die, b.core))
    ++ s.saved.flatMap fun x => (List.range 96).map fun c => (x.warp.die, c)).eraseDups

/-! ### Stalls -/

/-- What a stalled warp waits for has not happened yet. -/
def stillStalled (s : State) (w : Warp) : Bool :=
  match w.stalled with
  | none => false
  | some (.value o) => (pendingOps w).contains o
  | some .values => !(pendingOps w).isEmpty
  | some (.pegs m) => w.pegs &&& m != 0
  | some .copyQueue => decide (64 ≤ (s.copies.filter fun c => c.die == w.die && c.core / 4 == w.core / 4).length)
  | some .matrixQueue => decide (8 ≤ ((unitOf s w).jobs.filter fun j => j.copy.isNone).length)
  | some .matrixDone => jobsDue s w
  | some .quiet => !isQuiet s w
  | some (.stack n) => isHolding s n

def unstall (s : State) (id : Nat) : State := updateWarp s id fun w => { w with stalled := none }

/-- What the device may do of its own accord, in kinds that take turns. -/
def rowKinds (s : State) : List (List Instr) :=
  [s.coh.msgs.map msgRow,
   (warps s).flatMap fun w => (w.stalled.map (stallRows s w)).getD [],
   pageRows s,
   (warps s).flatMap (warpRows s),
   s.units.flatMap (unitRows s),
   s.copies.flatMap copyRows,
   s.queues.flatMap queueRows,
   dispatchRows s,
   (s.patterns.filter fun p => !p.unloading.isEmpty).map (fun p => .patternUnload p.ctx p.addr),
   s.launches.flatMap (launchRows s),
   (s.segments.filter fun g => !g.entries.isEmpty).map (fun g => .overflowToBobbin g.ctx g.pat g.stage.toNat g.die),
   (busyCores s).map (fun c => .slotAssign c.1 c.2),
   (s.bobbins.filter fun b => !b.recs.isEmpty && !b.expired).map (fun b => .gatherTimerExpire b.ctx b.pat b.stage.toNat b.die b.core),
   (busyCores s).map (fun c => .park c.1 c.2),
   s.launches.flatMap fun l => l.dists.map fun d => .starvePreempt l.key d.die]

/-- A list begun at its n-th element, round. -/
def turned {α : Type} (n : Nat) (l : List α) : List α := if l.isEmpty then l else l.drop (n % l.length) ++ l.take (n % l.length)

/-- The device's own doings in the order in which the model tries them now: each kind, and each row of it, comes first in its turn, so that none
waits for ever while another goes on (R2, R214, R215). -/
def autoRows (s : State) : List Instr :=
  let kinds := rowKinds s
  (turned s.rowTurn kinds).flatMap (turned (s.rowTurn / kinds.length))

/-- Whether a row changes anything now. -/
def acts (s : State) (i : Instr) : Bool :=
  match exec i s with
  | .next t => decide (t ≠ s)
  | _ => false

def firstActing (s : State) (is : List Instr) : Option Instr := is.find? (acts s)

/-! ### Passing the turn -/

/-- A warp that could issue: it runs, and is not stopped for pre-emption. -/
def runnable (s : State) (w : Warp) : Bool := w.status == .running && !(isStopping s w.id && w.atStop)

/-- R222's readiness, fetching apart: the warp can issue, and waits for nothing. -/
def ready (s : State) (w : Warp) : Bool := runnable s w && !stillStalled s w

/-- A scheduler partition's number in the package (R332). -/
def Warp.partKey (w : Warp) : Nat := (w.die * 96 + w.core) * 4 + w.part

/-- The yield hint of the clause at whose end a warp stands (R34). -/
def Warp.hinted (w : Warp) : Bool := (match w.phase with
  | .fetch _ => true
  | _ => false) && w.header.getLsbD 35

/-- A YIELD holds while some warp that was ready when it issued is ready and has not issued since (R179). -/
def behindOthers (s : State) (w : Warp) : Bool := w.behind.any fun k => (findWarp s k).elim false (ready s)

/-- R222's choice of the second kind: no yield hint first, then the higher stage priority, then the longest ready. -/
def sooner (s : State) (a b : Warp) : Bool :=
  if a.hinted != b.hinted then b.hinted
  else if prioOf s a != prioOf s b then decide (prioOf s b < prioOf s a)
  else decide (b.waited ≤ a.waited)

/-- The warp of a partition that issues next (R179, R222): one that has waited for 8 issues for each resident warp, longest first; otherwise the
first by priority. -/
def chooseWarp (s : State) (key : Nat) : Option Warp :=
  let all := (warps s).filter fun w => w.resident && w.partKey == key
  let able := all.filter fun w => ready s w
  let free := able.filter fun w => !behindOthers s w
  let rs := if free.isEmpty then able else free
  match sortBy (fun a b => decide (b.waited ≤ a.waited)) (rs.filter fun w => decide (8 * all.length ≤ w.waited)) with
  | w :: _ => some w
  | [] => (sortBy (sooner s) rs).head?

/-- The partitions with a ready warp, those after the one that issued last first. -/
def nextParts (s : State) : List Nat :=
  let keys := ((warps s).filter fun w => w.resident && ready s w).map (·.partKey)
  let least := fun (l : List Nat) => l.foldl (fun (b : Option Nat) k => some (b.elim k (min k))) none
  ((least (keys.filter fun k => decide (s.partTurn < k))).elim [] fun k => [k]) ++ ((least keys).elim [] fun k => [k])

/-- What a choice leaves with the warps of its partition: the one chosen has issued, the other ready ones have waited once more. -/
def noteChoice (s : State) (key id : Nat) : State :=
  mapWarps s fun w =>
    if w.partKey != key then w
    else if w.id == id then { w with waited := 0, behind := [] }
    else { w with waited := if ready s w then w.waited + 1 else 0, behind := w.behind.filter fun k => k != id }

/-- A YIELD takes hold as the turn passes: the other ready warps of its partition go before its warp. -/
def standBack (s : State) : State :=
  if s.warp.stood then
    { s with warp := { s.warp with
      stood := false
      behind := (s.others.filter fun w => w.partKey == s.warp.partKey && ready s w).map (·.id) } }
  else s

/-- The turn goes to a warp. -/
def takeTurn (s : State) (id : Nat) : State :=
  match s.others.find? fun w => w.id == id with
  | none => s
  | some w =>
    { s with warp := { w with yielded := false }
             others := s.others.filter (fun v => v.id != id) ++ (if s.warp.resident then [s.warp] else []) }

/-- The turn passes: to the next partition with a ready warp, and in it by R222. -/
def passTurn (s : State) : State :=
  let s := standBack s
  match nextParts s with
  | [] => { s with warp := { s.warp with yielded := false } }
  | key :: _ =>
    match chooseWarp s key with
    | none => { s with warp := { s.warp with yielded := false } }
    | some w =>
      let s := { noteChoice s key w.id with partTurn := key }
      let s := if s.warp.id == w.id then s else takeTurn s w.id
      { s with warp := { s.warp with yielded := false } }

/-- The turn goes to a warp that the agenda names, as a choice of its partition (R222); a warp whose YIELD still holds does not get it (R179). -/
def namedTurn (s : State) (id : Nat) : State :=
  let s := standBack s
  match findWarp s id with
  | none => s
  | some w =>
    if !w.resident || behindOthers s w then s
    else
      let s := { noteChoice s w.partKey id with partTurn := w.partKey }
      let s := takeTurn s id
      if s.warp.id == id then { s with warp := { s.warp with yielded := false } } else s

/-- Between two issues one of the device's own doings happens, where one can, and the turn passes. -/
def between (s : State) : Result :=
  match firstActing s (autoRows s) with
  | some i =>
    match exec i s with
    | .next t => .next (passTurn { t with rowTurn := t.rowTurn + 1 })
    | other => other
  | none => .next (passTurn { noteReady s with rowTurn := s.rowTurn + 1 })

/-! ### A warp that waits -/

/-- What a stalled warp waits for moves; once it has happened the warp tries again. Where nothing moves, the turn passes. -/
def relieve (s : State) (why : Stall) : Result :=
  if !stillStalled s s.warp then .next (unstall s s.warp.id)
  else
    match firstActing s (stallRows s s.warp why) with
    | some i => exec i s
    | none => between s

/-! ### The focus issues -/

/-- The word at the warp's place decoded and run; one that does not decode traps (R47, R363). -/
def runWord (s : State) : Result :=
  let w := s.warp
  let stop := fun (code : Nat) => settle s (wordLits w.cur) (.trap s { code := code, tmask := w.active, tinfo := w.cur })
  match decode w.mt w.cur with
  | .ok i => exec i s
  | .illop => stop Cause.illop
  | .illopnd => stop Cause.illopnd

/-- The next thing a running warp does (R17 to R19, R31, R183, R306, R388). -/
def runWarp (s : State) : Result :=
  let w := s.warp
  if w.replay then
    .next (if isQuiet s w then replayNow s w else { s with warp := { w with stalled := some .quiet } })
  else if w.reportDue then exec .copyFailReport s
  else if w.spoolDue then .next (spool s)
  else
    match w.phase with
    | .fetch _ => exec .clauseFetch s
    | .check _ => exec .clauseStart s
    | .issue => if w.overLimit then exec .watchdogStall s else runWord s

/-- The focus's turn. -/
def runFocus (s : State) : Result :=
  if !runnable s s.warp || s.warp.yielded then between s
  else
    match s.warp.stalled with
    | some why => relieve s why
    | none => runWarp s

/-! ### The agenda -/

/-- Rows that are a warp's own instructions, or its own steps around them: they happen in its turn alone. -/
def ofWarp : Instr → Bool
  | .clauseFetch | .clauseStart | .watchdogStall | .copyFailReport => true
  | i => i.hasWord

/-- The next happening that the agenda names. -/
def runAgenda (s : State) (h : Happening) (rest : List Happening) : Result :=
  let s := { s with agenda := rest }
  match h with
  | .turn id => .next (namedTurn s id)
  | .hart n d => .next (hartDeed s n d)
  | .row i => if ofWarp i then .next s else exec i s

/-- One step of the machine. A change of a watched granule not yet tried on the heddles comes first (R204); a reset level under way completes before
anything else, unless its timeout is what happens (R391). -/
def turn (s : State) : Result :=
  if !s.sec.started then .fault .notStarted
  else if !s.changes.isEmpty then .next (nextChange s)
  else
    match s.escalating, s.agenda with
    | some _, .row .escalationTimeout :: rest => runAgenda s (.row .escalationTimeout) rest
    | some _, _ => .next (finishLevel s)
    | none, h :: rest => runAgenda s h rest
    | none, [] => runFocus s

/-! ### Placing a word -/

/-- A block of one word, its literals zeros. -/
def blockOf (w : Word) : List Word :=
  ((word ((1 + wordLits w) * 2 ^ 58) :: w :: List.replicate 14 0) : List Word)

/-- A warp with every lane active that is about to issue a word. -/
def placedWarp (w : Warp) (v : Word) : Warp :=
  { w with
    status := .running, buf := blockOf v, phase := .issue, idx := 1, stalled := none, yielded := false, reports := [], replay := false, wcount := 0
    active := if w.active = 0 then -1 else w.active, gone := if w.active = 0 then 0 else w.gone
    recs := if w.active = 0 then List.replicate 32 (some {}) else w.recs
    id := if w.id = 0 then 1 else w.id
    pleatsOut := w.pleats.length - 16, callsOut := w.calls.length - 2 }

end Sys2Proof.Machine
end

