-- ==== Sys2Proof/Machine/Step.lean ====
section
/-! DEFINITION. One step of the machine, and how a word is placed where the next step finds it. -/

namespace Sys2Proof.Machine

/-- One step: the next happening of the package. -/
def step (s : State) : Host.Outcome State Fault Refusal := turn s

/-- The state with an instruction in the clause buffer of the warp that has the turn, ready to issue with every lane active. A warp comes to
stand so by a launch: a queue configured by the host, a record published, a bobbin's launch, a slot, a creation, a fetch. -/
def State.withFetchWord (s : State) (nbits w : Nat) : State :=
  { s with
    warp := placedWarp s.warp (BitVec.ofNat 64 (w % 2 ^ nbits))
    nextId := max s.nextId 2, agenda := [], changes := [], escalating := none, stopping := [], sec := { s.sec with started := true } }

end Sys2Proof.Machine
end

