-- ==== Sys2Proof/Safety.lean ====
section
/-! DEFINITION. What claims about runs are stated in: outcomes that go on, memory in its canonical form, the state in which a warp's next
step issues the word at its place, and the words for what an instruction changes and what it leaves. -/

namespace Sys2Proof.Machine

/-- Device memory and every group's scratchpad are in canonical form. -/
def State.memOk (s : State) : Bool := Memory.wf s.mem && s.groups.all fun g => Memory.wf g.mem

/-- The machine goes on. -/
def goesOn (r : Result) : Bool :=
  match r with
  | .next _ => true
  | _ => false

/-- The focus has its turn: no happening and no change of a watched granule due, the warp running, no stall and nothing yielded. -/
def State.hasTurn (s : State) : Bool :=
  s.sec.started && s.changes.isEmpty && s.escalating.isNone && s.agenda.isEmpty && runnable s s.warp && s.warp.stalled.isNone && !s.warp.yielded

/-- Nothing stands before the focus's next word: no happening due, the warp running and at an instruction, with no stall, report, replay,
spool or watchdog limit in its way. -/
def State.issues (s : State) : Bool :=
  s.hasTurn && !s.warp.replay && !s.warp.reportDue && !s.warp.spoolDue && decide (s.warp.phase = .issue) && !s.warp.overLimit

/-! ### When an instruction issues, and what it is -/

/-- An instruction of the warp that has the turn, with its literals. -/
def State.issue (s : State) (i : Instr) : Issue := Issue.of s.warp i

/-- The checks that every instruction has: named slots lie in the frame and named pegs are valid (R16, R33, R46), and no source waits for a
value (R14). -/
def Ready (i : Instr) (s : State) : Prop := operandsOk (s.issue i) = true ∧ pendingOf (s.issue i) = none

/-- The flags of the lanes of a mask together (R91). -/
def flagsOf (m : Mask) (fl : Nat → Flags) : Flags := (lanesOf m).foldl (fun f l => f ||| fl l) 0

/-- No flag raised is one whose trap is enabled, or the warp is in handler mode (R91). -/
def NoFpx (s : State) (m : Mask) (fl : Nat → Flags) : Prop :=
  s.warp.h = true ∨ flagsOf m fl &&& enables s.warp.fpmode = 0

/-! ### What it changes -/

/-- The lanes of a mask changed, every other lane as it was. -/
def LanesBecome (s t : State) (m : Mask) (f : Nat → Lane → Lane) : Prop :=
  t.warp.lanes.length = s.warp.lanes.length
    ∧ ∀ l y, s.warp.lanes[l]? = some y → t.warp.lanes[l]? = some (if m.getLsbD l then f l y else y)

/-- A lane with words pushed, the last on top (R12, R13). -/
def Lane.pushes (y : Lane) (vs : List Word) : Lane := vs.foldl (fun z v => z.push { val := v }) y

/-- A lane with predicates written (R15). -/
def Lane.setPreds (y : Lane) (ps : List (Nat × Bool)) : Lane := ps.foldl (fun z p => z.setPred p.1 p.2) y

/-- At the next word of the block past n literals, or at the next block (R32). -/
def PlaceOn (n : Nat) (s t : State) : Prop :=
  if s.warp.idx + 1 + n > Header.length s.warp.header then
    t.warp.base = s.warp.nextBlock ∧ t.warp.idx = 1 ∧ t.warp.phase = .fetch .start
  else t.warp.base = s.warp.base ∧ t.warp.idx = s.warp.idx + 1 + n ∧ t.warp.phase = s.warp.phase

/-- On past an instruction with n literals: its fold into the selvage, except in handler mode (R384), and the watchdog's count (R183). -/
def MovesOn (n : Nat) (s t : State) : Prop :=
  t.warp.sig = (if s.warp.h then s.warp.sig else foldWord s.warp.sig s.warp.cur) ∧ t.warp.wcount = s.warp.counted.wcount ∧ PlaceOn n s t

/-- Everything but the warp that has the turn is as it was. -/
def RestSame (s t : State) : Prop := { t with warp := s.warp } = s

/-- The warp is as it was but for its lanes, its uniform weft, its sticky flags, its selvage, its count and its place. -/
def WarpFrame (s t : State) : Prop :=
  t.warp = { s.warp with
    lanes := t.warp.lanes, ux := t.warp.ux, fpflags := t.warp.fpflags, sig := t.warp.sig, wcount := t.warp.wcount, base := t.warp.base
    idx := t.warp.idx, phase := t.warp.phase, yielded := t.warp.yielded }

/-- The control state of the warp is all that changed: lanes, masks, pleat entries, call levels, frame size, selvage, count, place. -/
def ControlFrame (s t : State) : Prop :=
  t = { s with warp := { s.warp with
    lanes := t.warp.lanes, active := t.warp.active, pleats := t.warp.pleats, calls := t.warp.calls, frame := t.warp.frame
    sig := t.warp.sig, wcount := t.warp.wcount, base := t.warp.base, idx := t.warp.idx, phase := t.warp.phase, yielded := t.warp.yielded } }

/-- The warp is about to begin a block (R32, R384). -/
def BeginsBlock (t : State) (target : Word) : Prop := t.warp.base = target ∧ t.warp.idx = 1 ∧ t.warp.phase = .fetch .start

/-- The instruction traps (R362 to R366): nothing but its trap happens. -/
def TrapsWith (s : State) (i : Instr) (t : Trap) : Prop :=
  exec i s = .next (takeTrap s t (s.warp.wordAddr s.warp.idx) (s.warp.nextAddr (litCount i)))

/-- Words pushed as entries still pending from one operation, the last on top (R14, R57). -/
def Lane.pushesFrom (y : Lane) (op : Nat) (vs : List Word) : Lane := vs.foldl (fun z v => z.push { val := v, pend := some op }) y

/-- A long-latency instruction issues: its lanes take their pending entries, its pegs are set where some lane acts (R20), it moves on; of the warp
nothing else changes. -/
def OpEffect (i : Instr) (m : Mask) (peg : PegSel) (v : Nat → List Word) (s t : State) : Prop :=
  LanesBecome s t m (fun l y => y.pushesFrom s.nextId (v l))
    ∧ t.warp.ops = s.warp.ops ++ (if pegMask s.warp peg ≠ 0 ∧ m ≠ 0 then [{ id := s.nextId, pegs := pegMask s.warp peg, done := true }] else [])
    ∧ MovesOn (litCount i) s t
    ∧ t.warp = { s.warp with
        lanes := t.warp.lanes, ops := t.warp.ops, sig := t.warp.sig, wcount := t.warp.wcount, base := t.warp.base, idx := t.warp.idx
        phase := t.warp.phase, yielded := t.warp.yielded }

/-- No cache of the package holds a copy that could differ from memory, nothing is poisoned, held, down or watched: accesses reach memory
itself. -/
abbrev Still (s : State) : Prop :=
  s.caches.clean = [] ∧ s.caches.dirty = [] ∧ s.caches.undef = [] ∧ s.coh = {} ∧ s.poison = []
    ∧ s.hbmStacks = [] ∧ s.ports = [] ∧ s.heddles = [] ∧ (∀ c ∈ s.ply, c.poisoned = false) ∧ (∀ g ∈ s.groups, g.poison = [])

/-- The same, with no matrix operation of the warp due. -/
abbrev Calm (s : State) : Prop := Still s ∧ jobsDue s s.warp = false

/-- An access at a place of memory meets nothing that stops it or makes its bytes free: no poison, no held stack, no line under two treatments. -/
abbrev Clear (s : State) (treat pa : Nat) : Prop :=
  meetsPoison s pa = false ∧ cannotStore s pa = false ∧ isHeld s pa = false ∧ isUndef s pa = false ∧ heldOtherwise s treat (lineOf pa) = false

/-- No die's home cache has to make room for n more lines (R10, R240). -/
abbrev HomeRoom (s : State) (n : Nat) : Prop := s.coh.copies.length + s.caches.clean.length + s.caches.dirty.length + n ≤ homeCapacity

/-- The groups, but for what their warps are not yet ordered after (R259). -/
def State.plainGroups (s : State) : List Group := s.groups.map fun g => { g with loose := [] }

/-- An instruction that acts lane by lane completes: each acting lane is changed, no other; flags become sticky; nothing else changes. -/
def LaneEffect (i : Instr) (m : Mask) (f : Nat → Lane → Lane) (fl : Nat → Flags) (s t : State) : Prop :=
  LanesBecome s t m f ∧ t.warp.ux = s.warp.ux ∧ t.warp.fpflags = s.warp.fpflags ||| word (flagsOf m fl).toNat
    ∧ MovesOn (litCount i) s t ∧ RestSame s t ∧ WarpFrame s t

/-- The same for a `.uw` form: the values go to the uniform weft once, when the guard holds in the lowest active lane (R38). -/
def UniformEffect (i : Instr) (m : Mask) (v : Nat → List Word) (fl : Nat → Flags) (s t : State) : Prop :=
  LanesBecome s t 0 (fun _ y => y)
    ∧ t.warp.ux = (match lowest m with | some l => pushUx s.warp.ux (v l) | none => s.warp.ux)
    ∧ t.warp.fpflags = s.warp.fpflags ||| word (flagsOf m fl).toNat
    ∧ MovesOn (litCount i) s t ∧ RestSame s t ∧ WarpFrame s t

/-- An instruction that pushes values, and in its `.uw` form pushes them to the uniform weft. -/
def Pushes (s : State) (i : Instr) (u : Bool) (g : Guard) (v : Nat → List Word) (fl : Nat → Flags) : Prop :=
  Ready i s → NoFpx s (actingOf s.warp u g) fl →
    ∃ t, exec i s = .next t
      ∧ if u then UniformEffect i (actingOf s.warp u g) v fl s t
        else LaneEffect i (acting s.warp g) (fun l y => y.pushes (v l)) fl s t

/-- The same with one value and no flag. -/
def PushesOne (s : State) (i : Instr) (u : Bool) (g : Guard) (v : Nat → Word) : Prop :=
  Pushes s i u g (fun l => [v l]) (fun _ => 0)

/-- An instruction that changes its acting lanes and raises flags. -/
def ChangesLanes (s : State) (i : Instr) (g : Guard) (f : Nat → Lane → Lane) (fl : Nat → Flags) : Prop :=
  Ready i s → NoFpx s (acting s.warp g) fl → ∃ t, exec i s = .next t ∧ LaneEffect i (acting s.warp g) f fl s t

end Sys2Proof.Machine
end

