-- ==== Sys2Proof/Certificates/Slice0/Obligations.lean ====
section
/-! DEFINITION. What is claimed of the model, for the provers: each claim is a proposition, and nothing here is proved. -/

open Sys2Proof Sys2Proof.Machine

/-! ### The weft, integers, logic (R101 to R113) -/

/-- R101, R102: PICK copies a slot, SAVE writes a pocket slot and nothing else, PACK puts an element into a container, UNPACK takes one out.
The counts of F are those that the word admits and all others. -/
def Obligations.WeftGroup : Prop :=
  ∀ (s : State) (g : Guard) (u sat : Bool) (a : OpA) (b : OpB) (t : Ty) (idx : Fin 16) (slot : Fin 32),
    PushesOne s (.pick g u a) u g (fun l => valA (s.issue (.pick g u a)) .arith .z64 a l)
    ∧ ChangesLanes s (.save g a slot) g
        (fun l y => { y with pocket := y.pocket.set slot.val (valA (s.issue (.save g a slot)) .arith .z64 a l) }) (fun _ => 0)
    ∧ (let x := s.issue (.pack g sat idx t a b)
       let v := fun l => intOf (if t.isSigned then .s64 else .z64) (valB x .arith t b l).toNat
       Pushes s (.pack g sat idx t a b) false g
         (fun l => [setElem t.width idx.val (valA x .arith t a l) (wrap t.width (if sat then (clamp t (v l)).1 else v l))])
         (fun l => if sat && (clamp t (v l)).2 then Flag.sat else 0))
    ∧ PushesOne s (.unpack g idx t a) false g
        (fun l => extend t (elemOf t.width idx.val (valA (s.issue (.unpack g idx t a)) .arith t a l).toNat))

/-- R80, R103, R105, R107: the exact result of each element, wrapped, or clamped under `.sat`, where SAT is raised when the clamp changed it. -/
def Obligations.IntegerArithmetic : Prop :=
  ∀ (s : State) (g : Guard) (u sat : Bool) (t : Ty) (a : OpA) (b : OpB) (c : Src),
    let out := fun (i : Instr) (sat : Bool) (f : (Nat → Nat → Int) → (Nat → Nat → Int) → (Nat → Nat → Int) → Nat → Nat → Int) =>
      let x := s.issue i
      let r := f (fun l k => intElem t (valA x .arith t a l) k) (fun l k => intElem t (valB x .arith t b l) k)
        (fun l k => intElem t (srcC x c l) k)
      Pushes s i u g (fun l => [placeElems t fun k => wrap t.width (if sat then (clamp t (r l k)).1 else r l k)])
        (fun l => if sat && (List.range t.elems).any (fun k => (clamp t (r l k)).2) then Flag.sat else 0)
    out (.iadd g u sat t a b) sat (fun A B _ l k => A l k + B l k)
    ∧ out (.isub g u sat t a b) sat (fun A B _ l k => A l k - B l k)
    ∧ out (.imin g u t a b) false (fun A B _ l k => min (A l k) (B l k))
    ∧ out (.imax g u t a b) false (fun A B _ l k => max (A l k) (B l k))
    ∧ out (.iclamp g u t a b c) false (fun A B C l k => min (max (A l k) (B l k)) (C l k))
    ∧ out (.imul g u sat t a b) sat (fun A B _ l k => A l k * B l k)
    ∧ out (.imad g u sat t a b c) sat (fun A B C l k => A l k * B l k + C l k)
    ∧ out (.imulh g u t a b) false (fun A B _ l k => A l k * B l k / ((2 ^ t.width : Nat) : Int))

/-- R103, R105 to R107: IABSD as an unsigned value, LEA, ISAT, the dot products, and IMADW's two words, high then low. -/
def Obligations.IntegerForms : Prop :=
  ∀ (s : State) (g : Guard) (u sat : Bool) (t st : Ty) (a : OpA) (b : OpB) (c : Src),
    (let x := s.issue (.iabsd g u t a b)
     PushesOne s (.iabsd g u t a b) u g (fun l => word (packElems t.width
       (fun k => (intElem t (valA x .arith t a l) k - intElem t (valB x .arith t b l) k).natAbs) t.elems)))
    ∧ (let x := s.issue (.lea g u t a b c)
       PushesOne s (.lea g u t a b c) u g (fun l => wordI ((valA x .arith t a l).toNat
         + intOf (if t.isSigned then .s32 else .z32) (valB x .arith .z32 b l).toNat * ((2 ^ ((srcC x c l).toNat % 64) : Nat) : Int))))
    ∧ (let x := s.issue (.isat g u st t a)
       let v := fun l => intElem st (valA x .arith st a l) 0
       t.isInt = true → Pushes s (.isat g u st t a) u g (fun l => [extend t (wrap t.width (clamp t (v l)).1)])
         (fun l => if (clamp t (v l)).2 then Flag.sat else 0))
    ∧ (let x := s.issue (.imadw g u t a b c)
       let r := fun l => (intOf t (valA x .arith t a l).toNat * intOf t (valB x .arith t b l).toNat
         + ((readHigh s.warp l c).toNat * 2 ^ 64 + (srcC x c l).toNat : Nat)) % ((2 ^ 128 : Nat) : Int)
       Pushes s (.imadw g u t a b c) u g (fun l => [wordI (r l / ((2 ^ 64 : Nat) : Int)), wordI (r l)]) (fun _ => 0))
    ∧ (let x := s.issue (.idot4 g u sat t a b c)
       let e := fun (v : Word) k => if t.isSigned then signedOf 8 (elemOf 8 k v.toNat) else (elemOf 8 k v.toNat : Int)
       let r := fun l => intElem t (srcC x c l) 0 + e (valA x .arith .z32 a l) 0 * e (valB x .arith .z32 b l) 0
         + e (valA x .arith .z32 a l) 1 * e (valB x .arith .z32 b l) 1 + e (valA x .arith .z32 a l) 2 * e (valB x .arith .z32 b l) 2
         + e (valA x .arith .z32 a l) 3 * e (valB x .arith .z32 b l) 3
       t = .s32 ∨ t = .z32 → Pushes s (.idot4 g u sat t a b c) u g
         (fun l => [extend t (wrap t.width (if sat then (clamp t (r l)).1 else r l))])
         (fun l => if sat && (clamp t (r l)).2 then Flag.sat else 0))
    ∧ (let x := s.issue (.idot2 g u sat t a b c)
       let e := fun (v : Word) k => if t.isSigned then signedOf 16 (elemOf 16 k v.toNat) else (elemOf 16 k v.toNat : Int)
       let r := fun l => intElem t (srcC x c l) 0 + e (valA x .arith .z32 a l) 0 * e (valB x .arith .z32 b l) 0
         + e (valA x .arith .z32 a l) 1 * e (valB x .arith .z32 b l) 1
       t = .s32 ∨ t = .z32 → Pushes s (.idot2 g u sat t a b c) u g
         (fun l => [extend t (wrap t.width (if sat then (clamp t (r l)).1 else r l))])
         (fun l => if sat && (clamp t (r l)).2 then Flag.sat else 0))

/-- R104: the unsigned views are added or subtracted with the predicate; the result is pushed, then the predicate takes the carry or the
borrow. -/
def Obligations.CarryChains : Prop :=
  ∀ (s : State) (g : Guard) (t : Ty) (c : Fin 64) (a : OpA) (b : OpB),
    let un := fun (v : Word) => ((v.toNat % 2 ^ t.width : Nat) : Int)
    let cin := fun l => if (s.warp.lane l).pred c.val then (1 : Int) else 0
    (let x := s.issue (.iadc g t c a b)
     let r := fun l => un (valA x .arith t a l) + un (valB x .arith t b l) + cin l
     ChangesLanes s (.iadc g t c a b) g
       (fun l y => (y.push { val := extend t (wrap t.width (r l)) }).setPred c.val (decide (((2 ^ t.width : Nat) : Int) ≤ r l)))
       (fun _ => 0))
    ∧ (let x := s.issue (.isbb g t c a b)
       let r := fun l => un (valA x .arith t a l) - un (valB x .arith t b l) - cin l
       ChangesLanes s (.isbb g t c a b) g
         (fun l y => (y.push { val := extend t (wrap t.width (r l)) }).setPred c.val (decide (r l < 0))) (fun _ => 0))

/-- R109, R113: the logic instructions push the combined word, taken as a value of the type: bit k of LOP3's combination is table bit 4a + 2b + c,
and byte i of PERMB's is the byte of B and A together that nibble i of C numbers. -/
def Obligations.LogicGroup : Prop :=
  (∀ (s : State) (g : Guard) (u : Bool) (t : Ty) (tab : BitVec 8) (a : OpA) (b : OpB) (c : Src),
    let typed := fun (w : Word) => if t.isPacked then w else extend t w.toNat
    let out := fun (i : Instr) (op : Word → Word → Word → Word) =>
      let x := s.issue i
      PushesOne s i u g (fun l => typed (op (valA x .logic t a l) (valB x .logic t b l) (srcC x c l)))
    out (.and g u t a b) (fun A B _ => A &&& B)
    ∧ out (.or g u t a b) (fun A B _ => A ||| B)
    ∧ out (.xor g u t a b) (fun A B _ => A ^^^ B)
    ∧ out (.lop3 g u t tab a b c) (lop3 tab)
    ∧ out (.permb g u t a b c) permuteBytes)
  ∧ (∀ (tab : BitVec 8) (a b c : Word) (k : Nat), k < 64 →
      (lop3 tab a b c).getLsbD k = tab.getLsbD (4 * b2w (a.getLsbD k) + 2 * b2w (b.getLsbD k) + b2w (c.getLsbD k)))
  ∧ (∀ (a b c : Word) (i k : Nat), i < 8 → k < 8 →
      (permuteBytes a b c).getLsbD (8 * i + k) =
        let n := c.toNat / 2 ^ (4 * i) % 16
        if n < 8 then a.getLsbD (8 * n + k) else b.getLsbD (8 * (n - 8) + k))

/-- R110: shifts and rotations of each element's unsigned pattern by the count; the result is extended by R79. That the count is the low w bits of B is
the model's choice (log 23). -/
def Obligations.Shifts : Prop :=
  ∀ (s : State) (g : Guard) (u : Bool) (t : Ty) (a : OpA) (b : OpB) (c : Src),
    let w := t.width
    let out := fun (i : Instr) (op : Nat → Nat → Nat) =>
      let x := s.issue i
      PushesOne s i u g (fun l => placeElems t fun k =>
        op (elemOf w k (valA x .logic t a l).toNat) (elemOf w k (valB x .logic t b l).toNat))
    out (.shl g u t a b) (fun n k => n * 2 ^ k % 2 ^ w)
    ∧ out (.shr g u t a b) (fun n k => n / 2 ^ k)
    ∧ out (.sar g u t a b) (fun n k => wrap w (signedOf w n / ((2 ^ min k (w - 1) : Nat) : Int)))
    ∧ out (.rol g u t a b) (fun n k => packElems 1 (fun j => elemOf 1 ((j + (w - k % w)) % w) n) w)
    ∧ (let x := s.issue (.funnel g u t a b c)
       PushesOne s (.funnel g u t a b c) u g (fun l => extend t
         (((valA x .logic t a l).toNat % 2 ^ w * 2 ^ w + (valB x .logic t b l).toNat % 2 ^ w)
           / 2 ^ ((srcC x c l).toNat % (2 * w)) % 2 ^ w)))

/-- R111, R112: counts and reversal of the low w bits; the field that BFX takes out and BFI puts in, bit by bit; their opcodes, and that only the
scalar integer types are accepted. -/
def Obligations.BitCountsAndFields : Prop :=
  (∀ (s : State) (g : Guard) (u : Bool) (t : Ty) (a : OpA) (b : OpB) (c : Src),
    let w := t.width
    let out := fun (i : Instr) (op : Nat → Word) => PushesOne s i u g (fun l => op ((valA (s.issue i) .logic t a l).toNat % 2 ^ w))
    out (.popc g u t a) (fun n => word ((List.range w).filter fun k => n.testBit k).length)
    ∧ out (.clz g u t a) (fun n => word (((List.range w).find? fun k => n.testBit (w - 1 - k)).getD w))
    ∧ out (.ctz g u t a) (fun n => word (((List.range w).find? fun k => n.testBit k).getD w))
    ∧ out (.brev g u t a) (fun n => extend t (packElems 1 (fun k => elemOf 1 (w - 1 - k) n) w))
    ∧ (let x := s.issue (.bfx g u t a b)
       PushesOne s (.bfx g u t a b) u g (fun l => extend t (fieldOf t (valA x .logic t a l).toNat (valB x .logic .z64 b l).toNat)))
    ∧ (let x := s.issue (.bfi g u t a b c)
       PushesOne s (.bfi g u t a b c) u g (fun l => extend t
         (insertField w ((valA x .logic t a l).toNat % 2 ^ w) (valB x .logic t b l).toNat (srcC x c l).toNat)))
    ∧ ∀ (mt : Bool) (i : Instr) (op : Nat), (i, op) ∈ [(.popc g u t a, 0x0C9), (.clz g u t a, 0x0CA), (.ctz g u t a, 0x0CB), (.brev g u t a, 0x0CC)
        , (.bfx g u t a b, 0x0CD), (.bfi g u t a b c, 0x0CE)] → i.wellFormed mt = true → t.isInt = true ∧ (encode i).toNat / 2 ^ 54 = op)
  ∧ (∀ (t : Ty) (v fd k : Nat), t.isInt = true → k < t.width →
      let p := fd % 256
      let n := fd / 256 % 256
      let bit := fun j => if j < t.width then v.testBit j else t.isSigned && v.testBit (t.width - 1)
      (fieldOf t v fd).testBit k = (n != 0 && (if k < n then bit (p + k) else t.isSigned && bit (p + n - 1))))
  ∧ (∀ (w a v fd k : Nat), a < 2 ^ w → k < w →
      let p := fd % 256
      let n := fd / 256 % 256
      (insertField w a v fd).testBit k = (if p ≤ k ∧ k < p + n then v.testBit (k - p) else a.testBit k))

/-! ### Compares, predicates (R114 to R117) -/

/-- R66, R114, R116, R117: ICMP's conditions on the integer order, SEL's choice, and the instructions that form predicates. R115: FCMP by the order of the
values: the order of the real numbers that finite operands are, so −0 equals +0, with the infinities at its ends; what a NaN gives; when INV is
raised. -/
def Obligations.ComparesAndPredicates : Prop :=
  (∀ (s : State) (g : Guard) (u : Bool) (t : Ty) (c : Cond) (p : Fin 64) (tab : BitVec 8) (pa pb pc : Fin 128) (a : OpA) (b : OpB),
     (c ≠ .un → c ≠ .ord →
       let x := s.issue (.icmp g t c p a b)
       let A := fun l => intElem t (valA x .arith t a l) 0
       let B := fun l => intElem t (valB x .arith t b l) 0
       ChangesLanes s (.icmp g t c p a b) g
         (fun l y => y.setPred p.val (match c with
           | .eq => A l == B l
           | .ne => A l != B l
           | .lt => decide (A l < B l)
           | .le => decide (A l ≤ B l)
           | .gt => decide (A l > B l)
           | .ge => decide (A l ≥ B l)
           | .un => false
           | .ord => true)) (fun _ => 0))
     ∧ (let x := s.issue (.sel g u p a b)
        PushesOne s (.sel g u p a b) u g
          (fun l => if (s.warp.lane l).pred p.val then valA x .arith .z64 a l else valB x .arith .z64 b l))
     ∧ ChangesLanes s (.pset g p a) g (fun l y => y.setPred p.val (valA (s.issue (.pset g p a)) .arith .z64 a l != 0)) (fun _ => 0)
     ∧ (let x := s.issue (.itst g p a b)
        ChangesLanes s (.itst g p a b) g
          (fun l y => y.setPred p.val ((valA x .arith .z64 a l &&& valB x .arith .z64 b l) != 0)) (fun _ => 0))
     ∧ ChangesLanes s (.plop g tab pa pb pc p) g
         (fun l y => y.setPred p.val (tab.getLsbD (4 * b2w ((s.warp.lane l).pred pa.val) + 2 * b2w ((s.warp.lane l).pred pb.val)
           + b2w ((s.warp.lane l).pred pc.val)))) (fun _ => 0)
     ∧ PushesOne s (.ptov g) false g (fun l => word (packElems 1 (fun n => b2w ((s.warp.lane l).pred n)) 48))
     ∧ (let x := s.issue (.vtop g a b)
        ChangesLanes s (.vtop g a b) g
          (fun l y => y.setPreds (((List.range 47).filter fun n => (valB x .arith .z64 b l).getLsbD n).map
            fun n => (n, (valA x .arith .z64 a l).getLsbD n))) (fun _ => 0)))
  ∧ (∀ (s : State) (g : Guard) (t : Ty) (c : Cond) (p : Fin 64) (a : OpA) (b : OpB),
       let x := s.issue (.fcmp g t c p a b)
       let A := fun l => (formatOf t).value (valA x .float t a l).toNat
       let B := fun l => (formatOf t).value (valB x .float t b l).toNat
       let nan := fun l => (A l).isNan || (B l).isNan
       let ordered := c = .lt ∨ c = .le ∨ c = .gt ∨ c = .ge
       ChangesLanes s (.fcmp g t c p a b) g
         (fun l y => y.setPred p.val (
           let o := compareF (A l) (B l)
           match c with
           | .eq => !nan l && o == 0
           | .ne => nan l || o != 0
           | .lt => !nan l && decide (o < 0)
           | .le => !nan l && decide (o ≤ 0)
           | .gt => !nan l && decide (o > 0)
           | .ge => !nan l && decide (o ≥ 0)
           | .un => nan l
           | .ord => !nan l))
         (fun l => if (A l).isSnan ∨ (B l).isSnan ∨ (nan l ∧ ordered) then Flag.inv else 0))
  ∧ (∀ (na nb : Bool) (ma mb : Nat) (ea eb : ℤ),
       let A := FVal.fin na ma ea
       let x := (signedM na ma : ℝ) * (2 : ℝ) ^ ea
       let y := (signedM nb mb : ℝ) * (2 : ℝ) ^ eb
       let o := compareF A (.fin nb mb eb)
       (o < 0 ↔ x < y) ∧ (o = 0 ↔ x = y) ∧ (o > 0 ↔ x > y)
       ∧ compareF (.inf true) A < 0 ∧ compareF A (.inf true) > 0 ∧ compareF (.inf false) A > 0 ∧ compareF A (.inf false) < 0)
  ∧ compareF (.inf true) (.inf false) < 0 ∧ compareF (.inf false) (.inf true) > 0 ∧ (∀ b, compareF (.inf b) (.inf b) = 0)

/-! ### Floats, quick functions, conversions (R83 to R98, R122 to R139) -/

/-- An integer n of units of 2^q is a real number rounded in a mode: down to no smaller magnitude's side, up, down, or to the nearest with ties to the
even one (R87). -/
def RoundedTo (md : Rnd) (x : ℝ) (q n : ℤ) : Prop :=
  let u : ℝ := (2 : ℝ) ^ q
  match md with
  | .rtz => |(n : ℝ)| * u ≤ |x| ∧ |x| < (|(n : ℝ)| + 1) * u ∧ 0 ≤ (n : ℝ) * x
  | .rup => x ≤ (n : ℝ) * u ∧ (n : ℝ) * u < x + u
  | .rdn => (n : ℝ) * u ≤ x ∧ x < (n : ℝ) * u + u
  | _ => 2 * |x - (n : ℝ) * u| ≤ u ∧ (2 * |x - (n : ℝ) * u| = u → n % 2 = 0)

/-- R87, R88: a pattern and flags are those of a non-zero real number rounded once into a format. It is rounded to units of its own last place, or of
the smallest subnormal where those are larger; INX where that differs; UNF where, besides, its rounding with unbounded exponents is below the smallest
normal. A magnitude above the largest finite one is the overflow of R87's table. -/
def RoundedOnce (f : Format) (md : Rnd) (x : ℝ) (r : Nat × Flags) : Prop :=
  ∃ (ex n n1 : ℤ) (neg inexact tiny : Bool) (top : Nat) (te : ℤ),
    (2 : ℝ) ^ ex ≤ |x| ∧ |x| < (2 : ℝ) ^ (ex + 1) ∧ (neg = true ↔ x < 0) ∧ f.value f.largest = .fin false top te ∧
    let q : ℤ := max (ex - f.fb) (1 - f.bias - f.fb)
    let v : ℝ := |(n : ℝ)| * (2 : ℝ) ^ q
    RoundedTo md x q n ∧ RoundedTo md x (ex - f.fb) n1 ∧ (inexact = true ↔ v ≠ |x|)
    ∧ (tiny = true ↔ |(n1 : ℝ)| * (2 : ℝ) ^ (ex - f.fb) < (2 : ℝ) ^ (1 - (f.bias : ℤ)))
    ∧ (v ≤ (top : ℝ) * (2 : ℝ) ^ te → r.1 < 2 ^ f.width ∧ r.2 = flagIf inexact Flag.inx ||| flagIf (tiny && inexact) Flag.unf
        ∧ ∃ m e, f.value r.1 = .fin neg m e ∧ (m : ℝ) * (2 : ℝ) ^ e = v)
    ∧ (v > (top : ℝ) * (2 : ℝ) ^ te →
        let sign := if neg then 2 ^ (f.eb + f.fb) else 0
        if f.sp = .ieee then
          r = (sign + (if md = .rtz ∨ (md = .rup ∧ neg = true) ∨ (md = .rdn ∧ neg = false) then f.largest else f.infinity), Flag.ovf ||| Flag.inx)
        else r = (sign + f.largest, Flag.sat ||| Flag.inx))

/-- R87: a magnitude m · 2^e in units of 2^q is rounded once: down, up or to the nearest with ties to the even unit, as the mode and the sign
say; it is inexact when the result differs. R83: a finite value of a format rounds into that format, in every mode, to its own pattern with no flag.
R87, R88: into every format, with R87's table for overflow, and the flags. Infinities and NaNs into the narrow formats are its Fate rows. -/
def Obligations.RoundingOnce : Prop :=
  (∀ (md : Rnd) (neg : Bool) (m : Nat) (e : Int) (k : Nat),
     let r := roundUnits md neg m e (e + k)
     (r.2 = true ↔ r.1 * 2 ^ k ≠ m)
     ∧ (md = .rtz → r.1 * 2 ^ k ≤ m ∧ m < (r.1 + 1) * 2 ^ k)
     ∧ (md = .rup → signedM neg m ≤ signedM neg (r.1 * 2 ^ k) ∧ signedM neg (r.1 * 2 ^ k) < signedM neg m + (2 ^ k : Nat))
     ∧ (md = .rdn → signedM neg (r.1 * 2 ^ k) ≤ signedM neg m ∧ signedM neg m < signedM neg (r.1 * 2 ^ k) + (2 ^ k : Nat))
     ∧ (md = .rne → 2 * m ≤ (2 * r.1 + 1) * 2 ^ k ∧ 2 * r.1 * 2 ^ k ≤ 2 * m + 2 ^ k
         ∧ (2 * m = (2 * r.1 + 1) * 2 ^ k ∨ 2 * r.1 * 2 ^ k = 2 * m + 2 ^ k → k ≠ 0 → r.1 % 2 = 0)))
  ∧ (∀ (t : Ty) (md : Rnd) (n : Nat), t.isFloat = true → n < 2 ^ (formatOf t).width →
       match (formatOf t).value n with
       | .fin neg m e => roundInto (formatOf t) md neg m e = (n, 0)
       | _ => True)
  ∧ (∀ (f : Format) (md : Rnd) (neg : Bool) (m : Nat) (e : Int), f = .q12 ∨ (∃ t : Ty, t.isFloat = true ∧ f = formatOf t) → m ≠ 0 →
       RoundedOnce f md ((signedM neg m : ℝ) * (2 : ℝ) ^ e) (roundInto f md neg m e))
  ∧ (∀ (md : Rnd) (neg s : Bool),
       convertInto (formatOf .e4m3) md (.inf neg) = (if neg then 0xFE else 0x7E, Flag.sat)
       ∧ convertInto (formatOf .e2m1) md (.inf neg) = (if neg then 0xF else 0x7, Flag.sat)
       ∧ convertInto (formatOf .e2m1) md (.nan s) = (0, Flag.inv))

/-- R122 to R129: each float instruction pushes the one rounded result, in the mode that its code or `cr.fpmode` names, and its flags become
sticky. What that result is: the exact sum, product, product and sum, quotient, root, scaled value or dot product of finite operands, rounded once;
the signs of exact zeros; FRND's integral value; the smaller or larger operand; the class; and the special cases of each rule's table,
R123's and R129's among them: zero times infinity, infinities that meet, and the sign of an exact zero. -/
def Obligations.FloatArithmetic : Prop :=
  (∀ (s : State) (g : Guard) (u : Bool) (t : Ty) (r : Rnd) (a : OpA) (b : OpB) (c : Src),
    let f := formatOf t
    let md := modeOf s.warp.fpmode r
    let A := fun (i : Instr) l => f.value (valA (s.issue i) .float t a l).toNat
    let B := fun (i : Instr) l => f.value (valB (s.issue i) .float t b l).toNat
    let C := fun (i : Instr) l => f.value (srcC (s.issue i) c l).toNat
    let out := fun (i : Instr) (v : Nat → Nat × Flags) => Pushes s i u g (fun l => [word (v l).1]) (fun l => (v l).2)
    (let i := .fadd g u t r a b; out i (fun l => addF f md (A i l) (B i l)))
    ∧ (let i := .fsub g u t r a b; out i (fun l => addF f md (A i l) (B i l).flip))
    ∧ (let i := .fmul g u t r a b; out i (fun l => mulF f md (A i l) (B i l)))
    ∧ (let i := .ffma g u t r a b c; out i (fun l => fmaF f md (A i l) (B i l) (C i l)))
    ∧ (let i := .fdiv g u t r a b; out i (fun l => divF f md (A i l) (B i l)))
    ∧ (let i := .fsqrt g u t r a; out i (fun l => sqrtF f md (A i l)))
    ∧ (let i := .frnd g u t r a; out i (fun l => roundIntegral f md (A i l)))
    ∧ (let i := .fscale g u t r a b; out i (fun l => scaleF f md (A i l) (valB (s.issue i) .arith .z64 b l).toInt))
    ∧ (let i := .fmin g u t a b
       out i (fun l => minMaxF (fun o => decide (o ≤ 0)) f ((valA (s.issue i) .float t a l).toNat % 2 ^ f.width)
         ((valB (s.issue i) .float t b l).toNat % 2 ^ f.width)))
    ∧ (let i := .fmax g u t a b
       out i (fun l => minMaxF (fun o => decide (o ≥ 0)) f ((valA (s.issue i) .float t a l).toNat % 2 ^ f.width)
         ((valB (s.issue i) .float t b l).toNat % 2 ^ f.width)))
    ∧ (let i := .fclass g u t a; out i (fun l => (2 ^ classBit f (A i l), 0)))
    ∧ (let i := .fdot2 g u t r a b c
       let e := fun (v : Word) (k : Nat) => f.value (elemOf 16 k v.toNat)
       out i (fun l => dot2F md (e (valA (s.issue i) .float .z32 a l) 0) (e (valB (s.issue i) .float .z32 b l) 0)
         (e (valA (s.issue i) .float .z32 a l) 1) (e (valB (s.issue i) .float .z32 b l) 1)
         ((formatOf .f32).value (srcC (s.issue i) c l).toNat))))
  ∧ (∀ (t : Ty) (md : Rnd), t = .f64 ∨ t = .f32 ∨ t = .f16 ∨ t = .bf16 →
    let f := formatOf t
    let real := fun (s : Bool) (m : Nat) (e : ℤ) => (signedM s m : ℝ) * (2 : ℝ) ^ e
    let sign := fun (s : Bool) => if s then 2 ^ (f.eb + f.fb) else 0
    let zero := fun (s : Bool) => ((sign s, 0) : Nat × Flags)
    let down := decide (md = .rdn)
    (∀ (na nb nc : Bool) (ma mb mc : Nat) (ea eb ec : ℤ),
      let A := FVal.fin na ma ea
      let B := FVal.fin nb mb eb
      let C := FVal.fin nc mc ec
      let x := real na ma ea
      let y := real nb mb eb
      let z := real nc mc ec
      (x + y ≠ 0 → RoundedOnce f md (x + y) (addF f md A B))
      ∧ (x + y = 0 → addF f md A B = zero (if ma = 0 ∧ na = nb then na else down))
      ∧ (x * y ≠ 0 → RoundedOnce f md (x * y) (mulF f md A B)) ∧ (x * y = 0 → mulF f md A B = zero (na != nb))
      ∧ (x * y + z ≠ 0 → RoundedOnce f md (x * y + z) (fmaF f md A B C))
      ∧ (x * y + z = 0 → fmaF f md A B C = zero (if mc = 0 ∧ (na != nb) = nc then nc else down))
      ∧ (x ≠ 0 → y ≠ 0 → RoundedOnce f md (x / y) (divF f md A B))
      ∧ (x = 0 → y ≠ 0 → divF f md A B = zero (na != nb)) ∧ (x ≠ 0 → y = 0 → divF f md A B = (sign (na != nb) + f.infinity, Flag.dze))
      ∧ (x = 0 → y = 0 → divF f md A B = (f.nan, Flag.inv))
      ∧ (0 < x → RoundedOnce f md (Real.sqrt x) (sqrtF f md A)) ∧ (x = 0 → sqrtF f md A = zero na) ∧ (x < 0 → sqrtF f md A = (f.nan, Flag.inv)))
    ∧ (∀ (n : Nat) (na : Bool) (ma : Nat) (ea k : ℤ), f.value n = .fin na ma ea →
      let A := FVal.fin na ma ea
      let x := real na ma ea
      (x ≠ 0 → RoundedOnce f md (x * (2 : ℝ) ^ k) (scaleF f md A k)) ∧ (x = 0 → scaleF f md A k = zero na)
      ∧ (∃ (v : ℤ) (m : Nat) (e : ℤ), RoundedTo md x 0 v ∧ f.value (roundIntegral f md A).1 = .fin na m e ∧ (m : ℝ) * (2 : ℝ) ^ e = |(v : ℝ)|
          ∧ ((v : ℝ) = x → (roundIntegral f md A).2 = 0) ∧ ((v : ℝ) ≠ x → (roundIntegral f md A).2 = Flag.inx))
      ∧ (classBit f A = if x = 0 then (if na then 3 else 4) else if |x| < (2 : ℝ) ^ (1 - (f.bias : ℤ)) then (if na then 2 else 5)
          else if na then 1 else 6))
    ∧ (∀ (p n : Nat) (na nb : Bool) (ma mb : Nat) (ea eb : ℤ), p < 2 ^ f.width → n < 2 ^ f.width → f.value p = .fin na ma ea → f.value n = .fin nb mb eb →
      let x := real na ma ea
      let y := real nb mb eb
      let low := if x < y ∨ (x = y ∧ na = true) then p else n
      minMaxF (fun o => decide (o ≤ 0)) f p n = (low, 0) ∧ minMaxF (fun o => decide (o ≥ 0)) f p n = (if low = p then n else p, 0))
    ∧ (∀ (v w z : FVal) (x y : Bool) (m : Nat) (e k : ℤ) (p n : Nat),
      let inv := fun (c : Bool) => if c then Flag.inv else 0
      ((v.isNan || w.isNan) = true → addF f md v w = (f.nan, inv (v.isSnan || w.isSnan)) ∧ mulF f md v w = (f.nan, inv (v.isSnan || w.isSnan))
        ∧ divF f md v w = (f.nan, inv (v.isSnan || w.isSnan)))
      ∧ (v.isNan = true → sqrtF f md v = (f.nan, inv v.isSnan) ∧ roundIntegral f md v = (f.nan, inv v.isSnan) ∧ scaleF f md v k = (f.nan, inv v.isSnan)
        ∧ classBit f v = if v.isSnan then 8 else 9)
      ∧ ((v.isNan || w.isNan || z.isNan) = true → fmaF f md v w z = (f.nan, inv (v.isSnan || w.isSnan || z.isSnan
          || (v.isInf && w.isZero) || (v.isZero && w.isInf))))
      ∧ addF f md (.inf x) (.inf y) = (if x = y then (sign x + f.infinity, 0) else (f.nan, Flag.inv))
      ∧ addF f md (.inf x) (.fin y m e) = (sign x + f.infinity, 0) ∧ addF f md (.fin y m e) (.inf x) = (sign x + f.infinity, 0)
      ∧ mulF f md (.inf x) (.inf y) = (sign (x != y) + f.infinity, 0)
      ∧ mulF f md (.inf x) (.fin y m e) = (if m = 0 then (f.nan, Flag.inv) else (sign (x != y) + f.infinity, 0))
      ∧ mulF f md (.fin y m e) (.inf x) = (if m = 0 then (f.nan, Flag.inv) else (sign (x != y) + f.infinity, 0))
      ∧ divF f md (.inf x) (.inf y) = (f.nan, Flag.inv) ∧ divF f md (.inf x) (.fin y m e) = (sign (x != y) + f.infinity, 0)
      ∧ divF f md (.fin x m e) (.inf y) = zero (x != y)
      ∧ sqrtF f md (.inf x) = (if x then (f.nan, Flag.inv) else (f.infinity, 0))
      ∧ roundIntegral f md (.inf x) = (sign x + f.infinity, 0) ∧ scaleF f md (.inf x) k = (sign x + f.infinity, 0)
      ∧ classBit f (.inf x) = (if x then 0 else 7)
      ∧ ∀ h : Int → Bool, (h = (fun o => decide (o ≤ 0)) ∨ h = fun o => decide (o ≥ 0)) →
          ((f.value p).isNan = true → minMaxF h f p n = (if (f.value n).isNan then f.nan else n
            , inv ((f.value p).isSnan || (f.value n).isSnan || (f.value n).isNan)))
          ∧ ((f.value n).isNan = true → (f.value p).isNan = false → minMaxF h f p n = (p, inv (f.value n).isSnan)))
    ∧ (∀ (v w z : FVal),
      let bad := (f.nan, Flag.inv)
      let n := v.neg != w.neg
      (v.isInf && w.isZero || v.isZero && w.isInf → fmaF f md v w z = bad)
      ∧ (!v.isNan && !w.isNan && !v.isZero && !w.isZero && (v.isInf || w.isInf) → z.isNan = false →
          (z = .inf !n → fmaF f md v w z = bad) ∧ (z ≠ .inf !n → fmaF f md v w z = (sign n + f.infinity, 0)))
      ∧ ∀ x, !v.isNan && !w.isNan && !v.isInf && !w.isInf → fmaF f md v w (.inf x) = (sign x + f.infinity, 0)))
  ∧ (∀ (md : Rnd) (na nb nc nd ne : Bool) (ma mb mc m' me : Nat) (ea eb ec ed ee : ℤ),
    let real := fun (s : Bool) (m : Nat) (e : ℤ) => (signedM s m : ℝ) * (2 : ℝ) ^ e
    let p := real na ma ea * real nb mb eb
    let q := real nc mc ec * real nd m' ed
    let z := real ne me ee
    let r := dot2F md (.fin na ma ea) (.fin nb mb eb) (.fin nc mc ec) (.fin nd m' ed) (.fin ne me ee)
    let zeros := fun n => p = 0 ∧ q = 0 ∧ z = 0 ∧ (na != nb) = n ∧ (nc != nd) = n ∧ ne = n
    (p + q + z ≠ 0 → RoundedOnce (formatOf .f32) md (p + q + z) r)
    ∧ (p + q + z = 0 → (zeros true → r = (0x80000000, 0)) ∧ (zeros false → r = (0, 0))
        ∧ (¬ zeros true → ¬ zeros false → r = (if md = .rdn then 0x80000000 else 0, 0))))
  ∧ (∀ (md : Rnd) (a b v w c : FVal),
    let void := fun (x y : FVal) => x.isInf && y.isZero || x.isZero && y.isInf
    let endless := fun (x y : FVal) (n : Bool) =>
      !x.isNan && !y.isNan && !x.isZero && !y.isZero && (x.isInf || y.isInf) && (x.neg != y.neg) == n
    let term := fun n => endless a b n || endless v w n || c == .inf n
    let bad := [a, b, v, w, c].any FVal.isSnan || void a b || void v w || term true && term false
    let nan := [a, b, v, w, c].any FVal.isNan
    (bad → dot2F md a b v w c = (0x7FC00000, Flag.inv))
    ∧ (bad = false → nan → dot2F md a b v w c = (0x7FC00000, 0))
    ∧ ∀ n, bad = false → nan = false → term n → dot2F md a b v w c = (if n then 0xFF800000 else 0x7F800000, 0))

/-- R97, R98, R130 to R132: a quick function pushes its 12-bit result as an FP32 pattern whose low twelve bits are zero. The reciprocal and the
reciprocal root are the exact value rounded once into Q12, to nearest; so are the others where the exact value is a dyadic number or out of range: 2^x at
an integer and from 128 up, log2 of a power of two, sin πx and cos πx at halves, tanh x where it rounds to ±1 beyond 32; signs are kept or dropped as
the function is odd or even; R131's table; and R132's worked examples. (Elsewhere the exact value is found to 256 fractional bits: the model's log.) -/
def Obligations.QuickFunctions : Prop :=
  (∀ (s : State) (g : Guard) (u : Bool) (a : OpA),
    let A := fun (i : Instr) l => (formatOf .f32).value (valA (s.issue i) .float .f32 a l).toNat
    let out := fun (i : Instr) (q : FVal → Nat × Flags) =>
      Pushes s i u g (fun l => [word ((q (A i l)).1 * 2 ^ 12)]) (fun l => (q (A i l)).2)
    out (.frcp g u a) frcpQ ∧ out (.frsq g u a) frsqQ ∧ out (.fex2 g u a) fex2Q ∧ out (.flg2 g u a) flg2Q
      ∧ out (.fsin g u a) fsinQ ∧ out (.fcos g u a) fcosQ ∧ out (.ftanh g u a) ftanhQ)
  ∧ (∀ (n : Nat) (neg : Bool) (m : Nat) (e : ℤ), (formatOf .f32).value n = .fin neg m e →
      let A := FVal.fin neg m e
      let x := (signedM neg m : ℝ) * (2 : ℝ) ^ e
      let once := RoundedOnce .q12 .rne
      let minus := fun (r : Nat × Flags) => (((r.1 + 2 ^ 19) % 2 ^ 20, r.2) : Nat × Flags)
      (x ≠ 0 → once (1 / x) (frcpQ A)) ∧ (0 < x → once (1 / Real.sqrt x) (frsqQ A)) ∧ (x < 0 → frsqQ A = (0x7FC00, Flag.inv))
      ∧ (∀ k : ℤ, x = k → once ((2 : ℝ) ^ k) (fex2Q A)) ∧ (128 ≤ x → fex2Q A = (0x7F800, Flag.ovf ||| Flag.inx))
      ∧ (∀ k : ℤ, x = (2 : ℝ) ^ k → (k = 0 → flg2Q A = (0, 0)) ∧ (k ≠ 0 → once k (flg2Q A))) ∧ (x < 0 → flg2Q A = (0x7FC00, Flag.inv))
      ∧ (∀ k : ℤ, 2 * x = k →
          (k % 2 = 0 → fsinQ A = (if neg then 2 ^ 19 else 0, 0)) ∧ (k % 2 = 1 → once (Real.sin (Real.pi * x)) (fsinQ A))
          ∧ (k % 2 = 0 → once (Real.cos (Real.pi * x)) (fcosQ A)) ∧ (k % 2 = 1 → fcosQ A = (0, 0)))
      ∧ (32 < |x| → ftanhQ A = (if neg then 0xBF800 else 0x3F800, Flag.inx))
      ∧ fsinQ (.fin (!neg) m e) = minus (fsinQ A) ∧ ftanhQ (.fin (!neg) m e) = minus (ftanhQ A) ∧ fcosQ (.fin (!neg) m e) = fcosQ A
      ∧ (m = 0 → frcpQ A = (if neg then 0xFF800 else 0x7F800, Flag.dze) ∧ frsqQ A = (if neg then 0xFF800 else 0x7F800, Flag.dze)
          ∧ fex2Q A = (0x3F800, 0) ∧ flg2Q A = (0xFF800, Flag.dze) ∧ fsinQ A = (if neg then 0x80000 else 0, 0) ∧ fcosQ A = (0x3F800, 0)
          ∧ ftanhQ A = (if neg then 0x80000 else 0, 0)))
  ∧ (∀ q, q ∈ [frcpQ, frsqQ, fex2Q, flg2Q, fsinQ, fcosQ, ftanhQ] → ∀ b, q (.nan b) = (0x7FC00, if b then Flag.inv else 0))
  ∧ (∀ b, frcpQ (.inf b) = (if b then 0x80000 else 0, 0) ∧ frsqQ (.inf b) = (if b then (0x7FC00, Flag.inv) else (0, 0))
      ∧ fex2Q (.inf b) = (if b then 0 else 0x7F800, 0) ∧ flg2Q (.inf b) = (if b then (0x7FC00, Flag.inv) else (0x7F800, 0))
      ∧ fsinQ (.inf b) = (0x7FC00, Flag.inv) ∧ fcosQ (.inf b) = (0x7FC00, Flag.inv) ∧ ftanhQ (.inf b) = (if b then 0xBF800 else 0x3F800, 0))
  ∧ (let v := fun n => (formatOf .f32).value n
     fsinQ (v 0x3F000000) = (0x3F800, 0) ∧ fsinQ (v 0x3E800000) = (0x3F350, Flag.inx) ∧ fcosQ (v 0x3F000000) = (0, 0)
     ∧ fex2Q (v 0x3F000000) = (0x3FB50, Flag.inx) ∧ fex2Q (v 0xC0400000) = (0x3E000, 0) ∧ flg2Q (v 0x41000000) = (0x40400, 0)
     ∧ ftanhQ (v 0x3F800000) = (0x3F42F, Flag.inx) ∧ frsqQ (v 0x40000000) = (0x3F350, Flag.inx))

/-- R134: CVT between integers keeps the low bits; from a float to an integer it rounds, to the end of the range with INV where that is passed; into a
float it rounds once, with R87's fates of infinities and NaNs. R93, R135: the block scale that QSCALE gives to every acting lane is the ceiling of
log2(amax / fmax), clamped. R94, R136: an element is quantised to the nearest code, clamped with SAT. R92, R137: what a code stands for; DQCVT
rounds it, and where it is beyond FP32, which R137 calls exact, it overflows as R87 gives: the model's choice (log 176). R138, R139: the integer that a
residue number stands for has the residues it was formed with, and every integer within half the product of the moduli is given back. -/
def Obligations.Conversions : Prop :=
  (∀ a b c : Nat, a < 2047 → b < 2048 → c < 2049 →
    resDecode a b c % 2047 = a ∧ resDecode a b c % 2048 = b ∧ resDecode a b c % 2049 = c)
  ∧ (∀ n : Int, -(2047 * 2048 * 2049) < 2 * n → 2 * n ≤ 2047 * 2048 * 2049 →
      let w := resRead (resEncode n)
      w.2.2.2 = false ∧ resDecode w.1 w.2.1 w.2.2.1 = n)
  ∧ (∀ (dt : Ty) (md : Rnd) (neg b : Bool) (m : Nat) (e k : ℤ), dt.isInt = true →
      let x := (signedM neg m : ℝ) * (2 : ℝ) ^ e
      let r := floatToInt dt md (.fin neg m e)
      let low : ℤ := if dt.isSigned then -2 ^ (dt.width - 1) else 0
      let high : ℤ := if dt.isSigned then 2 ^ (dt.width - 1) - 1 else 2 ^ dt.width - 1
      floatToInt dt md (.nan b) = (0, Flag.inv) ∧ floatToInt dt md (.inf true) = (low, Flag.inv) ∧ floatToInt dt md (.inf false) = (high, Flag.inv)
      ∧ (RoundedTo md x 0 k → (high < k → r = (high, Flag.inv)) ∧ (k < low → r = (low, Flag.inv))
          ∧ (low ≤ k → k ≤ high → ((k : ℝ) = x → r = (k, 0)) ∧ ((k : ℝ) ≠ x → r = (k, Flag.inx)))))
  ∧ (∀ (dt : Ty) (md : Rnd) (neg : Bool) (m : Nat) (e : ℤ), dt.isFloat = true →
      let f := formatOf dt
      let sign := if neg then 2 ^ (f.eb + f.fb) else 0
      let inv := fun (c : Bool) => if c then Flag.inv else 0
      (m ≠ 0 → RoundedOnce f md ((signedM neg m : ℝ) * (2 : ℝ) ^ e) (convertInto f md (.fin neg m e)))
      ∧ (m = 0 → convertInto f md (.fin neg m e) = (sign, 0))
      ∧ convertInto f md (.inf neg) = (if f.sp = .ieee then (sign + f.infinity, 0) else (sign + f.largest, Flag.sat))
      ∧ ∀ b, convertInto f md (.nan b) = (f.nan, inv (b || f.sp == .none)))
  ∧ (∀ (bt : Ty) (vs : List FVal) (amax : ℝ), bt = .bi8 ∨ bt = .bi4 ∨ bt = .e2m1 →
      let fmax : ℝ := if bt = .bi8 then 127 else if bt = .bi4 then 7 else 6
      let isMax := (∀ (n : Bool) (m : Nat) (e : ℤ), .fin n m e ∈ vs → (m : ℝ) * (2 : ℝ) ^ e ≤ amax)
        ∧ (amax = 0 ∨ ∃ (n : Bool) (m : Nat) (e : ℤ), .fin n m e ∈ vs ∧ (m : ℝ) * (2 : ℝ) ^ e = amax)
      (vs.any FVal.isNan → blockScale bt vs = (0xFF, Flag.inv))
      ∧ (vs.any FVal.isNan = false → vs.any FVal.isInf → blockScale bt vs = (254, 0))
      ∧ (vs.any FVal.isNan = false → vs.any FVal.isInf = false → isMax → (amax = 0 → blockScale bt vs = (0, 0))
          ∧ (amax ≠ 0 → blockScale bt vs = ((max (-127) (min 127 ⌈Real.logb 2 (amax / fmax)⌉) + 127).toNat, 0))))
  ∧ (∀ (bt : Ty) (ec : Nat) (neg b : Bool) (m : Nat) (e k : ℤ), bt = .bi8 ∨ bt = .bi4 ∨ bt = .e2m1 → ec < 256 →
      let w := if bt = .bi8 then 8 else 4
      let fmax : ℤ := if bt = .bi8 then 127 else if bt = .bi4 then 7 else 6
      let t := (signedM neg m : ℝ) * (2 : ℝ) ^ e / (2 : ℝ) ^ ((ec : ℤ) - 127)
      let r := blockQuant bt ec (.fin neg m e)
      let flag := fun (fl : Flags) (p : Prop) => r.2 &&& fl ≠ 0 ↔ p
      (∀ v, blockQuant bt 255 v = (0, 0)) ∧ (ec ≠ 255 →
        blockQuant bt ec (.nan b) = (0, Flag.inv)
        ∧ blockQuant bt ec (.inf neg) =
            (if bt = .e2m1 then (if neg then 0xF else 0x7) else ((if neg then -fmax else fmax) % 2 ^ w).toNat, Flag.sat)
        ∧ r.2 &&& (Flag.sat ||| Flag.inx) = r.2
        ∧ (bt ≠ .e2m1 → RoundedTo .rne t 0 k →
            let q := max (-fmax) (min fmax k)
            r.1 = (q % 2 ^ w).toNat ∧ flag Flag.sat (q ≠ k) ∧ flag Flag.inx ((q : ℝ) ≠ t))
        ∧ (bt = .e2m1 → ∃ m' e', r.1 < 16 ∧ (formatOf .e2m1).value r.1 = .fin neg m' e' ∧ let q := (m' : ℝ) * (2 : ℝ) ^ e'
            (∀ y ∈ ([0, 1 / 2, 1, 3 / 2, 2, 3, 4, 6] : List ℝ),
              |(|t| - q)| ≤ |(|t| - y)| ∧ (|(|t| - q)| = |(|t| - y)| → y ≠ q → r.1 % 2 = 0))
            ∧ flag Flag.sat (6 < |t|) ∧ flag Flag.inx (q ≠ |t|))))
  ∧ (∀ (bt : Ty) (ec n : Nat), bt = .bi8 ∨ bt = .bi4 ∨ bt = .e2m1 → ec < 256 →
      let q : ℝ := match bt with
        | .bi8 => ((BitVec.ofNat 8 n).toInt : ℝ)
        | .bi4 => ((BitVec.ofNat 4 n).toInt : ℝ)
        | _ => (if n / 8 % 2 = 1 then (-1 : ℝ) else 1) * ([0, 1 / 2, 1, 3 / 2, 2, 3, 4, 6] : List ℝ).getD (n % 8) 0
      blockValue bt 255 n = .nan false
      ∧ (ec ≠ 255 → ∃ neg m e, blockValue bt ec n = .fin neg m e ∧ (signedM neg m : ℝ) * (2 : ℝ) ^ e = q * (2 : ℝ) ^ ((ec : ℤ) - 127)
          ∧ (neg = true ↔ if bt = .e2m1 then n / 8 % 2 = 1 else q < 0)))
  ∧ ∀ (s : State) (g : Guard) (u : Bool) (r : Rnd) (st dt : Ty) (a : OpA) (b : OpB),
    let md := modeOf s.warp.fpmode r
    (let i := .cvt g u r st dt a
     let v := fun l => valA (s.issue i) (if st.isInt then .arith else .float) st a l
     let n := fun l => (intOf st (v l).toNat)
     let w := fun l => if st.isInt then .fin (decide (n l < 0)) (n l).natAbs 0 else (formatOf st).value (v l).toNat
     (dt.isInt = true → st.isInt = true → PushesOne s i u g (fun l => extend dt (wrap dt.width (n l))))
     ∧ (dt.isInt = true → st.isInt = false → Pushes s i u g (fun l => [extend dt (wrap dt.width (floatToInt dt md (w l)).1)])
         (fun l => (floatToInt dt md (w l)).2))
     ∧ (dt.isInt = false → Pushes s i u g (fun l => [word (convertInto (formatOf dt) md (w l)).1])
         (fun l => (convertInto (formatOf dt) md (w l)).2)))
    ∧ (let i := .qscale g st dt a
       let v := fun l => (formatOf st).value (valA (s.issue i) .float st a l).toNat
       Pushes s i false g (fun _ => [word (blockScale dt ((lanesOf (acting s.warp g)).map v)).1])
         (fun l => if (v l).isNan then Flag.inv else 0))
    ∧ (let i := .qcvt g st dt a b
       let ec := fun l => (valB (s.issue i) .arith .z64 b l).toNat % 256
       let q := fun l => blockQuant dt (ec l) ((formatOf st).value (valA (s.issue i) .float st a l).toNat)
       Pushes s i false g
         (fun l => [if dt = .bi8 then wordI (signedOf 8 (q l).1) else if dt = .bi4 then wordI (signedOf 4 (q l).1) else word (q l).1])
         (fun l => (q l).2 ||| if ec l = 255 then Flag.inv else 0))
    ∧ (let i := .dqcvt g st dt a b
       let ec := fun l => (valB (s.issue i) .arith .z64 b l).toNat % 256
       let q := fun l => convertInto (formatOf dt) .rne (blockValue st (ec l) (valA (s.issue i) .arith .z64 a l).toNat)
       Pushes s i false g (fun l => [word (q l).1]) (fun l => (q l).2 ||| if ec l = 255 then Flag.inv else 0))
    ∧ (let i := .resenc g u st a
       let n := fun l => intElem st (valA (s.issue i) .arith st a l) 0
       PushesOne s i u g (fun l => word ((n l % 2049).toNat * 2 ^ 22 + (n l % 2048).toNat * 2 ^ 11 + (n l % 2047).toNat)))
    ∧ (let i := .resdec g u st a
       let w := fun l => resRead (valA (s.issue i) .arith .z64 a l)
       let n := fun l => resDecode (w l).1 (w l).2.1 (w l).2.2.1
       st.isInt = true → Pushes s i u g (fun l => [extend st (wrap st.width (clamp st (n l)).1)])
         (fun l => (if (clamp st (n l)).2 then Flag.sat else 0) ||| if (w l).2.2.2 then Flag.inv else 0))

/-- R91: a flag raised whose trap is enabled, outside handler mode, makes the instruction trap with FPX: no lane is changed, the flags are sticky,
and the trap registers say which lanes and which flags. Said of every instruction that raises flags: the packed and saturating integer forms, compares,
float arithmetic, the quick functions, conversions, blocks, residues, and the reductions, whose flags are the tree's and so every acting lane's (the
model's choice: log 191). -/
def Obligations.EnabledFlagTraps : Prop :=
  ∀ (s : State) (g : Guard) (u sat excl : Bool) (idx : Fin 16) (t dt : Ty) (r : Rnd) (k : Cond) (p : Fin 64) (op : RedOp) (a : OpA) (b : OpB) (c : Src),
    let en := enables s.warp.fpmode
    let traps := fun (i : Instr) (u : Bool) (f : Issue → Nat → LaneOut) =>
      let m := actingOf s.warp u g
      let fl := fun l => (f (s.issue i) l).flags
      Ready i s → s.warp.h = false → s.warp.region = none → flagsOf m fl &&& en ≠ 0 →
        exec i s = .next (takeTrap { s with warp := { s.warp with fpflags := s.warp.fpflags ||| word (flagsOf m fl).toNat } }
          { code := 0x10, tmask := maskOf (fun l => m.getLsbD l && fl l &&& en != 0), tinfo := word (flagsOf m fl &&& en).toNat }
          (s.warp.wordAddr s.warp.idx) (s.warp.nextAddr (litCount i)))
    let int := fun (i : Instr) (f : (Nat → Int) → (Nat → Int) → (Nat → Int) → Nat → Int) => traps i u fun x l =>
      intOut t sat (f (intElem t (valA x .arith t a l)) (intElem t (valB x .arith t b l)) (intElem t (srcC x c l)))
    let e := fun (w : Nat) (v : Word) (k : Nat) => if t.isSigned then signedOf w (elemOf w k v.toNat) else (elemOf w k v.toNat : Int)
    let dots := fun (i : Instr) (w n : Nat) => traps i u fun x l => intOut t sat fun _ => intElem t (srcC x c l) 0
      + ((List.range n).map fun k => e w (valA x .arith .z32 a l) k * e w (valB x .arith .z32 b l) k).sum
    let float := fun (i : Instr) (f : (Ty → FVal) → (Ty → FVal) → (Ty → FVal) → Nat × Flags) => traps i u fun x l =>
      floatOut (f (fun t => floatA x t a l) (fun t => floatB x t b l) (fun t => floatC x t c l))
    let f := formatOf t
    let md := modeOf s.warp.fpmode r
    let least := fun (i : Instr) (first : Int → Bool) => traps i u fun x l =>
      floatOut (minMaxF first f ((valA x .float t a l).toNat % 2 ^ f.width) ((valB x .float t b l).toNat % 2 ^ f.width))
    let reduces := fun (i : Instr) (set : Nat → Mask) => traps i false fun x _ =>
      let m := acting s.warp g
      let v := fun l => (srcA x c l).toNat % 2 ^ t.width
      { flags := flagsOf m (fun l => (treeRoot op t md v (set l)).2)
          ||| if !t.isInt && (lanesOf m).any (fun l => (f.value (v l)).isSnan) then Flag.inv else 0 }
    traps (.pack g sat idx t a b) false (packLane sat idx t a b)
    ∧ int (.iadd g u sat t a b) (fun A B _ k => A k + B k) ∧ int (.isub g u sat t a b) (fun A B _ k => A k - B k)
    ∧ int (.imul g u sat t a b) (fun A B _ k => A k * B k) ∧ int (.imad g u sat t a b c) (fun A B C k => A k * B k + C k)
    ∧ dots (.idot4 g u sat t a b c) 8 4 ∧ dots (.idot2 g u sat t a b c) 16 2
    ∧ traps (.isat g u t dt a) u (fun x l => intOut dt true fun _ => intElem t (valA x .arith t a l) 0)
    ∧ traps (.fcmp g t k p a b) false (fcmpLane t k p a b)
    ∧ float (.fadd g u t r a b) (fun A B _ => addF f md (A t) (B t)) ∧ float (.fsub g u t r a b) (fun A B _ => addF f md (A t) (B t).flip)
    ∧ float (.fmul g u t r a b) (fun A B _ => mulF f md (A t) (B t)) ∧ float (.ffma g u t r a b c) (fun A B C => fmaF f md (A t) (B t) (C t))
    ∧ float (.fdiv g u t r a b) (fun A B _ => divF f md (A t) (B t)) ∧ float (.fsqrt g u t r a) (fun A _ _ => sqrtF f md (A t))
    ∧ float (.frnd g u t r a) (fun A _ _ => roundIntegral f md (A t)) ∧ traps (.fscale g u t r a b) u (fscaleLane t r a b)
    ∧ least (.fmin g u t a b) (fun o => decide (o ≤ 0)) ∧ least (.fmax g u t a b) (fun o => decide (o ≥ 0))
    ∧ traps (.fdot2 g u t r a b c) u (fdot2Lane t r a b c)
    ∧ float (.frcp g u a) (fun A _ _ => frcpQ (A .f32)) ∧ float (.frsq g u a) (fun A _ _ => frsqQ (A .f32))
    ∧ float (.fex2 g u a) (fun A _ _ => fex2Q (A .f32)) ∧ float (.flg2 g u a) (fun A _ _ => flg2Q (A .f32))
    ∧ float (.fsin g u a) (fun A _ _ => fsinQ (A .f32)) ∧ float (.fcos g u a) (fun A _ _ => fcosQ (A .f32))
    ∧ float (.ftanh g u a) (fun A _ _ => ftanhQ (A .f32))
    ∧ traps (.cvt g u r t dt a) u (cvtLane r t dt a)
    ∧ traps (.qscale g t dt a) false (fun x l => { flags := if (floatA x t a l).isNan then Flag.inv else 0 })
    ∧ traps (.qcvt g t dt a b) false (qcvtLane t dt a b) ∧ traps (.dqcvt g t dt a b) false (dqcvtLane t dt a b)
    ∧ traps (.resdec g u t a) u (resdecLane t a)
    ∧ reduces (.wred g op t r c) (fun _ => acting s.warp g)
    ∧ reduces (.wscan g excl op t r c) (fun l => maskOf fun k => (acting s.warp g).getLsbD k && (k < l || (k == l && !excl)))

/-! ### Across the lanes (R184 to R188) -/

/-- R185, R186, R188: votes, the masks pushed, and values moved between acting lanes, the reader's own where the lane named does not act. -/
def Obligations.WarpWide : Prop :=
  ∀ (s : State) (g : Guard) (p : Fin 64) (t : Ty) (a b : Src),
    let m := acting s.warp g
    let vote := fun (md : VoteMode) => Instr.vote g md p a
    let A := fun (i : Instr) l => srcA (s.issue i) a l
    let acts := fun l => l < 32 ∧ m.getLsbD l = true
    let moved := fun (i : Instr) (src : Nat → Int) =>
      let valid := fun l => decide (0 ≤ src l ∧ acts (src l).toNat)
      ChangesLanes s i g (fun l y =>
        (y.push { val := if valid l then A i (src l).toNat else A i l }).setPred p.val (valid l)) (fun _ => 0)
    (∀ v : Bool, (v = true ↔ ∀ l, acts l → A (vote .all) l ≠ 0) →
      ChangesLanes s (vote .all) g (fun _ y => y.setPred p.val v) (fun _ => 0))
    ∧ (∀ v : Bool, (v = true ↔ ∃ l, acts l ∧ A (vote .any) l ≠ 0) →
        ChangesLanes s (vote .any) g (fun _ y => y.setPred p.val v) (fun _ => 0))
    ∧ (∀ v : Bool, (v = true ↔ ∀ l k, acts l → acts k → A (vote .uni) l = A (vote .uni) k) →
        ChangesLanes s (vote .uni) g (fun _ y => y.setPred p.val v) (fun _ => 0))
    ∧ PushesOne s (vote .ballot) false g (fun _ => word (maskOf fun l => m.getLsbD l && A (vote .ballot) l != 0).toNat)
    ∧ PushesOne s (.active g) false g (fun _ => word s.warp.active.toNat)
    ∧ moved (.shfl g .idx p a b) (fun l => (srcB (s.issue (.shfl g .idx p a b)) b l).toNat)
    ∧ moved (.shfl g .up p a b) (fun l => (l : Int) - (srcB (s.issue (.shfl g .up p a b)) b l).toNat)
    ∧ moved (.shfl g .down p a b) (fun l => (l : Int) + (srcB (s.issue (.shfl g .down p a b)) b l).toNat)
    ∧ moved (.shfl g .xor p a b) (fun l => ((l ^^^ (srcB (s.issue (.shfl g .xor p a b)) b l).toNat : Nat) : Int))
    ∧ moved (.bcast g p a b) (fun _ => match lowest m with
        | some l0 => ((srcB (s.issue (.bcast g p a b)) b l0).toNat : Int)
        | none => -1)
    ∧ PushesOne s (.matchLanes g t a) false g (fun l => word (maskOf fun k => m.getLsbD k
        && (A (.matchLanes g t a) k).toNat % 2 ^ t.width == (A (.matchLanes g t a) l).toNat % 2 ^ t.width).toNat)
    ∧ ∀ mt, (Instr.matchLanes g t a).wellFormed mt = true → t.isInt = true ∧ (encode (.matchLanes g t a)).toNat / 2 ^ 54 = 0x204

/-- R187: node (k, i) of the tree over the lanes of a set, with the flags raised on the way: absent where no lane of its own is in the set, the one
child where the other is absent, else the left child's value combined with the right one's. -/
def treeNode (op : Nat → Nat → Nat × Flags) (v : Nat → Nat) (set : Mask) : Nat → Nat → Option Nat × Flags
  | 0, i => (if set.getLsbD i then some (v i) else none, 0)
  | k + 1, i =>
    let left := treeNode op v set k (2 * i)
    let right := treeNode op v set k (2 * i + 1)
    match left.1, right.1 with
    | some a, some b => (some (op a b).1, left.2 ||| right.2 ||| (op a b).2)
    | some a, none => (some a, left.2)
    | none, b => (b, right.2)

/-- R187: WRED pushes the root of the one fixed tree over the acting lanes; WSCAN gives each lane the root over the acting lanes before it, its own
with them unless `.excl`, and the identity where there is none; a NaN is canonical, and a signalling NaN in an acting lane raises INV. The
root is node (5, 0) of R187's recursion, with the wrapping sum, the lesser or greater in the type's order and the bitwise operations on integers, and
FADD, FMIN and FMAX on floats at each node; the identities. An integer sum's root is the sum modulo 2^w. -/
def Obligations.Reductions : Prop :=
  ∀ (s : State) (g : Guard) (excl : Bool) (op : RedOp) (t : Ty) (r : Rnd) (a : Src),
    let m := acting s.warp g
    let v := fun (i : Instr) l => (srcA (s.issue i) a l).toNat % 2 ^ t.width
    let root := fun (i : Instr) (set : Mask) => treeRoot op t (modeOf s.warp.fpmode r) (v i) set
    let snan := fun (i : Instr) => decide (t.isInt = false) && (lanesOf m).any fun l => ((formatOf t).value (v i l)).isSnan
    let out := fun (i : Instr) (set : Nat → Mask) =>
      Pushes s i false g
        (fun l =>
          let n := ((root i (set l)).1).getD (identityOf op t)
          [if t.isInt then extend t n else if ((formatOf t).value n).isNan then word (formatOf t).nan else word n])
        (fun _ => flagsOf m (fun l => (root i (set l)).2) ||| if snan i then Flag.inv else 0)
    out (.wred g op t r a) (fun _ => m)
    ∧ out (.wscan g excl op t r a) (fun l => maskOf fun k => m.getLsbD k && (k < l || (k == l && !excl)))
    ∧ (∀ (md : Rnd) (v : Nat → Nat) (set : Mask), t.isInt = true ∨ op = .add ∨ op = .min ∨ op = .max →
        let f := formatOf t
        let node := fun (n k : Nat) => match op, t.isInt with
          | .add, true => ((n + k) % 2 ^ t.width, 0)
          | .min, true => (if intOf t n ≤ intOf t k then n else k, 0)
          | .max, true => (if intOf t n ≥ intOf t k then n else k, 0)
          | .and, _ => (n &&& k, 0)
          | .or, _ => (n ||| k, 0)
          | .xor, _ => (n ^^^ k, 0)
          | .add, false => addF f md (f.value n) (f.value k)
          | .min, false => minMaxF (fun o => decide (o ≤ 0)) f n k
          | .max, false => minMaxF (fun o => decide (o ≥ 0)) f n k
        treeRoot op t md v set = treeNode node v set 5 0
        ∧ identityOf op t = (match op, t.isInt with
          | .min, true => if t.isSigned then 2 ^ (t.width - 1) - 1 else 2 ^ t.width - 1
          | .max, true => if t.isSigned then 2 ^ (t.width - 1) else 0
          | .and, _ => 2 ^ t.width - 1
          | .min, false => f.infinity
          | .max, false => 2 ^ (f.eb + f.fb) + f.infinity
          | _, _ => 0))
    ∧ (∀ (v : Nat → Nat) (set : Mask), t.isInt = true → (∀ l, v l < 2 ^ t.width) → set ≠ 0 →
        (treeRoot .add t .rne v set).1 = some (((lanesOf set).foldl (fun n l => n + v l) 0) % 2 ^ t.width))

/-! ### Control (R165 to R181) -/

/-- R169: BRA and BRX move the whole path: on to the next block where the guard holds for no active lane; to the target where it holds for all and
the target, the same in every lane, is aligned. Nothing else changes. R11, R179: NOP has no effect but its place in the program; YIELD, where a lane
acts, is noted, and the turn passes the warp over. -/
def Obligations.UniformBranches : Prop :=
  (∀ (s : State) (g : Guard) (o : BitVec 33) (a : Src),
     let w := s.warp.counted
     let goes := fun (t : Word) => Host.Outcome.next (φ := Fault) (ρ := Refusal) { s with warp := w.goTo t }
     (∀ i, i = Instr.bra g o ∨ i = Instr.brx g a → Ready i s → guardDiffers s.warp g = 0 → acting s.warp g = 0 →
       exec i s = goes s.warp.nextBlock)
     ∧ (Ready (.bra g o) s → guardDiffers s.warp g = 0 → acting s.warp g ≠ 0 →
         field (blockAt s.warp o.toInt) 0 7 = 0 → exec (.bra g o) s = goes (blockAt s.warp o.toInt))
     ∧ (∀ t : Word, Ready (.brx g a) s → guardDiffers s.warp g = 0 → acting s.warp g ≠ 0 →
         (∀ l, s.warp.active.getLsbD l = true → srcA (s.issue (.brx g a)) a l = t) → field t 0 7 = 0 →
         exec (.brx g a) s = goes t)
     ∧ (∀ t, (w.goTo t).base = word (t.toNat % 2 ^ 57) ∧ (w.goTo t).idx = 1 ∧ (w.goTo t).phase = .fetch .start))
  ∧ (∀ (s : State) (g : Guard),
       (Ready (.nop g) s → ∃ t, exec (.nop g) s = .next t ∧ LaneEffect (.nop g) 0 (fun _ y => y) (fun _ => 0) s t)
       ∧ (Ready (.yield g) s → ∃ t, exec (.yield g) s = .next t
           ∧ LaneEffect (.yield g) 0 (fun _ y => y) (fun _ => 0) s { t with warp := { t.warp with stood := s.warp.stood } }
           ∧ t.warp.stood = if acting s.warp g ≠ 0 then true else s.warp.stood))

/-- R170: BRC pushes a split entry that remembers the target, the seam, the taken lanes and every lane's D, and zeroes D in the active lanes. It
goes on in the next block with the lanes whose guard fails, or at the target where there is none. -/
def Obligations.SplitPushes : Prop :=
  ∀ (s : State) (g : Guard) (o : BitVec 33) (so : BitVec 13),
    Ready (.brc g o so) s → s.warp.region = none → s.warp.h = false → s.warp.pleats.length < 64 →
    field (blockAt s.warp o.toInt) 0 7 = 0 →
    ∃ t, exec (.brc g o so) s = .next t ∧ ControlFrame s t
      ∧ LanesBecome s t s.warp.active (fun _ y => { y with d := 0 })
      ∧ t.warp.calls = s.warp.calls ∧ t.warp.frame = s.warp.frame ∧ t.warp.sig = s.warp.sig ∧ t.warp.wcount = s.warp.counted.wcount
      ∧ (let taken := acting s.warp g
         let rest := s.warp.active &&& ~~~taken
         let seam := blockAt s.warp so.toInt
         if rest ≠ 0 then
           t.warp.active = rest ∧ BeginsBlock t s.warp.nextBlock
             ∧ t.warp.pleats = { kind := .split, span := s.warp.active, waiting := taken, phase := false
                                 resume := some (blockAt s.warp o.toInt), seam := seam, savedD := s.warp.ds } :: s.warp.pleats
         else
           t.warp.active = s.warp.active ∧ BeginsBlock t (blockAt s.warp o.toInt)
             ∧ t.warp.pleats = { kind := .split, span := s.warp.active, waiting := 0, phase := true
                                 resume := some seam, seam := seam, savedD := s.warp.ds } :: s.warp.pleats)

/-- A weft rebuilt at a seam or a loop's end: the selected values on top, then what lay below the first d, then zeros (R171, R174). -/
def rebuiltAs (old new : List Slot) (sel : List Nat) (d : Nat) : Prop :=
  new.length = 16 ∧ ∀ k < 16, new.getD k {} =
    if k < sel.length then old.getD (sel.getD k 0) {} else if d + (k - sel.length) < 16 then old.getD (d + (k - sel.length)) {} else {}

/-- R171: an arrival at the seam of the innermost split with the declared depth in every active lane rebuilds their wefts. The first arrival of two
parks them and goes on with the taken lanes at the taken target; the last merges: the arms together, D of each lane what the entry saved and the
exports, the entry popped, the merge folded into the selvage. -/
def Obligations.SeamArrivals : Prop :=
  ∀ (s : State) (g : Guard) (d : SeamDecl) (e : Pleat),
    Ready (.seam g d) s → s.warp.region = none → s.warp.innermost = some e → e.kind = .split → e.seam = s.warp.base →
    d.n.val ≤ 4 → (∀ y ∈ s.warp.lanes, y.weft.length = 16) →
    (∀ l, s.warp.active.getLsbD l = true → (s.warp.lane l).d = if e.phase then d.d1.val else d.d0.val) →
    ∃ t, exec (.seam g d) s = .next t ∧ ControlFrame s t ∧ t.warp.calls = s.warp.calls ∧ t.warp.frame = s.warp.frame
      ∧ t.warp.lanes.length = s.warp.lanes.length
      ∧ (∀ (l : Nat) (y z : Lane), s.warp.lanes[l]? = some y → t.warp.lanes[l]? = some z →
          z.preds = y.preds ∧ z.pocket = y.pocket
          ∧ if s.warp.active.getLsbD l then
              rebuiltAs y.weft z.weft (SeamDecl.sels d e.phase) (if e.phase then d.d1.val else d.d0.val)
            else z.weft = y.weft)
      ∧ (if e.phase = false ∧ e.waiting ≠ 0 then
          t.warp.active = e.waiting ∧ t.warp.sig = s.warp.sig ∧ BeginsBlock t (word ((e.resume.getD 0).toNat % 2 ^ 57))
          ∧ t.warp.pleats = { e with phase := true, count := some d.n.val, waiting := s.warp.active, resume := some e.seam }
              :: s.warp.pleats.drop 1
          ∧ ∀ (l : Nat) (y z : Lane), s.warp.lanes[l]? = some y → t.warp.lanes[l]? = some z → z.d = y.d
        else
          t.warp.active = s.warp.active ||| e.waiting ∧ t.warp.pleats = s.warp.pleats.drop 1 ∧ t.warp.wcount = 0 ∧ PlaceOn 0 s t
          ∧ t.warp.sig = (if s.warp.h then s.warp.sig else foldEvent (foldWord s.warp.sig s.warp.cur) 3 t.warp.frameDepth)
          ∧ ∀ (l : Nat) (y z : Lane), s.warp.lanes[l]? = some y → t.warp.lanes[l]? = some z →
              z.d = if t.warp.active.getLsbD l then min (e.savedD.getD l 0 + d.n.val) 16 else y.d)

/-- R166, R169 to R171, R173 to R177, R181, R365: the traps of branches, splits, seams, loops and calls. NONUNIFORM reports the lanes whose guard, or
whose target, differs from the lowest lane's; an unaligned target is MISALIGN; PLEATOVF with 64 entries, HFAULT with a handler's four (its mask the model's choice: log 123), CALLOVF with 256
call levels; RETMATCH with no open call or at another pleat depth than the call's; SEAMLAYOUT where the current frame has no entry of the kind, at a loop's
second way out, or where a depth is not the one wanted. -/
def Obligations.ControlTraps : Prop :=
  ∀ (s : State) (g : Guard) (o : BitVec 33) (a : Src) (d : SeamDecl) (k : Fin 16) (c : ConformSel) (so : BitVec 13)
    (frame : Fin 64), s.warp.region = none →
    let bad : Trap := { code := 0x07, tmask := s.warp.active, tinfo := 0xFF }
    let other := fun (kind : PleatKind) => s.warp.innermost = none ∨ ∃ e, s.warp.innermost = some e ∧ e.kind ≠ kind
    let depth := s.warp.pleats.length
    let calls := fun (i : Instr) => (i = Instr.call g o frame k ∨ i = Instr.callx g a frame k) ∧ s.warp.h = false
    let returns := s.warp.h = false ∧ ∃ c rest, s.warp.calls = c :: rest ∧ c.depth = depth
    (∀ i, i = Instr.bra g o ∨ i = Instr.brx g a ∨ calls i ∨ (i = Instr.ret g k ∧ returns) → Ready i s → guardDiffers s.warp g ≠ 0 →
      TrapsWith s i { code := 0x0B, tmask := guardDiffers s.warp g, tinfo := 1 })
    ∧ (∀ i l0, i = Instr.brx g a ∨ (i = Instr.callx g a frame k ∧ s.warp.h = false) → Ready i s → guardDiffers s.warp g = 0 →
        lowest (acting s.warp g) = some l0 →
        let A := fun l => srcA (s.issue i) a l
        let m := maskOf fun l => s.warp.active.getLsbD l && A l != A l0
        (m ≠ 0 → TrapsWith s i { code := 0x0B, tmask := m, tinfo := 2 })
        ∧ (m = 0 → field (A l0) 0 7 ≠ 0 → TrapsWith s i { code := 0x04, tmask := acting s.warp g, tinfo := A l0 }))
    ∧ (∀ i, i = Instr.bra g o ∨ (i = Instr.call g o frame k ∧ s.warp.h = false) → Ready i s → guardDiffers s.warp g = 0 → acting s.warp g ≠ 0 →
        field (blockAt s.warp o.toInt) 0 7 ≠ 0 →
        TrapsWith s i { code := 0x04, tmask := acting s.warp g, tinfo := blockAt s.warp o.toInt })
    ∧ (∀ i, i = Instr.brc g o so ∨ i = Instr.brl g o → Ready i s → field (blockAt s.warp o.toInt) 0 7 ≠ 0 →
        TrapsWith s i { code := 0x04, tmask := acting s.warp g, tinfo := blockAt s.warp o.toInt })
    ∧ (∀ i, (i = Instr.brc g o so ∧ field (blockAt s.warp o.toInt) 0 7 = 0) ∨ i = Instr.mark g k → Ready i s →
        (64 ≤ depth → TrapsWith s i { code := 0x08, tmask := s.warp.active, tinfo := 0 })
        ∧ (∀ sh, depth < 64 → s.warp.h = true → s.warp.shadow = some sh → sh.depth + 4 ≤ depth →
            TrapsWith s i { code := 0x15, tmask := s.warp.active, tinfo := 2 }))
    ∧ (∀ i l0, calls i → Ready i s → guardDiffers s.warp g = 0 → lowest (acting s.warp g) = some l0 →
        (i = .call g o frame k → field (blockAt s.warp o.toInt) 0 7 = 0) →
        (i = .callx g a frame k → field (srcA (s.issue i) a l0) 0 7 = 0
          ∧ ∀ l, s.warp.active.getLsbD l = true → srcA (s.issue i) a l = srcA (s.issue i) a l0) →
        (∀ y ∈ s.warp.lanes, ∀ v ∈ y.weft, v.pend = none) → 256 ≤ s.warp.calls.length →
        TrapsWith s i { code := 0x09, tmask := s.warp.active, tinfo := 0 })
    ∧ (Ready (.ret g k) s → s.warp.h = false →
        let match_ := fun (d : Nat) => ({ code := 0x0A, tmask := s.warp.active, tinfo := word (d + 256 * depth) } : Trap)
        (s.warp.calls = [] → TrapsWith s (.ret g k) (match_ 0x7F))
        ∧ (∀ c rest, s.warp.calls = c :: rest → c.depth ≠ depth → TrapsWith s (.ret g k) (match_ c.depth)))
    ∧ (Ready (.seam g d) s → (other .split ∨ ∃ e, s.warp.innermost = some e ∧ e.seam ≠ s.warp.base) → TrapsWith s (.seam g d) bad)
    ∧ (Ready (.conform g k c) s → (other .loop ∨ ∃ e, s.warp.innermost = some e ∧ e.count ≠ some k.val) →
        TrapsWith s (.conform g k c) bad)
    ∧ (∀ e, Ready (.conform g k c) s → s.warp.innermost = some e → e.kind = .loop → e.count = some k.val →
        let m := maskOf fun l => s.warp.active.getLsbD l && (s.warp.lane l).d == 16
        m ≠ 0 → TrapsWith s (.conform g k c) { code := 0x07, tmask := m, tinfo := word k.val })
    ∧ (Ready (.brl g o) s → field (blockAt s.warp o.toInt) 0 7 = 0 →
        (other .loop → TrapsWith s (.brl g o) bad)
        ∧ (∀ e n, s.warp.innermost = some e → e.kind = .loop → e.count = some n →
            let m := maskOf fun l => s.warp.active.getLsbD l && (s.warp.lane l).d != n
            (m ≠ 0 → TrapsWith s (.brl g o) { code := 0x07, tmask := m, tinfo := word n })
            ∧ (m = 0 → s.warp.active &&& ~~~acting s.warp g ≠ 0 → e.resume ≠ none → e.resume ≠ some s.warp.nextBlock → TrapsWith s (.brl g o) bad)))
    ∧ (∀ e, s.warp.innermost = some e → e.kind = .split → e.seam = s.warp.base → Ready (.seam g d) s →
        let want := if e.phase then d.d1.val else d.d0.val
        let m := maskOf fun l => s.warp.active.getLsbD l && (s.warp.lane l).d != want
        m ≠ 0 → TrapsWith s (.seam g d) { code := 0x07, tmask := m, tinfo := word (want + if e.phase then 256 else 0) })

/-- R173 to R175: MARK opens a loop entry whose k youngest values are carried; CONFORM rebuilds the weft for the next turn; BRL sends the lanes whose
guard holds round again and lets the others wait, and when none stays the entry is popped and all that left go on. -/
def Obligations.Loops : Prop :=
  ∀ (s : State) (g : Guard) (k : Fin 16) (c : ConformSel) (o : BitVec 33), s.warp.region = none →
    (Ready (.mark g k) s → s.warp.h = false → s.warp.pleats.length < 64 →
      ∃ t, exec (.mark g k) s = .next t ∧ ControlFrame s t ∧ t.warp.active = s.warp.active ∧ t.warp.calls = s.warp.calls
        ∧ t.warp.frame = s.warp.frame
        ∧ LanesBecome s t s.warp.active (fun _ y => { y with d := k.val }) ∧ PlaceOn 0 s t
        ∧ t.warp.sig = foldEvent (foldWord s.warp.sig s.warp.cur) 4 t.warp.frameDepth
        ∧ t.warp.pleats = { kind := .loop, span := s.warp.active, waiting := 0, resume := none, seam := 0, count := some k.val
                            savedD := s.warp.ds.map fun d => d - min d k.val } :: s.warp.pleats)
    ∧ (∀ e, Ready (.conform g k c) s → s.warp.innermost = some e → e.kind = .loop → e.count = some k.val → k.val ≤ 8 →
        (∀ y ∈ s.warp.lanes, y.weft.length = 16) → (∀ l, s.warp.active.getLsbD l = true → (s.warp.lane l).d ≠ 16) →
        ∃ t, exec (.conform g k c) s = .next t ∧ RestSame s t ∧ WarpFrame s t ∧ MovesOn 0 s t ∧ t.warp.ux = s.warp.ux
          ∧ t.warp.fpflags = s.warp.fpflags ∧ t.warp.lanes.length = s.warp.lanes.length
          ∧ ∀ (l : Nat) (y z : Lane), s.warp.lanes[l]? = some y → t.warp.lanes[l]? = some z →
              if s.warp.active.getLsbD l then
                z.d = k.val ∧ z.preds = y.preds ∧ z.pocket = y.pocket ∧ rebuiltAs y.weft z.weft (ConformSel.sels k.val c) y.d
              else z = y)
    ∧ (∀ e n, Ready (.brl g o) s → s.warp.innermost = some e → e.kind = .loop → e.count = some n →
        (∀ l, s.warp.active.getLsbD l = true → (s.warp.lane l).d = n) → field (blockAt s.warp o.toInt) 0 7 = 0 →
        let stay := acting s.warp g
        let go := s.warp.active &&& ~~~stay
        (go = 0 ∨ e.resume = none ∨ e.resume = some s.warp.nextBlock) →
        let left := if go ≠ 0 then e.waiting ||| go else e.waiting
        ∃ t, exec (.brl g o) s = .next t ∧ ControlFrame s t ∧ t.warp.calls = s.warp.calls ∧ t.warp.frame = s.warp.frame
          ∧ t.warp.sig = s.warp.sig
          ∧ if stay ≠ 0 then
              t.warp.active = stay ∧ t.warp.lanes = s.warp.lanes ∧ BeginsBlock t (blockAt s.warp o.toInt)
              ∧ t.warp.pleats = { e with waiting := left, resume := if go ≠ 0 then some s.warp.nextBlock else e.resume }
                  :: s.warp.pleats.drop 1
            else
              t.warp.active = left ∧ BeginsBlock t s.warp.nextBlock ∧ t.warp.pleats = s.warp.pleats.drop 1 ∧ t.warp.wcount = 0
              ∧ LanesBecome s t left (fun l y => { y with d := min (e.savedD.getD l 0 + n) 16 }))

/-- R176, R177: CALL and CALLX push a level that holds every lane's weft, pocket and D, and enter the callee with its arguments and a frame of
zeros; RET restores the level, less the lanes gone since, and pushes the results, r0 last. -/
def Obligations.CallsAndReturns : Prop :=
  ∀ (s : State) (g : Guard) (o : BitVec 33) (a : Src) (frame : Fin 64) (n : Fin 16), s.warp.region = none → s.warp.h = false →
    guardDiffers s.warp g = 0 → acting s.warp g ≠ 0 →
    let entered := fun (i : Instr) (target : Word) =>
      ∃ t, exec i s = .next t ∧ ControlFrame s t ∧ BeginsBlock t target ∧ t.warp.active = s.warp.active ∧ t.warp.pleats = s.warp.pleats
        ∧ t.warp.sig = s.warp.sig ∧ t.warp.frame = frame.val
        ∧ t.warp.calls = { lanes := s.warp.lanes.map (fun y => { weft := y.weft, d := y.d, pocket := y.pocket }), frame := s.warp.frame
                           active := s.warp.active, depth := s.warp.pleats.length, ret := s.warp.nextBlock } :: s.warp.calls
        ∧ t.warp.lanes.length = s.warp.lanes.length
        ∧ ∀ (l : Nat) (y z : Lane), s.warp.lanes[l]? = some y → t.warp.lanes[l]? = some z →
            z.preds = y.preds ∧ z.pocket = List.replicate frame.val 0 ∧ z.d = (if s.warp.active.getLsbD l then n.val else y.d)
            ∧ ∀ j < 16, z.weft.getD j {} = if j < n.val then y.weft.getD j {} else {}
    let free := (∀ y ∈ s.warp.lanes, ∀ v ∈ y.weft, v.pend = none) ∧ s.warp.calls.length < 256
    (Ready (.call g o frame n) s → free → field (blockAt s.warp o.toInt) 0 7 = 0 →
      entered (.call g o frame n) (blockAt s.warp o.toInt))
    ∧ (∀ target : Word, Ready (.callx g a frame n) s → free → field target 0 7 = 0 →
        (∀ l, s.warp.active.getLsbD l = true → srcA (s.issue (.callx g a frame n)) a l = target) →
        entered (.callx g a frame n) (word (target.toNat % 2 ^ 57)))
    ∧ (∀ c rest, Ready (.ret g n) s → s.warp.calls = c :: rest → c.depth = s.warp.pleats.length →
        c.lanes.length = s.warp.lanes.length →
        ∃ t, exec (.ret g n) s = .next t ∧ ControlFrame s t ∧ BeginsBlock t (word (c.ret.toNat % 2 ^ 57))
          ∧ t.warp.active = c.active &&& ~~~s.warp.gone ∧ t.warp.pleats = s.warp.pleats ∧ t.warp.calls = rest
          ∧ t.warp.frame = c.frame ∧ t.warp.sig = s.warp.sig
          ∧ ∀ l y v, s.warp.lanes[l]? = some y → c.lanes[l]? = some v →
              let back : Lane := { weft := v.weft, d := v.d, preds := y.preds, pocket := v.pocket }
              t.warp.lanes[l]? = some (if s.warp.active.getLsbD l then
                ((y.weft.take n.val).reverse).foldl (fun z r => z.push r) back else back))

/-- R180, R167: EXIT with lanes left goes on in the next block without the acting lanes, which are cleared from every mask; a warp whose last
lane goes, with nothing under way, no open level and no record to join, leaves its slot. R167: where the arm that runs has no lane left, the seam's
waiting lanes take up at word 2 of the seam's block with the depth a merge gives. -/
def Obligations.ExitEnds : Prop :=
  ∀ (s : State) (g : Guard), Ready (.exit g) s → s.warp.region = none →
    (∀ l r, s.warp.recs.getD l none = some r → r.join = false) →
    let m := acting s.warp g
    (m = 0 → exec (.exit g) s = .next { s with warp := s.warp.counted.goTo s.warp.nextBlock })
    ∧ (m ≠ 0 → s.warp.active &&& ~~~m ≠ 0 →
        ∃ t, exec (.exit g) s = .next t ∧ RestSame s t ∧ t.warp.active = s.warp.active &&& ~~~m ∧ t.warp.gone = s.warp.gone ||| m
          ∧ BeginsBlock t s.warp.nextBlock ∧ t.warp.lanes = s.warp.lanes
          ∧ t.warp.pleats = s.warp.pleats.map (fun e => { e with span := e.span &&& ~~~m, waiting := e.waiting &&& ~~~m })
          ∧ t.warp.calls = s.warp.calls.map (fun c => { c with active := c.active &&& ~~~m }))
    ∧ (m ≠ 0 → s.warp.active &&& ~~~m = 0 → s.warp.h = false → s.warp.pleats = [] → s.warp.calls = [] → isQuiet s s.warp = true →
        s.warp.regs = [] → s.warp.group = none →
        ∃ t, exec (.exit g) s = .next t ∧ t.warp.status = .free ∧ t.others = s.others ∧ t.mem = s.mem)
    ∧ (∀ e rest, s.warp.h = false → s.warp.pleats = e :: rest → s.warp.calls = [] → e.kind = .split → e.phase = true →
        m ≠ 0 → s.warp.active &&& ~~~m = 0 → e.waiting &&& ~~~m ≠ 0 →
        ∃ t, exec (.exit g) s = .next t ∧ t.warp.active = e.waiting &&& ~~~m ∧ t.warp.pleats.length = rest.length
          ∧ t.warp.base = word (e.seam.toNat % 2 ^ 57) ∧ t.warp.idx = 2 ∧ t.warp.phase = .fetch .seam
          ∧ ∀ (l : Nat) (y z : Lane), s.warp.lanes[l]? = some y → t.warp.lanes[l]? = some z →
              z.weft = y.weft ∧ z.d = if t.warp.active.getLsbD l then min (e.savedD.getD l 0 + e.count.getD 0) 16 else y.d)

/-! ### Traps, handlers, control registers, the selvage (R362 to R374, R384 to R388) -/

/-- R362, R364: a trap in normal mode, in a stage that declares a handler. The trap registers are written; pending entries fill; weft, D, active
mask, pleat depth and watchdog count go to the shadow; H is set, the count and `cr.hret` are zero, and the handler's block begins. Nothing outside the
warp changes, and of the warp nothing else, but that an open region closes. That the word of a BWAIT already woken is set aside until the handler returns
is the model's choice (log 148). -/
def Obligations.TrapEntry : Prop :=
  ∀ (s : State) (t : Trap) (tpc tnext : Word), s.warp.h = false → handlerOf s s.warp ≠ 0 →
    takeTrap s t tpc tnext = { s with warp := { s.warp with
      lanes := s.warp.lanes.map (fun y => { y with weft := y.weft.map fun v => { v with pend := none } })
      tcause := word (t.code + (if t.sw then 256 else 0)), tpc := tpc, tnext := tnext, tmask := word t.tmask.toNat, tinfo := t.tinfo
      shadow := some { lanes := s.warp.lanes.map (fun y => (y.weft.map (fun v => { v with pend := none }), y.d))
                       active := s.warp.active, depth := s.warp.pleats.length, wcount := s.warp.wcount
                       bwait := if s.warp.wake.isSome || s.warp.reissue then some tpc else none }
      wake := none, reissue := false, h := true, wcount := 0, hret := 0, region := none, regionPc := 0
      base := word ((handlerOf s s.warp).toNat % 2 ^ 57), idx := 1, phase := .fetch .start, yielded := true } }

/-- R346, R366: a trap in handler mode, or in a stage without a handler, ends the warp; its queue, unless it is already in its error state, is
flushed: every record published is consumed and the queue is in its error state. -/
def Obligations.UnhandledTrapFlushes : Prop :=
  ∀ (s : State) (t : Trap) (tpc tnext : Word) (q : Queue), (s.warp.h = true ∨ handlerOf s s.warp = 0) → s.warp.resident = true →
    s.warp.regs = [] → s.warp.group = none → (∀ r, some r ∈ s.warp.recs → r.join = false) →
    s.queues.find? (fun x => x.num == s.warp.queue) = some q → q.error = false → s.saved = [] → s.others = [] → s.homes = [] → s.heddles = [] →
    ∃ x, (takeTrap s t tpc tnext).queues.find? (fun x => x.num == s.warp.queue) = some x ∧ x.error = true ∧ x.c = q.p ∧ x.recs = []
      ∧ (takeTrap s t tpc tnext).warp.status = .free

/-- R372: TRAP raises a software trap with its code and A of the lowest acting lane, BKPT a breakpoint with its tag; with no acting lane neither has
an effect. In handler mode it is the double fault of R366. R37, R363: an opcode that names no instruction raises ILLOP, the word in `cr.tinfo`. The
model's choices: the active lanes as that ILLOP's mask (log 123), and that a trap for which an open region must close first waits (log 30). -/
def Obligations.RaisedTraps : Prop :=
  ∀ (s : State) (g : Guard) (c : BitVec 8) (a : Src) (v : Word), trapWaits s = false →
    (Ready (.unassignedOpcode v) s → TrapsWith s (.unassignedOpcode v) { code := 0x01, tmask := s.warp.active, tinfo := v })
    ∧ (∀ l, Ready (.trap g c a) s → lowest (acting s.warp g) = some l →
      TrapsWith s (.trap g c a) { code := c.toNat, sw := true, tmask := acting s.warp g, tinfo := srcA (s.issue (.trap g c a)) a l })
    ∧ (Ready (.bkpt g c) s → acting s.warp g ≠ 0 →
        TrapsWith s (.bkpt g c) { code := 0x12, tmask := acting s.warp g, tinfo := word c.toNat })
    ∧ (∀ i, i = Instr.trap g c a ∨ i = Instr.bkpt g c → Ready i s → acting s.warp g = 0 →
        ∃ t, exec i s = .next t ∧ LaneEffect i 0 (fun _ y => y) (fun _ => 0) s t)
    ∧ (s.warp.h = true → ∀ t tpc tnext, takeTrap s t tpc tnext = failWarp { s with warp := s.warp.fillAll.report_ t tpc tnext } t)

/-- R373: TRET in handler mode, at the shadow's pleat depth, restores weft and D, the active mask less the lanes gone since and the watchdog count,
passes back the results that `cr.hret` counts, clears H and continues at `cr.tpc`. Outside handler mode it traps with PRIV, and `cr.tinfo` holds a free
value (the model's own counter of free values moves on).
R365: in handler mode CALL, CALLX and RET, and a TRET at another pleat depth, are double faults: each traps with HFAULT and its kind, as does the
fetched block where `cr.tpc` named none of its instructions; a TRET whose guard can fail traps with ILLOPND. The model's choices: the active lanes as
these traps' masks (log 123), PRIV's free `cr.tinfo` (log 124), the word of a BWAIT woken before the handler delivered again (log 148), and a bad word
found when its block is checked (log 162). -/
def Obligations.HandlerReturns : Prop :=
  ∀ (s : State) (g : Guard) (o : BitVec 33) (a : Src) (frame : Fin 64) (n : Fin 16) (sh : HandlerShadow),
    let hf := fun (k : Nat) => ({ code := 0x15, tmask := s.warp.active, tinfo := word k } : Trap)
    (Ready (.tret .always) s → s.warp.h = true → s.warp.shadow = some sh →
      s.warp.pleats.length = sh.depth → sh.lanes.length = s.warp.lanes.length →
      (∀ y ∈ s.warp.lanes, ∀ v ∈ y.weft, v.pend = none) →
      ∃ t, exec (.tret .always) s = .next t ∧ RestSame s t
        ∧ t.warp = { s.warp with
            lanes := t.warp.lanes, active := sh.active &&& ~~~s.warp.gone, wcount := sh.wcount, h := false, shadow := none, wake := none
            reissue := decide (sh.bwait = some s.warp.tpc)
            base := word (s.warp.tpc.toNat - s.warp.tpc.toNat % 128), idx := 1, phase := .fetch (.tretAt (field s.warp.tpc 3 4)) }
        ∧ ∀ (l : Nat) (y : Lane) (old : List Slot × Nat), s.warp.lanes[l]? = some y → sh.lanes[l]? = some old →
            let back : Lane := { y with weft := old.1, d := old.2 }
            t.warp.lanes[l]? = some (if (sh.active &&& ~~~s.warp.gone).getLsbD l then
              ((y.weft.take (field s.warp.hret 0 2)).reverse).foldl (fun z r => z.push r) back else back))
    ∧ (s.warp.region = none → (Ready (.tret g) s → s.warp.h = false →
        ∃ v, exec (.tret g) s = .next (takeTrap { s with freeCtr := s.freeCtr + 8 } { code := 0x13, tmask := s.warp.active, tinfo := v }
          (s.warp.wordAddr s.warp.idx) (s.warp.nextAddr 0)))
    ∧ (Ready (.tret g) s → s.warp.h = true → s.warp.shadow = some sh → g ≠ .always →
        TrapsWith s (.tret g) { code := 0x02, tmask := s.warp.active, tinfo := s.warp.cur })
    ∧ (∀ i, i = Instr.call g o frame n ∨ i = Instr.callx g a frame n ∨ i = Instr.ret g n → Ready i s → s.warp.h = true →
        TrapsWith s i (hf 1))
    ∧ (Ready (.tret .always) s → s.warp.h = true → s.warp.shadow = some sh → s.warp.pleats.length ≠ sh.depth →
        TrapsWith s (.tret .always) (hf 4))
    ∧ (∀ k, s.warp.phase = .check (.tretAt k) → clauseBad s.warp.buf = none → k ∉ starts s.warp.buf →
        exec .clauseStart s = .next (failWarp { s with warp := { s.warp.report_ (hf 5) s.warp.tpc s.warp.tpc with h := true } } (hf 5))))

/-- R23, R369, R371: CSRR pushes the register, each lane's own for `cr.lane` and `cr.group`; every number that R369 lists is readable, and no other:
such a one traps with ILLOPND, whose mask of active lanes is the model's choice (log 123). -/
def Obligations.ControlRegisterRead : Prop :=
  ∀ (s : State) (g : Guard) (u : Bool) (n : BitVec 12),
    let listed := n.toNat < 10 ∨ 0x010 ≤ n.toNat ∧ n.toNat ≤ 0x015 ∨ 0x020 ≤ n.toNat ∧ n.toNat ≤ 0x025
    (listed → PushesOne s (.csrr g u n) u g (fun l => (readCr s.warp l n.toNat).getD 0))
    ∧ (¬ listed → s.warp.region = none → Ready (.csrr g u n) s →
        TrapsWith s (.csrr g u n) { code := 0x02, tmask := s.warp.active, tinfo := s.warp.cur })
    ∧ (∀ l, readCr s.warp l 0x000 = some (word l) ∧ readCr s.warp l 0x010 = some s.warp.fpmode ∧ readCr s.warp l 0x011 = some s.warp.fpflags
        ∧ readCr s.warp l 0x012 = some s.warp.wdog ∧ readCr s.warp l 0x014 = some s.warp.sig ∧ readCr s.warp l 0x020 = some s.warp.tcause
        ∧ readCr s.warp l 0x021 = some s.warp.tpc ∧ readCr s.warp l 0x022 = some s.warp.tnext ∧ readCr s.warp l 0x023 = some s.warp.tmask
        ∧ readCr s.warp l 0x024 = some s.warp.tinfo ∧ readCr s.warp l 0x025 = some s.warp.hret)
    ∧ (∀ l, readCr s.warp l 0x013 = some (word ((if s.warp.h then 2 else 0) + if s.warp.mt then 1 else 0)))

/-- R369, R371: CSRW writes A of the lowest acting lane to a register that the mode may write, when the value passes the register's check; nothing
else changes but the watchdog's count on a write of `cr.wdog`. With no acting lane it has no effect. R42: a register that the mode may not write traps
with PRIV, as does setting MT from a pattern that is not firmware-signed; a value that fails its check traps with ILLOPND. -/
def Obligations.ControlRegisterWrite : Prop :=
  ∀ (s : State) (g : Guard) (n : BitVec 12) (a : Src) (l : Nat), Ready (.csrw g n a) s →
    let v := srcA (s.issue (.csrw g n a)) a l
    let writes := fun (w : Warp) => ∃ t, exec (.csrw g n a) s = .next t ∧ RestSame s t ∧ PlaceOn (litCount (.csrw g n a)) s t
      ∧ t.warp = { w with sig := if s.warp.h then s.warp.sig else foldWord s.warp.sig s.warp.cur
                          base := t.warp.base, idx := t.warp.idx, phase := t.warp.phase, yielded := t.warp.yielded }
    let w := { s.warp with wcount := s.warp.counted.wcount }
    (lowest (acting s.warp g) = some l →
      (n = 0x010 → v.toNat < 2 ^ 14 → field v 3 5 = 0 → 1 ≤ field v 0 3 → field v 0 3 ≤ 4 → writes { w with fpmode := v })
      ∧ (n = 0x011 → v.toNat < 64 → writes { w with fpflags := v })
      ∧ (n = 0x012 → 20 ≤ v.toNat → v.toNat ≤ 32 → writes { w with wdog := v, wcount := 0 })
      ∧ (n = 0x013 → v.toNat < 4 → (v.getLsbD 0 = true → s.warp.signed = true) → writes { w with mt := v.getLsbD 0 })
      ∧ (n = 0x021 → s.warp.h = true → v.toNat < 2 ^ 57 → field v 0 3 = 0 → writes { w with tpc := v })
      ∧ (n = 0x025 → s.warp.h = true → v.toNat ≤ 2 → writes { w with hret := v }))
    ∧ (acting s.warp g = 0 → (readCr s.warp 0 n.toNat).isSome = true →
        ∃ t, exec (.csrw g n a) s = .next t ∧ LaneEffect (.csrw g n a) 0 (fun _ y => y) (fun _ => 0) s t)
    ∧ (s.warp.region = none → lowest (acting s.warp g) = some l →
        let priv : Trap := { code := 0x13, tmask := acting s.warp g, tinfo := word n.toNat }
        let bad : Trap := { code := 0x02, tmask := acting s.warp g, tinfo := s.warp.cur }
        (n.toNat < 10 ∨ n = 0x014 ∨ n = 0x015 ∨ n = 0x020 ∨ n = 0x022 ∨ n = 0x023 ∨ n = 0x024 ∨ (s.warp.h = false ∧ (n = 0x021 ∨ n = 0x025)) →
          TrapsWith s (.csrw g n a) priv)
        ∧ (n = 0x013 → v = 1 → s.warp.signed = false → TrapsWith s (.csrw g n a) priv)
        ∧ (n = 0x010 → (field v 0 3 = 0 ∨ 4 < field v 0 3 ∨ field v 3 5 ≠ 0 ∨ 2 ^ 14 ≤ v.toNat) → TrapsWith s (.csrw g n a) bad)
        ∧ (n = 0x011 → 64 ≤ v.toNat → TrapsWith s (.csrw g n a) bad)
        ∧ (n = 0x012 → (v.toNat < 20 ∨ 32 < v.toNat) → TrapsWith s (.csrw g n a) bad)
        ∧ (n = 0x013 → 4 ≤ v.toNat → TrapsWith s (.csrw g n a) bad))

/-- R374: CLOCK pushes one value in every acting lane; it is the issuing core's counter, which never goes back. How far it went on is the model's free
value, and that the value pushed is the counter after it went on is the model's choice (log 26). -/
def Obligations.ClockPushes : Prop :=
  ∀ (s : State) (g : Guard) (u : Bool), Ready (.clock g u) s →
    ∃ t v, exec (.clock g u) s = .next t ∧ (findCore s s.warp.die s.warp.core).clock.toNat ≤ v.toNat
      ∧ (findCore t s.warp.die s.warp.core).clock = v ∧ t.mem = s.mem ∧ t.others = s.others
      ∧ (u = false → LanesBecome s t (acting s.warp g) (fun _ y => y.push { val := v }) ∧ t.warp.ux = s.warp.ux)
      ∧ (u = true → t.warp.lanes = s.warp.lanes
          ∧ t.warp.ux = if actingOf s.warp true g = 0 then s.warp.ux else v :: s.warp.ux.take 7)
      ∧ MovesOn 0 s t ∧ WarpFrame s t

/-- R385: CHKSIG with a literal equal to the selvage, or in handler mode, only folds in. A mismatch sends SIGFAIL with the word's address and the
selvage; where a region is open, its snapshot sound, that was replayed less than three times the replay is then due, else the warp traps with SOFT, `cr.tinfo` 0. R343, R344:
what sending an event from a context does: its sequence counts; with room in the VF's ring and nothing held the record is written there, EVT_PROD moves
on and the vector is sent; with none it is held, up to 256. -/
def Obligations.SelvageCheck : Prop :=
  (∀ (s : State) (g : Guard), Ready (.chksig g .lit) s →
    let expected := s.warp.buf.getD (s.warp.idx + 1) 0
    let sent := sendEvent s (.context s.warp.ctx) 6 (s.warp.wordAddr s.warp.idx) s.warp.sig
    ((s.warp.h = true ∨ s.warp.sig = expected) →
      ∃ t, exec (.chksig g .lit) s = .next t ∧ LaneEffect (.chksig g .lit) 0 (fun _ y => y) (fun _ => 0) s t)
    ∧ (s.warp.h = false → s.warp.sig ≠ expected →
        (∀ r, s.warp.region = some r → r.replays < 3 → r.spoilt = false →
          exec (.chksig g .lit) s = .next { sent with warp := { s.warp.counted with replay := true } })
        ∧ (s.warp.region = none ∨ (∃ r, s.warp.region = some r ∧ (3 ≤ r.replays ∨ r.spoilt = true)) → trapWaits s = false →
          exec (.chksig g .lit) s = .next (takeTrap { sent with warp := s.warp } { code := 0x11, tmask := s.warp.active, tinfo := 0 }
            (s.warp.wordAddr s.warp.idx) (s.warp.nextAddr 1)))))
  ∧ (∀ (s : State) (c code : Nat) (a b : Word) (x : Context) (p : VfPage), findContext s c = some x → vfPage s x.vf = some p →
      let ws := [word (code + 2 * 2 ^ 8 + c * 2 ^ 32), word (x.evSeq % 2 ^ 32 + c * 2 ^ 32), a, b]
      let t := sendEvent s (.context c) code a b
      let room := p.evtBase ≠ 0 ∧ (p.evtProd - p.evtCons).toNat < 2 ^ p.evtSize.toNat
      t.warp = s.warp ∧ t.others = s.others ∧ (findContext t c).map (·.evSeq) = some (x.evSeq + 1)
      ∧ (p.heldEvents = [] → p.discarded = 0 → room →
          vfPage t x.vf = some { p with evtProd := p.evtProd + 1 } ∧ t.vectors = (x.vf, p.evtVec.toNat) :: s.vectors
          ∧ ∀ pa tr r e w2, (xlatIpa s x.vf (p.evtBase.toNat + 32 * (p.evtProd.toNat % 2 ^ p.evtSize.toNat))).1 = .ok pa tr r true e w2 →
              s.hbmStacks = [] → s.ports = [] → writeBarred s pa 32 = false → reachable s pa = true → t.mem = Memory.writeBytes s.mem pa (ws.flatMap wordBytes))
      ∧ (¬ room → p.heldEvents.length < 256 → vfPage t x.vf = some { p with heldEvents := p.heldEvents ++ [ws] } ∧ t.mem = s.mem)
      ∧ (¬ room → 256 ≤ p.heldEvents.length → vfPage t x.vf = some { p with discarded := p.discarded + 1 } ∧ t.mem = s.mem))

/-- R386, R387: IREGION opens a region, its snapshot the weft below the count, D, pocket and active mask, and `cr.regionpc` the next word; it closes
one that is open, as IREGION_CLOSE does. Handler mode gives neither an effect. -/
def Obligations.Regions : Prop :=
  ∀ (s : State) (g : Guard) (k : Fin 32),
    (Ready (.iregion g k) s → s.warp.h = false → isQuiet s s.warp = true →
      ∃ t r, exec (.iregion g k) s = .next t ∧ MovesOn 0 s t ∧ t.warp.region = some r ∧ t.warp.regionPc = s.warp.nextAddr 0
        ∧ r.keep = k.val ∧ r.replays = 0 ∧ r.spoilt = false ∧ r.mask = s.warp.active ∧ r.zeroed = 0 ∧ r.loaded = 0
        ∧ r.lanes = s.warp.lanes.map (fun y => ((y.weft.take k.val).map (·.val), y.d, y.pocket))
        ∧ t.warp.lanes = s.warp.lanes ∧ t.mem = s.mem)
    ∧ (Ready (.iregionClose g) s → s.warp.h = false → isQuiet s s.warp = true →
        ∃ t, exec (.iregionClose g) s = .next t ∧ MovesOn 0 s t ∧ t.warp.region = none ∧ t.warp.lanes = s.warp.lanes ∧ RestSame s t)
    ∧ (∀ i, i = Instr.iregion g k ∨ i = Instr.iregionClose g → Ready i s → s.warp.h = true →
        ∃ t, exec i s = .next t ∧ LaneEffect i 0 (fun _ y => y) (fun _ => 0) s t)

/-! ### Memory (R6, R29, R233 to R236, R269 to R283) -/

/-- R6, R29, R273: a read after a write to the same place gives the bytes written; a write leaves every other place alone; words are
little-endian. Memory's canonical form, which is the model's, is kept by every write, and two memories in that form that read alike everywhere are
equal. -/
def Obligations.MemoryReadsWhatWasWritten : Prop :=
  (∀ (mem : List Host.Cell) (a b : Nat) (bs : List Byte), Memory.wf mem = true →
     Memory.readBytes (Memory.writeBytes mem a bs) a bs.length = bs
     ∧ ((b < a ∨ a + bs.length ≤ b) → Memory.read (Memory.writeBytes mem a bs) b = Memory.read mem b)
     ∧ (∀ w : Word, Memory.readWord (Memory.writeWord mem a w) a = w
         ∧ ∀ k < 8, Memory.read (Memory.writeWord mem a w) (a + k) = BitVec.ofNat 8 (w.toNat / 2 ^ (8 * k))))
  ∧ ((∀ (mem : List Host.Cell) (a : Nat) (bs : List Byte), Memory.wf mem = true → Memory.wf (Memory.writeBytes mem a bs) = true)
     ∧ ∀ m n : List Host.Cell, Memory.wf m = true → Memory.wf n = true → (∀ a, Memory.read m a = Memory.read n a) → m = n)

/-- Bytes written at places in order, a later write over an earlier. -/
def writtenInOrder (mem : List Host.Cell) (runs : List (Nat × List Byte)) : List Host.Cell :=
  runs.foldl (fun m r => Memory.writeBytes m r.1 r.2) mem

/-- R269, R273 to R276, R285: loads whose lanes all reach readable bytes complete, whatever the treatment. Each acting lane takes entries still
pending from one operation, which will read as the loaded value, extended as `sx` and the size say and 16 bytes as high half then low half. Nothing
in memory changes. R240: where copies stand, a relaxed load of a self-invalidating line reads the L1 line that serves its core, and with none there
what its die sees: its dirty bytes, its clean copy, the home. -/
def Obligations.LoadsComplete : Prop :=
  ∀ (s : State) (g : Guard) (peg : PegSel) (sc : Scope) (o : Order) (h : Hint) (sx : Bool) (sz : Size) (a : Src),
    let n := sizeBytes sz
    let m := acting s.warp g
    let pushed := fun (bs : List Byte) =>
      if sz = .b16 then [leWord (bs.drop 8), leWord (bs.take 8)]
      else [if sx then wordI (signedOf (8 * n) (leNat bs)) else leWord bs]
    let done := fun (i : Instr) (bytes : Nat → List Byte) =>
      ∃ t, exec i s = .next t ∧ OpEffect i m peg (fun l => pushed (bytes l)) s t ∧ t.mem = s.mem ∧ t.plainGroups = s.plainGroups
        ∧ t.others = s.others
    let reaches := fun (i : Instr) (l pa tr : Nat) => globFate s s.warp (srcA (s.issue i) a l) n .load false = .fine (.glob pa tr false)
    (∀ (tr : Nat) (pa : Nat → Nat) (win : Nat → Bool) (runs : Nat → List (Nat × Nat)), Calm s → tr ≤ 4 →
      (let i := Instr.ld g peg sc o h sx sz a
       Ready i s → (∀ l, m.getLsbD l = true → reaches i l (pa l) tr ∧ (tr = 1 → pa l % n = 0)) → done i (fun l => Memory.readBytes s.mem (pa l) n))
      ∧ (let i := Instr.lds g peg sc o sx sz a
         Ready i s → (∀ l, m.getLsbD l = true → scratchFate s s.warp (srcA (s.issue i) a l) n false = .fine (.scratch (pa l) (win l))) →
           done i (fun l => scratchRead s (s.warp.group.getD 0) (pa l) n))
      ∧ (let i := Instr.ldp g peg sx sz a
         Ready i s → (∀ l, m.getLsbD l = true → privateFate s s.warp l (srcA (s.issue i) a l) n false = .fine (.priv (runs l))) →
           done i (fun l => (runs l).flatMap fun r => Memory.readBytes s.mem r.1 r.2)))
    ∧ (∀ l q, let i := Instr.ld g peg sc .rlx h sx sz a
       Ready i s → lanesOf m = [l] → reaches i l q 1 → q % n = 0 → Clear s 1 q → HomeRoom s 1 → jobsDue s s.warp = false →
         done i (fun _ => match (l1Of s s.warp.die s.warp.core q).bind (·.bytes) with
           | some bs => (bs.drop (q % 128)).take n
           | none => (List.range n).map fun k => dieByte s s.warp.die (q + k)))

/-- R269, R273 to R276: stores whose lanes all reach writable bytes complete: memory is as the acting lanes' bytes written in ascending lane order
leave it, so every byte outside them reads as before, and no lane, no other warp and no other storage changes. R240: a self-invalidating page is the
same as the storing die sees it; the home has the bytes where it is this die, or where the store is a release at `pkg` or wider, and not otherwise. -/
def Obligations.StoresComplete : Prop :=
  ∀ (s : State) (g : Guard) (peg : PegSel) (sc : Scope) (o : Order) (h : Hint) (sz : Size) (a b : Src) (tr : Nat)
    (pa qa : Nat → Nat) (win : Nat → Bool) (gr : Group), Calm s → tr ≤ 3 →
    let n := sizeBytes sz
    let m := acting s.warp g
    let data := fun (i : Instr) (l : Nat) =>
      if sz = .b16 then wordBytes (srcB (s.issue i) b l) ++ wordBytes (readHigh s.warp l b) else leBytes n (srcB (s.issue i) b l).toNat
    let outside := fun (x : Nat) => ∀ l, m.getLsbD l = true → x < pa l ∨ pa l + n ≤ x
    (let i := Instr.st g peg sc o h sz a b
     let stored := writtenInOrder s.mem ((lanesOf m).map fun l => (pa l, data i l))
     let kept := fun (x : Nat) => homedElsewhere s s.warp.die x = true ∧ ¬ (releases o = true ∧ reachesPkg sc = true)
     Ready i s → (∀ l, m.getLsbD l = true → globFate s s.warp (srcA (s.issue i) a l) n .store true = .fine (.glob (pa l) tr false)) →
       ∃ t, exec i s = .next t ∧ OpEffect i m peg (fun _ => []) s t ∧ t.others = s.others ∧ t.plainGroups = s.plainGroups
         ∧ (tr ≠ 1 → t.mem = stored)
         ∧ (tr = 1 → ∀ x, dieByte t s.warp.die x = Memory.read stored x ∧ (kept x → Memory.read t.mem x = Memory.read s.mem x)
             ∧ (¬ kept x → Memory.read t.mem x = Memory.read stored x))
         ∧ ∀ x, outside x → Memory.read t.mem x = Memory.read s.mem x)
    ∧ (let i := Instr.sts g peg sc o sz a b
       Ready i s → (∀ l, m.getLsbD l = true → scratchFate s s.warp (srcA (s.issue i) a l) n true = .fine (.scratch (pa l) (win l))) →
         findGroup s (s.warp.group.getD 0) = some gr →
         ∃ t gr', exec i s = .next t ∧ OpEffect i m peg (fun _ => []) s t ∧ t.others = s.others ∧ t.mem = s.mem
           ∧ findGroup t (s.warp.group.getD 0) = some gr' ∧ gr' = { gr with mem := gr'.mem, loose := gr'.loose }
           ∧ gr'.mem = writtenInOrder gr.mem ((lanesOf m).map fun l => (pa l, data i l))
           ∧ ∀ x, outside x → Memory.read gr'.mem x = Memory.read gr.mem x)
    ∧ (let i := Instr.stp g peg sz a b
       let runs := fun l => if sz = .b16 then [(pa l, 8), (qa l, 8)] else [(pa l, n)]
       Ready i s → (∀ l, m.getLsbD l = true → privateFate s s.warp l (srcA (s.issue i) a l) n true = .fine (.priv (runs l))) →
         ∃ t, exec i s = .next t ∧ OpEffect i m peg (fun _ => []) s t ∧ t.others = s.others ∧ t.plainGroups = s.plainGroups
           ∧ t.mem = writtenInOrder s.mem ((lanesOf m).flatMap fun l =>
               if sz = .b16 then [(pa l, (data i l).take 8), (qa l, (data i l).drop 8)] else [(pa l, data i l)])
           ∧ ∀ x, (∀ l r, m.getLsbD l = true → r ∈ runs l → x < r.1 ∨ r.1 + r.2 ≤ x) → Memory.read t.mem x = Memory.read s.mem x)

/-- R233, R236, R269 to R271, R294: the traps of an address, in R269's order, by which no lane is performed. With an unaligned lane MISALIGN; else with
a lane out of range ACCESS: for a global form beyond 2^57 or in the private window, for a private one beyond the thread's bytes, for a scratchpad one
where its address names no byte of an allocation the warp may use. Else, with no fault to wait for, a lane whose page is not there traps with PAGE; one
lane whose page lacks a permission, or is not of the kind the form needs, with ACCESS; one that would write a marked granule with BCLOBBER. Said of
every memory instruction that traps. That ACAS and ACASS meet BCLOBBER whether or not their compare would store is the model's choice (log 57). -/
def Obligations.AddressTraps : Prop :=
  ∀ (s : State) (g : Guard) (peg : PegSel) (sc : Scope) (o : Order) (h : Hint) (sx : Bool) (sz : Size) (op : AtomOp) (w : AtomWidth) (a b c : Src),
    s.warp.region = none →
    let m := acting s.warp g
    let A := fun (i : Instr) l => (srcA (s.issue i) a l).toNat
    let traps := fun (i : Instr) (code : Nat) (bad : Mask) =>
      ∀ l0, lowest bad = some l0 → TrapsWith s i { code := code, tmask := bad, tinfo := srcA (s.issue i) a l0 }
    let bad := fun (i : Instr) n => maskOf fun l => m.getLsbD l && A i l % n != 0
    let glob := fun (i : Instr) (n : Nat) (rd wr : Bool) (takes : Nat → Nat → Prop) =>
      Ready i s →
      let far := maskOf fun l => m.getLsbD l && (decide (A i l + n > 2 ^ 57)
        || (decide (A i l < 0x01FF000000000000 + 96 * 2 ^ 30) && decide (A i l + n > 0x01FF000000000000)))
      let X := fun l => translate s s.warp.die (some s.warp.core) s.warp.ctx (A i l)
      let pages := maskOf fun l => m.getLsbD l && X l == .page
      traps i 0x04 (bad i n) ∧ (bad i n = 0 → traps i 0x05 far)
      ∧ (bad i n = 0 → far = 0 → (∀ l, m.getLsbD l = true → X l = .page ∨ X l = .access ∨ ∃ pa tr r w x w2, X l = .ok pa tr r w x w2) →
          traps i 0x06 pages)
      ∧ (∀ l pa tr r w x w2, bad i n = 0 → far = 0 → lanesOf m = [l] → X l = .ok pa tr r w x w2 →
          (((rd = true ∧ r = false) ∨ (wr = true ∧ w = false) ∨ ¬ takes pa tr) → traps i 0x05 m)
          ∧ ((rd = true → r = true) → wr = true → w = true → takes pa tr → reachable s pa = true → inDeviceArea s s.warp.ctx (A i l) n = false →
              hwOffset s s.warp.ctx (A i l) = none → (∃ z ∈ s.homes, pa < z.pa + 16 ∧ z.pa < pa + n) → traps i 0x0D m))
    let scratch := fun (i : Instr) (n : Nat) (wr : Bool) =>
      Ready i s →
      let inside := fun l => ∃ gr, groupOf s s.warp = some gr ∧ A i l < 2 ^ 32 ∧
        if A i l < 2 ^ 31 then A i l + n ≤ gr.scratch ∧ A i l < 2 ^ 19 ∧ (gr.wide = true ∨ inQuad s.warp.core = inQuad gr.core)
        else A i l < 2 ^ 31 + 2 ^ 21 ∧ A i l % 2 ^ 19 + n ≤ gr.scratch ∧ (gr.wide = true ∨ A i l / 2 ^ 19 % 4 = inQuad gr.core)
      traps i 0x04 (bad i n)
      ∧ (∀ l, bad i n = 0 → lanesOf m = [l] → ¬ inside l → traps i 0x05 m)
      ∧ (∀ l gr, bad i n = 0 → lanesOf m = [l] → inside l → wr = true → findGroup s (s.warp.group.getD 0) = some gr →
          (let k := (if A i l < 2 ^ 31 then inQuad s.warp.core else A i l / 2 ^ 19 % 4) * 2 ^ 19 + A i l % 2 ^ 19
           ∃ z ∈ gr.marks, k < z + 16 ∧ z < k + n) → traps i 0x0D m)
    let priv := fun (i : Instr) (n : Nat) =>
      Ready i s →
      traps i 0x04 (bad i n)
      ∧ (bad i n = 0 → traps i 0x05 (maskOf fun l => m.getLsbD l && decide (A i l + n > ((s.warp.recs.getD l none).map (·.priv)).getD 0)))
    let n := sizeBytes sz
    let k := widthBits w / 8
    let rmw := fun (host : Bool) (pa tr : Nat) => tr ≠ 4 ∧ (host = true ∨ targetOf s pa ≠ .host)
    glob (.ld g peg sc o h sx sz a) n true false (fun _ _ => True)
    ∧ glob (.st g peg sc o h sz a b) n false true (fun _ tr => tr ≠ 4)
    ∧ glob (.atom g peg sc o op w a b) k true true (rmw (op == .add || op == .exch))
    ∧ glob (.red g peg sc o op w a b) k true true (rmw (op == .add || op == .exch))
    ∧ glob (.acas g peg sc o w a b c) k true true (rmw true)
    ∧ glob (.ldv g peg sc o a b) 8 true false (fun _ tr => tr = 4)
    ∧ glob (.stv g peg sc o a b c) 8 true true (fun _ tr => tr = 4)
    ∧ glob (.recon g peg sc o a b c) 8 true true (fun _ tr => tr = 4)
    ∧ scratch (.lds g peg sc o sx sz a) n false ∧ scratch (.sts g peg sc o sz a b) n true
    ∧ scratch (.atoms g peg sc o op w a b) k true ∧ scratch (.acass g peg sc o w a b c) k true
    ∧ priv (.ldp g peg sx sz a) n ∧ priv (.stp g peg sz a b) n

/-- The value that a read-modify-write stores for the old value m and the operand b, of w bits (R280), for the operations on integers. -/
def newValue (op : AtomOp) (w m b : Nat) : Option Nat :=
  match op with
  | .add => some ((m + b) % 2 ^ w)
  | .and => some (m &&& b)
  | .or => some (m ||| b)
  | .xor => some (m ^^^ b)
  | .smin => some (if signedOf w m ≤ signedOf w b then m else b)
  | .smax => some (if signedOf w m ≥ signedOf w b then m else b)
  | .umin => some (if m ≤ b then m else b)
  | .umax => some (if m ≥ b then m else b)
  | .exch => some b
  | .inc => some (if m ≥ b then 0 else m + 1)
  | .dec => some (if m = 0 ∨ b < m then b else m - 1)
  | .fadd | .fmin | .fmax => none

/-- R280: what each operation stores; on floats, an addition rounded to nearest and R125's minimum and maximum. -/
def Obligations.AtomicValues : Prop :=
  (∀ (op : AtomOp) (w m b v : Nat), newValue op w m b = some v → rmwValue op w m b = v)
  ∧ ∀ m b : Nat, rmwValue .fadd 32 m b = (addF (formatOf .f32) .rne ((formatOf .f32).value m) ((formatOf .f32).value b)).1
      ∧ rmwValue .fadd 64 m b = (addF (formatOf .f64) .rne ((formatOf .f64).value m) ((formatOf .f64).value b)).1
      ∧ rmwValue .fmin 32 m b = (minMaxF (fun o => decide (o ≤ 0)) (formatOf .f32) m b).1
      ∧ rmwValue .fmax 32 m b = (minMaxF (fun o => decide (o ≥ 0)) (formatOf .f32) m b).1

/-- Read-modify-writes in order: each lane reads what the lanes before it left; the memory, and each lane's old value. -/
def updatedInOrder (mem : List Host.Cell) (n : Nat) (pa : Nat → Nat) (new : Nat → Nat → Option Nat) (ls : List Nat) :
    List Host.Cell × List (Nat × Nat) :=
  ls.foldl (fun r l =>
    let old := leNat (Memory.readBytes r.1 (pa l) n)
    (match new l old with
      | some v => Memory.writeBytes r.1 (pa l) (leBytes n v)
      | none => r.1, r.2 ++ [(l, old)])) (mem, [])

/-- The old value a lane met. -/
def oldOf (r : List (Nat × Nat)) (l : Nat) : Nat := ((r.find? fun p => p.1 == l).map (·.2)).getD 0

/-- R280 to R283: atomics whose lanes all reach writable bytes complete. The lanes act one after another in ascending order, each on what the last
left; ATOM, ATOMS, ACAS and ACASS push each lane's old value, RED nothing; a compare that fails stores nothing. R231, R250: on a self-invalidating
line that the die has copies of, its dirty bytes of the line go home first, the atomic is performed there, and no copy of the line stays. -/
def Obligations.AtomicsComplete : Prop :=
  ∀ (s : State) (g : Guard) (peg : PegSel) (sc : Scope) (o : Order) (op : AtomOp) (w : AtomWidth) (a b c : Src), s.warp.region = none →
    let bits := widthBits w
    let n := bits / 8
    let m := acting s.warp g
    let operand := fun (lit : Word) (l : Nat) (x : Src) =>
      if w = .w128 then (readSrc s.warp lit l x).toNat + (readHigh s.warp l x).toNat * 2 ^ 64 else (readSrc s.warp lit l x).toNat % 2 ^ bits
    let reaches := fun (i : Instr) (u : Sys2Proof.Machine.Use) (l pa tr : Nat) =>
      globFate s s.warp (srcA (s.issue i) a l) n u true = .fine (.glob pa tr false)
    let glob := fun (i : Instr) (u : Sys2Proof.Machine.Use) (new : Nat → Nat → Option Nat) (push : Nat → List Word) =>
      ∀ (tr : Nat) (pa : Nat → Nat), Calm s → tr ≤ 3 → Ready i s → (∀ l, m.getLsbD l = true → reaches i u l (pa l) tr) →
      let r := updatedInOrder s.mem n pa new (lanesOf m)
      ∃ t, exec i s = .next t ∧ OpEffect i m peg (fun l => push (oldOf r.2 l)) s t ∧ t.mem = r.1 ∧ t.plainGroups = s.plainGroups
        ∧ t.others = s.others
    let copied := fun (i : Instr) (u : Sys2Proof.Machine.Use) (new : Nat → Nat → Option Nat) (push : Nat → List Word) =>
      ∀ (l q : Nat), o = .rlx → Ready i s → lanesOf m = [l] → reaches i u l q 1 → q % n = 0 → Clear s 1 q → jobsDue s s.warp = false →
      s.memOk = true →
      let old := leNat ((List.range n).map fun k => match s.caches.dirty.find? fun d => d.die == s.warp.die && d.pa == q + k with
        | some d => d.val
        | none => Memory.read s.mem (q + k))
      ∃ t, exec i s = .next t ∧ OpEffect i m peg (fun _ => push old) s t ∧ leNat (Memory.readBytes t.mem q n) = (new l old).getD old % 2 ^ bits
        ∧ (∀ d ∈ t.caches.dirty, ¬ (d.die = s.warp.die ∧ lineOf d.pa = lineOf q))
        ∧ (∀ x ∈ t.caches.clean, ¬ (x.die = s.warp.die ∧ x.line = lineOf q)) ∧ ∀ x ∈ t.coh.l1, ¬ (x.die = s.warp.die ∧ x.line = lineOf q)
    let scr := fun (i : Instr) (new : Nat → Nat → Option Nat) (push : Nat → List Word) =>
      ∀ (pa : Nat → Nat) (win : Nat → Bool) (gr : Group), Calm s →
      Ready i s → (∀ l, m.getLsbD l = true → scratchFate s s.warp (srcA (s.issue i) a l) n true = .fine (.scratch (pa l) (win l))) →
      findGroup s (s.warp.group.getD 0) = some gr →
      let r := updatedInOrder gr.mem n pa new (lanesOf m)
      ∃ t ls, exec i s = .next t ∧ OpEffect i m peg (fun l => push (oldOf r.2 l)) s t ∧ t.mem = s.mem ∧ t.others = s.others
        ∧ findGroup t (s.warp.group.getD 0) = some { gr with mem := r.1, loose := ls }
    let rmw := fun (i : Instr) (l old : Nat) => some (rmwValue op bits old (operand (s.issue i).lb l b))
    let cas := fun (i : Instr) (l old : Nat) =>
      if old = operand (s.issue i).lb l b then some (operand (s.issue i).lc l c) else none
    let out := fun (old : Nat) => [if op = .smin ∨ op = .smax then wordI (signedOf bits old) else word old]
    let outCas := fun (old : Nat) => if w = .w128 then [word (old / 2 ^ 64), word old] else [word old]
    let host : Sys2Proof.Machine.Use := .atomic (hostCarries op)
    (let i := Instr.atom g peg sc o op w a b; w ≠ .w128 → glob i host (rmw i) out ∧ copied i host (rmw i) out)
    ∧ (let i := Instr.red g peg sc o op w a b; w ≠ .w128 → glob i host (rmw i) (fun _ => []) ∧ copied i host (rmw i) (fun _ => []))
    ∧ (let i := Instr.acas g peg sc o w a b c; glob i (.atomic true) (cas i) outCas ∧ copied i (.atomic true) (cas i) outCas)
    ∧ (let i := Instr.atoms g peg sc o op w a b; w ≠ .w128 → scr i (rmw i) out)
    ∧ (let i := Instr.acass g peg sc o w a b c; scr i (cas i) outCas)

/-- R240, R277 to R279. PREF changes no lane and no byte of memory; of a self-invalidating line it makes the copies that its level names. A FENCE that
releases at `pkg` or wider leaves no dirty byte of its lanes behind; one that acquires drops the self-invalidating lines of its L1s at `quad` (unfused)
and wider, and at `pkg` and wider its die's home-cache copies; at narrower scopes nothing. That it also empties the fetch paths of the cores its scope
covers is the model's choice (log 177). CCTL's operations drop or write back what they name, and
nothing else. -/
def Obligations.FencesAndCacheControl : Prop :=
  ∀ (s : State) (g : Guard) (peg : PegSel) (sc : Scope) (fo : FenceOrder) (lv : PrefLevel) (op : CctlOp) (a : Src),
    let m := acting s.warp g
    let die := s.warp.die
    let core := s.warp.core
    (Ready (.pref g lv a) s → HomeRoom s 32 →
      ∃ t, exec (.pref g lv a) s = .next t
        ∧ LaneEffect (.pref g lv a) 0 (fun _ y => y) (fun _ => 0) s { t with coh := s.coh, caches := s.caches, gated := s.gated, cores := s.cores }
        ∧ t.caches.dirty = s.caches.dirty ∧ t.caches.code = s.caches.code
        ∧ ∀ l pa, lanesOf m = [l] → quietPlace s s.warp (srcA (s.issue (.pref g lv a)) a l) = some (pa, 1) → Clear s 1 pa →
            (lv ≠ .l1 → homedElsewhere s die pa = true → ∃ x ∈ t.caches.clean, x.die = die ∧ x.line = lineOf pa)
            ∧ (lv ≠ .home → 0 < l1Room s die (l1Core s die core pa) → (l1Of t die core pa).isSome = true)
            ∧ (lv = .l1 → t.caches.clean = s.caches.clean) ∧ (lv = .home → t.coh = s.coh))
    ∧ (Ready (.fence g peg sc fo) s → jobsDue s s.warp = false →
        ∃ t, exec (.fence g peg sc fo) s = .next t ∧ OpEffect (.fence g peg sc fo) m peg (fun _ => []) s t ∧ t.plainGroups = s.plainGroups
          ∧ t.others = s.others
          ∧ (reachesPkg sc = true → fo ≠ .acq → ∀ d ∈ t.caches.dirty, ∀ l, m.getLsbD l = true → (s.warp.id, l) ∉ d.writers)
          ∧ ((reachesPkg sc = false ∨ fo = .acq) → t.mem = s.mem ∧ t.caches.dirty = s.caches.dirty)
          ∧ (fo ≠ .rel → m ≠ 0 →
              (reachesPkg sc = true → ∀ x ∈ t.caches.clean, x.die ≠ die)
              ∧ (reachesPkg sc = true ∨ sc = .die ∨ (sc = .quad ∧ isFused s die (core / 4) = false) →
                  t.coh = { s.coh with l1 := s.coh.l1.filter fun x => !(x.bytes.isSome && x.die == die
                    && if isFused s die (core / 4) then x.core / 4 == core / 4 else x.core == core) }))
          ∧ ((fo = .rel ∨ sc = .thread ∨ sc = .core ∨ (sc = .quad ∧ isFused s die (core / 4) = true)) → t.coh = s.coh)
          ∧ (fo ≠ .rel → reachesPkg sc = false → { t.caches with code := s.caches.code } = s.caches)
          ∧ (m ≠ 0 → t.caches.code = s.caches.code.filter fun x => !scopeCovers sc die core x.die x.core))
    ∧ (Ready (.cctl g peg op a) s →
        ∃ t, exec (.cctl g peg op a) s = .next t ∧ OpEffect (.cctl g peg op a) m peg (fun _ => []) s t ∧ t.groups = s.groups
          ∧ t.others = s.others ∧ (op ≠ .wb → t.mem = s.mem)
          ∧ (op = .invall → m ≠ 0 → t.caches = s.caches ∧ t.coh = { s.coh with l1 := s.coh.l1.filter fun x => !(x.die == die && x.core == core) })
          ∧ (op = .iinvall → m ≠ 0 → t.coh = s.coh ∧ t.caches = { s.caches with code := [] })
          ∧ ∀ l pa tr, lanesOf m = [l] → quietPlace s s.warp (srcA (s.issue (.cctl g peg op a)) a l) = some (pa, tr) →
              (op = .inv → t.caches = s.caches ∧ t.coh = { s.coh with l1 := s.coh.l1.filter fun x => !(x.line == lineOf pa && x.die == die
                && if isFused s die (core / 4) then x.core / 4 == core / 4 else x.core == core) })
              ∧ (op = .iinv → t.coh = s.coh ∧ t.caches = { s.caches with code := s.caches.code.filter fun x => lineOf x.pa != lineOf pa })
              ∧ (op = .wb → t.coh = s.coh ∧ (∀ d ∈ t.caches.dirty, ¬ (d.die = die ∧ lineOf d.pa = lineOf pa))
                  ∧ ∀ d, s.caches.dirty = [d] → d.die = die → lineOf d.pa = lineOf pa → cannotStore s d.pa = false → t.mem = Memory.write s.mem d.pa d.val))

/-! ### Ply cells (R284 to R290) -/

/-- R285 to R290, where one lane acts: LDV pushes a sibling, their number and the knot; STV and RECON with the current knot leave the one value B at the
next epoch and push 1; STV with another knot adds a sibling and pushes their number, and where the cell has eight or its home's ply store is full sends
PLYFULL and pushes 0, the cell as it was; RECON with another knot changes nothing and pushes 0x100 and the number of siblings. -/
def Obligations.PlyCells : Prop :=
  ∀ (s : State) (g : Guard) (peg : PegSel) (sc : Scope) (o : Order) (a b c : Src) (l pa : Nat),
    s.caches.dirty = [] → Clear s 4 pa → jobsDue s s.warp = false → s.warp.region = none → lanesOf (acting s.warp g) = [l] →
    let m := acting s.warp g
    let cell := plyCell s pa
    let A := fun (i : Instr) => srcA (s.issue i) a l
    let fine := fun (i : Instr) (wr : Bool) => Ready i s ∧ globFate s s.warp (A i) 8 .ply wr = .fine (.glob pa 4 false) ∧ cell.poisoned = false
    let B := fun (i : Instr) => srcB (s.issue i) b l
    let C := fun (i : Instr) => srcC (s.issue i) c l
    let knot := fun (i : Instr) => word (cell.epoch * 2 ^ 24 + (2 ^ cell.siblings.length - 1) * 2 ^ 16 + (field (A i) 3 16 ^^^ field (A i) 19 16))
    let replaced := fun (i : Instr) (t : State) =>
      (plyCell t pa).siblings = [B i] ∧ (plyCell t pa).epoch = (if cell.epoch ≥ 2 ^ 40 - 1 then 1 else cell.epoch + 1)
        ∧ t.mem = Memory.writeWord s.mem pa (B i)
    (let i := Instr.ldv g peg sc o a b
     fine i false → ∃ t, exec i s = .next t ∧ t.mem = s.mem ∧ t.ply = s.ply
       ∧ OpEffect i m peg (fun _ => [cell.siblings.getD (B i).toNat 0, word cell.siblings.length, knot i]) s t)
    ∧ (∀ i, i = Instr.stv g peg sc o a b c ∨ i = Instr.recon g peg sc o a b c → fine i true → C i = knot i → C i ≠ 0 →
        ∃ t, exec i s = .next t ∧ OpEffect i m peg (fun _ => [1]) s t ∧ replaced i t)
    ∧ (let i := Instr.stv g peg sc o a b c
       let full := 8 ≤ cell.siblings.length ∨ plyCapacity ≤ plyUsed s (homeDie pa)
       fine i true → (C i ≠ knot i ∨ C i = 0) →
         (¬ full → cell.siblings ≠ [] → ∃ t, exec i s = .next t
           ∧ OpEffect i m peg (fun _ => [word (cell.siblings.length + 1)]) s t
           ∧ (plyCell t pa).siblings = cell.siblings ++ [B i] ∧ (plyCell t pa).epoch = cell.epoch
           ∧ t.mem = Memory.writeWord s.mem pa (cell.siblings.headD 0))
         ∧ (full → ∃ t, exec i s = .next t ∧ OpEffect i m peg (fun _ => [0]) s t ∧ t.ply = s.ply
             ∧ (let e := sendEvent s (.context s.warp.ctx) 5 (A i) 0
                t.mem = e.mem ∧ t.vfs = e.vfs ∧ t.vectors = e.vectors ∧ t.contexts = e.contexts)))
    ∧ (let i := Instr.recon g peg sc o a b c
       fine i true → (C i ≠ knot i ∨ C i = 0) → ∃ t, exec i s = .next t ∧ t.mem = s.mem ∧ t.ply = s.ply
         ∧ OpEffect i m peg (fun _ => [word (0x100 + cell.siblings.length)]) s t)

/-! ### Barrier objects and copies (R293 to R308) -/

/-- R295: what an event does to an object whose counts stay in range: the arithmetic of its kind; where no arrival and no byte is then pending the phase
ends and the counts begin again, and an object that then expects no arrival is retired. An event that would leave a range sets ERR alone. -/
def Obligations.ObjectEvents : Prop :=
  ∀ (o : Obj) (e : ObjEvent), o.pendArr ≤ 65535 → o.expArr ≤ 65535 → -(2 ^ 31) ≤ o.pendBytes → o.pendBytes < 2 ^ 31 →
    let a : Int := match e with
      | .arrive _ | .drop | .join => -1
      | .implicit q => if q ≠ o.phase then -1 else 0
      | .spawn => 1
      | _ => 0
    let x : Int := match e with
      | .drop | .implicit _ => -1
      | _ => 0
    let b : Int := match e with
      | .arrive n | .expect n => n
      | .credit n | .failCredit n => -(n : Int)
      | _ => 0
    let pa := o.pendArr + a
    let ex := o.expArr + x
    let pb := o.pendBytes + b
    let failed := (match e with | .failCredit _ => true | _ => o.cfail)
    let fits := 0 ≤ pa ∧ pa ≤ 65535 ∧ 0 ≤ ex ∧ -(2 ^ 31) ≤ pb ∧ pb < 2 ^ 31
    (¬ fits → applyEvent o e = ({ o with err := true }, .discarded))
    ∧ (fits → ¬ (pa = 0 ∧ pb = 0) →
        applyEvent o e = ({ o with pendArr := pa.toNat, expArr := ex.toNat, pendBytes := pb, cfail := failed }, .applied))
    ∧ (fits → pa = 0 → pb = 0 →
        applyEvent o e = ({ o with
          phase := (o.phase + 1) % 65536, pendArr := ex.toNat, expArr := ex.toNat, pendBytes := o.expBytes, cfail := failed
          init := if ex = 0 then false else o.init }, if ex = 0 then .retired else .completed))

/-- A warp blocked on an object, as an event of it leaves it (R295, R302). -/
def wokenBy (p : ObjPlace) (r : Obj × ObjOutcome) (w : Warp) : Warp :=
  match blockedOn p w with
  | none => w
  | some q =>
    if (r.2 = .completed ∨ r.2 = .retired) ∧ phasePassed r.1.phase q.toNat = true then
      { w with status := .running, wake := some (word (r.1.phase + 2 ^ 16)) }
    else if r.2 = .retired then { w with status := .running, wake := some (word (r.1.phase + 2 ^ 17)) } else w

/-- R293 to R302: BINIT makes an object and marks its granule; BARRIVE, BEXPECT and BDROP are its events, BARRIVE registering the warp with the phase it
arrives in and BDROP taking the registration away; BTEST and BWAIT push the phase and whether it has passed, and BWAIT blocks the warp on a phase that has
not. Bytes outside the object are as before. -/
def Obligations.BarrierInstructions : Prop :=
  ∀ (s : State) (g : Guard) (peg : PegSel) (sp : Space) (a b c : Src) (loc : Loc) (l : Nat), Calm s → s.memOk = true → s.warp.region = none →
    s.warp.status = .running → lowest (acting s.warp g) = some l → (sp = .scratch → ∃ gr, s.warp.group.bind (findGroup s) = some gr) →
    let m := acting s.warp g
    let p := placeOf s.warp sp loc
    let same := fun (t : State) => (∀ x, (sp = .scratch ∨ x < p.at_ ∨ p.at_ + 16 ≤ x) → Memory.read t.mem x = Memory.read s.mem x)
      ∧ ∀ k gr gr' x, findGroup s k = some gr → findGroup t k = some gr' → (p.group ≠ some k ∨ x < p.at_ ∨ p.at_ + 16 ≤ x) →
          Memory.read gr'.mem x = Memory.read gr.mem x
    let at_ := fun (i : Instr) (rd wr : Bool) => Ready i s ∧ objFate s s.warp sp (srcA (s.issue i) a l) rd wr = .fine loc
    let regs := fun (t : State) => { t with warp := { t.warp with regs := s.warp.regs } }
    let event := fun (i : Instr) (t : State) (e : ObjEvent) =>
      let r := applyEvent (readObj s p) e
      exec i s = .next t ∧ OpEffect i m peg (fun _ => []) s (regs t) ∧ same t ∧ readObj t p = r.1
        ∧ isMarked t p = decide (r.2 ≠ .retired) ∧ t.others = s.others.map (wokenBy p r)
    let small := (readObj s p).expBytes < 2 ^ 31
    let delivers := fun (i : Instr) (t : State) (v : Word) =>
      exec i s = .next t ∧ LanesBecome s t m (fun _ y => y.push { val := v }) ∧ MovesOn (litCount i) s t ∧ WarpFrame s t ∧ t.warp.ux = s.warp.ux
        ∧ t.warp.fpflags = s.warp.fpflags ∧ t.mem = s.mem ∧ t.plainGroups = s.plainGroups ∧ t.others = s.others
    (let i := Instr.binit g peg sp a b c
     let n := srcB (s.issue i) b l
     let by_ := srcC (s.issue i) c l
     at_ i false true → n ≠ 0 → n.toNat < 2 ^ 16 → by_.toNat < 2 ^ 31 → isMarked s p = false → homeFull s p = false →
       ∃ t, exec i s = .next t ∧ OpEffect i m peg (fun _ => []) s t ∧ same t ∧ isMarked t p = true ∧ t.others = s.others
         ∧ readObj t p = { expArr := n.toNat, pendArr := n.toNat, expBytes := by_.toNat, pendBytes := by_.toNat, init := true })
    ∧ (let i := Instr.barrive g peg sp a b
       let n := srcB (s.issue i) b l
       at_ i true true → n.toNat < 2 ^ 31 → isMarked s p = true → small →
         (s.warp.regs.length < 8 ∨ s.warp.regs.any (sameObject p) = true) →
         ∃ t, event i t (.arrive n.toNat)
           ∧ (s.warp.regs.any (sameObject p) = false → t.warp.regs = s.warp.regs
               ++ [{ space := sp, addr := srcA (s.issue i) a l, place := p.at_, phase := BitVec.ofNat 16 (readObj s p).phase }])
           ∧ (s.warp.regs.any (sameObject p) = true → ∀ r ∈ t.warp.regs, sameObject p r = true → r.phase = BitVec.ofNat 16 (readObj s p).phase))
    ∧ (let i := Instr.bexpect g peg sp a b
       let n := srcB (s.issue i) b l
       at_ i true true → n.toNat < 2 ^ 31 → isMarked s p = true → small → ∃ t, event i t (.expect n.toNat) ∧ t.warp.regs = s.warp.regs)
    ∧ (let i := Instr.bdrop g peg sp a
       at_ i true true → isMarked s p = true → small →
         ∃ t, event i t .drop ∧ t.warp.regs = s.warp.regs.filter fun r => !sameObject p r)
    ∧ (let i := Instr.btest g sp a b
       let q := (readObj s p).phase
       let d := (q + 65536 - (srcB (s.issue i) b l).toNat % 65536) % 65536
       at_ i true false → isMarked s p = true →
         ∃ t, delivers i t (word (q + if 1 ≤ d ∧ d ≤ 32767 then 65536 else 0)))
    ∧ (let i := Instr.bwait g sp a b
       let q := (readObj s p).phase
       let p0 := (srcB (s.issue i) b l).toNat % 65536
       let d := (q + 65536 - p0) % 65536
       at_ i true false → isMarked s p = true → s.warp.wake = none → s.warp.reissue = false →
         (1 ≤ d → d ≤ 32767 → ∃ t, delivers i t (word (q + 65536)))
         ∧ (¬ (1 ≤ d ∧ d ≤ 32767) → ∃ t, exec i s = .next t ∧ t.mem = s.mem ∧ t.others = s.others ∧ t.groups = s.groups
             ∧ t.warp = { s.warp with status := .blocked sp p.at_ (BitVec.ofNat 16 p0) t.now }))

/-- What a copy instruction leaves when it enters its quad's queue (R261, R303). -/
def CopyEnters (i : Instr) (peg : PegSel) (c : Copy) (s t : State) : Prop :=
  exec i s = .next t ∧ LanesBecome s t 0 (fun _ y => y) ∧ MovesOn (litCount i) s t ∧ t.mem = s.mem ∧ t.plainGroups = s.plainGroups ∧ t.homes = s.homes
    ∧ t.others = s.others ∧ t.warp.ops = s.warp.ops ++ (if pegMask s.warp peg ≠ 0 then [{ id := s.nextId, pegs := pegMask s.warp peg, done := false }] else [])
    ∧ t.copies = s.copies ++ [{ c with
        cid := s.nextId + 1, warp := s.warp.id, op := s.nextId, ctx := s.warp.ctx, group := s.warp.group, queue := s.warp.queue
        die := s.warp.die, core := s.warp.core, left := [(0, c.s * c.n)], gen := warpGen s.warp }]

/-- R303, R304, R307, R308: a copy issued by all 32 lanes with its sizes, strides and addresses as the rules want them and its ranges within reach
enters its quad's queue with nothing landed; COPYM queues its follow-on in the matrix unit behind it. No byte moves yet. The object it names, if any,
must be marked, else ACCESS traps for every lane with its address, and no copy enters; entering changes neither the object nor any mark (R293 to
R295, R299): the copy keeps its place for the credits. -/
def Obligations.CopiesEnter : Prop :=
  ∀ (s : State) (g : Guard) (peg : PegSel) (dir : CopyDir) (sp : Space) (twoD : Bool) (a b c : Src) (loc : Loc) (o : Option Nat), Calm s →
    s.warp.region = none → acting s.warp g = BitVec.allOnes 32 →
    (s.copies.filter fun q => q.die == s.warp.die && q.core / 4 == s.warp.core / 4).length < 64 →
    let lo := fun (i : Instr) => srcB (s.issue i) b 0
    let hi := readHigh s.warp 0 b
    let src := readHigh s.warp 0 a
    let dst := fun (i : Instr) => srcA (s.issue i) a 0
    let size := fun (i : Instr) => field (lo i) 0 32
    let copy := fun (i : Instr) (shape : CopyShape) (n : Nat) =>
      ({ cid := 0, warp := 0, op := 0, ctx := 0, group := none, queue := 0, die := 0, core := 0, shape := shape, dst := dst i, src := src
         s := size i, n := n, space := sp, obj := o, objAddr := srcC (s.issue i) c 0, left := [] } : Copy)
    let aligned := fun (i : Instr) (most n : Nat) =>
      size i % 16 = 0 ∧ 16 ≤ size i ∧ size i ≤ most ∧ size i * n ≤ 2 ^ 31 - 16 ∧ field (dst i) 0 4 = 0 ∧ field src 0 4 = 0
    let place := placeOf s.warp sp loc
    let object := fun (i : Instr) => srcC (s.issue i) c 0 ≠ BitVec.allOnes 64 ∧ objFate s s.warp sp (srcC (s.issue i) c 0) true true = .fine loc
    let enters := fun (i : Instr) (more : State → Prop) (k : Copy) =>
      ((srcC (s.issue i) c 0 = BitVec.allOnes 64 ∧ o = none ∨ object i ∧ isMarked s place = true ∧ o = some place.at_) →
        ∃ t, CopyEnters i peg k s t ∧ more t)
      ∧ (object i → isMarked s place = false → ∃ t, { t with caches := s.caches, gated := s.gated } = s
          ∧ exec i s = .next (takeTrap t { code := 0x05, tmask := BitVec.allOnes 32, tinfo := srcC (s.issue i) c 0 }
              (s.warp.wordAddr s.warp.idx) (s.warp.nextAddr (litCount i))))
    let reach := fun (q : Copy) => rowsFit s s.warp q.dstScratch q.n q.s q.dstRow = true
    let rows : CopyShape := if twoD then .rows dir (field hi 0 32) (field hi 32 32) else .rows dir 0 0
    let count := fun (i : Instr) => if twoD then field (lo i) 32 16 + 1 else 1
    let plain := fun (i : Instr) =>
      let q := copy i rows (count i)
      Ready i s ∧ aligned i (2 ^ 20) (count i) ∧ field (lo i) 48 16 = 0 ∧ (twoD = false → field (lo i) 32 16 = 0)
        ∧ (twoD = true → field hi 0 32 % 16 = 0 ∧ field hi 32 32 % 16 = 0) ∧ reach q
        ∧ rowsFit s s.warp q.srcScratch q.n q.s (fun k => (q.srcRow 0 k).getD 0) = true
    (let i := Instr.copy g peg dir sp twoD a b c
     plain i → enters i (fun t => t.units = s.units) (copy i rows (count i)))
    ∧ (let i := Instr.copym g peg dir sp twoD a b c
       let ch := readHigh s.warp 0 c
       let n := field ch 32 7 + 1
       let tile := field ch 39 2
       let v := viewOf (unitOf s s.warp)
       let fmt := ((v.plane v.active).fmt).getD .bi8
       let stride := if twoD then field hi 32 32 else ((v.plane v.active).fmt).elim 32 rowBytes
       plain i → field ch 41 23 = 0 → tile + (n + 31) / 32 ≤ 4 →
         streamCheck s s.warp tile n (field (dst i) 0 32) (field ch 0 32) stride = none →
         enters i (fun t => unitOf t s.warp = { unitOf s s.warp with jobs := (unitOf s s.warp).jobs
             ++ [{ warp := s.warp.id, op := none, copy := some (s.nextId + 1)
                   what := .mstream fmt tile n (field (dst i) 0 32) (field ch 0 32) stride, raced := looseRuns s s.warp }] })
           (copy i rows (count i)))
    ∧ (let i := Instr.copyg g peg sp a b c
       let n := field (lo i) 32 16 + 1
       let q := copy i (.gather (field hi 0 32) (field hi 32 32)) n
       Ready i s → aligned i (2 ^ 16) n → field (lo i) 48 16 = 0 → field hi 0 32 % 4 = 0 → field hi 32 32 % 16 = 0 → reach q →
         (scratchPlace s s.warp (word (field hi 0 32)) (4 * n)).isSome = true →
         enters i (fun t => t.units = s.units) q)

/-! ### The matrix unit, spawning (R140 to R163, R197 to R209) -/

/-- A matrix operation joins its unit's queue (R155). -/
def JobJoins (i : Instr) (peg : PegSel) (job : MatrixOp) (pages : List (Nat × Nat × Nat)) (s t : State) : Prop :=
  exec i s = .next t ∧ LanesBecome s t 0 (fun _ y => y) ∧ MovesOn (litCount i) s t ∧ t.mem = s.mem ∧ t.groups = s.groups ∧ t.others = s.others
    ∧ (s.warp.region = none → t.warp.region = none)
    ∧ t.warp.ops = s.warp.ops ++ (if pegMask s.warp peg ≠ 0 then [{ id := s.nextId, pegs := pegMask s.warp peg, done := false }] else [])
    ∧ unitOf t s.warp = { unitOf s s.warp with jobs := (unitOf s s.warp).jobs
        ++ [{ warp := s.warp.id, op := some s.nextId, what := job, raced := looseRuns s s.warp, pages := pages }] }
    ∧ ∀ d k q, ¬ (d = s.warp.die ∧ k = s.warp.core ∧ q = s.warp.part) → findUnit t d k q = findUnit s d k q

/-- R155 to R163: an operation issued by all 32 lanes on tiles and planes that are its own or free, with its ranges aligned and in the allocation, joins
the unit's queue behind those issued before; MSTAT, with none of the warp's due, pushes the tile's status and clears it where asked. With no acting lane
none has an effect; with some lanes but not all each traps with PARTMASK; on another warp's tile MZERO traps with ACCOWN. -/
def Obligations.MatrixInstructions : Prop :=
  ∀ (s : State) (g : Guard) (peg : PegSel) (md : TileMode) (tile : Fin 4) (fmt : PlaneFmt) (m1 : Fin 128) (cv : DrainConv) (act : DrainAct)
    (gl bias clr : Bool) (a b c : Src), Calm s →
    let u := unitOf s s.warp
    let v := viewOf u
    let all := acting s.warp g = BitVec.allOnes 32
    let room := (u.jobs.filter fun j => j.copy.isNone).length < 8
    let mine := v.holder = none ∨ v.holder = some s.warp.id
    let none_ : PegSel := { a := false, b := false }
    (all → room → Ready (.mzero g md tile) s → ((v.tile tile.val).owner = none ∨ (v.tile tile.val).owner = some s.warp.id) →
      ∃ t, JobJoins (.mzero g md tile) none_ (.mzero tile.val md) [] s t)
    ∧ (all → room → Ready (.mswap g) s → mine → ∃ t, JobJoins (.mswap g) none_ .mswap [] s t)
    ∧ (let i := Instr.mlds g peg fmt a b
       let p := srcA (s.issue i) a 0
       let k := srcB (s.issue i) b 0
       all → room → Ready i s → mine → field p 0 7 = 0 → inAllocation s s.warp p.toNat (planeBytes fmt) = true →
         (hasScales fmt = true → inAllocation s s.warp k.toNat 32 = true) →
         ∃ t, JobJoins i peg (.mlds fmt p.toNat k.toNat) [] s t)
    ∧ (let i := Instr.mstream g peg m1 tile a b c
       let va := field (srcA (s.issue i) a 0) 0 32
       let vb := field (srcB (s.issue i) b 0) 0 32
       let vc := field (srcC (s.issue i) c 0) 0 32
       all → room → Ready i s → s.warp.region = none → tile.val + (m1.val + 32) / 32 ≤ 4 →
         streamCheck s s.warp tile.val (m1.val + 1) va vb vc = none →
         ∃ t, JobJoins i peg (.mstream (((v.plane v.active).fmt).getD .bi8) tile.val (m1.val + 1) va vb vc) [] s t)
    ∧ (let i := Instr.mdrain g peg cv act gl bias tile a b c
       let va := srcA (s.issue i) a 0
       let vb := srcB (s.issue i) b 0
       let vc := field (srcC (s.issue i) c 0) 0 32
       let raw := (v.tile tile.val).mode == .raw
       let runs := drainRunsOf raw cv gl va.toNat vc
       all → room → Ready i s → (v.tile tile.val).owner = some s.warp.id → (raw = true → cv = .s64 ∧ act = .none ∧ bias = false) →
         field va 0 4 = 0 → (raw = false → field vb 0 4 = 0 ∧ inAllocation s s.warp vb.toNat (epilogueBytes act bias) = true) → vc % 16 = 0 →
         let what := MatrixOp.mdrain tile.val cv act gl bias va vb.toNat vc (warpGen s.warp)
         (gl = false → (∀ r ∈ runs, inAllocation s s.warp r.1 r.2 = true
             ∧ touchesScratchMark s (s.warp.group.getD 0) (scratchKey (inQuad s.warp.core) r.1) r.2 = false) →
           ∃ t, JobJoins i peg what [] s t)
         ∧ (∀ pa tr : Nat → Nat, gl = true → (∀ r ∈ runs, outOfRange r.1 r.2 = false) →
             (∀ q ∈ pagesOf runs, pageFate s s.warp.die (some s.warp.core) s.warp.ctx (word q) 1 .store true = .fine (.glob (pa q) (tr q) false)
               ∧ ∃ e f h k, translate s s.warp.die (some s.warp.core) s.warp.ctx q = .ok (pa q) (tr q) e f h k) →
             s.homes = [] →
             ∃ t, JobJoins i peg what ((pagesOf runs).map fun q => (q, pa q, tr q)) s t))
    ∧ (let i := Instr.mstat g clr tile
       let x := u.tile tile.val
       all → Ready i s → (v.tile tile.val).owner = some s.warp.id →
         ∃ t, exec i s = .next t ∧ LaneEffect i (BitVec.allOnes 32) (fun _ y => y.push { val := statusWord x }) (fun _ => 0) s { t with units := s.units }
           ∧ unitOf t s.warp = if clr then u.setTile tile.val { x with inx := false, inv := false, sat := false, ovr := false } else u)
    ∧ (∀ i, i = Instr.mzero g md tile ∨ i = Instr.mlds g peg fmt a b ∨ i = Instr.mswap g ∨ i = Instr.mstream g peg m1 tile a b c
          ∨ i = Instr.mdrain g peg cv act gl bias tile a b c ∨ i = Instr.mstat g clr tile → Ready i s →
        (acting s.warp g = 0 → ∃ t, exec i s = .next t ∧ LaneEffect i 0 (fun _ y => y) (fun _ => 0) s t)
        ∧ (acting s.warp g ≠ 0 → ¬ all → s.warp.region = none →
            TrapsWith s i { code := 0x0C, tmask := acting s.warp g, tinfo := word s.warp.active.toNat }))
    ∧ (∀ o, all → Ready (.mzero g md tile) s → s.warp.region = none → (v.tile tile.val).owner = some o → o ≠ s.warp.id →
        TrapsWith s (.mzero g md tile) { code := 0x0E, tmask := BitVec.allOnes 32, tinfo := word tile.val })

/-- R197 to R209, where one lane acts: SPAWN enters a record behind those of its bobbin and pushes 1, or, with bobbin and segment full, pushes 0; with a
join it adds an arrival to the object, and pushes 0 where the object can take no more. WATCH of a watched range takes the lowest free heddle id and pushes
it, or −1; UNWATCH ends the heddle; BOBQ pushes what is queued. A stage that is no declared thread stage traps with ILLOPND. -/
def Obligations.SpawnInstructions : Prop :=
  ∀ (s : State) (g : Guard) (peg : PegSel) (st : Fin 16) (lg : Fin 32) (a b c : Src) (l : Nat) (d : StageDecl), s.warp.region = none →
    s.hbmStacks = [] → s.caches.dirty = [] → jobsDue s s.warp = false → lanesOf (acting s.warp g) = [l] →
    let m := acting s.warp g
    let stage := BitVec.ofNat 4 st.val
    let declared := declOf s s.warp.ctx s.warp.pat stage = some d ∧ d.isGroup = false
    let own := (s.warp.recs.getD l none).getD {}
    (let i := Instr.spawn g peg true st a b c
     let joined : Record :=
       { kind := 0, stage := stage, join := true, gidx := own.gidx, p0 := srcA (s.issue i) a l, p1 := readHigh s.warp l a
         p2 := srcB (s.issue i) b l, p3 := readHigh s.warp l b, joinAddr := srcC (s.issue i) c l, gen := own.gen, queue := own.queue, seq := own.seq
         launch := own.launch, priv := own.priv }
     ∀ (pa tr : Nat) (z : Bool), let p : ObjPlace := { space := .global, at_ := pa }
       let waiting := findBobbin s s.warp.ctx s.warp.pat stage s.warp.die s.warp.core
       Ready i s → declared → Still s → s.memOk = true → joinFate s s.warp (srcC (s.issue i) c l) = .fine (.glob pa tr z) →
       (readObj s p).expBytes < 2 ^ 31 → waiting.recs.length < 64 →
       (findSegment s s.warp.ctx s.warp.pat stage s.warp.die).entries = [] →
         ((readObj s p).pendArr < 65535 →
           ∃ t, exec i s = .next t ∧ OpEffect i m peg (fun _ => [1]) s t ∧ readObj t p = { readObj s p with pendArr := (readObj s p).pendArr + 1 }
             ∧ (findBobbin t s.warp.ctx s.warp.pat stage s.warp.die s.warp.core).recs = waiting.recs ++ [{ joined with joinPa := some pa }])
         ∧ ((readObj s p).pendArr = 65535 →
           ∃ t, exec i s = .next t ∧ OpEffect i m peg (fun _ => [0]) s t ∧ t.mem = s.mem
             ∧ (findBobbin t s.warp.ctx s.warp.pat stage s.warp.die s.warp.core).recs = waiting.recs))
    ∧ (let i := Instr.spawn g peg false st a b c
     let r : Record :=
       { kind := 0, stage := stage, join := false, gidx := own.gidx, p0 := srcA (s.issue i) a l, p1 := readHigh s.warp l a
         p2 := srcB (s.issue i) b l, p3 := readHigh s.warp l b, joinAddr := 0, gen := own.gen, queue := own.queue, seq := own.seq
         launch := own.launch, priv := own.priv }
     let waiting := findBobbin s s.warp.ctx s.warp.pat stage s.warp.die s.warp.core
     let segment := findSegment s s.warp.ctx s.warp.pat stage s.warp.die
     let after := fun (t : State) => findBobbin t s.warp.ctx s.warp.pat stage s.warp.die s.warp.core
     Ready i s → declared →
       (waiting.recs.length < 64 → segment.entries = [] →
         ∃ t, exec i s = .next t ∧ OpEffect i m peg (fun _ => [1]) s t ∧ t.mem = s.mem ∧ t.groups = s.groups
           ∧ (after t).recs = waiting.recs ++ [r])
       ∧ (64 ≤ waiting.recs.length → d.overflow * 8 ≤ segment.entries.length →
         ∃ t, exec i s = .next t ∧ OpEffect i m peg (fun _ => [0]) s t ∧ t.mem = s.mem ∧ t.groups = s.groups
           ∧ (after t).recs = waiting.recs ∧ t.segments = s.segments))
    ∧ (∀ h fr, let i := Instr.watch g peg lg st a
       let A := srcA (s.issue i) a l
       Ready i s → declared → watchFate s s.warp lg.val A = .fine .none → watchedFrames s s.warp A.toNat lg.val = some fr →
         freeHeddle s = some h →
         if quotaUsed s s.warp.ctx then ∃ t, exec i s = .next t ∧ OpEffect i m peg (fun _ => [-1]) s t ∧ t.heddles = s.heddles
         else ∃ t x, exec i s = .next t ∧ OpEffect i m peg (fun _ => [word h]) s t ∧ t.heddles = s.heddles ++ [x]
           ∧ x.id = h ∧ x.base = A ∧ x.lg = lg.val ∧ x.stage = stage ∧ x.frames = fr ∧ x.armed = true ∧ x.lost = 0)
    ∧ (let i := Instr.unwatch g peg a
       let A := srcA (s.issue i) a l
       Ready i s → A.toNat ≤ 511 → (∃ x ∈ s.heddles, x.id = A.toNat ∧ x.ctx = s.warp.ctx) →
         ∃ t, exec i s = .next t ∧ OpEffect i m peg (fun _ => []) s t ∧ t.heddles = s.heddles.filter (fun x => x.id != A.toNat))
    ∧ (let i := Instr.bobq g st
       Ready i s → declared →
         ∃ t, exec i s = .next t ∧ LaneEffect i m (fun _ y => y.push { val := bobqWord s s.warp stage }) (fun _ => 0) s t)
    ∧ (∀ i join, i = Instr.spawn g peg join st a b c ∨ i = Instr.watch g peg lg st a ∨ i = Instr.bobq g st → Ready i s →
        (declOf s s.warp.ctx s.warp.pat stage = none ∨ ∃ d', declOf s s.warp.ctx s.warp.pat stage = some d' ∧ d'.isGroup = true) →
        TrapsWith s i { code := 0x02, tmask := m, tinfo := word st.val })

/-! ### The device's own steps -/

/-- R19, R30 to R32, R36, R44, R384: a block is fetched from the fetch path where that holds its address, and else from memory where its page may be
executed, with zeros in the reserved part of a hardware area and, of a self-invalidating page, the die's own dirty bytes and no clean copy (the model's choice:
log 177); PAGE and ACCESS where it may not. A checked block begins to issue at its first word with its
address as the selvage, once the pegs its header names are clear; a broken block traps, and so does one that is an innermost split's seam and does not begin
with SEAM. What a block's trap reports as its lanes, the active ones, and that the block stands in the fetch path until it is dropped, are the model's
choices (logs 123, 35 and 127). R14, R20, R183, R306, R340: what is reported to a warp. An operation's entries fill; a performed operation leaves its pegs; a warp whose count
has reached its limit traps with STALL; a reported failure becomes its trap; a walk's translation is kept by its die. R17, R19: before its next word, a warp
with more than 16 pleat entries on chip has the oldest one moved to its place in the hardware area; a page fault of the move parks the warp, which still has
the entry. The bytes written are free values (log 31). -/
def Obligations.AroundInstructions : Prop :=
  (∀ (s : State) (e : Enter), s.warp.region = none →
     let w := s.warp
     let x := translate s w.die (some w.core) w.ctx w.base.toNat
     let stops := fun (code : Nat) (info : Word) => .next (takeTrap s { code := code, tmask := w.active, tinfo := info } w.base w.base)
     let missed := w.phase = .fetch e ∧ s.caches.code.find? (isCodeOf w) = none
     (∀ c, w.phase = .fetch e → s.caches.code.find? (isCodeOf w) = some c →
       exec .clauseFetch s = .next { s with warp := { w with buf := c.words, phase := .check e } })
     ∧ (∀ pa tr r pw w2, missed → outOfRange w.base.toNat 128 = false → x = .ok pa tr r pw true w2 → tr < 3 → reachable s pa = true →
         inDeviceArea s w.ctx w.base.toNat 128 = false → Clear s tr pa →
         (∀ o, hwOffset s w.ctx w.base.toNat = some o → o.1 + 128 ≤ o.2) →
         let zero := (hwOffset s w.ctx w.base.toNat).any fun o => decide (0x1400 ≤ o.1 ∧ o.1 < 0x2000)
         let byte := fun a => if zero then 0 else if tr = 1 then codeByte s w.die a else Memory.read s.mem a
         let ws := (List.range 16).map fun k => leWord ((List.range 8).map fun b => byte (pa + 8 * k + b))
         ∃ t, exec .clauseFetch s = .next t ∧ t.warp = { w with buf := ws, phase := .check e }
           ∧ { t with warp := s.warp, caches := s.caches, gated := s.gated, retained := s.retained } = s
           ∧ { t.caches with tlb := s.caches.tlb } = { s.caches with
               code := { die := w.die, core := w.core, ctx := w.ctx, va := w.base, pa := pa, words := ws } :: s.caches.code })
     ∧ (missed → outOfRange w.base.toNat 128 = false → x = .page → exec .clauseFetch s = stops 0x06 w.base)
     ∧ (missed → (outOfRange w.base.toNat 128 = true ∨ x = .access ∨ (∃ pa tr r pw ex w2, x = .ok pa tr r pw ex w2 ∧ (ex = false ∨ 3 ≤ tr
           ∨ reachable s pa = false ∨ ∃ o, hwOffset s w.ctx w.base.toNat = some o ∧ o.2 < o.1 + 128))) →
         exec .clauseFetch s = stops 0x05 w.base)
     ∧ (w.phase = .check .start → seamMissing w .start = false → clauseBad w.buf = none →
         (w.pegs &&& Header.waitMask w.header = 0 →
           ∃ t, exec .clauseStart s = .next t ∧ t.warp = { w with idx := 1, phase := .issue, sig := if w.h then w.sig else w.base }
             ∧ { t with warp := s.warp, groups := s.groups } = s ∧ t.plainGroups = s.plainGroups)
         ∧ (w.pegs &&& Header.waitMask w.header ≠ 0 →
           ∃ t, exec .clauseStart s = .next t ∧ t = { s with warp := { w with stalled := t.warp.stalled } } ∧ t.warp.stalled.isSome = true))
     ∧ (∀ code, w.phase = .check e → seamMissing w e = false → clauseBad w.buf = some code → exec .clauseStart s = stops code w.header)
     ∧ (∀ p, w.phase = .check .start → w.h = false → w.frameDepth ≠ 0 → w.pleats.head? = some p → p.kind = .split → p.seam = w.base →
         (w.buf.getD 1 0).toNat / 2 ^ 54 ≠ 0x003 → exec .clauseStart s = stops 0x03 w.header))
  ∧ (∀ (s : State), s.warp.status = .running → s.warp.region = none →
       let w := s.warp
       (∀ op, exec (.pendingFill w.id op) s = .next { s with warp := { w with
         lanes := w.lanes.map fun y => { y with weft := y.weft.map fun v => if v.pend = some op then { v with pend := none } else v } } })
       ∧ (∀ op, exec (.pegClear w.id op) s = .next { s with warp := { w with ops := w.ops.filter fun o => !(o.id == op && o.done) } })
       ∧ (w.phase = .issue → 2 ^ w.wdog.toNat ≤ w.wcount → w.h = false →
           exec .watchdogStall s = .next (takeTrap s { code := 0x0F, tmask := w.parked, tinfo := stallInfo w } (w.wordAddr w.idx)
             (w.nextAddr (wordLits w.cur))))
       ∧ (∀ r rs, w.reports = r :: rs → w.phase = .issue → w.h = false → r.here = false →
           exec .copyFailReport s = .next (takeTrap { s with warp := { w with reports := rs } }
             { code := r.code.toNat, tmask := r.mask, tinfo := r.addr } (w.wordAddr w.idx) (w.wordAddr w.idx)))
       ∧ (∀ die ctx va k pa tr r pw x w2 lg, s.caches.tlb.any (tlbCovers die none ctx va.toNat) = false →
           (s.caches.tlb.filter fun e => e.die == die && e.core == none).length < 32768 →
           walkVa s ctx va.toNat = (.ok pa tr r pw x w2, lg) →
           ∃ t, exec (.pageWalk die ctx va k) s = .next t ∧ { t with caches := s.caches, gated := s.gated } = s
             ∧ t.caches.tlb.tail = s.caches.tlb ∧ (∃ e, t.caches.tlb.head? = some e ∧ e.die = die ∧ e.core = none ∧ e.ctx = ctx ∧ e.lg = lg ∧ e.r = r
               ∧ e.w = pw ∧ e.x = x ∧ e.va = word (va.toNat / 2 ^ lg * 2 ^ lg) ∧ e.pa = pa / 2 ^ lg * 2 ^ lg)))
  ∧ (∀ (s : State), s.hasTurn = true → s.warp.replay = false → s.warp.reportDue = false → 16 < s.warp.pleats.length - s.warp.pleatsOut →
       s.warp.spill.toNat % 4096 = 0 →
       let va := s.warp.spill.toNat + (0x800 + 64 * s.warp.pleatsOut)
       let x := translate s s.warp.die (some s.warp.core) s.warp.ctx va
       (∀ pa tr r pw ex, Still s → s.memOk = true → x = .ok pa tr r pw ex true →
         ∃ t, step s = .next t ∧ t.warp = { s.warp with pleatsOut := s.warp.pleatsOut + 1 } ∧ t.others = s.others
           ∧ ∀ a, a < pa ∨ pa + 64 ≤ a → Memory.read t.mem a = Memory.read s.mem a)
       ∧ (∀ st lv ad e, x = .fault st lv ad e →
         ∃ t id, step s = .next t ∧ t.warp.status = .faulted [{ id := id, mask := s.warp.active, addr := word va }]
           ∧ t.warp.pleats = s.warp.pleats ∧ t.warp.pleatsOut = s.warp.pleatsOut
           ∧ ∃ f ∈ t.faults, f.id = id ∧ f.ctx = s.warp.ctx ∧ f.waiters = [.warp s.warp.id]))


/-- A byte of a group's scratchpad. -/
def groupByte (s : State) (key x : Nat) : Byte := (scratchRead s key x 1).getD 0 0

/-- Bytes stand at an address; every other byte is as before, those that `spare` names apart. -/
def Wrote (before after : Nat → Byte) (at_ : Nat) (bs : List Byte) (spare : Nat → Prop) : Prop :=
  (∀ j, j < bs.length → after (at_ + j) = bs.getD j 0) ∧ ∀ x, (x < at_ ∨ at_ + bs.length ≤ x) → ¬ spare x → after x = before x

/-- What a drain's rows up to n store, at A as it numbers addresses: each row's bytes and, for BI8, its scale (R160). -/
def drainStores (cv : DrainConv) (raw : Bool) (a c n : Nat) (row : Nat → List Byte × Nat × Flags) : List (Nat × List Byte) :=
  (List.range n).flatMap fun r =>
    (a + r * c, (row r).1) :: (if cv = .bi8 ∧ raw = false then [(a + 32 * c + r, [BitVec.ofNat 8 (row r).2.1])] else [])

/-- The flags that rows up to n raise. -/
def drainFlags (n : Nat) (row : Nat → List Byte × Nat × Flags) : Flags := (List.range n).foldl (fun f r => f ||| (row r).2.2) 0

/-- R161: what a drain's row holds. A failed check against res31 gives none; a raw row its containers; any other row each element's value through the
three steps. -/
def DrainRowHolds (e : Epilogue) (x : Tile) (r : Nat) : Prop :=
  let el := fun (j : Nat) => x.elem (32 * r + j)
  let int := fun (j : Nat) => resDecode (el j).r2047 (el j).r2048 (el j).r2049
  let v := fun (j : Nat) => if x.mode = .exact then FVal.fin (int j < 0) (int j).natAbs 0 else f32.value (el j).f.toNat
  let pre := fun (j : Nat) => epiloguePre e (v j) j
  let act := fun (j : Nat) => epilogueAct e (pre j).1
  let early := (List.range 32).foldl (fun f j => f ||| ((pre j).2 ||| (act j).2)) 0
  (drainRow e x r = none ↔ x.mode = .exact ∧ x.steps < 8192 ∧ ∃ j, j < 32 ∧ (int j % 31).toNat ≠ (el j).r31)
  ∧ (x.mode = .raw →
      drainRow e x r = some ((List.range 32).flatMap fun j => wordBytes (word ((el j).r2049 * 2 ^ 22 + (el j).r2048 * 2 ^ 11 + (el j).r2047)), 0, 0))
  ∧ (x.mode ≠ .raw → drainRow e x r ≠ none → e.cv ≠ .bi8 →
      drainRow e x r = some ((List.range 32).flatMap fun j => (drainConvert e.cv (act j).1).1, 0,
        (List.range 32).foldl (fun f j => f ||| (drainConvert e.cv (act j).1).2) early))
  ∧ (x.mode ≠ .raw → drainRow e x r ≠ none → e.cv = .bi8 →
      let ys := (List.range 32).map fun j => (act j).1
      let k := blockScale .bi8 ys
      drainRow e x r = some (ys.map (fun y => BitVec.ofNat 8 (blockQuant .bi8 k.1 y).1), k.1,
        early ||| ys.foldl (fun f y => f ||| (blockQuant .bi8 k.1 y).2) k.2))

/-- R161's steps as real arithmetic: v · c + b rounded once, into FP32 or to an integer; the activation; the one rounding into the result's format, or
the nearer end of an integer's range. -/
def EpilogueSteps : Prop :=
  ∀ (e : Epilogue) (j : Nat) (nv nc nb : Bool) (mv mc mb : Nat) (ev ec eb : ℤ),
    let real := fun (n : Bool) (m : Nat) (q : ℤ) => (signedM n m : ℝ) * (2 : ℝ) ^ q
    let is := fun (v : FVal) (x : ℝ) => ∃ n m q, v = .fin n m q ∧ real n m q = x
    let y := FVal.fin nv mv ev
    let Y := real nv mv ev
    let x := Y * real nc mc ec + real nb mb eb
    (e.f (4 * j) = .fin nc mc ec → (if e.bias then e.f (128 + 4 * j) else .fin false 0 0) = .fin nb mb eb →
      (isIntConv e.cv = false → x ≠ 0 → ∃ r, RoundedOnce f32 .rne x r ∧ epiloguePre e y j = (f32.value r.1, r.2))
      ∧ (isIntConv e.cv = false → x = 0 → is (epiloguePre e y j).1 0 ∧ (epiloguePre e y j).2 = 0)
      ∧ (isIntConv e.cv = true → ∃ z : ℤ, RoundedTo .rne x 0 z ∧ is (epiloguePre e y j).1 z
          ∧ (((z : ℝ) = x ∧ (epiloguePre e y j).2 = 0) ∨ ((z : ℝ) ≠ x ∧ (epiloguePre e y j).2 = Flag.inx))))
    ∧ (e.act = .none → epilogueAct e y = (y, 0))
    ∧ (e.act = .relu → is (epilogueAct e y).1 (max Y 0) ∧ (epilogueAct e y).2 = 0)
    ∧ (∀ L H : ℝ, e.act = .clamp → is (e.f 256) L → is (e.f 260) H → (epilogueAct e y).2 = 0
        ∧ (isIntConv e.cv = false → is (epilogueAct e y).1 (min (max Y L) H))
        ∧ (isIntConv e.cv = true → ∃ l h : ℤ, RoundedTo .rne L 0 l ∧ RoundedTo .rne H 0 h ∧ is (epilogueAct e y).1 (min (max Y l) h)))
    ∧ (∀ t, (e.cv = .f32 ∧ t = .f32) ∨ (e.cv = .bf16 ∧ t = .bf16) ∨ (e.cv = .f16 ∧ t = .f16) ∨ (e.cv = .e4m3 ∧ t = Ty.e4m3) → Y ≠ 0 →
        ∃ r, RoundedOnce (formatOf t) .rne Y r ∧ drainConvert e.cv y = (leBytes (drainBytes e.cv) r.1, r.2 &&& ~~~Flag.unf))
    ∧ (∀ (w : Nat) (z : ℤ), (e.cv = .s32 ∧ w = 32) ∨ (e.cv = .s64 ∧ w = 64) → Y = z →
        let lo : ℤ := -2 ^ (w - 1)
        let hi : ℤ := 2 ^ (w - 1) - 1
        drainConvert e.cv y = (leBytes (w / 8) (wrap w (max lo (min hi z))), if z < lo ∨ hi < z then Flag.sat else 0))

/-- R147, R149 to R151: the row step on one element. With d the exact dot product of the row and the column: residues advance by it; an FP32 value
becomes the exact sum with d · 2^s rounded once; a raw residue advances by the sum of its products. -/
def RowStep (fmt : PlaneFmt) (md : TileMode) (p : Plane) (row : List Byte) (er j : Nat) (old new : Elem) : Prop :=
  let col := columnBytes fmt p j
  let d := ((List.range 32).map fun k => elemInt fmt row k * elemInt fmt col k).sum
  match md with
  | .exact => new = { old with r2047 := ((old.r2047 + d) % 2047).toNat, r2048 := ((old.r2048 + d) % 2048).toNat
                               r2049 := ((old.r2049 + d) % 2049).toNat, r31 := ((old.r31 + d) % 31).toNat }
  | .raw =>
    let sum := fun (f : Nat × Nat × Nat × Bool → Nat) => ((List.range 32).map fun k => f (elemRes row k) * f (elemRes col k)).sum
    new = { old with r2047 := (old.r2047 + sum (·.1)) % 2047, r2048 := (old.r2048 + sum (·.2.1)) % 2048
                     r2049 := (old.r2049 + sum (·.2.2.1)) % 2049 }
  | .fp32 => new = { f := (fp32Step old.f d er (if hasScales fmt then byteAt p.scales j else 127) (if fmt = .e2m1 then 2 else 0)).1 }

/-- R149's update of an FP32 value, R144's integers: sign and width of an integer element, twice an E2M1 code's value. -/
def RowStepValues : Prop :=
  (∀ (acc : BitVec 32) (d : ℤ) (er ec : Nat) (e2 : ℤ),
    let r := fp32Step acc d er ec e2
    (er = 255 ∨ ec = 255 → r = (BitVec.ofNat 32 f32.nan, Flag.inv))
    ∧ (er ≠ 255 → ec ≠ 255 → match f32.value acc.toNat with
      | .fin n m e =>
        let x : ℝ := (signedM n m : ℝ) * (2 : ℝ) ^ e + (d : ℝ) * (2 : ℝ) ^ (((er : ℤ) - 127) + ((ec : ℤ) - 127) - e2)
        (x = 0 → r = (0, 0)) ∧ (x ≠ 0 → ∃ fl, RoundedOnce f32 .rne x (r.1.toNat, fl) ∧ r.2 = fl &&& Flag.ovf)
      | _ => r = (acc, 0)))
  ∧ (∀ (fmt : PlaneFmt) (bs : List Byte) (k : Nat), let nib := (byteAt bs (k / 2)) / 2 ^ (4 * (k % 2)) % 16
      ((fmt = .bi8 ∨ fmt = .int8) → elemInt fmt bs k = (bs.getD k 0).toInt)
      ∧ ((fmt = .bi4 ∨ fmt = .int4) → elemInt fmt bs k = (BitVec.ofNat 4 nib).toInt)
      ∧ (fmt = .e2m1 → ∃ n m q, (formatOf .e2m1).value nib = .fin n m q ∧ (elemInt fmt bs k : ℝ) = 2 * ((signedM n m : ℝ) * (2 : ℝ) ^ q)))

/-- Where a copy's engine finds a global run of at most 128 bytes, which may meet two lines, and what stands there. -/
def FindsGlobal (s : State) (c : Copy) (a k : Nat) (bs : List Byte) : Prop :=
  ∃ pa tr pa2 tr2 z z2, let k1 := min k (128 - a % 128)
    let part := fun (z : Bool) (p n : Nat) => if z then List.replicate n 0 else Memory.readBytes s.mem p n
    pageFate s c.die none c.ctx (word a) k1 .load false = .fine (.glob pa tr z) ∧ tr ≤ 4
    ∧ (k1 < k → pageFate (if z then s else walked s c.die none c.ctx a) c.die none c.ctx (word ((a + k1) % 2 ^ 64)) (k - k1) .load false = .fine (.glob pa2 tr2 z2)
        ∧ tr2 ≤ 4 ∧ lineOf pa2 ≠ lineOf pa)
    ∧ bs = part z pa k1 ++ (if k1 < k then part z2 pa2 (k - k1) else [])

/-- The k bytes of row i, from byte r on, that a copy's engine finds at its source: scratchpad, global memory, or the zeros of a gather's index
0xFFFF_FFFF (R304, R308). -/
def CopyFinds (s : State) (c : Copy) (i r k : Nat) (bs : List Byte) : Prop :=
  let index := match c.shape with
    | .gather ix _ => ((c.indexes.find? fun x => x.1 == i).map (·.2)).getD (leNat (scratchRead s (c.group.getD 0) (addrKey c.core (ix + 4 * i)) 4))
    | _ => 0
  match c.srcRow index i with
  | none => bs = List.replicate k 0
  | some row => let a := (row + r) % 2 ^ 64
    if c.srcScratch then a % 2 ^ 19 + k ≤ 2 ^ 19 ∧ bs = scratchRead s (c.group.getD 0) (addrKey c.core a) k else FindsGlobal s c a k bs

/-- R145 to R161: a unit performs the first job that may be: MZERO clears and claims, MSWAP changes the planes' roles, MLDS fills the shadow plane,
MSTREAM makes one row step on each element of its rows and counts one step on each tile, MDRAIN writes its rows and raises the tile's flags, up to a row
whose check fails, which is MATERR (R148): the tile undefined, the event, a replay or SOFT with `cr.tinfo` 0. How the event's argument packs die, core and
partition is the model's choice (log 130). Its peg clears. A follow-on whose copy is gone takes its place (R153, R163). R305: bytes of a copy land as its
rows say and are credited to its object, in pieces that are the model's choice (log 65); the last of them ends the copy. R306: a
copy that has failed makes its failure credit, leaves its queue with its follow-on, and is reported. -/
def Obligations.EngineRows : Prop :=
  EpilogueSteps ∧ RowStepValues ∧ (∀ e x r, r < 32 → DrainRowHolds e x r)
  ∧ (∀ (s : State) (die core part : Nat) (j : MatrixJob) (rest : List MatrixJob) (w : Warp),
      (findUnit s die core part).jobs = j :: rest → j.copy = none → j.raced = [] → s.copies = [] → s.hbmStacks = [] → (∀ g ∈ s.groups, g.poison = []) →
      findWarp s j.warp = some w → w.status = .running →
      let i := Instr.matrixOpPerform die core part
      let u := { findUnit s die core part with jobs := rest }
      let key := w.group.getD 0
      let at_ := fun (a : Nat) => scratchKey (inQuad w.core) a
      let bytes := fun (a n : Nat) => scratchRead s key (at_ a) n
      let pegged := { w with ops := match j.op with
        | some o => w.ops.map fun x => if x.id = o then { x with done := true } else x
        | none => w.ops }
      let after := fun (v : MatrixUnit) => ∃ t, exec i s = .next t ∧ findUnit t die core part = v ∧ findWarp t w.id = some pegged ∧ t.mem = s.mem
        ∧ t.groups = s.groups ∧ t.copies = s.copies
      (∀ k md, j.what = .mzero k md → after { u with tiles := u.tiles.set k { owner := some w.id, mode := md } })
      ∧ (j.what = .mswap → after { u with active := !u.active, holder := some w.id })
      ∧ (∀ fmt p k, j.what = .mlds fmt p k →
          let plane : Plane := { fmt := some fmt, data := bytes p (planeBytes fmt), scales := if hasScales fmt then bytes k 32 else [] }
          after { u with plane0 := if u.active then plane else u.plane0, plane1 := if u.active then u.plane1 else plane, holder := some w.id })
      ∧ (∀ fmt tile rows a b c, j.what = .mstream fmt tile rows a b c → 1 ≤ rows → tile + (rows + 31) / 32 ≤ 4 → u.tiles.length = 4 →
          (∀ x ∈ u.tiles, x.elems = [] ∨ x.elems.length = 1024) →
          let p := if u.active then u.plane1 else u.plane0
          let row := fun (m : Nat) => bytes (a + m * c) (rowBytes fmt)
          let er := fun (m : Nat) => if hasScales fmt then byteAt (bytes (b + m) 1) 0 else 127
          let step := fun (old : Elem) (m j : Nat) => fp32Step old.f
            (((List.range 32).map fun k => elemInt fmt (row m) k * elemInt fmt (columnBytes fmt p j) k).sum) (er m)
            (if hasScales fmt then byteAt p.scales j else 127) (if fmt = .e2m1 then 2 else 0)
          let broken := fun (bs : List Byte) => ∃ k, k < 32 ∧ (elemRes bs k).2.2.2 = true
          ∃ ts, after { u with tiles := ts } ∧ ts.length = 4 ∧ ∀ k, k < 4 →
            let x := u.tile k
            let y := ts.getD k {}
            let written := fun (m : Nat) => m < rows ∧ tile + m / 32 = k
            if tile ≤ k ∧ k < tile + (rows + 31) / 32 then
              y.owner = x.owner ∧ y.mode = x.mode ∧ y.steps = min (x.steps + 1) 8192 ∧ y.inx = x.inx ∧ y.sat = x.sat
              ∧ (x.mode = .exact → 8192 ≤ x.steps + 1 → y.inv = x.inv ∧ (y.ovr = true ↔ x.ovr = true ∨ x.steps < 8192))
              ∧ (x.mode ≠ .exact ∨ x.steps + 1 < 8192 →
                  (∀ m c, written m → c < 32 → RowStep fmt x.mode p (row m) (er m) c (x.elem (32 * (m % 32) + c)) (y.elem (32 * (m % 32) + c)))
                  ∧ (∀ n, n < 1024 → (∀ m, written m → m % 32 ≠ n / 32) → y.elem n = x.elem n)
                  ∧ (y.ovr = true ↔ x.ovr = true ∨ (x.mode = .fp32 ∧ ∃ m c, written m ∧ c < 32 ∧ (step (x.elem (32 * (m % 32) + c)) m c).2 &&& Flag.ovf ≠ 0))
                  ∧ (y.inv = true ↔ x.inv = true
                      ∨ (x.mode = .fp32 ∧ ∃ m c, written m ∧ c < 32 ∧ (step (x.elem (32 * (m % 32) + c)) m c).2 &&& Flag.inv ≠ 0)
                      ∨ (x.mode = .raw ∧ ((∃ m, written m ∧ broken (row m)) ∨ ∃ c, c < 32 ∧ broken (columnBytes fmt p c)))))
            else y = x)
      ∧ (∀ tile cv act gl bias a b c gen, j.what = .mdrain tile cv act gl bias a b c gen → tile < u.tiles.length →
          let x := u.tile tile
          let raw := decide (x.mode = .raw)
          let e : Epilogue := { cv := cv, act := act, bias := bias, block := if raw then [] else bytes b (epilogueBytes act bias) }
          let row := fun (r : Nat) => (drainRow e x r).getD ([], 0, 0)
          let leaves := fun (t : State) (x : Tile) => ∃ v, findUnit t die core part = v ∧ v.tiles = u.tiles.set tile x ∧ v.plane0 = u.plane0
            ∧ v.plane1 = u.plane1 ∧ v.active = u.active ∧ v.holder = u.holder ∧ v.jobs.map (·.what) = rest.map (·.what)
          let stored := fun (t : State) (n : Nat) => ∀ gr, findGroup s key = some gr → ∃ ls, findGroup t key
            = some { gr with mem := writtenInOrder gr.mem (drainStores cv raw (at_ a.toNat) c n row), loose := ls }
          let unmarked := fun (n : Nat) => ∀ q ∈ drainStores cv raw (at_ a.toNat) c n row, touchesScratchMark s key q.1 q.2.length = false
          let whole := ∀ r, r < 32 → drainRow e x r ≠ none
          let size := if raw then 8 else drainBytes cv
          let elements := (drainStores cv raw a.toNat c 32 row).flatMap fun q =>
            let n := if q.2.length = 1 then 1 else size
            (List.range (q.2.length / n)).map fun k => (q.1 % 2 ^ 64 + n * k, (q.2.drop (n * k)).take n)
          (gl = false → whole → unmarked 32 → ∃ t, exec i s = .next t ∧ leaves t (x.raise (drainFlags 32 row)) ∧ findWarp t w.id = some pegged ∧ stored t 32
            ∧ t.mem = s.mem)
          ∧ (∀ (place : Nat → Nat) (tr : Nat), gl = true → whole → Still s → s.memOk = true → tr ≤ 3 → a.toNat % 16 = 0 → c % 16 = 0 →
              (∀ q ∈ elements, inPages j.pages q.1 = some (place q.1, tr) ∧ touchesMark s (place q.1) q.2.length = false) →
              ∃ t, exec i s = .next t ∧ leaves t (x.raise (drainFlags 32 row)) ∧ findWarp t w.id = some pegged ∧ t.plainGroups = s.plainGroups
                ∧ ∀ n, dieByte t w.die n = Memory.read (writtenInOrder s.mem (elements.map fun q => (place q.1, q.2))) n)
          ∧ (∀ r, gl = false → r < 32 → drainRow e x r = none → (∀ m, m < r → drainRow e x m ≠ none) → unmarked r → w.active ≠ 0 →
              s.caches.undef = [] →
              let sent := sendEvent s (.context w.ctx) 0x07 (word (die * 2 ^ 9 + core * 4 + part)) w.tpc
              w.die = die → w.core = core → w.part = part →
              ∃ t free, exec i s = .next t ∧ leaves t { x.raise (drainFlags r row) with elems := free } ∧ stored t r
                ∧ t.vfs = sent.vfs ∧ t.vectors = sent.vectors ∧ t.contexts = sent.contexts ∧ t.mem = sent.mem
                ∧ findWarp t w.id = some (if canReplay w then { pegged with replay := true }
                    else { pegged with reports := { code := 0x11, addr := 0, now := w.h } :: w.reports }))))
  ∧ (∀ (s : State) (die core part : Nat), readyJob s [] (findUnit s die core part).jobs = none → exec (.matrixOpPerform die core part) s = .next s)
  ∧ (∀ (s : State) (cid : Nat),
      (findCopy s cid = none →
        exec (.followOnMstream cid) s = .next { s with units := s.units.map fun u => { u with
          jobs := u.jobs.map fun j => if j.copy = some cid then { j with copy := none } else j } })
      ∧ (findCopy s cid ≠ none → exec (.followOnMstream cid) s = .next s))
  ∧ (∀ (s : State) (c : Copy) (o n : Nat) (bs : List Byte), Still s → s.memOk = true → s.copies = [c] → c.status = .going → c.left = [(o, n)] →
      0 < n → 0 < c.s → o + n ≤ c.s * c.n → c.kept = [] → (∀ w, findWarp s c.warp = some w → w.status ≠ .leaving) →
      let i := o / c.s
      let r := o % c.s
      let dst := (c.dstRow i + r) % 2 ^ 64
      let k := min (min n (c.s - r)) (128 - dst % 128)
      let key := c.group.getD 0
      let inObject := fun (sp : Space) (x : Nat) => ∃ a, c.obj = some a ∧ c.space = sp ∧ a ≤ x ∧ x < a + 16
      let after := fun (t : State) => exec (.copyLand c.cid o n) s = .next t
        ∧ (k < n → t.copies.map (·.left) = [[(o + k, n - k)]]) ∧ (k = n → t.copies = [])
        ∧ ∀ p, c.place = some p → isMarked s p = true → (readObj s p).expBytes < 2 ^ 31 → readObj t p = (applyEvent (readObj s p) (.credit k)).1
      CopyFinds s c i r k bs →
      (c.dstScratch = true → (∃ g, findGroup s key = some g) → touchesScratchMark s key (addrKey c.core dst) k = false →
        (∀ x, addrKey c.core dst ≤ x → x < addrKey c.core dst + k → c.isSource x = false) →
        ∃ t, after t ∧ Wrote (groupByte s key) (groupByte t key) (addrKey c.core dst) bs (inObject .scratch)
          ∧ ∀ x, ¬ inObject .global x → Memory.read t.mem x = Memory.read s.mem x)
      ∧ (∀ pa tr z, c.dstScratch = false → pageFate s c.die none c.ctx (word dst) k .store true = .fine (.glob pa tr z) → tr ≤ 3 →
        ∃ t, after t ∧ Wrote (Memory.read s.mem) (Memory.read t.mem) pa bs (inObject .global)
          ∧ ∀ q x, ¬ inObject .scratch x → groupByte t q x = groupByte s q x))
  ∧ (∀ (s : State) (c : Copy) (o n : Nat), s.copies = [c] → c.status = .going → c.left = [(o, n)] → 0 < n → 0 < c.s → c.srcScratch = false →
      s.hbmStacks = [] → creditPoison s c = none →
      (∃ d ss ds, c.shape = .rows d ss ds) → let a := ((c.srcRow 0 (o / c.s)).getD 0 + o % c.s) % 2 ^ 64
      let k := min (min n (c.s - o % c.s)) (128 - (c.dstRow (o / c.s) + o % c.s) % 2 ^ 64 % 128)
      pageFate s c.die none c.ctx (word a) (min k (128 - a % 128)) .load false = .page →
      exec (.copyLand c.cid o n) s = .next { s with copies := [{ c with status := .failing 0x06 (word a) 0 }] })
  ∧ (∀ (s : State) (c : Copy) (code : BitVec 8) (a : Word) (kind : Nat), s.copies = [c] → c.status = .failing code a kind → c.warp = s.warp.id →
      s.warp.status = .running → s.warp.active ≠ 0 → s.hbmStacks = [] → creditPoison s c = none →
      ∃ t, exec (.copyFail c.cid) s = .next t ∧ t.copies = [] ∧ t.warp.reports = s.warp.reports ++ [{ code := code, addr := a }]
        ∧ (∀ u ∈ t.units, ∀ j ∈ u.jobs, j.copy ≠ some c.cid) ∧ (∀ o ∈ t.warp.ops, o.id = c.op → o.done = true)
        ∧ (c.obj = none → code ≠ 0x11 → t.mem = s.mem ∧ t.groups = s.groups)
        ∧ (c.obj = none → code = 0x11 → t.vfs = (sendEvent s (.context c.ctx) 0x08 a (word kind)).vfs)
        ∧ ∀ p, Still s → s.memOk = true → code ≠ 0x11 → c.place = some p → isMarked s p = true → (readObj s p).expBytes < 2 ^ 31 →
            readObj t p = (applyEvent (readObj s p) (.failCredit (c.left.map (·.2)).sum)).1)

/-- R28, R190 to R192, R205, R217 to R220: records on their way to warps. A segment's oldest record goes to the lowest core's bobbin with room, one of a
heddle to the bobbin that has its others; none moves while its context is held, and a bad one flushes its queue. A timer expires. A bobbin of a thread
stage launches one warp of its oldest records, one of a group stage a whole group. A core's slots go to the stage of highest priority, or to a saved warp
of no lower one. A created warp's records are copied and it starts; where no such write may go there (R28, R233, R293, R354) its creation fails. Group
records are made in the emptiest bobbin, stolen between dies, and taken within a quad. The slot picked, the bobbin that takes the next index, the order of
the saved warps and the one bobbin of a heddle's records are the model's choices (logs 73, 75, 150 and 151). -/
def Obligations.LaunchRows : Prop :=
  ∀ (s : State) (die core part slot ctx stage key : Nat) (pat : Word),
    let st := BitVec.ofNat 4 stage
    let b := findBobbin s ctx pat st die core
    (∀ (e : SegEntry) (es : List SegEntry) (p : Pattern) (d : StageDecl) (c : Nat) (bs : List Byte), (findSegment s ctx pat st die).entries = e :: es →
      findPattern s ctx pat = some p → declOf s ctx pat st = some d →
      (contextHeld s ctx = true → exec (.overflowToBobbin ctx pat stage die) s = .next s)
      ∧ (let s1 := deviceTouch s die ctx e.va.toNat 64
         contextHeld s ctx = false → devicePoisoned s die ctx e.va.toNat 64 = false → deviceHeld s die ctx e.va.toNat 64 = false →
          deviceRead s1 die ctx e.va.toNat 64 = some bs →
          (match heddleCore s ctx pat st die (e.heddle.map (·.1)) with
            | some k => k = c ∧ bobbinRoom d (findBobbin s ctx pat st die c) = true
            | none => ((List.range 96).find? fun k => bobbinRoom d (findBobbin s ctx pat st die k)) = some c) →
          let r := segRecord e bs
          (recordBad ((stageDecl p r.stage).isSome) r = false →
            ∃ t, exec (.overflowToBobbin ctx pat stage die) s = .next t ∧ (findSegment t ctx pat st die).entries = es ∧ t.mem = s1.mem
              ∧ (findBobbin t ctx pat st die c).recs = (findBobbin s ctx pat st die c).recs ++ [r])
          ∧ (recordBad ((stageDecl p r.stage).isSome) r = true →
            exec (.overflowToBobbin ctx pat stage die) s
              = .next (flushQueue (setSegment s1 { findSegment s ctx pat st die with entries := es }) e.queue 6 0 false 0))))
    ∧ (b.recs ≠ [] → s.gated.contains (.core die core) = false →
        ∃ t, exec (.gatherTimerExpire ctx pat stage die core) s = .next t ∧ findBobbin t ctx pat st die core = { b with expired := true }
          ∧ { t with bobbins := s.bobbins } = s)
    ∧ (∀ (p : Pattern) (d : StageDecl), findPattern s ctx pat = some p → declOf s ctx pat st = some d →
        mayLaunch s p d b = true → (freeSlots s die core).contains (part, slot) = true →
        (d.isGroup = false →
          let n := min d.gather b.recs.length
          ∃ t w, exec (.bobbinLaunch ctx pat stage die core part slot) s = .next t ∧ w ∈ warps t ∧ w.id = s.nextId ∧ w.status = .creating
            ∧ w.die = die ∧ w.core = core ∧ w.part = part ∧ w.slot = slot ∧ w.recs = (List.range 32).map (fun l => (b.recs.take n)[l]?)
            ∧ (findBobbin t ctx pat st die core).recs = b.recs.drop n ∧ t.mem = s.mem)
        ∧ (∀ r rs, d.isGroup = true → b.recs = r :: rs →
          ∃ t g, exec (.bobbinLaunch ctx pat stage die core part slot) s = .next t ∧ (findBobbin t ctx pat st die core).recs = rs ∧ t.mem = s.mem
            ∧ t.groups = s.groups ++ [g] ∧ g.key = s.nextId ∧ g.nwarps = d.size ∧ g.scratch = d.scratch ∧ g.mem = [] ∧ g.marks = [] ∧ g.gidx = r.gidx
            ∧ ∀ i, i < d.size → ∃ w ∈ warps t, w.group = some s.nextId ∧ w.index = i ∧ w.die = die ∧ w.status = .creating
                ∧ w.core = (if 64 < d.size then core / 4 * 4 + i % 4 else core) ∧ w.recs = List.replicate 32 (some r)))
    ∧ (refusedStages s die = [] →
        let slotOf := pickSlot (freeSlots s die core)
        (restorable s die core = [] → candidates s die core [] = [] → exec (.slotAssign die core) s = .next s)
        ∧ (∀ c cs, candidates s die core [] = c :: cs → (∀ c' ∈ cs, c'.d.prio ≤ c.d.prio)
            ∧ (slotOf = some (part, slot) → restorable s die core = [] → exec (.slotAssign die core) s = .next (launchBobbin s c.p c.d c.b part slot))
            ∧ ∀ x y xs, restorable s die core = (x, y) :: xs →
                (c.d.prio ≤ prioOf s x.warp → exec (.slotAssign die core) s = .next (restore s x die core y.1 y.2))
                ∧ (prioOf s x.warp < c.d.prio → slotOf = some (part, slot) →
                    exec (.slotAssign die core) s = .next (launchBobbin s c.p c.d c.b part slot)))
        ∧ (∀ x y xs, restorable s die core = (x, y) :: xs → candidates s die core [] = [] →
            exec (.slotAssign die core) s = .next (restore s x die core y.1 y.2)))
    ∧ (s.warp.id = key → s.warp.status = .creating →
        let at_ := translate s s.warp.die none s.warp.ctx s.warp.spill.toNat
        let fails := exec (.warpCreate key) s = .next (createFail (walked s s.warp.die none s.warp.ctx s.warp.spill.toNat) s.warp)
        (∀ pa tr r pw x, Still s → s.memOk = true → s.warp.recs.length = 32 → at_ = .ok pa tr r pw x true → tr ≤ 3 → reachable s pa = true →
          touchesMark s pa 2048 = false →
          ∃ t, exec (.warpCreate key) s = .next t ∧ t.others = s.others
            ∧ t.warp = { s.warp with
                status := .running, lanes := t.warp.lanes, phase := .fetch .start
                active := maskOf (fun l => (s.warp.recs.getD l none).isSome), gone := ~~~(maskOf fun l => (s.warp.recs.getD l none).isSome) }
            ∧ ∀ l r, s.warp.recs[l]? = some (some r) → Memory.readBytes t.mem (pa + 64 * l) 64 = recordBytes r
                ∧ t.warp.lanes[l]? = some { weft := ([r.p0, r.p1, r.p2, r.p3].map fun v => { val := v }) ++ List.replicate 12 {}
                                            pocket := List.replicate s.warp.frame 0 })
        ∧ (∀ lv ad e stg, at_ = .fault stg lv ad e →
          ∃ t id, exec (.warpCreate key) s = .next t ∧ t.warp = { s.warp with status := .held id }
            ∧ ∃ f ∈ t.faults, f.id = id ∧ f.ctx = s.warp.ctx ∧ f.waiters = [.creation key])
        ∧ (at_ = .page ∨ at_ = .access → fails)
        ∧ ∀ pa tr r pw x w2, at_ = .ok pa tr r pw x w2 → w2 = false ∨ tr = 4 ∨ reachable s pa = false ∨ touchesMark s pa 2048 = true → fails)
    ∧ (∀ (l : Launch) (d : StageDecl) (x : Distributor) (c : Nat), findLaunch s key = some l → declOf s l.ctx l.pat 0 = some d →
        (l.dists.find? fun x => x.die == die) = some x → x.lo < x.hi →
        let at_ := fun (t : State) (k : Nat) => (findBobbin t l.ctx l.pat 0 die k).recs
        let share := fun (t : State) => (findLaunch t key).bind fun l => l.dists.find? fun x => x.die == die
        let g : Record := { kind := 1, gidx := BitVec.ofNat 32 x.lo, p0 := word x.lo, p1 := l.arg, queue := BitVec.ofNat 10 l.queue
                            seq := BitVec.ofNat 32 (l.index + 1), launch := some l.key, priv := l.priv }
        let made := fun (t : State) => at_ t core = at_ s core ++ [g] ∧ share t = some { x with lo := x.lo + 1 } ∧ t.mem = s.mem
        (emptiest s l d die = some core → ∃ t, exec (.groupRecordMake key die) s = .next t ∧ made t)
        ∧ ((at_ s core).length < 2 → (groupCores d).contains core = true → contextHeld s l.ctx = false →
            (donor s l die core = none → ∃ t, exec (.bobbinTake key die core) s = .next t ∧ made t)
            ∧ (∀ r, donor s l die core = some c → (at_ s c).getLast? = some r →
                ∃ t, exec (.bobbinTake key die core) s = .next t ∧ at_ t core = at_ s core ++ [r] ∧ at_ t c = (at_ s c).dropLast ∧ t.mem = s.mem)))
    ∧ (∀ (l : Launch) (x v : Distributor) (vs : List Distributor), findLaunch s key = some l → (l.dists.find? fun x => x.die == die) = some x →
        x.left l.groups = 0 → x.done = false → victimOrder l die = v :: vs → v.blocks ≠ 0 →
        let k := v.first + v.step * (v.blocks - 1)
        ∃ t, exec (.steal key die) s = .next t
          ∧ ((findLaunch t key).bind fun l => l.dists.find? fun x => x.die == die)
              = some { x with lo := 8 * k, hi := min l.groups (8 * k + 8) }
          ∧ ((findLaunch t key).bind fun l => l.dists.find? fun x => x.die == v.die) = some { v with blocks := v.blocks - 1 })

/-- R164, R195, R221 to R226, R240: a warp that has stopped and drained is saved in its park area and leaves its slot, its group with the last of its
warps; one that does not drain in time, or has nowhere to go, has its queue flushed; a liveness byte on a held stack is waited for (R392). Warps are asked to stop
for a starved launch of which a record waits, or to be parked where a record or a saved warp that is ready finds no slot (of the latter R195 does not speak:
log 178). A saved warp takes a slot again with what its image says; a poisoned image resets its context. A saved warp whose image cannot be read stays saved
(log 137). Idle units are gated, after their die's dirty bytes are home, and wake. -/
def Obligations.ResidencyRows : Prop :=
  ∀ (s : State) (id die core part slot : Nat),
    (∀ (x : Stopping), (s.stopping.find? fun x => x.warp == id) = some x → s.warp.id = id → s.warp.atStop = true → isQuiet s s.warp = true →
      let w := s.warp
      let s0 := deviceTouch s w.die w.ctx (livenessVa w) 1
      (deviceHeld s w.die w.ctx (livenessVa w) 1 = true → exec (.preemptSave id) s = .next s)
      ∧ (∀ (p : Pattern) (live k : Nat), deviceHeld s w.die w.ctx (livenessVa w) 1 = false → findPattern s w.ctx w.pat = some p →
          livenessOf s0 w = some live → imageSlot s p = some k →
        (∀ s1, storeAll s0 w.die w.ctx (imageVa p k) (slotWrites s0 w live) = some s1 →
          ((w.group = none ∨ ∃ v ∈ s.others, v.resident = true ∧ v.id ≠ id ∧ v.group = w.group) →
            ∃ t y, exec (.preemptSave id) s = .next t ∧ t.saved = s.saved ++ [y] ∧ y.warp = w.fillAll ∧ y.image = k ∧ y.parked = x.park ∧ t.mem = s1.mem
              ∧ t.plainGroups = s.plainGroups ∧ t.warp.status = .free ∧ t.others = s.others ∧ ∀ z ∈ t.stopping, z.warp ≠ id)
          ∧ (∀ key g, w.group = some key → findGroup s key = some g → (∀ v ∈ s.others, v.group ≠ some key) →
              let lifted := liftWarp s1 w k x.park
              (saveGroup lifted p key = none → exec (.preemptSave id) s = .next (flushQueue lifted w.queue 3 0 false 0))
              ∧ (∀ s2, saveGroup lifted p key = some s2 → exec (.preemptSave id) s = .next s2
                  ∧ ∃ h, findGroup s2 key = some h ∧ h.saved = true ∧ h.slot = groupSlot lifted p ∧ h.mem = g.mem)))
        ∧ (storeAll s0 w.die w.ctx (imageVa p k) (slotWrites s0 w live) = none → exec (.preemptSave id) s = .next (flushQueue s0 w.queue 3 0 false 0)))
      ∧ (deviceHeld s w.die w.ctx (livenessVa w) 1 = false →
          (findPattern s w.ctx w.pat = none ∨ livenessOf s0 w = none ∨ ∃ p, findPattern s w.ctx w.pat = some p ∧ imageSlot s p = none) →
          exec (.preemptSave id) s = .next (flushQueue s0 w.queue 3 0 false 0)))
    ∧ (s.warp.id = id → isStopping s id = true → s.warp.atStop = true → isQuiet s s.warp = false →
        (waitsOnHold s s.warp = false → exec (.preemptTimeout id) s = .next (flushQueue s s.warp.queue 3 0 false 0))
        ∧ (waitsOnHold s s.warp = true → exec (.preemptTimeout id) s = .next s))
    ∧ (∀ (l : Launch) (p : Pattern) (d : StageDecl), findLaunch s id = some l → findPattern s l.ctx l.pat = some p → declOf s l.ctx l.pat 0 = some d →
        (∃ b ∈ s.bobbins, b.ctx = l.ctx ∧ b.pat = l.pat ∧ b.stage = 0 ∧ b.die = die ∧ ∃ r ∈ b.recs, r.launch = some l.key) →
        contextHeld s l.ctx = false →
        let lower := s.groups.filter fun g => !g.saved && g.die == die && g.ctx != l.ctx && (match groupQueue s g.key with
          | some q => decide ((queueOf s q).prio < (queueOf s l.queue).prio)
          | none => false)
        let gone := victims p d die l.most (youngest lower) s
        ∃ t, exec (.starvePreempt id die) s = .next t ∧ { t with stopping := s.stopping } = s
          ∧ (∀ w ∈ warps s, w.resident = true → w.status ≠ .leaving → (∃ g, w.group = some g ∧ g ∈ gone) → isStopping t w.id = true)
          ∧ ∀ k, isStopping s k = true → isStopping t k = true)
    ∧ (∀ w, ((coreWarps s die core).filter fun w => parkable s w && !isStopping s w.id) = [w] → (∀ g, groupOf s w = some g → g.wide = false) →
        denied s die core = true → (∀ x ∈ s.stopping, x.park = false) →
        exec (.park die core) s = .next { s with stopping := s.stopping ++ [{ warp := w.id, park := true }] })
    ∧ (∀ (x : SavedWarp) (p : Pattern), (s.saved.find? fun x => x.warp.id == id) = some x → findPattern s x.warp.ctx x.warp.pat = some p →
        mayTake s x die core part slot = true → imageHeld s x = false →
        let s0 := deviceTouch s die x.warp.ctx (imageVa p x.image) slotBytes
        (imagePoisoned s x = true → exec (.restore id die core part slot) s
          = .next (escalateFrom s x.warp.ctx 0x09 (imageVa p x.image) (.context x.warp.ctx)))
        ∧ (imagePoisoned s x = false →
            (x.warp.group = none ∨ ∃ key g, x.warp.group = some key ∧ findGroup s key = some g ∧ g.saved = false ∧ g.wide = false ∧ g.onCore die core = true) →
            (deviceLoad s0 die x.warp.ctx (imageVa p x.image) slotBytes = none → exec (.restore id die core part slot) s = .next s)
            ∧ (∀ bs, deviceLoad s0 die x.warp.ctx (imageVa p x.image) slotBytes = some bs →
                ∃ t, exec (.restore id die core part slot) s = .next t ∧ t.saved = s.saved.filter (fun z => z.warp.id != id) ∧ t.mem = s0.mem
                  ∧ { (applyImage bs x).warp with die := die, core := core, part := part, slot := slot } ∈ warps t)))
    ∧ (∀ u : PowerUnit, (realUnit u = true → unitIdle s u = true → toleranceAllows s u = true → s.gated.contains u = false →
          ∃ t, exec (.powerGate u) s = .next t ∧ t.gated = u :: s.gated ∧ t.warp = s.warp ∧ t.others = s.others
            ∧ (∀ d c q, (u = .part d c q ∨ u = .core d c) → t = { s with gated := u :: s.gated })
            ∧ (∀ d h, (u = .island d h ∨ u = .die d) → t.caches.dirty = s.caches.dirty.filter (fun x => x.die != d)
                ∧ ∀ x ∈ s.caches.dirty, x.die = d → s.memOk = true → cannotStore s x.pa = false →
                    (∀ y ∈ s.caches.dirty, y.die = d → y.pa = x.pa → y.val = x.val) →
                    Memory.read t.mem x.pa = x.val))
        ∧ ((realUnit u = false ∨ unitIdle s u = false ∨ toleranceAllows s u = false) → exec (.powerGate u) s = .next s)
        ∧ ∃ t, exec (.powerWake u) s = .next t ∧ t.gated.contains u = false ∧ t.mem = s.mem ∧ t.warp = s.warp
          ∧ (∀ d h, u = .island d h → s.gated.contains u = true → ∀ c ∈ t.cores, c.die = d → islandOf c.core = h → c.clock = 0))

/-- R217: the dies of a device partition share a launch's blocks of 8 by the block's number modulo the number of dies. -/
def SharedAmong (dies : List Nat) (groups : Nat) (ds : List Distributor) : Prop :=
  ds.map (·.die) = dies ∧ ∀ (j : Nat) (d : Distributor), ds[j]? = some d → d.lo = d.hi ∧ d.done = false
    ∧ ∀ b, (b < (groups + 7) / 8 ∧ b % dies.length = j) ↔ ∃ i, i < d.blocks ∧ b = d.first + d.step * i

/-- R210 to R217, R226, R332 to R335, R344 to R346, R359, R405: doorbells; ring reads; write-backs; the start of a launch, of a pattern load, of an unload,
of a marker, and the flush of a queue whose record fails; completion, with QDONE where the record asks for it; unloading; writes to registers, which wait
behind what came earlier from outside. The model's choices: a doorbell out of range, whose value QFLUSH carries, leaves P (logs 82 and 173); doorbells and
register writes wait behind held accesses from outside (log 163), and a pattern load while a stack is held (log 187); queues translate by die 0's TLB
(log 179). -/
def Obligations.QueueRows : Prop :=
  ∀ (s : State) (q vf : Nat) (v : Word),
    let x := queueOf s q
    (s.heldOutside = [] → queueOwner s q = some vf →
      (x.p.toNat ≤ v.toNat → v.toNat ≤ x.c.toNat + 2 ^ x.lgSize → x.error = false →
        ∃ t, exec (.doorbell vf q v) s = .next t ∧ queueOf t q = { x with p := v } ∧ { t with queues := s.queues } = s)
      ∧ (v.toNat < x.p.toNat ∨ x.c.toNat + 2 ^ x.lgSize < v.toNat → exec (.doorbell vf q v) s = .next (flushQueue s q 4 0 false v)))
    ∧ (s.heldOutside = [] → queueOwner s q ≠ some vf → exec (.doorbell vf q v) s = .next s)
    ∧ (∀ i off : Nat, s.heldOutside ≠ [] → exec (.doorbell vf q v) s = .next { s with heldOutside := s.heldOutside ++ [.row (.doorbell vf q v)] }
        ∧ exec (.registerWrite i off v) s = .next { s with heldOutside := s.heldOutside ++ [.row (.registerWrite i off v)] })
    ∧ (x.enabled = true → x.error = false → x.ringWait = none → x.c.toNat < x.p.toNat →
        let va := x.base.toNat + 128 * (x.c.toNat % 2 ^ x.lgSize)
        let at_ := translate s ioDie none x.ctx va
        let s0 := walked s ioDie none x.ctx va
        let s1 := deviceTouch s0 ioDie x.ctx va 128
        let fails := exec (.ringRead q) s = .next (flushQueue s0 q 5 0 false x.c)
        (∀ pa tr r pw ex w2, at_ = .ok pa tr r pw ex w2 → isHeld s pa = false →
          (r = true → reachable s pa = true → meetsPoison s pa = false →
            ∃ t, exec (.ringRead q) s = .next t ∧ t.mem = s1.mem ∧ (queueOf t q).c = x.c + 1
              ∧ (queueOf t q).recs.map (fun r => (r.index, r.words)) = x.recs.map (fun r => (r.index, r.words))
                  ++ [(x.c.toNat, (List.range 16).map fun k => Memory.readWord s1.mem (pa + 8 * k))])
          ∧ (r = false ∨ reachable s pa = false ∨ meetsPoison s pa = true → fails))
        ∧ (at_ = .page ∨ at_ = .access → fails)
        ∧ (∀ st lv a e, at_ = .fault st lv a e →
          ∃ t id, exec (.ringRead q) s = .next t ∧ queueOf t q = { x with ringWait := some { fault := id, index := x.c.toNat } }
            ∧ ∃ f ∈ t.faults, f.id = id ∧ f.ctx = x.ctx ∧ f.waiters = [.ring q]))
    ∧ (x.wbDue = true → x.wbFailed = false → x.wbWait = none →
        let at_ := translate s ioDie none x.ctx x.wb.toNat
        let fails := exec (.queueWriteBack q) s = .next (writeBackFails (walked s ioDie none x.ctx x.wb.toNat) q)
        (∀ pa tr r ex w2, Still s → s.memOk = true → tr ≤ 3 → at_ = .ok pa tr r true ex w2 → reachable s pa = true → touchesMark s pa 16 = false →
          ∃ t, exec (.queueWriteBack q) s = .next t ∧ queueOf t q = { x with wbDue := false } ∧ Memory.readWord t.mem pa = x.c
            ∧ Memory.readWord t.mem (pa + 8) = (if x.error then x.s ||| word (2 ^ 63) else x.s)
            ∧ ∀ a, (a < pa ∨ pa + 16 ≤ a) → Memory.read t.mem a = Memory.read s.mem a)
        ∧ (at_ = .page ∨ at_ = .access → fails)
        ∧ ∀ pa tr r w ex w2, at_ = .ok pa tr r w ex w2 → isHeld s pa = false →
            w = false ∨ tr = 4 ∨ reachable s pa = false ∨ touchesMark s pa 16 = true → fails)
    ∧ (∀ (part : Nat) (r : QueueRecord) (y : Queue), readyQueues (noteReady s) part = [(y, r)] → queueOf (noteReady s) y.num = y →
        (loadHeld s r = true → exec (.dispatchDecision part) s = .next s) ∧ (loadHeld s r = false →
        let w := fun (k : Nat) => r.words.getD k 0
        let kind := field (w 0) 60 4
        let row := exec (.dispatchDecision part) s
        let made := fun (t : State) => row = .next t ∧ decisionCount t part = decisionCount s part + 1
        let decided := fun (t : State) => made t ∧ t.mem = s.mem
        let record := fun (t : State) (ok : QueueRecord → Prop) => ∃ z ∈ (queueOf t y.num).recs, z.index = r.index ∧ z.words = r.words ∧ z.started = true ∧ ok z
        let fails := ∃ t, row = .next t ∧ (queueOf t y.num).error = true ∧ (queueOf t y.num).recs = [] ∧ (queueOf t y.num).c = (queueOf t y.num).p
        (reservedBad w = true → fails)
        ∧ (reservedBad w = false → kind = 0 →
            (∀ p, findPattern s y.ctx (w 1) = some p → launchOk p w = true →
              ∃ t l, decided t ∧ record t (fun z => z.launch = some s.nextId) ∧ t.launches = s.launches ++ [l]
                ∧ l = { key := s.nextId, queue := y.num, index := r.index, ctx := y.ctx, pat := w 1, groups := (w 2).toNat, arg := w 3, priv := (w 4).toNat
                        most := field (w 0) 53 4 * 32768, fused := (w 0).getLsbD 57, dists := l.dists }
                ∧ SharedAmong (diesOf s (partitionOfVf s y.vf)) (w 2).toNat l.dists)
            ∧ (∀ p, findPattern s y.ctx (w 1) = some p → launchOk p w = false → fails) ∧ (findPattern s y.ctx (w 1) = none → fails))
        ∧ (reservedBad w = false → kind = 1 →
            (∀ p, loadPattern s y w = some p →
              ∃ t, made t ∧ t.mem = (deviceTouch s ioDie y.ctx (w 1).toNat p.image.bytes).mem ∧ record t (fun z => z.done = true)
                ∧ t.patterns = s.patterns ++ [p])
            ∧ (loadPattern s y w = none → fails))
        ∧ (reservedBad w = false → kind = 2 →
            (findPattern s y.ctx (w 1) = none → ∃ t, decided t ∧ record t (fun z => z.done = true))
            ∧ (∀ p, findPattern s y.ctx (w 1) = some p →
              ∃ t, decided t ∧ record t (fun z => z.done = r.done)
                ∧ findPattern t y.ctx (w 1) = some { p with unloading := p.unloading ++ [(y.num, r.index)] }))
        ∧ (reservedBad w = false → kind = 3 → ∃ t, decided t ∧ record t (fun z => z.done = true))
        ∧ (reservedBad w = false → 4 ≤ kind → fails)))
    ∧ (∀ (y : Queue) (w : Nat → Word) (p : Pattern), loadPattern s y w = some p →
        p.ctx = y.ctx ∧ p.addr = w 1 ∧ p.ovfBase = w 9 ∧ p.parkBase = w 10 ∧ p.parkImages = field (w 11) 0 32 ∧ p.parkGroups = field (w 11) 32 32
        ∧ p.hwBase = w 12 ∧ p.unloading = [] ∧ (w 9).toNat % 4096 = 0 ∧ (w 10).toNat % 4096 = 0 ∧ (w 12).toNat % 4096 = 0
        ∧ findPattern s y.ctx (w 1) = none ∧ stagesOk p.image.stages = true
        ∧ (diesOf s (partitionOfVf s y.vf)).length * 6144 ≤ p.parkImages
        ∧ (p.signed = true → ∃ b signed, imageBlock s y.ctx (w 1).toNat p.image.bytes = some (some (b, signed)) ∧ b.fmt = 1
            ∧ Config.isKarharKey b.key = true ∧ Config.lmsVerifies b.key signed b.signature = true))
    ∧ (∀ (ctx : Nat) (pat : Word) (us : List (Nat × Nat)), (findPattern s ctx pat).map (·.unloading) = some us → us ≠ [] → patternWarps s ctx pat = false →
        (patternRecords s ctx pat = true → exec (.patternUnload ctx pat) s
          = .next { s with heddles := s.heddles.filter fun h => !(h.ctx == ctx && h.pat == pat) })
        ∧ (patternRecords s ctx pat = false →
          ∃ t, exec (.patternUnload ctx pat) s = .next t ∧ t.patterns = s.patterns.filter (fun p => !(p.ctx == ctx && p.addr == pat))
            ∧ t.heddles = s.heddles.filter (fun h => !(h.ctx == ctx && h.pat == pat))
            ∧ ∀ u ∈ us, ∀ r ∈ (queueOf t u.1).recs, r.index = u.2 → r.done = true))
    ∧ (∀ r rs, x.recs = r :: rs → x.error = false →
        (workDone s r = false → exec (.recordComplete q) s = .next s)
        ∧ (workDone s r = true →
          ∃ t, exec (.recordComplete q) s = .next t ∧ (queueOf t q).s = x.s + 1 ∧ (queueOf t q).c = x.c
            ∧ (queueOf t q).recs.map (·.index) = rs.map (·.index)
            ∧ t.launches = s.launches.filter (fun l => some l.key != r.launch)
            ∧ ((r.words.getD 0 0).getLsbD 58 = false → t.mem = s.mem ∧ t.vfs = s.vfs)
            ∧ ((r.words.getD 0 0).getLsbD 58 = true →
                t.vfs = (sendEvent s (.queue q) 0x01 (x.s + 1) (word (field (r.words.getD 0 0) 60 4))).vfs)))
    ∧ (∀ p, s.heldOutside = [] → pageOf s vf = some p →
        (p.heldEvents = [] → p.discarded = 0 → p.evtCons.toNat ≤ v.toNat → v.toNat ≤ p.evtProd.toNat →
          exec (.evtCons vf v) s = .next (updateVf s vf fun p => { p with evtCons := v }))
        ∧ (p.heldFaults = [] → p.fltCons.toNat ≤ v.toNat → v.toNat ≤ p.fltProd.toNat →
          exec (.fltCons vf v) s = .next (updateVf s vf fun p => { p with fltCons := v }))
        ∧ (p.evtProd.toNat < v.toNat → exec (.evtCons vf v) s = .next s)
        ∧ (queueOwner s q = some vf → x.enabled = false → x.recs = [] →
            (field v 0 12 = 0 → field v 57 7 = 0 →
              ∃ t, exec (.qcfgWrite vf q 0x10 v) s = .next t ∧ queueOf t q = { x with vf := vf, base := v, refused := false })
            ∧ (field v 0 12 ≠ 0 → ∃ t, exec (.qcfgWrite vf q 0x10 v) s = .next t ∧ queueOf t q = { x with vf := vf, refused := true }))
        ∧ (∀ k, ownsPartition s vf k = true →
            ∃ t, exec (.lattol vf k (v.setWidth 32)) s = .next t ∧ readLattol t vf k = word (v.toNat % 2 ^ 32) ∧ { t with vfs := s.vfs } = s)
        ∧ (∀ k, ownsPartition s vf k = false → exec (.lattol vf k (v.setWidth 32)) s = .next s)
        ∧ (vf < 64 → ∀ off, (off = 0x48 ∨ off = 0x50 ∨ off = 0x58 ∨ off = 0x60) →
            ∃ t, exec (.registerWrite vf off v) s = .next t ∧ readRegister t vf off = v ∧ { t with vfs := s.vfs } = s)
        ∧ (vf < 64 → p.busy = true → ∃ t, exec (.registerWrite vf 0x40 v) s = .next t ∧ vfPage t vf = some p ∧ { t with vfs := s.vfs } = s)
        ∧ (vf < 64 → p.busy = false → 1 ≤ v.toNat → v.toNat ≤ 0x0D →
            ∃ t, exec (.registerWrite vf 0x40 v) s = .next t ∧ vfPage t vf = some { p with busy := true, cmd := some (v.setWidth 8) } ∧ { t with vfs := s.vfs } = s))
    ∧ (s.heldOutside = [] → vf < 64 → pageOf s vf = none →
        ∀ off, exec (.registerWrite vf off v) s = .next s ∧ exec (.evtCons vf v) s = .next s ∧ exec (.fltCons vf v) s = .next s)

/-- R1, R231, R237, R240 to R245: the directory's rows. A request for a line that is not busy gets Data at once, or Inv, BInv and Fwd go to those that hold
copies and the line is busy until they have answered and the requester has acknowledged its Data; for a busy line it waits. A watched line is only ever
shared. A Fwd is answered by the owner while the line is busy with the request that it names, or with a data-less InvAck where the copy is gone, and the
home then supplies the data. Inv and BInv drop the copy and every L1's. A WbD goes to memory, leaving the entry of a line that is busy
with its sender's own request; one for a line with no entry is answered with a data-less InvAck. Evictions free the entry once all have answered. Dirty
self-invalidating bytes go home. Of the spec's silence the model reads: the entry after a data-less InvAck (log 51), and who answers an eviction with a
WbD (log 52). -/
def Obligations.DirectoryRows : Prop :=
  ∀ (s : State) (die line : Nat) (rest : List Msg),
    let c := s.coh
    let m := fun (k : MsgKind) => ({ kind := k, line := line, die := die } : Msg)
    let toAll := fun (k : MsgKind) (dies : BitVec 8) => ((List.range 8).filter fun d => dies.getLsbD d).map fun d => ({ kind := k, line := line, die := d } : Msg)
    let coh := fun (i : Instr) (p : Coherence → Prop) => ∃ t, exec i s = .next t ∧ { t with coh := c } = s ∧ p t.coh
    let bit := dieBit die
    let alone : DirEntry := { line := line, st := .exclusive, owner := die, sharers := bit }
    let room := c.dir.length < 1572864
    let last := c.waiting = [] ∧ ∀ x ∈ c.busy, x.awaits ≠ some line
    let noL1 := fun (d : Coherence) => ∀ x ∈ d.l1, ¬ (x.die = die ∧ x.line = line ∧ x.bytes = none)
    -- requests for a line that is not busy
    (die < 8 → busyOf c line = none → dirEntry c line = none → room →
      let asks := fun (w : Bool) => ({ line := line, req := .rds w, die := die, sent := true } : BusyLine)
      (isWatched s line = false → coh (.rds die line) (fun d => d.msgs = c.msgs ++ [m (.data .e true)] ∧ busyOf d line = some (asks false)
          ∧ dirEntry d line = some alone))
      ∧ (isWatched s line = true → coh (.rds die line) (fun d => d.msgs = c.msgs ++ [m (.data .s true)] ∧ busyOf d line = some (asks true)
          ∧ dirEntry d line = some { line := line, st := .shared, sharers := bit, watched := true }))
      ∧ (∀ i, i = Instr.rdx die line ∨ i = Instr.upg die line → isWatched s line = false →
          coh i (fun d => d.msgs = c.msgs ++ [m (.data .m true)] ∧ dirEntry d line = some alone
            ∧ busyOf d line = some { line := line, req := .rdx, die := die, sent := true })))
    ∧ (∀ e, die < 8 → busyOf c line = none → dirEntry c line = some e →
        let busyRds : BusyLine := { line := line, req := .rds e.watched, die := die }
        let others := holders e &&& ~~~bit
        let more := others &&& ~~~dieBit e.owner
        let wants := fun (r : Request) => ({ line := line, req := r, die := die } : BusyLine)
        e.line = line →
        (e.st = .shared → coh (.rds die line) (fun d => d.msgs = c.msgs ++ [m (.data .s true)] ∧ busyOf d line = some { busyRds with sent := true }
            ∧ dirEntry d line = some { e with sharers := e.sharers ||| bit }))
        ∧ (e.st ≠ .shared → coh (.rds die line) (fun d => d.msgs = c.msgs ++ [{ kind := .fwd false (some die), line := line, die := e.owner }]
            ∧ busyOf d line = some { busyRds with fwd := some e.owner } ∧ dirEntry d line = some { e with st := .owned, sharers := e.sharers ||| bit }))
        ∧ (e.watched = false → e.st = .shared →
            (others = 0 → coh (.rdx die line) (fun d => d.msgs = c.msgs ++ [m (.data .m true)] ∧ dirEntry d line = some alone
                ∧ busyOf d line = some { wants .rdx with sent := true }))
            ∧ (others ≠ 0 → coh (.rdx die line) (fun d => d.msgs = c.msgs ++ toAll .inv others ∧ dirEntry d line = some alone
                ∧ busyOf d line = some { wants .rdx with owed := others })))
        ∧ (e.watched = false → e.st ≠ .shared →
            coh (.rdx die line) (fun d => d.msgs = c.msgs ++ toAll .inv more ++ [{ kind := .fwd true (some die), line := line, die := e.owner }]
              ∧ dirEntry d line = some alone ∧ busyOf d line = some { wants .rdx with owed := more, fwd := some e.owner }))
        ∧ (e.watched = false → e.sharers.getLsbD die = true →
            (others = 0 → coh (.upg die line) (fun d => d.msgs = c.msgs ++ [m (.data .m false)] ∧ dirEntry d line = some alone
                ∧ busyOf d line = some { wants .upg with sent := true }))
            ∧ (others ≠ 0 → coh (.upg die line) (fun d => d.msgs = c.msgs ++ toAll .inv others ∧ dirEntry d line = some alone
                ∧ busyOf d line = some { wants .upg with owed := others })))
        ∧ (e.watched = false → e.sharers.getLsbD die = false → exec (.upg die line) s = exec (.rdx die line) s)
        ∧ (holders e ≠ 0 → coh (.directoryEvict line) (fun d => d.msgs = c.msgs ++ toAll .binv (holders e) ∧ dirEntry d line = some e
            ∧ busyOf d line = some { line := line, req := .evict, die := 0, owed := holders e }))
        ∧ (holders e = 0 → last → coh (.directoryEvict line) (fun d => d.msgs = c.msgs ∧ dirEntry d line = none ∧ busyOf d line = none)))
    ∧ (isWatched s line = true → exec (.rdx die line) s = .next s ∧ exec (.upg die line) s = .next s)
    -- of no die of the package, and a busy line
    ∧ (8 ≤ die → exec (.rds die line) s = .next s ∧ exec (.rdx die line) s = .next s ∧ exec (.upg die line) s = .next s)
    ∧ (die < 8 → (busyOf c line).isSome = true →
        let waits := fun (i : Instr) (r : Request) => coh i (fun d => d = { c with waiting := c.waiting ++ [(line, r, die)] })
        waits (.rds die line) (.rds (isWatched s line)) ∧ (isWatched s line = false → waits (.rdx die line) .rdx ∧ waits (.upg die line) .upg)
        ∧ exec (.directoryEvict line) s = .next s)
    -- dies answer
    ∧ (∀ x r b, c.msgs = m (.fwd x (some r)) :: rest → busyOf c line = some b → b.die = r → b.fwd = some die →
        (∀ k, copyOf c die line = some k → k.st ≠ .s →
          coh (.fwd die line) (fun d => d.msgs = rest ++ [{ kind := .data (if x then .m else .s) true, line := line, die := r }]
            ∧ copyOf d die line = (if x then none else some { die := die, line := line, st := .o })
            ∧ busyOf d line = some { b with fwd := none, sent := true } ∧ (x = true → noL1 d)))
        ∧ ((copyOf c die line = none ∨ ∃ k, copyOf c die line = some k ∧ k.st = .s) →
          coh (.fwd die line) (fun d => d = { c with msgs := rest ++ [m (.ack true)] })))
    ∧ (∀ k x, c.msgs = m (.fwd x none) :: rest → copyOf c die line = some k → k.st ≠ .s →
        coh (.fwd die line) (fun d => d.msgs = rest ++ [m (.wbd true)] ∧ copyOf d die line = none ∧ noL1 d))
    ∧ (c.msgs = m .inv :: rest →
        coh (.inv die line) (fun d => d.msgs = rest ++ [m (.ack (copyOf c die line).isNone)] ∧ copyOf d die line = none ∧ noL1 d))
    ∧ (c.msgs = m .binv :: rest →
        coh (.binv die line) (fun d => copyOf d die line = none ∧ noL1 d
          ∧ d.msgs = rest ++ [m (match copyOf c die line with
            | some k => if k.st = .m ∨ k.st = .o then .wbd true else .ack false
            | none => .ack true)]))
    ∧ (∀ st b, c.msgs = m (.data st b) :: rest → HomeRoom s 1 →
        coh (.data die line) (fun d => d.msgs = rest ++ [m (.ack false)]
          ∧ copyOf d die line = some { die := die, line := line, st := st, watched := (dirEntry c line).any (·.watched) }))
    -- the home receives answers
    ∧ (∀ b noData, c.msgs = m (.ack noData) :: rest → busyOf c line = some b →
        (b.owed = 0 → b.fwd = none → b.sent = true → b.die = die → last → (b.req = .rdx ∨ b.req = .upg ∨ ∃ w, b.req = .rds w) →
          coh (.invack die line) (fun d => d.msgs = rest ∧ busyOf d line = none ∧ dirEntry d line = dirEntry c line))
        ∧ (b.owed.getLsbD die = true → b.owed &&& ~~~bit ≠ 0 → b.fwd ≠ some die →
          coh (.invack die line) (fun d => d.msgs = rest ∧ busyOf d line = some { b with owed := b.owed &&& ~~~bit }))
        ∧ (b.owed.getLsbD die = true → b.owed &&& ~~~bit = 0 → b.fwd = none → b.sent = false → (b.req = .rdx ∨ b.req = .upg) →
          coh (.invack die line) (fun d => d.msgs = rest ++ [{ kind := .data .m (b.req != .upg), line := line, die := b.die }]
            ∧ busyOf d line = some { b with owed := 0, sent := true }))
        ∧ (b.owed.getLsbD die = true → b.owed &&& ~~~bit = 0 → b.fwd = none → b.req = .evict → last →
            (∀ x ∈ rest, ¬ (x.line = line ∧ (x.kind = .wbd true ∨ x.kind = .wbd false))) →
          coh (.invack die line) (fun d => d.msgs = rest ∧ busyOf d line = none ∧ dirEntry d line = none))
        ∧ (∀ e w, noData = true → b.fwd = some die → b.req = .rds w → dirEntry c line = some e → e.line = line →
          coh (.invack die line) (fun d => busyOf d line = some { b with fwd := none, sent := true }
            ∧ d.msgs = rest.filter (fun x => x != m (.wbd false)) ++ [{ kind := .data .s true, line := line, die := b.die }]
            ∧ dirEntry d line = some { e with st := .shared, sharers := (e.sharers &&& ~~~bit) ||| dieBit b.die }
            ∧ ∀ x ∈ d.stale, x.1 ≠ line))
        ∧ (noData = true → b.fwd = some die → b.req = .rdx → b.owed = 0 → b.sent = false →
          coh (.invack die line) (fun d => busyOf d line = some { b with fwd := none, sent := true }
            ∧ d.msgs = rest.filter (fun x => x != m (.wbd false)) ++ [{ kind := .data .m true, line := line, die := b.die }]
            ∧ ∀ x ∈ d.stale, x.1 ≠ line)))
    ∧ (c.msgs = m .nack :: rest → coh (.invack die line) (fun d => d = { c with msgs := rest }))
    ∧ (∀ e a, c.msgs = m (.wbd a) :: rest → dirEntry c line = some e → e.line = line →
        let home := fun (d : Coherence) => ∀ x ∈ d.stale, x.1 ≠ line
        (busyOf c line = none → e.owner = die →
          (e.st = .exclusive → coh (.wbd die line) (fun d => d.msgs = rest ∧ home d ∧ dirEntry d line = none))
          ∧ (e.st = .owned → coh (.wbd die line) (fun d => d.msgs = rest ∧ home d
              ∧ dirEntry d line = some { e with st := .shared, sharers := e.sharers &&& ~~~bit })))
        ∧ (∀ b, busyOf c line = some b → b.req = .rdx ∨ b.req = .upg → b.die = die →
          coh (.wbd die line) (fun d => d.msgs = rest ∧ home d ∧ dirEntry d line = some e ∧ busyOf d line = some b))
        ∧ (∀ b, busyOf c line = some b → b.req = .evict → a = true → b.owed = bit → b.fwd = none → last →
            (∀ x ∈ rest, ¬ (x.line = line ∧ (x.kind = .wbd true ∨ x.kind = .wbd false))) →
          coh (.wbd die line) (fun d => d.msgs = rest ∧ home d ∧ dirEntry d line = none ∧ busyOf d line = none)))
    ∧ (∀ a, c.msgs = m (.wbd a) :: rest → dirEntry c line = none → coh (.wbd die line) (fun d => d = { c with msgs := rest ++ [m .nack] }))
    -- evictions from a die, write-backs
    ∧ (∀ k, copyOf c die line = some k →
        coh (.cacheEvict die line) (fun d => copyOf d die line = none ∧ noL1 d ∧ d.msgs = c.msgs ++ if k.st = .m ∨ k.st = .o then [m (.wbd false)] else []))
    ∧ (copyOf c die line = none → exec (.cacheEvict die line) s = .next s)
    ∧ ∃ t, exec (.selfInvalidatingWriteBack die line) s = .next t
        ∧ t.caches.dirty = s.caches.dirty.filter (fun x => !(x.die == die && lineOf x.pa == line))
        ∧ (s.memOk = true →
            (∀ x ∈ s.caches.dirty, x.die = die → lineOf x.pa = line → cannotStore s x.pa = false → (∀ y ∈ s.caches.dirty, y.die = die → y.pa = x.pa → y.val = x.val) →
              Memory.read t.mem x.pa = x.val)
            ∧ ∀ a, (∀ x ∈ s.caches.dirty, x.die = die → lineOf x.pa = line → x.pa ≠ a) → Memory.read t.mem a = Memory.read s.mem a)

/-! ### Commands, resets, what comes from outside -/

/-- R346's context reset of context n of VF vf: its queues flushed and disabled; its launches, records, heddles, copies, warps, images, faults and
objects gone, and no unload left to do. -/
def ContextCleared (s t : State) (vf n : Nat) : Prop :=
  (∀ x ∈ t.queues, x.ctx = n → x.vf = vf → x.enabled = false ∧ x.error = true ∧ x.c = x.p ∧ x.s = x.p ∧ x.recs = [] ∧ x.evSeq = 0)
  ∧ (∀ l ∈ t.launches, l.ctx ≠ n) ∧ (∀ b ∈ t.bobbins, b.ctx = n → b.recs = []) ∧ (∀ g ∈ t.segments, g.ctx = n → g.entries = [])
  ∧ (∀ h ∈ t.heddles, h.ctx ≠ n) ∧ (∀ c ∈ t.copies, c.ctx ≠ n) ∧ (∀ x ∈ t.saved, x.warp.ctx ≠ n) ∧ (∀ f ∈ t.faults, f.ctx ≠ n)
  ∧ (∀ h ∈ t.homes, h.ctx ≠ n) ∧ (∀ p ∈ t.patterns, p.ctx = n → p.unloading = [])
  ∧ (s.warp.resident = true → s.warp.ctx = n → t.warp = Warp.empty)
  ∧ ∀ w, findWarp s w.id = some w → w.id ≠ s.warp.id → w.id ≠ 0 → w.resident = true → w.ctx = n → ∀ v ∈ t.others, v.id ≠ w.id

/-- R330, R334, R335, R340, R342, R346, R356, R361, R393: each command that a VF's page has taken, with arguments that its checks pass, has its
effect and completes with result 0; one that a check refuses completes with that check's result and has no effect. CTX_RESET and CTX_DESTROY leave
nothing of the context's work (R346), and their RESETDONE enters the event ring where that has room. ATTEST writes the 4 KiB of its report after the
nonce and spends one leaf. What a stack in self-refresh holds is waited for (R392). The model's choices: the report's layout past the nonce (log 15), the
results of ATTEST and CHECKPOINT that the spec does not list (log 107), PAGE_FLUSH's emptying every die's copies (log 103), P kept at QUEUE_RESTART
(log 102). -/
def Obligations.VfCommands : Prop :=
  ∀ (s : State) (vf : Nat) (p : VfPage),
    let n := p.arg0.toNat
    let has := fun (code : Nat) => taken s vf code = some p
    let mine := contextResult s vf n = 0
    let closed := fun (t : State) (r : BitVec 8) => ∃ q, vfPage t vf = some q ∧ q.busy = false ∧ q.cmd = none ∧ q.result = r
    let told := fun (t : State) => p.heldEvents = [] → p.discarded = 0 → ringRoom p.evtBase p.evtSize p.evtProd p.evtCons = true →
      (vfPage t vf).map (·.evtProd) = some (p.evtProd + 1) ∧ t.vectors = (vf, p.evtVec.toNat) :: s.vectors
    (∀ k, has 0x01 → createResult s vf p = 0 → freeContext s = some k →
      ∃ t, exec (.ctxCreate vf) s = .next t ∧ closed t 0 ∧ (vfPage t vf).map (·.arg0) = some (word k)
        ∧ t.contexts = s.contexts ++ [{ num := k, vf := vf, asid := BitVec.ofNat 16 (field p.arg1 0 16), root := p.arg0
                                        quota := field p.arg1 16 10 }])
    ∧ (has 0x01 → createResult s vf p ≠ 0 → exec (.ctxCreate vf) s = .next (endCommand s vf (createResult s vf p)))
    ∧ (has 0x02 → mine → ∃ t, exec (.ctxDestroy vf) s = .next t ∧ closed t 0 ∧ told t ∧ ContextCleared s t vf n ∧ (∀ c ∈ t.contexts, c.num ≠ n)
        ∧ (∀ x ∈ t.patterns, x.ctx ≠ n) ∧ (∀ x ∈ t.sealed, x.ctx ≠ n) ∧ (∀ e ∈ t.caches.tlb, e.ctx ≠ n) ∧ ∀ e ∈ t.caches.code, e.ctx ≠ n)
    ∧ (has 0x03 → mine → ∃ t, exec (.ctxReset vf) s = .next t ∧ closed t 0 ∧ told t ∧ ContextCleared s t vf n ∧ contextHeld t n = contextHeld s n
        ∧ t.contexts.map (·.num) = s.contexts.map (·.num))
    ∧ (has 0x04 → mine → (contextResident s n = false → ∃ t, exec (.ctxPreempt vf) s = .next t ∧ closed t 0 ∧ contextHeld t n = true)
        ∧ (contextResident s n = true → ∃ t, exec (.ctxPreempt vf) s = .next t ∧ contextHeld t n = true ∧ vfPage t vf = some p))
    ∧ (has 0x05 → mine → ∃ t, exec (.ctxResume vf) s = .next t ∧ closed t 0 ∧ contextHeld t n = false)
    ∧ (has 0x06 → queueResult s vf n = 0 → exec (.queueFlush vf) s = .next (endCommand (flushQueue s n 0 0 false 0) vf 0))
    ∧ (has 0x07 → queueResult s vf n = 0 → (queueOf s n).error = true → (queueOf s n).c.toNat ≤ p.arg1.toNat →
        ∃ t, exec (.queueRestart vf) s = .next t ∧ closed t 0 ∧ (queueOf t n).error = false ∧ (queueOf t n).c = p.arg1
          ∧ (queueOf t n).s = p.arg1 ∧ (queueOf t n).recs = [] ∧ (queueOf t n).p = (queueOf s n).p)
    ∧ (has 0x08 → mine → p.arg2.toNat % 4096 = 0 → ∃ t, exec (.pageFlush vf) s = .next t ∧ closed t 0 ∧ t.caches.clean = [] ∧ t.caches.dirty = []
        ∧ (∀ e ∈ t.caches.tlb, ¬ (e.ctx = n ∧ flushCovers p.arg1.toNat p.arg2.toNat e.va.toNat (2 ^ e.lg) = true))
        ∧ ∀ e ∈ t.caches.code, ¬ (e.ctx = n ∧ flushCovers p.arg1.toNat p.arg2.toNat e.va.toNat 128 = true))
    ∧ (∀ f fs, (s.faults.find? fun f => f.id == n) = some f → f.vf = vf → f.waiters = [.warp s.warp.id] → s.warp.status = .faulted fs →
        let rest := fs.filter fun x => x.id != n
        (has 0x09 → p.arg1 = 0 → ∃ t, exec (.faultResolve vf) s = .next t ∧ closed t 0
          ∧ t.warp = { s.warp with status := if rest = [] then .running else .faulted rest } ∧ t.faults = s.faults.filter fun x => x.id != n)
        ∧ (∀ g, has 0x09 → p.arg1 = 1 → (fs.find? fun x => x.id == n) = some g →
          ∃ t, exec (.faultCancel vf) s = .next t ∧ closed t 0 ∧ (∀ x ∈ t.faults, x.id ≠ n ∧ .warp s.warp.id ∉ x.waiters)
          ∧ t.warp = { s.warp with status := .running, reports := { code := 0x06, addr := g.addr, mask := g.mask, here := true } :: s.warp.reports }))
    ∧ (has 0x09 → p.arg1 = 0 → faultResult s vf n ≠ 0 → exec (.faultResolve vf) s = .next (endCommand s vf (faultResult s vf n)))
    ∧ (has 0x0A → spanHeld s vf n 4128 = false → s.sec.leaf < 2 ^ 20 →
        let s0 := ipaTouch s vf n 32
        (∀ nonce s2, readIpa s0 vf n 32 = some nonce →
          storeIpa { s0 with sec := { s.sec with leaf := s.sec.leaf + 1 } } vf (n + 32) ((attestReport s0 vf s.sec.leaf nonce).take 4096) = some s2 →
          exec (.attest vf) s = .next (endCommand s2 vf 0) ∧ s2.sec = { s.sec with leaf := s.sec.leaf + 1 })
        ∧ (readIpa s0 vf n 32 = none → exec (.attest vf) s = .next (endCommand s0 vf 1)))
    ∧ (has 0x0A → spanHeld s vf n 4128 = false → 2 ^ 20 ≤ s.sec.leaf → exec (.attest vf) s = .next (endCommand s vf 3))
    ∧ (∀ body s1, has 0x0B → mine → p.arg3 = 0 → field p.arg1 0 12 = 0 → spanHeld s vf p.arg1.toNat p.arg2.toNat = false → sealHeld s n = false →
        heldStill s n = true → let s0 := sealTouch s n
        sealAll s0 n (sealGroups s n) = some body → 64 + body.length ≤ p.arg2.toNat →
        let gen := ((findContext s n).map (·.ckpt)).getD 0 + 1
        storeIpa s0 vf p.arg1.toNat (sealBytes gen n vf (sealGroups s n).length body) = some s1 →
        ∃ t, exec (.checkpointSeal vf) s = .next t ∧ closed t 0 ∧ t.mem = s1.mem ∧ (findContext t n).map (·.ckpt) = some gen
          ∧ (vfPage t vf).map (·.arg0) = some (word (64 + body.length)))
    ∧ (has 0x0B → mine → p.arg3 = 0 → field p.arg1 0 12 = 0 → spanHeld s vf p.arg1.toNat p.arg2.toNat = false → sealHeld s n = false →
        heldStill s n = false → exec (.checkpointSeal vf) s = .next (endCommand s vf 4))
    ∧ (has 0x0B → p.arg3.getLsbD 0 = false → spanHeld s vf p.arg1.toNat p.arg2.toNat = true ∨ sealHeld s n = true →
        exec (.checkpointSeal vf) s = .next s)
    ∧ (∀ hd, has 0x0B → mine → p.arg3.getLsbD 0 = true → field p.arg3 1 15 = 0 → field p.arg3 26 38 = 0 → field p.arg1 0 12 = 0 →
        let q := field p.arg3 16 10
        let h := readSealHead hd
        let gen := ((findContext s n).map (·.ckpt)).getD 0
        let s0 := ipaTouch s vf p.arg1.toNat p.arg2.toNat
        let answers := fun (r : Nat) => exec (.checkpointRestore vf) s = .next (endCommand s0 vf r)
        queueResult s vf q = 0 → spanHeld s vf p.arg1.toNat p.arg2.toNat = false → heldStill s n = true →
        (s.saved.any fun y => y.warp.ctx == n) = false → readIpa s0 vf p.arg1.toNat 64 = some hd →
        (h.fits = false ∨ h.total < 64 ∨ p.arg2.toNat < h.total → answers 4)
        ∧ (∀ bs, h.fits = true → 64 ≤ h.total → h.total ≤ p.arg2.toNat → readIpa s0 vf p.arg1.toNat h.total = some bs →
            let whole := sealCrc bs = h.crc ∧ partsEnd bs h.groups 64 = some h.total
            (¬ whole → answers 4)
            ∧ (whole → h.place ≠ n + vf * 2 ^ 16 ∨ gen < h.gen → answers 5)
            ∧ (∀ s1, whole → h.place = n + vf * 2 ^ 16 → h.gen ≤ gen →
                enterAll q n bs h.groups s0 64 (((s.sealed.find? fun x => x.ctx == n && x.gen == h.gen).map (·.groups)).getD []) = some s1 →
                exec (.checkpointRestore vf) s = .next (endCommand s1 vf 0))))
    ∧ (has 0x0C → hartResult s vf n = 0 → ∃ t, exec (.hartStart vf) s = .next t ∧ closed t 0 ∧ findHart t n = { findHart s n with
        running := true, mode := .hs, pc := p.arg1, x := ((findHart s n).x.set 10 (word (findHart s n).num)).set 11 p.arg2, answer := none })
    ∧ (has 0x0D → hartResult s vf n = 0 → ∃ t, exec (.hartStop vf) s = .next t ∧ closed t 0 ∧ findHart t n = { num := n })
    ∧ (has 0x02 → contextResult s vf n ≠ 0 → exec (.ctxDestroy vf) s = .next (endCommand s vf (contextResult s vf n)))
    ∧ (has 0x03 → contextResult s vf n ≠ 0 → exec (.ctxReset vf) s = .next (endCommand s vf (contextResult s vf n)))
    ∧ (has 0x06 → queueResult s vf n ≠ 0 → exec (.queueFlush vf) s = .next (endCommand s vf (queueResult s vf n)))
    ∧ (has 0x0C → hartResult s vf n ≠ 0 → exec (.hartStart vf) s = .next (endCommand s vf (hartResult s vf n)))

/-- R333, R335, R336, R345, R346, R349, R351, R358, R360: the PF's commands and the resets that PCIe asks for. What becomes of queues and harts that
change hands (log 105) and the layout of a configuration record's body (log 106) are the model's readings. -/
def Obligations.PfCommands : Prop :=
  ∀ (s : State),
    let has := fun (code : Nat) => s.pf.busy = true ∧ s.pf.cmd = some (BitVec.ofNat 8 code)
    let closed := fun (t : State) (r : BitVec 8) => t.pf.busy = false ∧ t.pf.cmd = none ∧ t.pf.result = r
    let v := s.pf.arg0.toNat
    let b := (vfConfig s v).written
    (has 0x81 → v ≤ 63 → applyRefused s v b = false →
      ∃ t, exec .vfApply s = .next t ∧ closed t 0 ∧ vfBlock t v = b ∧ t.mem = s.mem ∧ t.contexts = s.contexts
        ∧ (b.enabled = true → vfPage s v = none → vfPage t v = some { vf := v }) ∧ (b.enabled = false → vfPage t v = none)
        ∧ (∀ h ∈ t.harts, h ∈ s.harts ∧ hartVf t h.num = hartVf s h.num) ∧ ∀ x ∈ t.queues, x.vf = (queueOwner t x.num).getD 64)
    ∧ (has 0x81 → v ≤ 63 → applyRefused s v b = true → ∃ t, exec .vfApply s = .next t ∧ closed t 4 ∧ { t with pf := s.pf } = s)
    ∧ (has 0x82 → scrubHeld s s.pf = true → exec .scrub s = .next s)
    ∧ (∀ a, has 0x82 → s.heddles = [] → scrubHeld s s.pf = false → scrubRange s v s.pf.arg1.toNat = some a →
        ∃ t, exec .scrub s = .next t ∧ closed t 0
          ∧ (∀ l ∈ t.poison, a ≤ 128 * l → 128 * l < a + s.pf.arg1.toNat → stackState s (128 * l) = .failed)
          ∧ ∀ k, Memory.read t.mem k = if a ≤ k ∧ k < a + s.pf.arg1.toNat then 0 else Memory.read s.mem k)
    ∧ (has 0x83 → v ≤ 7 → vfsOf s v = [] →
        ∃ t, exec .partitionReset s = .next t ∧ closed t 0 ∧ (∀ e ∈ t.caches.tlb, partitionOfDie s e.die ≠ v)
          ∧ (∀ u ∈ t.units, partitionOfDie s u.die ≠ v) ∧ (∀ c ∈ t.caches.dirty, partitionOfDie s c.die ≠ v) ∧ decisionCount t v = 0)
    ∧ (let t : State := { State.reset with
        mem := s.mem, poison := s.poison, sec := { s.sec with
          started := Config.firmwareVerifies s.sec.image && decide (s.sec.minVersion ≤ s.sec.version), measured := s.sec.image, owner := none }
        nextId := s.nextId, freeCtr := s.freeCtr, now := s.now, agenda := s.agenda, answers := s.answers, vectors := s.vectors
        remoteRanges := s.remoteRanges, partmap := partmapOf s.pf.partmap, pf := { partmap := s.pf.partmap } }
      s.vfs = [] → s.caches.dirty = [] → s.sec.records = [] →
        exec .conventionalReset s = .next t ∧ (has 0x84 → exec .deviceReset s = .next t))
    ∧ (has 0x85 → let r := readConfigRecord s.mem (hostPa v)
        let fits := recordFits s r && !portLost s (hostPa v)
        ∃ t, exec .configLoad s = .next t ∧ closed t (if fits then 0 else 4)
          ∧ t.sec = if fits then { s.sec with records :=
              { typ := r.typ, counter := r.counter, body := r.body } :: s.sec.records.filter fun k => k.typ != r.typ } else s.sec)
    ∧ (∀ vf, (pageOf s vf).isSome = true →
        ∃ t, exec (.vfFlr vf) s = .next t ∧ (∀ x ∈ t.queues, x.vf = vf → x.enabled = false) ∧ (∀ f ∈ t.faults, f.vf ≠ vf)
          ∧ (∀ c ∈ t.contexts, c.vf ≠ vf) ∧ (vfPage t vf).map (·.evtBase) = some 0 ∧ (contextsOf s vf = [] → t.mem = s.mem))

/-- R233, R266, R267, R351 to R356, R381 to R392: reads, writes and AtomicOps of the host's window, accesses of the harts and of the other packages with
the exceptions and records of those that fail, ports, errors, escalation, the thermal hold. A hart's exception is entered as the RISC-V hypervisor
extension enters it, which is the model's choice (logs 156 and 180), as are SOFT's mask of active lanes, taken at once (log 117), a port's going down at
PORT_DOWN (log 115), and the waiting of what comes from outside behind what is held (log 163). -/
def Obligations.OutsideRows : Prop :=
  ∀ (s : State) (vf off n pa hart : Nat) (bs : List Byte),
    let defined := fun (a n : Nat) => ∀ k, k < n → isUndef s (a + k) = false
    let woken := fun (t : State) => { s with gated := t.gated, retained := t.retained }
    let stored := fun (t : State) (a : Nat) (bs : List Byte) => Memory.readBytes t.mem a bs.length = bs ∧ t.warp = s.warp ∧ t.others = s.others
      ∧ ∀ k, (k < a ∨ a + bs.length ≤ k) → Memory.read t.mem k = Memory.read s.mem k
    let noted := fun (t : State) => (vfPage t vf).map (·.fltSeq) = (vfPage s vf).map (fun p => p.fltSeq + 1)
    let quietObjects := s.heldObj = [] ∧ ∀ w ∈ warps s, w.status ≠ .leaving
    let h := findHart s hart
    let trapped := fun (t : State) (cause : Nat) => let h' := findHart t hart
      h'.mode = .hs ∧ h'.pc = h.csr 0x105 &&& ~~~(3 : Word) ∧ h'.csr 0x142 = word cause ∧ h'.csr 0x141 = h.pc ∧ h'.csr 0x143 = word off
        ∧ h'.answer = some .accessFault
    (∀ p, pageOf s vf = some p → inWindow s vf off n = true → holds s vf off n = false →
      (runsOf s vf off n true false = some [(pa, 0, n)] → runPoisoned s pa n = false → defined pa n →
        ∃ t, exec (.hostWindowRead vf off (.load n)) s = .next t ∧ t = { woken t with answers := .bytes (Memory.readBytes s.mem pa n) :: s.answers })
      ∧ (runsOf s vf off n true false = some [(pa, 0, n)] → runPoisoned s pa n = true →
        exec (.hostWindowRead vf off (.load n)) s = .next { s with answers := .poisoned :: s.answers })
      ∧ (runsOf s vf off n true false = none →
        ∃ t, exec (.hostWindowRead vf off (.load n)) s = .next t ∧ t.answers = .abort :: s.answers ∧ noted t))
    ∧ (pageOf s vf = none ∨ inWindow s vf off n = false →
        exec (.hostWindowRead vf off (.load n)) s = .next { s with answers := .abort :: s.answers })
    ∧ (∀ p, pageOf s vf = some p → inWindow s vf off bs.length = true → holds s vf off bs.length = false →
      (runsOf s vf off bs.length false true = some [(pa, 0, bs.length)] → writeBarred s pa bs.length = false → Still s → s.memOk = true →
        ∃ t, exec (.hostWindowWrite vf off bs) s = .next t ∧ stored t pa bs)
      ∧ (runsOf s vf off bs.length false true = none → ∃ t, exec (.hostWindowWrite vf off bs) s = .next t ∧ noted t))
    ∧ (pageOf s vf = none ∨ inWindow s vf off bs.length = false → exec (.hostWindowWrite vf off bs) s = .next s)
    ∧ (∀ p op wide v, let acc : HartAcc := .amo op wide v; let k := if wide then 8 else 4; let old := Memory.readBytes s.mem pa k
      pageOf s vf = some p → inWindow s vf off k = true → hostCarries op = true → off % k = 0 → holds s vf off k = false →
      runsOf s vf off k true true = some [(pa, 0, k)] → pa % k = 0 → writeBarred s pa k = false → Still s → s.memOk = true →
        ∃ t, exec (.hostWindowRead vf off acc) s = .next t ∧ t.answers = .bytes old :: s.answers
          ∧ stored t pa (leBytes k (rmwValue op (8 * k) (leNat old) (v.toNat % 2 ^ (8 * k)))))
    ∧ (hartVf s hart = some vf → h.running = true →
        (∀ rs, 0 < n → off + n ≤ ipaTop → holds s vf off n = false → runsOf s vf off n true false = some rs →
          (∀ r ∈ rs, runPoisoned s r.1 r.2.2 = false ∧ defined r.1 r.2.2) →
          ∃ t, exec (.yeleramAccess hart off (.load n)) s = .next t ∧ t.mem = s.mem
            ∧ findHart t hart = { h with answer := some (.bytes (rs.flatMap fun r => Memory.readBytes s.mem r.1 r.2.2)) })
        ∧ (0 < n → off + n ≤ ipaTop → holds s vf off n = false → runsOf s vf off n true false = none → h.isGuest = false →
          ∃ t, exec (.yeleramAccess hart off (.load n)) s = .next t ∧ trapped t 5)
        ∧ (∀ rs, 0 < n → off + n ≤ ipaTop → holds s vf off n = false → runsOf s vf off n false false = some rs →
          (fetchable s vf off n = true → (∀ r ∈ rs, runPoisoned s r.1 r.2.2 = false ∧ defined r.1 r.2.2) →
            ∃ t, exec (.yeleramAccess hart off (.fetch n)) s = .next t ∧ t.mem = s.mem
              ∧ findHart t hart = { h with answer := some (.bytes (rs.flatMap fun r => Memory.readBytes s.mem r.1 r.2.2)) })
          ∧ (fetchable s vf off n = false → h.isGuest = false → ∃ t, exec (.yeleramAccess hart off (.fetch n)) s = .next t ∧ trapped t 1))
        ∧ (∀ op wide v, let acc : HartAcc := .amo op wide v
          off % (if wide then 8 else 4) ≠ 0 → h.isGuest = false → ∃ t, exec (.yeleramAccess hart off acc) s = .next t ∧ trapped t 6 ∧ t.mem = s.mem))
    ∧ (∀ port, port ≤ 8 → (exec (.trauxFlit port true) s = .next s)
        ∧ (∃ t, exec (.trauxFlit port false) s = .next t ∧ findPort t port = { findPort s port with resent := (findPort s port).resent + 1 }
            ∧ { t with ports := s.ports } = s)
        ∧ ∃ t, exec (.portDown port) s = .next t ∧ (findPort t port).down = true ∧ { t with ports := s.ports } = s)
    ∧ (∀ kind addr, exec (.errorCorrected kind addr) s = .next s)
    ∧ (∀ addr w c d, ∃ t, exec (.errorUncorrectable 0x07 addr w c d) s = .next t ∧ lineOf addr ∈ t.poison ∧ { t with poison := s.poison } = s)
    ∧ (∀ addr c d, s.warp.resident = true → s.warp.active ||| s.warp.parked ≠ 0 →
        ∃ t, exec (.errorUncorrectable 0x01 addr s.warp.id c d) s = .next t
          ∧ (canReplay s.warp = true → t.warp.replay = true)
          ∧ (canReplay s.warp = false → t.warp.reports = { code := 0x11, addr := 0, mask := s.warp.active, now := true } :: s.warp.reports))
    ∧ (∀ q, s.escalating = some (.queue q) → let c := (queueOf s q).ctx
        ∃ t, exec .escalationTimeout s = .next t ∧ t.escalating = some (.context c) ∧ ContextCleared s t (vfOfContext s c) c)
    ∧ (s.escalating = none → exec .escalationTimeout s = .next s)
    ∧ (∀ k, k < 16 → (s.hbmStacks.any fun x => x.num == k) = false →
        exec (.thermalSignal k) s = .next { s with hbmStacks := { num := k, st := .holding } :: s.hbmStacks.filter fun x => x.num != k })
    ∧ (∀ k, isHolding s k = true →
        (∃ t, exec (.thermalClear k) s = .next t ∧ (∀ x ∈ t.hbmStacks, x.num ≠ k) ∧ t.heldOutside = []
          ∧ t.agenda = s.heldOutside ++ s.agenda ∧ (quietObjects → t.mem = s.mem))
        ∧ (∃ t, exec (.thermalHoldExpire k) s = .next t ∧ t.heldOutside = [] ∧ (quietObjects → heldQueues s k = [] → ({ num := k, st := .failed } : Stack) ∈ t.hbmStacks
            ∧ t.queues = s.queues) ∧ ∀ q c, heldQueues s k = [(q, c)] → (queueOf t q).error = true ∧ (queueOf t q).recs = []))
    ∧ (∀ pkg, let a := pa % 2 ^ 40
        pa / 2 ^ 48 = 1 → targetOf s pa = .hbm →
        (remoteAllowed s pkg a n = true → isHeld s a = false → s.heldOutside = [] → runPoisoned s a n = false → defined a n →
          ∃ t, exec (.remoteAccess pkg pa (.load n)) s = .next t ∧ t = { woken t with answers := .bytes (Memory.readBytes s.mem a n) :: s.answers })
        ∧ (remoteAllowed s pkg a n = false →
          exec (.remoteAccess pkg pa (.load n)) s = .next { s with answers := .accessFault :: s.answers }))

/-- R338, R339: what a walk grants. A translation that lets a write or a fetch pass lets a read pass too; it is a physical address that names something,
and a treatment other than self-invalidating or uncached is of this package's own memory. -/
def Obligations.WalksGrant : Prop :=
  ∀ (s : State) (ctx va pa treat : Nat) (r w x w2 : Bool) (lg : Nat), walkVa s ctx va = (.ok pa treat r w x w2, lg) →
    (w = true → r = true ∧ w2 = true) ∧ (x = true → r = true) ∧ treat ≤ 4 ∧ targetOf s pa ≠ .bad
      ∧ (treat = 0 ∨ treat = 3 ∨ treat = 4 → targetOf s pa = .hbm) ∧ lg ∈ [12, 16, 21, 30]

/-! ### Encoding (R30, R37 to R58) -/

/-- R37 to R45, R58: the word of every well-formed instruction decodes to that instruction, operand for operand, in either mode. -/
def Obligations.DecodeEncode : Prop := ∀ (mt : Bool) (i : Instr), i.wellFormed mt = true → decode mt (encode i) = .ok i

/-- R39, R47: a word that decodes is the one word of its instruction, which is well-formed: no bit is dropped and no reserved encoding accepted. -/
def Obligations.EncodeDecode : Prop :=
  ∀ (mt : Bool) (w : Word) (i : Instr), decode mt w = .ok i → encode i = w ∧ i.wellFormed mt = true

/-- Words written out in the manual's worked examples, and words with a reserved type, a reserved specifier and a guard that is no predicate. -/
def Obligations.DecodeWords : Prop :=
  decode false 0x000BC00000000000 = .ok (.nop .always)
  ∧ decode false 0x004BC00000002000 = .ok (.bra .always 1)
  ∧ decode false 0x010BC00000000002 = .ok (.mark .always 2)
  ∧ decode false 0x0080400000008002 = .ok (.brc { neg := false, p := 1 } 4 2)
  ∧ decode false 0x208BC00200000147 = .ok (.iadc .always .z64 5 { src := .w 0, m := .std {} } { src := .w 2 })
  ∧ decode false 0x30CBC001040012C7 = .ok (.lop3 .always false .z64 0x96 { src := .w 0, m := .std {} } { src := .w 1 } (.w 2))
  ∧ decode false 0x800BC00000000200 = .ok (.vote .always .all 4 (.w 0))
  ∧ decode false 0x91CBC00000000400 = .ok (.fence .always { a := false, b := false } .pkg .sc)
  ∧ decode false 0xE00BC00000000006 = .ok (.iregion .always 6)
  ∧ decode false 0xE10BDE0000000010 = .ok (.csrw .always 0x010 .lit)
  ∧ decode false 0x200BC0020000001F = .illop
  ∧ decode false 0x200BDF8200000007 = .illopnd
  ∧ decode false 0x200FC00200000007 = .illopnd
  ∧ decode false 0x0CC7FFFFFFFFFFFF = .ok (.unassignedOpcode 0x0CC7FFFFFFFFFFFF)

/-! ### The step, the state after reset, and what every step keeps -/

/-- R31 to R34: where nothing stands before the focus's next word, a step runs the instruction that the word encodes; a word with a reserved field traps
with ILLOP and one with a bad operand with ILLOPND, for the active lanes (the model's choice: log 123). -/
def Obligations.StepRunsDecoded : Prop :=
  ∀ (s : State), s.issues = true →
    (∀ i, decode s.warp.mt s.warp.cur = .ok i → step s = exec i s)
    ∧ (s.warp.region = none → ∀ code, (decode s.warp.mt s.warp.cur = .illop ∧ code = 0x01) ∨ (decode s.warp.mt s.warp.cur = .illopnd ∧ code = 0x02) →
        step s = .next (takeTrap s { code := code, tmask := s.warp.active, tinfo := s.warp.cur } (s.warp.wordAddr s.warp.idx)
          (s.warp.nextAddr (wordLits s.warp.cur))))

/-- R333, R335, R371, R391: after reset no warp, no context, no function and no queue stands; a new warp's control registers and a function's page have
the values the manual gives; memory is in its canonical form (the model's form), and the device can start (the model's choice: log 8). -/
def Obligations.ResetState : Prop :=
  State.reset.warp.status = .free ∧ State.reset.others = [] ∧ State.reset.contexts = [] ∧ State.reset.queues = [] ∧ State.reset.vfs = []
  ∧ State.reset.memOk = true ∧ State.reset.sec.started = true ∧ State.reset.heddles = [] ∧ State.reset.escalating = none
  ∧ (let w : Warp := {}; w.fpmode = 1 ∧ w.fpflags = 0 ∧ w.wdog = 32 ∧ w.mt = false ∧ w.h = false)
  ∧ (let p : VfPage := { vf := 0 }; p.evtBase = 0 ∧ p.evtSize = 6 ∧ p.fltBase = 0 ∧ p.fltSize = 6 ∧ p.busy = false)

/-- Every step keeps device memory and every scratchpad in canonical form (the form is the model's). -/
def Obligations.StepKeepsMemOk : Prop := ∀ s t : State, s.memOk = true → step s = .next t → t.memOk = true
end

