-- ==== Sys2Proof/Laws/Encoding.lean ====
section
/-! SUPPORT. The ten fields of a word and the word itself determine each other (R37), codes lie within their fields (R40, R59 to R61), and what the
encoder's layers do to fields that fit. -/

namespace Sys2Proof.Laws

open Sys2Proof

/-! ### Fields and words -/

theorem fits_iff (x : Fields) : x.fits = true ↔
    x.op < 1024 ∧ x.u < 2 ∧ x.neg < 2 ∧ x.gp < 64 ∧ x.a < 128 ∧ x.b < 128 ∧ x.c < 128 ∧ x.ma < 64 ∧ x.mb < 64 ∧ x.f < 8192 := by
  simp only [Fields.fits, decide_eq_true_eq]

/-- Fields that fit are read back from their word. -/
theorem ofWord_toWord {x : Fields} (h : x.fits = true) : Fields.ofWord x.toWord = x := by
  obtain ⟨h1, h2, h3, h4, h5, h6, h7, h8, h9, h10⟩ := (fits_iff x).mp h
  cases x
  simp only [Fields.toWord, Fields.toNat, Fields.ofWord, BitVec.toNat_ofNat, Fields.mk.injEq] at *
  refine ⟨?_, ?_, ?_, ?_, ?_, ?_, ?_, ?_, ?_, ?_⟩ <;> omega

/-- A word is made of its fields. -/
theorem toWord_ofWord (w : Word) : (Fields.ofWord w).toWord = w := by
  apply BitVec.eq_of_toNat_eq
  have := w.isLt
  simp only [Fields.toWord, Fields.toNat, Fields.ofWord, BitVec.toNat_ofNat]
  omega

theorem ofWord_fits (w : Word) : (Fields.ofWord w).fits = true := by
  have := w.isLt
  rw [fits_iff]
  simp only [Fields.ofWord]
  refine ⟨?_, ?_, ?_, ?_, ?_, ?_, ?_, ?_, ?_, ?_⟩ <;> omega

/-! ### Codes -/

theorem b2n_lt (b : Bool) : b2n b < 2 := by cases b <;> decide
theorem ty_code_lt (t : Ty) : t.code < 32 := by cases t <;> decide
theorem rnd_code_lt (t : Rnd) : t.code < 8 := by cases t <;> decide
theorem scope_code_lt (t : Scope) : t.code < 8 := by cases t <;> decide
theorem order_code_lt (t : Order) : t.code < 4 := by cases t <;> decide
theorem fenceOrder_code_lt (t : FenceOrder) : t.code < 4 := by cases t <;> decide
theorem cond_code_lt (t : Cond) : t.code < 8 := by cases t <;> decide
theorem voteMode_code_lt (t : VoteMode) : t.code < 4 := by cases t <;> decide
theorem shflMode_code_lt (t : ShflMode) : t.code < 4 := by cases t <;> decide
theorem redOp_code_lt (t : RedOp) : t.code < 8 := by cases t <;> decide
theorem size_code_lt (t : Size) : t.code < 8 := by cases t <;> decide
theorem hint_code_lt (t : Hint) : t.code < 4 := by cases t <;> decide
theorem prefLevel_code_lt (t : PrefLevel) : t.code < 4 := by cases t <;> decide
theorem cctlOp_code_lt (t : CctlOp) : t.code < 8 := by cases t <;> decide
theorem atomOp_code_lt (t : AtomOp) : t.code < 16 := by cases t <;> decide
theorem atomWidth_code_lt (t : AtomWidth) : t.code < 4 := by cases t <;> decide
theorem copyDir_code_lt (t : CopyDir) : t.code < 4 := by cases t <;> decide
theorem tileMode_code_lt (t : TileMode) : t.code < 4 := by cases t <;> decide
theorem planeFmt_code_lt (t : PlaneFmt) : t.code < 32 := by cases t <;> decide
theorem drainConv_code_lt (t : DrainConv) : t.code < 8 := by cases t <;> decide
theorem drainAct_code_lt (t : DrainAct) : t.code < 4 := by cases t <;> decide
theorem space_code_lt (t : Space) : t.code < 2 := by cases t <;> decide

theorem peg_code_lt (p : PegSel) : p.code < 4 := by
  have := b2n_lt p.a
  have := b2n_lt p.b
  simp only [PegSel.code]
  omega

theorem mod_code_lt (m : Mod) : m.code < 64 := by
  have := b2n_lt m.neg
  have := b2n_lt m.abs
  have := b2n_lt m.half
  have := m.swz.isLt
  simp only [Mod.code]
  omega

theorem src_code_lt (a : Src) : a.code < 128 := by
  cases a <;> simp only [Src.code] <;> omega

/-! ### The encoder's layers -/

theorem base_fits {op : Nat} (h : op < 1024) (g : Guard) : (base op g).fits = true := by
  have := b2n_lt g.neg
  have := g.p.isLt
  rw [fits_iff]
  simp only [base]
  omega

theorem baseU_fits {op : Nat} (h : op < 1024) (u : Bool) (g : Guard) : (baseU op u g).fits = true := by
  have := b2n_lt u
  have := (fits_iff _).mp (base_fits h g)
  rw [fits_iff]
  simp only [baseU]
  omega

theorem withF_fits {x : Fields} (h : x.fits = true) {n : Nat} (hn : n < 8192) : (withF x n).fits = true := by
  rw [fits_iff] at *
  simp only [withF]
  omega

theorem withMid_fits {x : Fields} (h : x.fits = true) (m : Nat) : (x.withMid m).fits = true := by
  rw [fits_iff] at *
  simp only [Fields.withMid]
  omega

theorem withA_fits {x : Fields} (h : x.fits = true) (a : Src) : (withA x a).fits = true := by
  have := src_code_lt a
  rw [fits_iff] at *
  simp only [withA]
  omega

theorem withB_fits {x : Fields} (h : x.fits = true) (b : Src) : (withB x b).fits = true := by
  have := src_code_lt b
  rw [fits_iff] at *
  simp only [withB]
  omega

theorem withC_fits {x : Fields} (h : x.fits = true) (c : Src) : (withC x c).fits = true := by
  have := src_code_lt c
  rw [fits_iff] at *
  simp only [withC]
  omega

theorem withOpA_fits {x : Fields} (h : x.fits = true) (a : OpA) : (withOpA x a).fits = true := by
  rw [fits_iff] at *
  obtain ⟨src, m | ⟨cls, s, d⟩⟩ := a <;> have := src_code_lt src
  · have := mod_code_lt m
    simp only [withOpA]
    omega
  · have := cls.isLt
    have := s.isLt
    have := d.isLt
    simp only [withOpA]
    omega

/-- A permutation of source A leaves no room for a modifier of source B, and maintenance mode allows none (R42). -/
theorem withOpB_fits {x : Fields} (h : x.fits = true) (h0 : x.mb = 0) {mt : Bool} {p q : Accepts} {t v : Ty} {a : OpA} {b : OpB} (ha : a.ok mt p t = true)
    (hb : b.ok mt q v = true) : (withOpB (withOpA x a) b).fits = true := by
  have hf := withOpA_fits h a
  have := src_code_lt b.src
  have := mod_code_lt b.m
  have hm : (withOpA x a).mb + b.m.code < 64 := by
    obtain ⟨src, m | ⟨cls, s, d⟩⟩ := a
    · simp only [withOpA, h0]
      omega
    · simp only [OpA.ok, Bool.and_eq_true] at ha
      simp only [OpB.ok, ha.1, Bool.not_true, Bool.false_or, Bool.and_eq_true, beq_iff_eq] at hb
      have := d.isLt
      simp only [withOpA, hb.2, Mod.code, b2n]
      simp
      omega
  rw [fits_iff] at *
  simp only [withOpB]
  omega

theorem withSeam_fits {x : Fields} (h : x.fits = true) (d : SeamDecl) : (withSeam x d).fits = true := by
  have hf : d.s5.val % 4 * 2 ^ 11 + d.s6.val * 2 ^ 7 + d.s7.val * 2 ^ 3 < 8192 := by
    have := d.s6.isLt
    have := d.s7.isLt
    omega
  exact withF_fits (withMid_fits h _) hf

theorem withPlop_fits {x : Fields} (h : x.fits = true) (pa pb pc : Fin 128) (pd : Fin 64) : (withPlop x pa pb pc pd).fits = true := by
  have := pa.isLt
  have := pb.isLt
  have := pc.isLt
  have := pd.isLt
  rw [fits_iff] at *
  simp only [withPlop]
  omega

end Sys2Proof.Laws
end

