-- ==== Sys2Proof/Laws/Lanes.lean ====
section
/-! SUPPORT. What instructions that act lane by lane do, once for all of them: an instruction whose meaning is `lanewise` either pushes, or
changes its acting lanes, as the claims of `Pushes` and `ChangesLanes` say. -/

namespace Sys2Proof.Machine

/-! ### Lists by number -/

theorem mapFrom_length {α β : Type} (f : Nat → α → β) (l : List α) : ∀ k, (mapFrom f k l).length = l.length := by
  induction l with
  | nil => intro k; rfl
  | cons x xs ih => intro k; simp [mapFrom, ih]

theorem mapFrom_getElem? {α β : Type} (f : Nat → α → β) (l : List α) :
    ∀ k n, (mapFrom f k l)[n]? = l[n]?.map (f (k + n)) := by
  induction l with
  | nil => intro k n; simp [mapFrom]
  | cons x xs ih =>
    intro k n
    cases n with
    | zero => simp [mapFrom]
    | succ n => simp [mapFrom, ih, Nat.add_assoc, Nat.add_comm 1 n]

theorem mem_lanesOf {m : Mask} {l : Nat} : l ∈ lanesOf m ↔ m.getLsbD l = true := by
  constructor
  · intro h; simpa [lanesOf] using (List.mem_filter.mp h).2
  · intro h
    refine List.mem_filter.mpr ⟨List.mem_range.mpr ?_, h⟩
    by_contra hl
    simp [BitVec.getLsbD_of_ge m l (by omega)] at h

/-- A list indexed by the lanes, read back. -/
theorem getD_laneList {α : Type} (f : Nat → α) (d : α) {l : Nat} (h : l < 32) : ((List.range 32).map f).getD l d = f l := by
  simp [List.getD_eq_getElem?_getD, h]

theorem lane_lt {m : Mask} {l : Nat} (h : m.getLsbD l = true) : l < 32 := by
  by_contra hl
  simp [BitVec.getLsbD_of_ge m l (by omega)] at h

theorem flagsOf_congr {m : Mask} {f g : Nat → Flags} (h : ∀ l, m.getLsbD l = true → f l = g l) : flagsOf m f = flagsOf m g := by
  have : ∀ (ls : List Nat) (a : Flags), (∀ l ∈ ls, f l = g l) →
      ls.foldl (fun x l => x ||| f l) a = ls.foldl (fun x l => x ||| g l) a := by
    intro ls
    induction ls with
    | nil => intros; rfl
    | cons x xs ih =>
      intro a hx
      simp only [List.foldl_cons, hx x (by simp)]
      exact ih _ fun l hl => hx l (by simp [hl])
  exact this _ _ fun l hl => h l (mem_lanesOf.mp hl)

/-! ### Issue -/

/-- An instruction that is ready has its own meaning in the state whose watchdog count has gone on. -/
theorem issue_of_ready {i : Instr} {s : State} {body : Issue → State → End} (h : Ready i s) :
    issue i s body = settle s (litCount i) (body (s.issue i) { s with warp := s.warp.counted }) := by
  obtain ⟨h1, h2⟩ := h
  simp only [State.issue] at h1 h2
  simp [issue, h1, h2, State.issue]

theorem Warp.counted_eq (w : Warp) : w.counted = { w with wcount := w.counted.wcount } := by
  unfold Warp.counted; split <;> rfl

/-- A warp whose lanes, uniform weft, flags and count an instruction has set, and which retires. -/
def retiredWith (s : State) (n : Nat) (lanes : List Lane) (ux : List Word) (fl : Word) : State :=
  { s with warp :=
    ({ s.warp with lanes := lanes, ux := ux, fpflags := fl, wcount := s.warp.counted.wcount } : Warp).retire n }

theorem block_wrap (x : Nat) :
    (BitVec.ofNat 64 (x % 144115188075855872)).toNat % 144115188075855872 = x % 144115188075855872 := by
  simp only [BitVec.toNat_ofNat]; omega

/-- What such a state is: the fields set, the way on, and everything else as it was. -/
theorem retiredWith_spec (s : State) (n : Nat) (lanes : List Lane) (ux : List Word) (fl : Word) :
    let t := retiredWith s n lanes ux fl
    t.warp.lanes = lanes ∧ t.warp.ux = ux ∧ t.warp.fpflags = fl ∧ MovesOn n s t ∧ RestSame s t ∧ WarpFrame s t := by
  intro t
  have hr : RestSame s t := by simp [RestSame, t, retiredWith]
  have hm : MovesOn n s t := by
    simp only [MovesOn, PlaceOn, t, retiredWith, Warp.retire, Warp.advance, Warp.header, Warp.cur, Warp.nextBlock, Warp.goTo]
    refine ⟨?_, ?_, ?_⟩ <;> (repeat' split) <;> simp_all [word]
  refine ⟨?_, ?_, ?_, hm, hr, ?_⟩ <;> simp only [t, retiredWith, WarpFrame, Warp.retire, Warp.advance, Warp.goTo] <;> split <;> split <;> rfl

/-! ### Lane by lane -/

theorem raiseFlags_eq (s0 s : State) (m : Mask) (fl fl' : Nat → Flags) (k : State → End) (h : NoFpx s0 m fl')
    (hw1 : s.warp.h = s0.warp.h) (hw2 : s.warp.fpmode = s0.warp.fpmode) (hf : ∀ l, m.getLsbD l = true → fl l = fl' l) :
    raiseFlags s m fl k = k { s with warp := { s.warp with fpflags := s.warp.fpflags ||| word (flagsOf m fl').toNat } } := by
  have e : flagsOf m fl = flagsOf m fl' := flagsOf_congr hf
  have e2 : (lanesOf m).foldl (fun f l => f ||| fl l) 0 = flagsOf m fl' := e
  simp only [raiseFlags, e2, hw1, hw2]
  rcases h with h | h
  · simp [h]
  · simp [h]

/-- The lanes' outputs as the lane-wise executor lists them. -/
theorem lanewise_body (i : Instr) (s : State) (u : Bool) (g : Guard) (f : Issue → Nat → LaneOut) (fl : Nat → Flags)
    (hn : NoFpx s (actingOf s.warp u g) fl) (hf : ∀ l, (f (s.issue i) l).flags = fl l) :
    let m := actingOf s.warp u g
    let outs := (List.range 32).map fun l => if m.getLsbD l then f (s.issue i) l else {}
    lanewise u g f (s.issue i) { s with warp := s.warp.counted } =
      .ok { s with warp := { s.warp with
        lanes := if u then s.warp.lanes else mapFrom (fun l y => if m.getLsbD l then y.apply (f (s.issue i) l) else y) 0 s.warp.lanes
        ux := if u then pushUx s.warp.ux (outs.flatMap (·.push)) else s.warp.ux
        fpflags := s.warp.fpflags ||| word (flagsOf m fl).toNat, wcount := s.warp.counted.wcount } } := by
  intro m outs
  have h0 : ({ s with warp := s.warp.counted } : State) = { s with warp := { s.warp with wcount := s.warp.counted.wcount } } := by
    rw [← Warp.counted_eq]
  rw [h0]
  unfold lanewise
  refine (raiseFlags_eq s { s with warp := { s.warp with wcount := s.warp.counted.wcount } } m (fun l => (outs.getD l {}).flags) fl _ hn rfl rfl
    ?_).trans ?_
  · intro l hl
    show (outs.getD l {}).flags = fl l
    rw [getD_laneList _ _ (lane_lt hl), if_pos hl, hf]
  · cases u
    · simp only [Bool.false_eq_true, if_false, mapLanes, End.ok.injEq]
      congr 2
      have : ∀ (ls : List Lane) k, mapFrom (fun l y => if m.getLsbD l then y.apply (outs.getD l {}) else y) k ls =
          mapFrom (fun l y => if m.getLsbD l then y.apply (f (s.issue i) l) else y) k ls := by
        intro ls
        induction ls with
        | nil => intro k; rfl
        | cons y ys ih =>
          intro k
          simp only [mapFrom, ih]
          congr 1
          split
          · next h => rw [getD_laneList _ _ (lane_lt h), if_pos h]
          · rfl
      exact this _ _
    · rfl

theorem lanesBecome_mapFrom (s t : State) (m : Mask) (f : Nat → Lane → Lane)
    (h : t.warp.lanes = mapFrom (fun l y => if m.getLsbD l then f l y else y) 0 s.warp.lanes) : LanesBecome s t m f := by
  refine ⟨by rw [h, mapFrom_length], fun l y hy => ?_⟩
  rw [h, mapFrom_getElem?, hy]; simp

/-- At most one lane acts for the uniform weft. -/
theorem actingOf_uniform (w : Warp) (g : Guard) :
    actingOf w true g = 0 ∨ ∃ l, l < 32 ∧ actingOf w true g = BitVec.ofNat 32 (2 ^ l) := by
  simp only [actingOf, if_true]
  cases h : lowest w.active with
  | none => exact .inl rfl
  | some l =>
    dsimp only
    split
    · exact .inr ⟨l, lane_lt (mem_lanesOf.mp (List.mem_of_mem_head? h)), rfl⟩
    · exact .inl rfl

theorem oneLane_flatMap (l : Nat) (hl : l < 32) (f : Nat → LaneOut) :
    lowest (BitVec.ofNat 32 (2 ^ l)) = some l ∧
      ((List.range 32).map fun k => if (BitVec.ofNat 32 (2 ^ l)).getLsbD k then f k else {}).flatMap (·.push) = (f l).push := by
  have e : ∀ k < 32, (BitVec.ofNat 32 (2 ^ l)).getLsbD k = decide (k = l) := by
    intro k hk; rw [BitVec.getLsbD_ofNat]; simp [hk, Nat.testBit_two_pow, eq_comm]
  have e2 : lanesOf (BitVec.ofNat 32 (2 ^ l)) = [l] := by
    clear f
    unfold lanesOf
    interval_cases l <;> decide
  constructor
  · rw [lowest, e2]; rfl
  · rw [List.flatMap_map]
    have : ∀ n ≤ 32, ((List.range n).flatMap fun k => (if (BitVec.ofNat 32 (2 ^ l)).getLsbD k then f k else {}).push) =
        if l < n then (f l).push else [] := by
      intro n hn
      induction n with
      | zero => simp
      | succ n ih =>
        rw [List.range_succ, List.flatMap_append, ih (by omega)]
        simp only [List.flatMap_cons, List.flatMap_nil, List.append_nil, e n (by omega)]
        by_cases h1 : l < n
        · have : n ≠ l := by omega
          simp [h1, this, Nat.lt_succ_of_lt h1]
        · by_cases h2 : n = l
          · subst h2; simp
          · have : ¬ l < n + 1 := by omega
            simp [h1, h2, this]
    simpa [hl] using this 32 (le_refl _)

/-- What a `lanewise` meaning does when it is ready and no enabled flag is raised. -/
theorem lanewise_spec {i : Instr} {s : State} {u : Bool} {g : Guard} {f : Issue → Nat → LaneOut} {fl : Nat → Flags}
    (hx : exec i s = issue i s (lanewise u g f)) (hr : Ready i s) (hn : NoFpx s (actingOf s.warp u g) fl)
    (hf : ∀ l, (f (s.issue i) l).flags = fl l) :
    ∃ t, exec i s = .next t
      ∧ if u then UniformEffect i (actingOf s.warp u g) (fun l => (f (s.issue i) l).push) fl s t
        else LaneEffect i (actingOf s.warp u g) (fun l y => y.apply (f (s.issue i) l)) fl s t := by
  rw [hx, issue_of_ready hr, lanewise_body i s u g f fl hn hf]
  refine ⟨retiredWith s (litCount i) _ _ _, rfl, ?_⟩
  obtain ⟨h1, h2, h3, h4, h5, h6⟩ := retiredWith_spec s (litCount i)
    (if u then s.warp.lanes
      else mapFrom (fun l y => if (actingOf s.warp u g).getLsbD l then y.apply (f (s.issue i) l) else y) 0 s.warp.lanes)
    (if u then pushUx s.warp.ux (((List.range 32).map fun l =>
      if (actingOf s.warp u g).getLsbD l then f (s.issue i) l else {}).flatMap (·.push)) else s.warp.ux)
    (s.warp.fpflags ||| word (flagsOf (actingOf s.warp u g) fl).toNat)
  cases u
  · exact ⟨lanesBecome_mapFrom _ _ _ _ h1, h2, h3, h4, h5, h6⟩
  · refine ⟨⟨by rw [h1]; rfl, fun l y hy => ?_⟩, ?_, h3, h4, h5, h6⟩
    · rw [h1]; simp [hy]
    · rw [h2]
      simp only [if_true]
      rcases actingOf_uniform s.warp g with h | ⟨l, hl, h⟩
      · rw [h]
        have h0 : lowest (0 : Mask) = none := by decide
        have h7 : ((List.range 32).map fun l => if (0 : Mask).getLsbD l = true then f (s.issue i) l else {}).flatMap (·.push) = [] := by
          rw [List.flatMap_eq_nil_iff]
          intro o ho
          obtain ⟨l, -, rfl⟩ := List.mem_map.mp ho
          simp
        rw [h0, h7]
        rfl
      · rw [h]
        obtain ⟨h1, h2⟩ := oneLane_flatMap l hl (f (s.issue i))
        rw [h1, h2]

/-- An instruction that pushes and raises flags, and does no more. -/
theorem pushes_of_lanewise {i : Instr} {s : State} {u : Bool} {g : Guard} {f : Issue → Nat → LaneOut} {v : Nat → List Word}
    {fl : Nat → Flags} (hx : exec i s = issue i s (lanewise u g f)) (hf : ∀ l, f (s.issue i) l = { push := v l, flags := fl l }) :
    Pushes s i u g v fl := by
  intro hr hn
  obtain ⟨t, h1, h2⟩ := lanewise_spec (fl := fl) hx hr hn (fun l => by rw [hf])
  refine ⟨t, h1, ?_⟩
  cases u
  · simp only [Bool.false_eq_true, if_false] at h2 ⊢
    simp only [hf] at h2
    exact h2
  · simp only [if_true] at h2 ⊢
    simp only [hf] at h2
    exact h2

/-- An instruction that changes its acting lanes one by one. -/
theorem changesLanes_of_lanewise {i : Instr} {s : State} {g : Guard} {f : Issue → Nat → LaneOut} {h : Nat → Lane → Lane}
    {fl : Nat → Flags} (hx : exec i s = issue i s (lanewise false g f)) (hf : ∀ l, (f (s.issue i) l).flags = fl l)
    (hl : ∀ l y, y.apply (f (s.issue i) l) = h l y) : ChangesLanes s i g h fl := by
  intro hr hn
  obtain ⟨t, h1, h2⟩ := lanewise_spec (fl := fl) hx hr hn hf
  refine ⟨t, h1, ?_⟩
  simp only [Bool.false_eq_true, if_false, hl] at h2
  exact h2

end Sys2Proof.Machine
end

