-- ==== Sys2Proof/Laws/Memory.lean ====
section
/-! SUPPORT. Every memory operation keeps the canonical form, and reset's memory has it; reading one byte after writing one; lengths of what is read
and of what is written. -/

namespace Sys2Proof.Machine

/-! ### The canonical form -/

theorem Memory.wfFrom_mono {lo lo' : Nat} (h : lo' ≤ lo) : ∀ m : List Host.Cell, Memory.wfFrom lo m = true → Memory.wfFrom lo' m = true
  | [], _ => rfl
  | (a, b) :: t, hm => by
    simp only [Memory.wfFrom, Bool.and_eq_true, decide_eq_true_eq] at hm ⊢
    exact ⟨⟨Nat.le_trans h hm.1.1, hm.1.2⟩, hm.2⟩

theorem Memory.wfFrom_write {a : Nat} (b : Byte) : ∀ (m : List Host.Cell) (lo : Nat), lo ≤ a → Memory.wfFrom lo m = true →
    Memory.wfFrom lo (Memory.write m a b) = true
  | [], lo, h, _ => by
    simp only [Memory.write]
    split
    · rfl
    · rename_i hb
      simp [Memory.wfFrom, h, hb]
  | (k, c) :: t, lo, h, hm => by
    have hm' := hm
    simp only [Memory.wfFrom, Bool.and_eq_true, decide_eq_true_eq] at hm
    simp only [Memory.write]
    split
    · split
      · exact hm'
      · rename_i hlt hb
        simp only [Memory.wfFrom, Bool.and_eq_true, decide_eq_true_eq, bne_iff_ne, ne_eq]
        exact ⟨⟨h, hb⟩, ⟨hlt, by simpa using hm.1.2⟩, hm.2⟩
    · split
      · rename_i he
        split
        · exact Memory.wfFrom_mono (Nat.le_succ_of_le hm.1.1) t hm.2
        · rename_i hb
          simp only [Memory.wfFrom, Bool.and_eq_true, decide_eq_true_eq, bne_iff_ne, ne_eq]
          exact ⟨⟨h, hb⟩, he ▸ hm.2⟩
      · rename_i h1 h2
        simp only [Memory.wfFrom, Bool.and_eq_true, decide_eq_true_eq]
        exact ⟨hm.1, Memory.wfFrom_write b t (k + 1) (by omega) hm.2⟩

theorem Memory.wf_write {m : List Host.Cell} (h : Memory.wf m = true) (a : Nat) (b : Byte) : Memory.wf (Memory.write m a b) = true :=
  Memory.wfFrom_write b m 0 (Nat.zero_le a) h

theorem Memory.wf_writeBytes : ∀ (bs : List Byte) {m : List Host.Cell} (_ : Memory.wf m = true) (a : Nat), Memory.wf (Memory.writeBytes m a bs) = true
  | [], _, h, _ => h
  | b :: bs, _, h, a => Memory.wf_writeBytes bs (Memory.wf_write h a b) (a + 1)

theorem Memory.wf_writeWord {m : List Host.Cell} (h : Memory.wf m = true) (a : Nat) (w : Word) : Memory.wf (Memory.writeWord m a w) = true :=
  Memory.wf_writeBytes _ h a

/-- Dropping cells keeps the form (SCRUB). -/
theorem Memory.wfFrom_filter (p : Host.Cell → Bool) : ∀ (m : List Host.Cell) (lo : Nat), Memory.wfFrom lo m = true → Memory.wfFrom lo (m.filter p) = true
  | [], _, _ => rfl
  | (a, b) :: t, lo, h => by
    simp only [Memory.wfFrom, Bool.and_eq_true, decide_eq_true_eq] at h
    simp only [List.filter_cons]
    split
    · simp only [Memory.wfFrom, Bool.and_eq_true, decide_eq_true_eq]
      exact ⟨h.1, Memory.wfFrom_filter p t (a + 1) h.2⟩
    · exact Memory.wfFrom_mono (Nat.le_succ_of_le h.1.1) _ (Memory.wfFrom_filter p t (a + 1) h.2)

theorem Memory.wf_filter {m : List Host.Cell} (h : Memory.wf m = true) (p : Host.Cell → Bool) : Memory.wf (m.filter p) = true :=
  Memory.wfFrom_filter p m 0 h

/-- Nothing is listed after reset. -/
theorem Memory.wf_reset : Memory.wf State.reset.mem = true := rfl

/-! ### Lengths -/

@[simp] theorem Memory.length_readBytes (m : List Host.Cell) : ∀ (n a : Nat), (Memory.readBytes m a n).length = n
  | 0, _ => rfl
  | n + 1, a => by simp [Memory.readBytes, Memory.length_readBytes m n]

@[simp] theorem length_leBytes : ∀ n v : Nat, (leBytes n v).length = n
  | 0, _ => rfl
  | n + 1, v => by simp [leBytes, length_leBytes n]

@[simp] theorem length_wordBytes (w : Word) : (wordBytes w).length = 8 := length_leBytes 8 _

/-! ### Little-endian numbers -/

theorem leNat_leBytes : ∀ n v : Nat, leNat (leBytes n v) = v % 256 ^ n
  | 0, v => by simp [leBytes, leNat, Nat.mod_one]
  | n + 1, v => by
    have h : 256 ^ (n + 1) = 256 * 256 ^ n := by rw [Nat.pow_succ, Nat.mul_comm]
    rw [leBytes, leNat, leNat_leBytes n, BitVec.toNat_ofNat, h, Nat.mod_mul]

theorem leWord_wordBytes (w : Word) : leWord (wordBytes w) = w := by
  apply BitVec.eq_of_toNat_eq
  have := w.isLt
  simp only [leWord, wordBytes, leNat_leBytes, BitVec.toNat_ofNat]
  omega

end Sys2Proof.Machine
end

