-- ==== Sys2Proof/Laws/PerInstr.lean ====
section
/-! SUPPORT. Of every instruction: the ten fields of its word lie within their widths (R37), so that no field of an encoding spills into
another. A step of the device has no word; its fields are all zero. -/

namespace Sys2Proof.Laws.FieldsFit

open Sys2Proof Sys2Proof.Laws

/-- The fields the encoder gives a well-formed instruction lie within their widths. -/
def Statement (i : Instr) : Prop := ∀ mt : Bool, i.wellFormed mt = true → (encodeFields i).fits = true

/-- The operand checks of a well-formed instruction. -/
theorem opnd {mt : Bool} {i : Instr} (h : i.wellFormed mt = true) : i.opndOk mt = true := by
  simp only [Instr.wellFormed, Bool.and_eq_true] at h
  exact h.2

theorem op {mt : Bool} {i : Instr} (h : i.wellFormed mt = true) : i.opOk = true := by
  simp only [Instr.wellFormed, Bool.and_eq_true] at h
  exact h.1.2

/-- Integer types have the codes 0 to 7 (R59). -/
theorem int_code_lt {t : Ty} {a b : Bool} (h : (t.isInt && a && b) = true) : t.code < 8 := by
  cases t <;> first | decide | cases h

theorem lastTwo {c a b : Bool} (h : (c && a && b) = true) : a = true ∧ b = true := by
  simp only [Bool.and_eq_true] at h
  exact ⟨h.1.2, h.2⟩

theorem lastTwoOfThree {c a b d : Bool} (h : (c && a && b && d) = true) : a = true ∧ b = true := by
  simp only [Bool.and_eq_true] at h
  exact ⟨h.1.1.2, h.1.2⟩

theorem nop (g : Guard) : Statement (.nop g) := fun _ _ =>
  base_fits (by decide) g

theorem bra (g : Guard) (o : BitVec 33) : Statement (.bra g o) := fun _ _ =>
  withMid_fits (base_fits (by decide) g) _

theorem brc (g : Guard) (o : BitVec 33) (so : BitVec 13) : Statement (.brc g o so) := fun _ _ =>
  withF_fits (withMid_fits (base_fits (by decide) g) _) (by have := so.isLt; omega)

theorem seam (g : Guard) (dc : SeamDecl) : Statement (.seam g dc) := fun _ _ =>
  withSeam_fits (base_fits (by decide) g) _

theorem mark (g : Guard) (k : Fin 16) : Statement (.mark g k) := fun _ _ =>
  withF_fits (base_fits (by decide) g) (by have := k.isLt; omega)

theorem conform (g : Guard) (k : Fin 16) (cs : ConformSel) : Statement (.conform g k cs) := fun _ _ =>
  withF_fits (withMid_fits (base_fits (by decide) g) _) (by have := k.isLt; omega)

theorem brl (g : Guard) (o : BitVec 33) : Statement (.brl g o) := fun _ _ =>
  withMid_fits (base_fits (by decide) g) _

theorem brx (g : Guard) (a : Src) : Statement (.brx g a) := fun _ _ =>
  withA_fits (base_fits (by decide) g) _

theorem call (g : Guard) (o : BitVec 33) (fr : Fin 64) (n : Fin 16) : Statement (.call g o fr n) := fun _ _ =>
  withF_fits (withMid_fits (base_fits (by decide) g) _) (by have := fr.isLt; have := n.isLt; omega)

theorem callx (g : Guard) (a : Src) (fr : Fin 64) (n : Fin 16) : Statement (.callx g a fr n) := fun _ _ =>
  withF_fits (withA_fits (base_fits (by decide) g) _) (by have := fr.isLt; have := n.isLt; omega)

theorem ret (g : Guard) (k : Fin 16) : Statement (.ret g k) := fun _ _ =>
  withF_fits (base_fits (by decide) g) (by have := k.isLt; omega)

theorem exit (g : Guard) : Statement (.exit g) := fun _ _ =>
  base_fits (by decide) g

theorem yield (g : Guard) : Statement (.yield g) := fun _ _ =>
  base_fits (by decide) g

theorem pick (g : Guard) (u : Bool) (a : OpA) : Statement (.pick g u a) := fun _ _ =>
  withOpA_fits (baseU_fits (by decide) u g) _

theorem save (g : Guard) (a : OpA) (slot : Fin 32) : Statement (.save g a slot) := fun _ _ =>
  withF_fits (withOpA_fits (base_fits (by decide) g) _) (by have := slot.isLt; omega)

theorem pack (g : Guard) (sat : Bool) (idx : Fin 16) (t : Ty) (a : OpA) (b : OpB) : Statement (.pack g sat idx t a b) := fun _ h =>
  withF_fits (withOpB_fits (base_fits (by decide) g) rfl (lastTwo (opnd h)).1 (lastTwo (opnd h)).2) (by have := idx.isLt; have := ty_code_lt t; have := b2n_lt sat; omega)

theorem unpack (g : Guard) (idx : Fin 16) (t : Ty) (a : OpA) : Statement (.unpack g idx t a) := fun _ _ =>
  withF_fits (withOpA_fits (base_fits (by decide) g) _) (by have := idx.isLt; have := ty_code_lt t; omega)

theorem iadd (g : Guard) (u : Bool) (sat : Bool) (t : Ty) (a : OpA) (b : OpB) : Statement (.iadd g u sat t a b) := fun _ h =>
  withF_fits (withOpB_fits (baseU_fits (by decide) u g) rfl (lastTwo (opnd h)).1 (lastTwo (opnd h)).2) (by have := ty_code_lt t; have := b2n_lt sat; omega)

theorem isub (g : Guard) (u : Bool) (sat : Bool) (t : Ty) (a : OpA) (b : OpB) : Statement (.isub g u sat t a b) := fun _ h =>
  withF_fits (withOpB_fits (baseU_fits (by decide) u g) rfl (lastTwo (opnd h)).1 (lastTwo (opnd h)).2) (by have := ty_code_lt t; have := b2n_lt sat; omega)

theorem iadc (g : Guard) (t : Ty) (p : Fin 64) (a : OpA) (b : OpB) : Statement (.iadc g t p a b) := fun _ h =>
  withF_fits (withOpB_fits (base_fits (by decide) g) rfl (lastTwo (opnd h)).1 (lastTwo (opnd h)).2) (by have := p.isLt; have := ty_code_lt t; omega)

theorem isbb (g : Guard) (t : Ty) (p : Fin 64) (a : OpA) (b : OpB) : Statement (.isbb g t p a b) := fun _ h =>
  withF_fits (withOpB_fits (base_fits (by decide) g) rfl (lastTwo (opnd h)).1 (lastTwo (opnd h)).2) (by have := p.isLt; have := ty_code_lt t; omega)

theorem imul (g : Guard) (u : Bool) (sat : Bool) (t : Ty) (a : OpA) (b : OpB) : Statement (.imul g u sat t a b) := fun _ h =>
  withF_fits (withOpB_fits (baseU_fits (by decide) u g) rfl (lastTwo (opnd h)).1 (lastTwo (opnd h)).2) (by have := ty_code_lt t; have := b2n_lt sat; omega)

theorem imulh (g : Guard) (u : Bool) (t : Ty) (a : OpA) (b : OpB) : Statement (.imulh g u t a b) := fun _ h =>
  withF_fits (withOpB_fits (baseU_fits (by decide) u g) rfl (lastTwo (opnd h)).1 (lastTwo (opnd h)).2) (by have := ty_code_lt t; omega)

theorem imad (g : Guard) (u : Bool) (sat : Bool) (t : Ty) (a : OpA) (b : OpB) (c : Src) : Statement (.imad g u sat t a b c) := fun _ h =>
  withF_fits (withC_fits (withOpB_fits (baseU_fits (by decide) u g) rfl (lastTwo (opnd h)).1 (lastTwo (opnd h)).2) _) (by have := ty_code_lt t; have := b2n_lt sat; omega)

theorem imadw (g : Guard) (u : Bool) (t : Ty) (a : OpA) (b : OpB) (c : Src) : Statement (.imadw g u t a b c) := fun _ h =>
  withF_fits (withC_fits (withOpB_fits (baseU_fits (by decide) u g) rfl (lastTwoOfThree (opnd h)).1 (lastTwoOfThree (opnd h)).2) _) (by have := ty_code_lt t; omega)

theorem imin (g : Guard) (u : Bool) (t : Ty) (a : OpA) (b : OpB) : Statement (.imin g u t a b) := fun _ h =>
  withF_fits (withOpB_fits (baseU_fits (by decide) u g) rfl (lastTwo (opnd h)).1 (lastTwo (opnd h)).2) (by have := ty_code_lt t; omega)

theorem imax (g : Guard) (u : Bool) (t : Ty) (a : OpA) (b : OpB) : Statement (.imax g u t a b) := fun _ h =>
  withF_fits (withOpB_fits (baseU_fits (by decide) u g) rfl (lastTwo (opnd h)).1 (lastTwo (opnd h)).2) (by have := ty_code_lt t; omega)

theorem iabsd (g : Guard) (u : Bool) (t : Ty) (a : OpA) (b : OpB) : Statement (.iabsd g u t a b) := fun _ h =>
  withF_fits (withOpB_fits (baseU_fits (by decide) u g) rfl (lastTwo (opnd h)).1 (lastTwo (opnd h)).2) (by have := ty_code_lt t; omega)

theorem iclamp (g : Guard) (u : Bool) (t : Ty) (a : OpA) (b : OpB) (c : Src) : Statement (.iclamp g u t a b c) := fun _ h =>
  withF_fits (withC_fits (withOpB_fits (baseU_fits (by decide) u g) rfl (lastTwo (opnd h)).1 (lastTwo (opnd h)).2) _) (by have := ty_code_lt t; omega)

theorem lea (g : Guard) (u : Bool) (t : Ty) (a : OpA) (b : OpB) (c : Src) : Statement (.lea g u t a b c) := fun _ h =>
  withF_fits (withC_fits (withOpB_fits (baseU_fits (by decide) u g) rfl (lastTwo (opnd h)).1 (lastTwo (opnd h)).2) _) (by have := ty_code_lt t; omega)

theorem isat (g : Guard) (u : Bool) (t : Ty) (t2 : Ty) (a : OpA) : Statement (.isat g u t t2 a) := fun _ _ =>
  withF_fits (withOpA_fits (baseU_fits (by decide) u g) _) (by have := ty_code_lt t2; have := ty_code_lt t; omega)

theorem idot4 (g : Guard) (u : Bool) (sat : Bool) (t : Ty) (a : OpA) (b : OpB) (c : Src) : Statement (.idot4 g u sat t a b c) := fun _ h =>
  withF_fits (withC_fits (withOpB_fits (baseU_fits (by decide) u g) rfl (lastTwo (opnd h)).1 (lastTwo (opnd h)).2) _) (by have := ty_code_lt t; have := b2n_lt sat; omega)

theorem idot2 (g : Guard) (u : Bool) (sat : Bool) (t : Ty) (a : OpA) (b : OpB) (c : Src) : Statement (.idot2 g u sat t a b c) := fun _ h =>
  withF_fits (withC_fits (withOpB_fits (baseU_fits (by decide) u g) rfl (lastTwo (opnd h)).1 (lastTwo (opnd h)).2) _) (by have := ty_code_lt t; have := b2n_lt sat; omega)

theorem and (g : Guard) (u : Bool) (t : Ty) (a : OpA) (b : OpB) : Statement (.and g u t a b) := fun _ h =>
  withF_fits (withOpB_fits (baseU_fits (by decide) u g) rfl (lastTwo (opnd h)).1 (lastTwo (opnd h)).2) (by have := ty_code_lt t; omega)

theorem or (g : Guard) (u : Bool) (t : Ty) (a : OpA) (b : OpB) : Statement (.or g u t a b) := fun _ h =>
  withF_fits (withOpB_fits (baseU_fits (by decide) u g) rfl (lastTwo (opnd h)).1 (lastTwo (opnd h)).2) (by have := ty_code_lt t; omega)

theorem xor (g : Guard) (u : Bool) (t : Ty) (a : OpA) (b : OpB) : Statement (.xor g u t a b) := fun _ h =>
  withF_fits (withOpB_fits (baseU_fits (by decide) u g) rfl (lastTwo (opnd h)).1 (lastTwo (opnd h)).2) (by have := ty_code_lt t; omega)

theorem lop3 (g : Guard) (u : Bool) (t : Ty) (tab : BitVec 8) (a : OpA) (b : OpB) (c : Src) : Statement (.lop3 g u t tab a b c) := fun _ h =>
  withF_fits (withC_fits (withOpB_fits (baseU_fits (by decide) u g) rfl (lastTwo (opnd h)).1 (lastTwo (opnd h)).2) _) (by have := tab.isLt; have := ty_code_lt t; omega)

theorem shl (g : Guard) (u : Bool) (t : Ty) (a : OpA) (b : OpB) : Statement (.shl g u t a b) := fun _ h =>
  withF_fits (withOpB_fits (baseU_fits (by decide) u g) rfl (lastTwo (opnd h)).1 (lastTwo (opnd h)).2) (by have := ty_code_lt t; omega)

theorem shr (g : Guard) (u : Bool) (t : Ty) (a : OpA) (b : OpB) : Statement (.shr g u t a b) := fun _ h =>
  withF_fits (withOpB_fits (baseU_fits (by decide) u g) rfl (lastTwo (opnd h)).1 (lastTwo (opnd h)).2) (by have := ty_code_lt t; omega)

theorem sar (g : Guard) (u : Bool) (t : Ty) (a : OpA) (b : OpB) : Statement (.sar g u t a b) := fun _ h =>
  withF_fits (withOpB_fits (baseU_fits (by decide) u g) rfl (lastTwo (opnd h)).1 (lastTwo (opnd h)).2) (by have := ty_code_lt t; omega)

theorem rol (g : Guard) (u : Bool) (t : Ty) (a : OpA) (b : OpB) : Statement (.rol g u t a b) := fun _ h =>
  withF_fits (withOpB_fits (baseU_fits (by decide) u g) rfl (lastTwo (opnd h)).1 (lastTwo (opnd h)).2) (by have := ty_code_lt t; omega)

theorem funnel (g : Guard) (u : Bool) (t : Ty) (a : OpA) (b : OpB) (c : Src) : Statement (.funnel g u t a b c) := fun _ h =>
  withF_fits (withC_fits (withOpB_fits (baseU_fits (by decide) u g) rfl (lastTwo (opnd h)).1 (lastTwo (opnd h)).2) _) (by have := ty_code_lt t; omega)

theorem popc (g : Guard) (u : Bool) (t : Ty) (a : OpA) : Statement (.popc g u t a) := fun _ _ =>
  withF_fits (withOpA_fits (baseU_fits (by decide) u g) _) (by have := ty_code_lt t; omega)

theorem clz (g : Guard) (u : Bool) (t : Ty) (a : OpA) : Statement (.clz g u t a) := fun _ _ =>
  withF_fits (withOpA_fits (baseU_fits (by decide) u g) _) (by have := ty_code_lt t; omega)

theorem ctz (g : Guard) (u : Bool) (t : Ty) (a : OpA) : Statement (.ctz g u t a) := fun _ _ =>
  withF_fits (withOpA_fits (baseU_fits (by decide) u g) _) (by have := ty_code_lt t; omega)

theorem brev (g : Guard) (u : Bool) (t : Ty) (a : OpA) : Statement (.brev g u t a) := fun _ _ =>
  withF_fits (withOpA_fits (baseU_fits (by decide) u g) _) (by have := ty_code_lt t; omega)

theorem bfx (g : Guard) (u : Bool) (t : Ty) (a : OpA) (b : OpB) : Statement (.bfx g u t a b) := fun _ h =>
  withF_fits (withOpB_fits (baseU_fits (by decide) u g) rfl (lastTwo (opnd h)).1 (lastTwo (opnd h)).2) (by have := ty_code_lt t; omega)

theorem bfi (g : Guard) (u : Bool) (t : Ty) (a : OpA) (b : OpB) (c : Src) : Statement (.bfi g u t a b c) := fun _ h =>
  withF_fits (withC_fits (withOpB_fits (baseU_fits (by decide) u g) rfl (lastTwo (opnd h)).1 (lastTwo (opnd h)).2) _) (by have := ty_code_lt t; omega)

theorem permb (g : Guard) (u : Bool) (t : Ty) (a : OpA) (b : OpB) (c : Src) : Statement (.permb g u t a b c) := fun _ h =>
  withF_fits (withC_fits (withOpB_fits (baseU_fits (by decide) u g) rfl (lastTwo (opnd h)).1 (lastTwo (opnd h)).2) _) (by have := ty_code_lt t; omega)

theorem icmp (g : Guard) (t : Ty) (cd : Cond) (p : Fin 64) (a : OpA) (b : OpB) : Statement (.icmp g t cd p a b) := fun _ h =>
  withF_fits (withOpB_fits (base_fits (by decide) g) rfl (lastTwo (opnd h)).1 (lastTwo (opnd h)).2) (by have := p.isLt; have := cond_code_lt cd; have := int_code_lt (op h); omega)

theorem fcmp (g : Guard) (t : Ty) (cd : Cond) (p : Fin 64) (a : OpA) (b : OpB) : Statement (.fcmp g t cd p a b) := fun _ h =>
  withF_fits (withOpB_fits (base_fits (by decide) g) rfl (lastTwo (opnd h)).1 (lastTwo (opnd h)).2) (by have := p.isLt; have := cond_code_lt cd; have := ty_code_lt t; omega)

theorem sel (g : Guard) (u : Bool) (p : Fin 64) (a : OpA) (b : OpB) : Statement (.sel g u p a b) := fun _ h =>
  withF_fits (withOpB_fits (baseU_fits (by decide) u g) rfl (lastTwo (opnd h)).1 (lastTwo (opnd h)).2) (by have := p.isLt; omega)

theorem plop (g : Guard) (tab : BitVec 8) (pa : Fin 128) (pb : Fin 128) (pc : Fin 128) (pd : Fin 64) : Statement (.plop g tab pa pb pc pd) := fun _ _ =>
  withF_fits (withPlop_fits (base_fits (by decide) g) _ _ _ _) (by have := tab.isLt; omega)

theorem pset (g : Guard) (p : Fin 64) (a : OpA) : Statement (.pset g p a) := fun _ _ =>
  withF_fits (withOpA_fits (base_fits (by decide) g) _) (by have := p.isLt; omega)

theorem ptov (g : Guard) : Statement (.ptov g) := fun _ _ =>
  base_fits (by decide) g

theorem vtop (g : Guard) (a : OpA) (b : OpB) : Statement (.vtop g a b) := fun _ h =>
  withOpB_fits (base_fits (by decide) g) rfl (lastTwo (opnd h)).1 (lastTwo (opnd h)).2

theorem itst (g : Guard) (p : Fin 64) (a : OpA) (b : OpB) : Statement (.itst g p a b) := fun _ h =>
  withF_fits (withOpB_fits (base_fits (by decide) g) rfl (lastTwo (opnd h)).1 (lastTwo (opnd h)).2) (by have := p.isLt; omega)

theorem fadd (g : Guard) (u : Bool) (t : Ty) (r : Rnd) (a : OpA) (b : OpB) : Statement (.fadd g u t r a b) := fun _ h =>
  withF_fits (withOpB_fits (baseU_fits (by decide) u g) rfl (lastTwo (opnd h)).1 (lastTwo (opnd h)).2) (by have := rnd_code_lt r; have := ty_code_lt t; omega)

theorem fsub (g : Guard) (u : Bool) (t : Ty) (r : Rnd) (a : OpA) (b : OpB) : Statement (.fsub g u t r a b) := fun _ h =>
  withF_fits (withOpB_fits (baseU_fits (by decide) u g) rfl (lastTwo (opnd h)).1 (lastTwo (opnd h)).2) (by have := rnd_code_lt r; have := ty_code_lt t; omega)

theorem fmul (g : Guard) (u : Bool) (t : Ty) (r : Rnd) (a : OpA) (b : OpB) : Statement (.fmul g u t r a b) := fun _ h =>
  withF_fits (withOpB_fits (baseU_fits (by decide) u g) rfl (lastTwo (opnd h)).1 (lastTwo (opnd h)).2) (by have := rnd_code_lt r; have := ty_code_lt t; omega)

theorem ffma (g : Guard) (u : Bool) (t : Ty) (r : Rnd) (a : OpA) (b : OpB) (c : Src) : Statement (.ffma g u t r a b c) := fun _ h =>
  withF_fits (withC_fits (withOpB_fits (baseU_fits (by decide) u g) rfl (lastTwo (opnd h)).1 (lastTwo (opnd h)).2) _) (by have := rnd_code_lt r; have := ty_code_lt t; omega)

theorem fmin (g : Guard) (u : Bool) (t : Ty) (a : OpA) (b : OpB) : Statement (.fmin g u t a b) := fun _ h =>
  withF_fits (withOpB_fits (baseU_fits (by decide) u g) rfl (lastTwo (opnd h)).1 (lastTwo (opnd h)).2) (by have := ty_code_lt t; omega)

theorem fmax (g : Guard) (u : Bool) (t : Ty) (a : OpA) (b : OpB) : Statement (.fmax g u t a b) := fun _ h =>
  withF_fits (withOpB_fits (baseU_fits (by decide) u g) rfl (lastTwo (opnd h)).1 (lastTwo (opnd h)).2) (by have := ty_code_lt t; omega)

theorem frnd (g : Guard) (u : Bool) (t : Ty) (r : Rnd) (a : OpA) : Statement (.frnd g u t r a) := fun _ _ =>
  withF_fits (withOpA_fits (baseU_fits (by decide) u g) _) (by have := rnd_code_lt r; have := ty_code_lt t; omega)

theorem fscale (g : Guard) (u : Bool) (t : Ty) (r : Rnd) (a : OpA) (b : OpB) : Statement (.fscale g u t r a b) := fun _ h =>
  withF_fits (withOpB_fits (baseU_fits (by decide) u g) rfl (lastTwo (opnd h)).1 (lastTwo (opnd h)).2) (by have := rnd_code_lt r; have := ty_code_lt t; omega)

theorem fclass (g : Guard) (u : Bool) (t : Ty) (a : OpA) : Statement (.fclass g u t a) := fun _ _ =>
  withF_fits (withOpA_fits (baseU_fits (by decide) u g) _) (by have := ty_code_lt t; omega)

theorem fdot2 (g : Guard) (u : Bool) (t : Ty) (r : Rnd) (a : OpA) (b : OpB) (c : Src) : Statement (.fdot2 g u t r a b c) := fun _ h =>
  withF_fits (withC_fits (withOpB_fits (baseU_fits (by decide) u g) rfl (lastTwo (opnd h)).1 (lastTwo (opnd h)).2) _) (by have := rnd_code_lt r; have := ty_code_lt t; omega)

theorem fsqrt (g : Guard) (u : Bool) (t : Ty) (r : Rnd) (a : OpA) : Statement (.fsqrt g u t r a) := fun _ _ =>
  withF_fits (withOpA_fits (baseU_fits (by decide) u g) _) (by have := rnd_code_lt r; have := ty_code_lt t; omega)

theorem fdiv (g : Guard) (u : Bool) (t : Ty) (r : Rnd) (a : OpA) (b : OpB) : Statement (.fdiv g u t r a b) := fun _ h =>
  withF_fits (withOpB_fits (baseU_fits (by decide) u g) rfl (lastTwo (opnd h)).1 (lastTwo (opnd h)).2) (by have := rnd_code_lt r; have := ty_code_lt t; omega)

theorem frcp (g : Guard) (u : Bool) (a : OpA) : Statement (.frcp g u a) := fun _ _ =>
  withF_fits (withOpA_fits (baseU_fits (by decide) u g) _) (by omega)

theorem frsq (g : Guard) (u : Bool) (a : OpA) : Statement (.frsq g u a) := fun _ _ =>
  withF_fits (withOpA_fits (baseU_fits (by decide) u g) _) (by omega)

theorem fex2 (g : Guard) (u : Bool) (a : OpA) : Statement (.fex2 g u a) := fun _ _ =>
  withF_fits (withOpA_fits (baseU_fits (by decide) u g) _) (by omega)

theorem flg2 (g : Guard) (u : Bool) (a : OpA) : Statement (.flg2 g u a) := fun _ _ =>
  withF_fits (withOpA_fits (baseU_fits (by decide) u g) _) (by omega)

theorem fsin (g : Guard) (u : Bool) (a : OpA) : Statement (.fsin g u a) := fun _ _ =>
  withF_fits (withOpA_fits (baseU_fits (by decide) u g) _) (by omega)

theorem fcos (g : Guard) (u : Bool) (a : OpA) : Statement (.fcos g u a) := fun _ _ =>
  withF_fits (withOpA_fits (baseU_fits (by decide) u g) _) (by omega)

theorem ftanh (g : Guard) (u : Bool) (a : OpA) : Statement (.ftanh g u a) := fun _ _ =>
  withF_fits (withOpA_fits (baseU_fits (by decide) u g) _) (by omega)

theorem cvt (g : Guard) (u : Bool) (r : Rnd) (t2 : Ty) (t : Ty) (a : OpA) : Statement (.cvt g u r t2 t a) := fun _ _ =>
  withF_fits (withOpA_fits (baseU_fits (by decide) u g) _) (by have := rnd_code_lt r; have := ty_code_lt t2; have := ty_code_lt t; omega)

theorem qscale (g : Guard) (t2 : Ty) (t : Ty) (a : OpA) : Statement (.qscale g t2 t a) := fun _ _ =>
  withF_fits (withOpA_fits (base_fits (by decide) g) _) (by have := ty_code_lt t2; have := ty_code_lt t; omega)

theorem qcvt (g : Guard) (t2 : Ty) (t : Ty) (a : OpA) (b : OpB) : Statement (.qcvt g t2 t a b) := fun _ h =>
  withF_fits (withOpB_fits (base_fits (by decide) g) rfl (lastTwo (opnd h)).1 (lastTwo (opnd h)).2) (by have := ty_code_lt t2; have := ty_code_lt t; omega)

theorem dqcvt (g : Guard) (t2 : Ty) (t : Ty) (a : OpA) (b : OpB) : Statement (.dqcvt g t2 t a b) := fun _ h =>
  withF_fits (withOpB_fits (base_fits (by decide) g) rfl (lastTwo (opnd h)).1 (lastTwo (opnd h)).2) (by have := ty_code_lt t2; have := ty_code_lt t; omega)

theorem resenc (g : Guard) (u : Bool) (t : Ty) (a : OpA) : Statement (.resenc g u t a) := fun _ _ =>
  withF_fits (withOpA_fits (baseU_fits (by decide) u g) _) (by have := ty_code_lt t; omega)

theorem resdec (g : Guard) (u : Bool) (t : Ty) (a : OpA) : Statement (.resdec g u t a) := fun _ _ =>
  withF_fits (withOpA_fits (baseU_fits (by decide) u g) _) (by have := ty_code_lt t; omega)

theorem vote (g : Guard) (m : VoteMode) (p : Fin 64) (a : Src) : Statement (.vote g m p a) := fun _ _ =>
  withF_fits (withA_fits (base_fits (by decide) g) _) (by have := p.isLt; have := voteMode_code_lt m; omega)

theorem shfl (g : Guard) (m : ShflMode) (p : Fin 64) (a : Src) (b : Src) : Statement (.shfl g m p a b) := fun _ _ =>
  withF_fits (withB_fits (withA_fits (base_fits (by decide) g) _) _) (by have := p.isLt; have := shflMode_code_lt m; omega)

theorem wred (g : Guard) (ro : RedOp) (t : Ty) (r : Rnd) (a : Src) : Statement (.wred g ro t r a) := fun _ _ =>
  withF_fits (withA_fits (base_fits (by decide) g) _) (by have := rnd_code_lt r; have := redOp_code_lt ro; have := ty_code_lt t; omega)

theorem wscan (g : Guard) (ex : Bool) (ro : RedOp) (t : Ty) (r : Rnd) (a : Src) : Statement (.wscan g ex ro t r a) := fun _ _ =>
  withF_fits (withA_fits (base_fits (by decide) g) _) (by have := rnd_code_lt r; have := redOp_code_lt ro; have := ty_code_lt t; have := b2n_lt ex; omega)

theorem matchLanes (g : Guard) (t : Ty) (a : Src) : Statement (.matchLanes g t a) := fun _ _ =>
  withF_fits (withA_fits (base_fits (by decide) g) _) (by have := ty_code_lt t; omega)

theorem bcast (g : Guard) (p : Fin 64) (a : Src) (b : Src) : Statement (.bcast g p a b) := fun _ _ =>
  withF_fits (withB_fits (withA_fits (base_fits (by decide) g) _) _) (by have := p.isLt; omega)

theorem active (g : Guard) : Statement (.active g) := fun _ _ =>
  base_fits (by decide) g

theorem ld (g : Guard) (peg : PegSel) (sc : Scope) (o : Order) (h : Hint) (sx : Bool) (sz : Size) (a : Src) : Statement (.ld g peg sc o h sx sz a) := fun _ _ =>
  withF_fits (withA_fits (base_fits (by decide) g) _) (by have := peg_code_lt peg; have := scope_code_lt sc; have := order_code_lt o; have := hint_code_lt h; have := size_code_lt sz; have := b2n_lt sx; omega)

theorem st (g : Guard) (peg : PegSel) (sc : Scope) (o : Order) (h : Hint) (sz : Size) (a : Src) (b : Src) : Statement (.st g peg sc o h sz a b) := fun _ _ =>
  withF_fits (withB_fits (withA_fits (base_fits (by decide) g) _) _) (by have := peg_code_lt peg; have := scope_code_lt sc; have := order_code_lt o; have := hint_code_lt h; have := size_code_lt sz; omega)

theorem lds (g : Guard) (peg : PegSel) (sc : Scope) (o : Order) (sx : Bool) (sz : Size) (a : Src) : Statement (.lds g peg sc o sx sz a) := fun _ _ =>
  withF_fits (withA_fits (base_fits (by decide) g) _) (by have := peg_code_lt peg; have := scope_code_lt sc; have := order_code_lt o; have := size_code_lt sz; have := b2n_lt sx; omega)

theorem sts (g : Guard) (peg : PegSel) (sc : Scope) (o : Order) (sz : Size) (a : Src) (b : Src) : Statement (.sts g peg sc o sz a b) := fun _ _ =>
  withF_fits (withB_fits (withA_fits (base_fits (by decide) g) _) _) (by have := peg_code_lt peg; have := scope_code_lt sc; have := order_code_lt o; have := size_code_lt sz; omega)

theorem ldp (g : Guard) (peg : PegSel) (sx : Bool) (sz : Size) (a : Src) : Statement (.ldp g peg sx sz a) := fun _ _ =>
  withF_fits (withA_fits (base_fits (by decide) g) _) (by have := peg_code_lt peg; have := size_code_lt sz; have := b2n_lt sx; omega)

theorem stp (g : Guard) (peg : PegSel) (sz : Size) (a : Src) (b : Src) : Statement (.stp g peg sz a b) := fun _ _ =>
  withF_fits (withB_fits (withA_fits (base_fits (by decide) g) _) _) (by have := peg_code_lt peg; have := size_code_lt sz; omega)

theorem pref (g : Guard) (lv : PrefLevel) (a : Src) : Statement (.pref g lv a) := fun _ _ =>
  withF_fits (withA_fits (base_fits (by decide) g) _) (by have := prefLevel_code_lt lv; omega)

theorem fence (g : Guard) (peg : PegSel) (sc : Scope) (fo : FenceOrder) : Statement (.fence g peg sc fo) := fun _ _ =>
  withF_fits (base_fits (by decide) g) (by have := peg_code_lt peg; have := scope_code_lt sc; have := fenceOrder_code_lt fo; omega)

theorem cctl (g : Guard) (peg : PegSel) (co : CctlOp) (a : Src) : Statement (.cctl g peg co a) := fun _ _ =>
  withF_fits (withA_fits (base_fits (by decide) g) _) (by have := peg_code_lt peg; have := cctlOp_code_lt co; omega)

theorem atom (g : Guard) (peg : PegSel) (sc : Scope) (o : Order) (ao : AtomOp) (w : AtomWidth) (a : Src) (b : Src) : Statement (.atom g peg sc o ao w a b) := fun _ _ =>
  withF_fits (withB_fits (withA_fits (base_fits (by decide) g) _) _) (by have := peg_code_lt peg; have := scope_code_lt sc; have := order_code_lt o; have := atomOp_code_lt ao; have := atomWidth_code_lt w; omega)

theorem acas (g : Guard) (peg : PegSel) (sc : Scope) (o : Order) (w : AtomWidth) (a : Src) (b : Src) (c : Src) : Statement (.acas g peg sc o w a b c) := fun _ _ =>
  withF_fits (withC_fits (withB_fits (withA_fits (base_fits (by decide) g) _) _) _) (by have := peg_code_lt peg; have := scope_code_lt sc; have := order_code_lt o; have := atomWidth_code_lt w; omega)

theorem red (g : Guard) (peg : PegSel) (sc : Scope) (o : Order) (ao : AtomOp) (w : AtomWidth) (a : Src) (b : Src) : Statement (.red g peg sc o ao w a b) := fun _ _ =>
  withF_fits (withB_fits (withA_fits (base_fits (by decide) g) _) _) (by have := peg_code_lt peg; have := scope_code_lt sc; have := order_code_lt o; have := atomOp_code_lt ao; have := atomWidth_code_lt w; omega)

theorem atoms (g : Guard) (peg : PegSel) (sc : Scope) (o : Order) (ao : AtomOp) (w : AtomWidth) (a : Src) (b : Src) : Statement (.atoms g peg sc o ao w a b) := fun _ _ =>
  withF_fits (withB_fits (withA_fits (base_fits (by decide) g) _) _) (by have := peg_code_lt peg; have := scope_code_lt sc; have := order_code_lt o; have := atomOp_code_lt ao; have := atomWidth_code_lt w; omega)

theorem acass (g : Guard) (peg : PegSel) (sc : Scope) (o : Order) (w : AtomWidth) (a : Src) (b : Src) (c : Src) : Statement (.acass g peg sc o w a b c) := fun _ _ =>
  withF_fits (withC_fits (withB_fits (withA_fits (base_fits (by decide) g) _) _) _) (by have := peg_code_lt peg; have := scope_code_lt sc; have := order_code_lt o; have := atomWidth_code_lt w; omega)

theorem ldv (g : Guard) (peg : PegSel) (sc : Scope) (o : Order) (a : Src) (b : Src) : Statement (.ldv g peg sc o a b) := fun _ _ =>
  withF_fits (withB_fits (withA_fits (base_fits (by decide) g) _) _) (by have := peg_code_lt peg; have := scope_code_lt sc; have := order_code_lt o; omega)

theorem stv (g : Guard) (peg : PegSel) (sc : Scope) (o : Order) (a : Src) (b : Src) (c : Src) : Statement (.stv g peg sc o a b c) := fun _ _ =>
  withF_fits (withC_fits (withB_fits (withA_fits (base_fits (by decide) g) _) _) _) (by have := peg_code_lt peg; have := scope_code_lt sc; have := order_code_lt o; omega)

theorem recon (g : Guard) (peg : PegSel) (sc : Scope) (o : Order) (a : Src) (b : Src) (c : Src) : Statement (.recon g peg sc o a b c) := fun _ _ =>
  withF_fits (withC_fits (withB_fits (withA_fits (base_fits (by decide) g) _) _) _) (by have := peg_code_lt peg; have := scope_code_lt sc; have := order_code_lt o; omega)

theorem binit (g : Guard) (peg : PegSel) (sp : Space) (a : Src) (b : Src) (c : Src) : Statement (.binit g peg sp a b c) := fun _ _ =>
  withF_fits (withC_fits (withB_fits (withA_fits (base_fits (by decide) g) _) _) _) (by have := peg_code_lt peg; have := space_code_lt sp; omega)

theorem barrive (g : Guard) (peg : PegSel) (sp : Space) (a : Src) (b : Src) : Statement (.barrive g peg sp a b) := fun _ _ =>
  withF_fits (withB_fits (withA_fits (base_fits (by decide) g) _) _) (by have := peg_code_lt peg; have := space_code_lt sp; omega)

theorem bexpect (g : Guard) (peg : PegSel) (sp : Space) (a : Src) (b : Src) : Statement (.bexpect g peg sp a b) := fun _ _ =>
  withF_fits (withB_fits (withA_fits (base_fits (by decide) g) _) _) (by have := peg_code_lt peg; have := space_code_lt sp; omega)

theorem bwait (g : Guard) (sp : Space) (a : Src) (b : Src) : Statement (.bwait g sp a b) := fun _ _ =>
  withF_fits (withB_fits (withA_fits (base_fits (by decide) g) _) _) (by have := space_code_lt sp; omega)

theorem btest (g : Guard) (sp : Space) (a : Src) (b : Src) : Statement (.btest g sp a b) := fun _ _ =>
  withF_fits (withB_fits (withA_fits (base_fits (by decide) g) _) _) (by have := space_code_lt sp; omega)

theorem bdrop (g : Guard) (peg : PegSel) (sp : Space) (a : Src) : Statement (.bdrop g peg sp a) := fun _ _ =>
  withF_fits (withA_fits (base_fits (by decide) g) _) (by have := peg_code_lt peg; have := space_code_lt sp; omega)

theorem copy (g : Guard) (peg : PegSel) (dir : CopyDir) (sp : Space) (td : Bool) (a : Src) (b : Src) (c : Src) : Statement (.copy g peg dir sp td a b c) := fun _ _ =>
  withF_fits (withC_fits (withB_fits (withA_fits (base_fits (by decide) g) _) _) _) (by have := peg_code_lt peg; have := copyDir_code_lt dir; have := space_code_lt sp; have := b2n_lt td; omega)

theorem copym (g : Guard) (peg : PegSel) (dir : CopyDir) (sp : Space) (td : Bool) (a : Src) (b : Src) (c : Src) : Statement (.copym g peg dir sp td a b c) := fun _ _ =>
  withF_fits (withC_fits (withB_fits (withA_fits (base_fits (by decide) g) _) _) _) (by have := peg_code_lt peg; have := copyDir_code_lt dir; have := space_code_lt sp; have := b2n_lt td; omega)

theorem copyg (g : Guard) (peg : PegSel) (sp : Space) (a : Src) (b : Src) (c : Src) : Statement (.copyg g peg sp a b c) := fun _ _ =>
  withF_fits (withC_fits (withB_fits (withA_fits (base_fits (by decide) g) _) _) _) (by have := peg_code_lt peg; have := space_code_lt sp; omega)

theorem mzero (g : Guard) (m : TileMode) (tile : Fin 4) : Statement (.mzero g m tile) := fun _ _ =>
  withF_fits (base_fits (by decide) g) (by have := tileMode_code_lt m; have := tile.isLt; omega)

theorem mlds (g : Guard) (peg : PegSel) (fm : PlaneFmt) (a : Src) (b : Src) : Statement (.mlds g peg fm a b) := fun _ _ =>
  withF_fits (withB_fits (withA_fits (base_fits (by decide) g) _) _) (by have := peg_code_lt peg; have := planeFmt_code_lt fm; omega)

theorem mswap (g : Guard) : Statement (.mswap g) := fun _ _ =>
  base_fits (by decide) g

theorem mstream (g : Guard) (peg : PegSel) (m1 : Fin 128) (tile : Fin 4) (a : Src) (b : Src) (c : Src) : Statement (.mstream g peg m1 tile a b c) := fun _ _ =>
  withF_fits (withC_fits (withB_fits (withA_fits (base_fits (by decide) g) _) _) _) (by have := peg_code_lt peg; have := m1.isLt; have := tile.isLt; omega)

theorem mdrain (g : Guard) (peg : PegSel) (cv : DrainConv) (ac : DrainAct) (gl : Bool) (bias : Bool) (tile : Fin 4) (a : Src) (b : Src) (c : Src) : Statement (.mdrain g peg cv ac gl bias tile a b c) := fun _ _ =>
  withF_fits (withC_fits (withB_fits (withA_fits (base_fits (by decide) g) _) _) _) (by have := peg_code_lt peg; have := drainConv_code_lt cv; have := drainAct_code_lt ac; have := tile.isLt; have := b2n_lt gl; have := b2n_lt bias; omega)

theorem mstat (g : Guard) (clr : Bool) (tile : Fin 4) : Statement (.mstat g clr tile) := fun _ _ =>
  withF_fits (base_fits (by decide) g) (by have := tile.isLt; have := b2n_lt clr; omega)

theorem spawn (g : Guard) (peg : PegSel) (j : Bool) (stage : Fin 16) (a : Src) (b : Src) (c : Src) : Statement (.spawn g peg j stage a b c) := fun _ _ =>
  withF_fits (withC_fits (withB_fits (withA_fits (base_fits (by decide) g) _) _) _) (by have := peg_code_lt peg; have := stage.isLt; have := b2n_lt j; omega)

theorem watch (g : Guard) (peg : PegSel) (lg : Fin 32) (stage : Fin 16) (a : Src) : Statement (.watch g peg lg stage a) := fun _ _ =>
  withF_fits (withA_fits (base_fits (by decide) g) _) (by have := peg_code_lt peg; have := lg.isLt; have := stage.isLt; omega)

theorem unwatch (g : Guard) (peg : PegSel) (a : Src) : Statement (.unwatch g peg a) := fun _ _ =>
  withF_fits (withA_fits (base_fits (by decide) g) _) (by have := peg_code_lt peg; omega)

theorem bobq (g : Guard) (stage : Fin 16) : Statement (.bobq g stage) := fun _ _ =>
  withF_fits (base_fits (by decide) g) (by have := stage.isLt; omega)

theorem iregion (g : Guard) (keep : Fin 32) : Statement (.iregion g keep) := fun _ _ =>
  withF_fits (base_fits (by decide) g) (by have := keep.isLt; omega)

theorem iregionClose (g : Guard) : Statement (.iregionClose g) := fun _ _ =>
  withF_fits (base_fits (by decide) g) (by omega)

theorem chksig (g : Guard) (a : Src) : Statement (.chksig g a) := fun _ _ =>
  withA_fits (base_fits (by decide) g) _

theorem csrr (g : Guard) (u : Bool) (num : BitVec 12) : Statement (.csrr g u num) := fun _ _ =>
  withF_fits (baseU_fits (by decide) u g) (by have := num.isLt; omega)

theorem csrw (g : Guard) (num : BitVec 12) (a : Src) : Statement (.csrw g num a) := fun _ _ =>
  withF_fits (withA_fits (base_fits (by decide) g) _) (by have := num.isLt; omega)

theorem trap (g : Guard) (cc : BitVec 8) (a : Src) : Statement (.trap g cc a) := fun _ _ =>
  withF_fits (withA_fits (base_fits (by decide) g) _) (by have := cc.isLt; omega)

theorem tret (g : Guard) : Statement (.tret g) := fun _ _ =>
  base_fits (by decide) g

theorem clock (g : Guard) (u : Bool) : Statement (.clock g u) := fun _ _ =>
  baseU_fits (by decide) u g

theorem bkpt (g : Guard) (cc : BitVec 8) : Statement (.bkpt g cc) := fun _ _ =>
  withF_fits (base_fits (by decide) g) (by have := cc.isLt; omega)

theorem unassignedOpcode (w : Word) : Statement (.unassignedOpcode w) := fun _ _ =>
  ofWord_fits w

theorem clauseFetch : Statement .clauseFetch := fun _ _ => rfl

theorem clauseStart : Statement .clauseStart := fun _ _ => rfl

theorem pendingFill (warp : Nat) (op : Nat) : Statement (.pendingFill warp op) := fun _ _ => rfl

theorem pegClear (warp : Nat) (op : Nat) : Statement (.pegClear warp op) := fun _ _ => rfl

theorem watchdogStall : Statement .watchdogStall := fun _ _ => rfl

theorem pageWalk (die : Nat) (ctx : Nat) (va : Word) (k : AccKind) : Statement (.pageWalk die ctx va k) := fun _ _ => rfl

theorem matrixOpPerform (die : Nat) (core : Nat) (part : Nat) : Statement (.matrixOpPerform die core part) := fun _ _ => rfl

theorem followOnMstream (cid : Nat) : Statement (.followOnMstream cid) := fun _ _ => rfl

theorem copyLand (cid : Nat) (chunk : Nat) (n : Nat) : Statement (.copyLand cid chunk n) := fun _ _ => rfl

theorem copyFail (cid : Nat) : Statement (.copyFail cid) := fun _ _ => rfl

theorem copyFailReport : Statement .copyFailReport := fun _ _ => rfl

theorem overflowToBobbin (ctx : Nat) (pat : Word) (stage : Nat) (die : Nat) : Statement (.overflowToBobbin ctx pat stage die) := fun _ _ => rfl

theorem gatherTimerExpire (ctx : Nat) (pat : Word) (stage : Nat) (die : Nat) (core : Nat) : Statement (.gatherTimerExpire ctx pat stage die core) := fun _ _ => rfl

theorem bobbinLaunch (ctx : Nat) (pat : Word) (stage : Nat) (die : Nat) (core : Nat) (part : Nat) (slot : Nat) : Statement (.bobbinLaunch ctx pat stage die core part slot) := fun _ _ => rfl

theorem slotAssign (die : Nat) (core : Nat) : Statement (.slotAssign die core) := fun _ _ => rfl

theorem warpCreate (warp : Nat) : Statement (.warpCreate warp) := fun _ _ => rfl

theorem groupRecordMake (launch : Nat) (die : Nat) : Statement (.groupRecordMake launch die) := fun _ _ => rfl

theorem steal (launch : Nat) (die : Nat) : Statement (.steal launch die) := fun _ _ => rfl

theorem bobbinTake (launch : Nat) (die : Nat) (core : Nat) : Statement (.bobbinTake launch die core) := fun _ _ => rfl

theorem doorbell (vf : Nat) (q : Nat) (p : Word) : Statement (.doorbell vf q p) := fun _ _ => rfl

theorem ringRead (q : Nat) : Statement (.ringRead q) := fun _ _ => rfl

theorem queueWriteBack (q : Nat) : Statement (.queueWriteBack q) := fun _ _ => rfl

theorem dispatchDecision (part : Nat) : Statement (.dispatchDecision part) := fun _ _ => rfl

theorem patternUnload (ctx : Nat) (pat : Word) : Statement (.patternUnload ctx pat) := fun _ _ => rfl

theorem recordComplete (q : Nat) : Statement (.recordComplete q) := fun _ _ => rfl

theorem preemptSave (warp : Nat) : Statement (.preemptSave warp) := fun _ _ => rfl

theorem preemptTimeout (warp : Nat) : Statement (.preemptTimeout warp) := fun _ _ => rfl

theorem starvePreempt (launch : Nat) (die : Nat) : Statement (.starvePreempt launch die) := fun _ _ => rfl

theorem park (die : Nat) (core : Nat) : Statement (.park die core) := fun _ _ => rfl

theorem restore (warp : Nat) (die : Nat) (core : Nat) (part : Nat) (slot : Nat) : Statement (.restore warp die core part slot) := fun _ _ => rfl

theorem powerGate (unit : PowerUnit) : Statement (.powerGate unit) := fun _ _ => rfl

theorem powerWake (unit : PowerUnit) : Statement (.powerWake unit) := fun _ _ => rfl

theorem rds (die : Nat) (line : Nat) : Statement (.rds die line) := fun _ _ => rfl

theorem rdx (die : Nat) (line : Nat) : Statement (.rdx die line) := fun _ _ => rfl

theorem upg (die : Nat) (line : Nat) : Statement (.upg die line) := fun _ _ => rfl

theorem fwd (die : Nat) (line : Nat) : Statement (.fwd die line) := fun _ _ => rfl

theorem inv (die : Nat) (line : Nat) : Statement (.inv die line) := fun _ _ => rfl

theorem invack (die : Nat) (line : Nat) : Statement (.invack die line) := fun _ _ => rfl

theorem data (die : Nat) (line : Nat) : Statement (.data die line) := fun _ _ => rfl

theorem wbd (die : Nat) (line : Nat) : Statement (.wbd die line) := fun _ _ => rfl

theorem binv (die : Nat) (line : Nat) : Statement (.binv die line) := fun _ _ => rfl

theorem directoryEvict (line : Nat) : Statement (.directoryEvict line) := fun _ _ => rfl

theorem cacheEvict (die : Nat) (line : Nat) : Statement (.cacheEvict die line) := fun _ _ => rfl

theorem evtCons (vf : Nat) (v : Word) : Statement (.evtCons vf v) := fun _ _ => rfl

theorem fltCons (vf : Nat) (v : Word) : Statement (.fltCons vf v) := fun _ _ => rfl

theorem qcfgWrite (vf : Nat) (q : Nat) (off : Nat) (v : Word) : Statement (.qcfgWrite vf q off v) := fun _ _ => rfl

theorem lattol (vf : Nat) (p : Nat) (v : BitVec 32) : Statement (.lattol vf p v) := fun _ _ => rfl

theorem registerWrite (fn : Nat) (off : Nat) (v : Word) : Statement (.registerWrite fn off v) := fun _ _ => rfl

theorem ctxCreate (vf : Nat) : Statement (.ctxCreate vf) := fun _ _ => rfl

theorem ctxDestroy (vf : Nat) : Statement (.ctxDestroy vf) := fun _ _ => rfl

theorem ctxReset (vf : Nat) : Statement (.ctxReset vf) := fun _ _ => rfl

theorem ctxPreempt (vf : Nat) : Statement (.ctxPreempt vf) := fun _ _ => rfl

theorem ctxResume (vf : Nat) : Statement (.ctxResume vf) := fun _ _ => rfl

theorem queueFlush (vf : Nat) : Statement (.queueFlush vf) := fun _ _ => rfl

theorem queueRestart (vf : Nat) : Statement (.queueRestart vf) := fun _ _ => rfl

theorem pageFlush (vf : Nat) : Statement (.pageFlush vf) := fun _ _ => rfl

theorem faultResolve (vf : Nat) : Statement (.faultResolve vf) := fun _ _ => rfl

theorem faultCancel (vf : Nat) : Statement (.faultCancel vf) := fun _ _ => rfl

theorem attest (vf : Nat) : Statement (.attest vf) := fun _ _ => rfl

theorem checkpointSeal (vf : Nat) : Statement (.checkpointSeal vf) := fun _ _ => rfl

theorem checkpointRestore (vf : Nat) : Statement (.checkpointRestore vf) := fun _ _ => rfl

theorem hartStart (vf : Nat) : Statement (.hartStart vf) := fun _ _ => rfl

theorem hartStop (vf : Nat) : Statement (.hartStop vf) := fun _ _ => rfl

theorem vfApply : Statement .vfApply := fun _ _ => rfl

theorem scrub : Statement .scrub := fun _ _ => rfl

theorem partitionReset : Statement .partitionReset := fun _ _ => rfl

theorem deviceReset : Statement .deviceReset := fun _ _ => rfl

theorem configLoad : Statement .configLoad := fun _ _ => rfl

theorem vfFlr (vf : Nat) : Statement (.vfFlr vf) := fun _ _ => rfl

theorem conventionalReset : Statement .conventionalReset := fun _ _ => rfl

theorem hostWindowRead (vf : Nat) (off : Nat) (acc : HartAcc) : Statement (.hostWindowRead vf off acc) := fun _ _ => rfl

theorem hostWindowWrite (vf : Nat) (off : Nat) (bytes : List Byte) : Statement (.hostWindowWrite vf off bytes) := fun _ _ => rfl

theorem yeleramAccess (hart : Nat) (ipa : Nat) (acc : HartAcc) : Statement (.yeleramAccess hart ipa acc) := fun _ _ => rfl

theorem trauxFlit (port : Nat) (crcOk : Bool) : Statement (.trauxFlit port crcOk) := fun _ _ => rfl

theorem portDown (port : Nat) : Statement (.portDown port) := fun _ _ => rfl

theorem errorCorrected (kind : Nat) (addr : Nat) : Statement (.errorCorrected kind addr) := fun _ _ => rfl

theorem errorUncorrectable (kind : Nat) (addr : Nat) (warp : Nat) (ctx : Nat) (die : Nat) : Statement (.errorUncorrectable kind addr warp ctx die) := fun _ _ => rfl

theorem escalationTimeout : Statement .escalationTimeout := fun _ _ => rfl

theorem thermalSignal (stack : Nat) : Statement (.thermalSignal stack) := fun _ _ => rfl

theorem thermalClear (stack : Nat) : Statement (.thermalClear stack) := fun _ _ => rfl

theorem thermalHoldExpire (stack : Nat) : Statement (.thermalHoldExpire stack) := fun _ _ => rfl

theorem remoteAccess (pkg : Nat) (pa : Nat) (acc : HartAcc) : Statement (.remoteAccess pkg pa acc) := fun _ _ => rfl

theorem selfInvalidatingWriteBack (die : Nat) (line : Nat) : Statement (.selfInvalidatingWriteBack die line) := fun _ _ => rfl

end Sys2Proof.Laws.FieldsFit
end

