-- ==== Sys2Proof/Laws/State.lean ====
section
/-! SUPPORT. What the named updates of a warp and of the state leave as it was, field by field. -/

namespace Sys2Proof.Machine

/-! ### `Warp.counted` -/

@[simp] theorem Warp.counted_id (w : Warp) : (w.counted).id = w.id := by unfold Warp.counted; split <;> rfl
@[simp] theorem Warp.counted_status (w : Warp) : (w.counted).status = w.status := by unfold Warp.counted; split <;> rfl
@[simp] theorem Warp.counted_die (w : Warp) : (w.counted).die = w.die := by unfold Warp.counted; split <;> rfl
@[simp] theorem Warp.counted_core (w : Warp) : (w.counted).core = w.core := by unfold Warp.counted; split <;> rfl
@[simp] theorem Warp.counted_part (w : Warp) : (w.counted).part = w.part := by unfold Warp.counted; split <;> rfl
@[simp] theorem Warp.counted_slot (w : Warp) : (w.counted).slot = w.slot := by unfold Warp.counted; split <;> rfl
@[simp] theorem Warp.counted_ctx (w : Warp) : (w.counted).ctx = w.ctx := by unfold Warp.counted; split <;> rfl
@[simp] theorem Warp.counted_pat (w : Warp) : (w.counted).pat = w.pat := by unfold Warp.counted; split <;> rfl
@[simp] theorem Warp.counted_stage (w : Warp) : (w.counted).stage = w.stage := by unfold Warp.counted; split <;> rfl
@[simp] theorem Warp.counted_group (w : Warp) : (w.counted).group = w.group := by unfold Warp.counted; split <;> rfl
@[simp] theorem Warp.counted_index (w : Warp) : (w.counted).index = w.index := by unfold Warp.counted; split <;> rfl
@[simp] theorem Warp.counted_gidx (w : Warp) : (w.counted).gidx = w.gidx := by unfold Warp.counted; split <;> rfl
@[simp] theorem Warp.counted_queue (w : Warp) : (w.counted).queue = w.queue := by unfold Warp.counted; split <;> rfl
@[simp] theorem Warp.counted_seq (w : Warp) : (w.counted).seq = w.seq := by unfold Warp.counted; split <;> rfl
@[simp] theorem Warp.counted_spill (w : Warp) : (w.counted).spill = w.spill := by unfold Warp.counted; split <;> rfl
@[simp] theorem Warp.counted_livebase (w : Warp) : (w.counted).livebase = w.livebase := by unfold Warp.counted; split <;> rfl
@[simp] theorem Warp.counted_signed (w : Warp) : (w.counted).signed = w.signed := by unfold Warp.counted; split <;> rfl
@[simp] theorem Warp.counted_frame (w : Warp) : (w.counted).frame = w.frame := by unfold Warp.counted; split <;> rfl
@[simp] theorem Warp.counted_lanes (w : Warp) : (w.counted).lanes = w.lanes := by unfold Warp.counted; split <;> rfl
@[simp] theorem Warp.counted_recs (w : Warp) : (w.counted).recs = w.recs := by unfold Warp.counted; split <;> rfl
@[simp] theorem Warp.counted_ux (w : Warp) : (w.counted).ux = w.ux := by unfold Warp.counted; split <;> rfl
@[simp] theorem Warp.counted_active (w : Warp) : (w.counted).active = w.active := by unfold Warp.counted; split <;> rfl
@[simp] theorem Warp.counted_gone (w : Warp) : (w.counted).gone = w.gone := by unfold Warp.counted; split <;> rfl
@[simp] theorem Warp.counted_pleats (w : Warp) : (w.counted).pleats = w.pleats := by unfold Warp.counted; split <;> rfl
@[simp] theorem Warp.counted_calls (w : Warp) : (w.counted).calls = w.calls := by unfold Warp.counted; split <;> rfl
@[simp] theorem Warp.counted_pleatsOut (w : Warp) : (w.counted).pleatsOut = w.pleatsOut := by unfold Warp.counted; split <;> rfl
@[simp] theorem Warp.counted_callsOut (w : Warp) : (w.counted).callsOut = w.callsOut := by unfold Warp.counted; split <;> rfl
@[simp] theorem Warp.counted_ops (w : Warp) : (w.counted).ops = w.ops := by unfold Warp.counted; split <;> rfl
@[simp] theorem Warp.counted_sig (w : Warp) : (w.counted).sig = w.sig := by unfold Warp.counted; split <;> rfl
@[simp] theorem Warp.counted_fpmode (w : Warp) : (w.counted).fpmode = w.fpmode := by unfold Warp.counted; split <;> rfl
@[simp] theorem Warp.counted_fpflags (w : Warp) : (w.counted).fpflags = w.fpflags := by unfold Warp.counted; split <;> rfl
@[simp] theorem Warp.counted_wdog (w : Warp) : (w.counted).wdog = w.wdog := by unfold Warp.counted; split <;> rfl
@[simp] theorem Warp.counted_mt (w : Warp) : (w.counted).mt = w.mt := by unfold Warp.counted; split <;> rfl
@[simp] theorem Warp.counted_h (w : Warp) : (w.counted).h = w.h := by unfold Warp.counted; split <;> rfl
@[simp] theorem Warp.counted_tcause (w : Warp) : (w.counted).tcause = w.tcause := by unfold Warp.counted; split <;> rfl
@[simp] theorem Warp.counted_tpc (w : Warp) : (w.counted).tpc = w.tpc := by unfold Warp.counted; split <;> rfl
@[simp] theorem Warp.counted_tnext (w : Warp) : (w.counted).tnext = w.tnext := by unfold Warp.counted; split <;> rfl
@[simp] theorem Warp.counted_tmask (w : Warp) : (w.counted).tmask = w.tmask := by unfold Warp.counted; split <;> rfl
@[simp] theorem Warp.counted_tinfo (w : Warp) : (w.counted).tinfo = w.tinfo := by unfold Warp.counted; split <;> rfl
@[simp] theorem Warp.counted_hret (w : Warp) : (w.counted).hret = w.hret := by unfold Warp.counted; split <;> rfl
@[simp] theorem Warp.counted_shadow (w : Warp) : (w.counted).shadow = w.shadow := by unfold Warp.counted; split <;> rfl
@[simp] theorem Warp.counted_region (w : Warp) : (w.counted).region = w.region := by unfold Warp.counted; split <;> rfl
@[simp] theorem Warp.counted_regionPc (w : Warp) : (w.counted).regionPc = w.regionPc := by unfold Warp.counted; split <;> rfl
@[simp] theorem Warp.counted_reports (w : Warp) : (w.counted).reports = w.reports := by unfold Warp.counted; split <;> rfl
@[simp] theorem Warp.counted_regs (w : Warp) : (w.counted).regs = w.regs := by unfold Warp.counted; split <;> rfl
@[simp] theorem Warp.counted_base (w : Warp) : (w.counted).base = w.base := by unfold Warp.counted; split <;> rfl
@[simp] theorem Warp.counted_buf (w : Warp) : (w.counted).buf = w.buf := by unfold Warp.counted; split <;> rfl
@[simp] theorem Warp.counted_idx (w : Warp) : (w.counted).idx = w.idx := by unfold Warp.counted; split <;> rfl
@[simp] theorem Warp.counted_phase (w : Warp) : (w.counted).phase = w.phase := by unfold Warp.counted; split <;> rfl
@[simp] theorem Warp.counted_wake (w : Warp) : (w.counted).wake = w.wake := by unfold Warp.counted; split <;> rfl
@[simp] theorem Warp.counted_reissue (w : Warp) : (w.counted).reissue = w.reissue := by unfold Warp.counted; split <;> rfl
@[simp] theorem Warp.counted_replay (w : Warp) : (w.counted).replay = w.replay := by unfold Warp.counted; split <;> rfl
@[simp] theorem Warp.counted_yielded (w : Warp) : (w.counted).yielded = w.yielded := by unfold Warp.counted; split <;> rfl
@[simp] theorem Warp.counted_stood (w : Warp) : (w.counted).stood = w.stood := by unfold Warp.counted; split <;> rfl
@[simp] theorem Warp.counted_behind (w : Warp) : (w.counted).behind = w.behind := by unfold Warp.counted; split <;> rfl
@[simp] theorem Warp.counted_waited (w : Warp) : (w.counted).waited = w.waited := by unfold Warp.counted; split <;> rfl
@[simp] theorem Warp.counted_homeCore (w : Warp) : (w.counted).homeCore = w.homeCore := by unfold Warp.counted; split <;> rfl
@[simp] theorem Warp.counted_stalled (w : Warp) : (w.counted).stalled = w.stalled := by unfold Warp.counted; split <;> rfl

/-! ### `Warp.goTo` -/

@[simp] theorem Warp.goTo_id (w : Warp) (t : Word) : (w.goTo t).id = w.id := rfl
@[simp] theorem Warp.goTo_status (w : Warp) (t : Word) : (w.goTo t).status = w.status := rfl
@[simp] theorem Warp.goTo_die (w : Warp) (t : Word) : (w.goTo t).die = w.die := rfl
@[simp] theorem Warp.goTo_core (w : Warp) (t : Word) : (w.goTo t).core = w.core := rfl
@[simp] theorem Warp.goTo_part (w : Warp) (t : Word) : (w.goTo t).part = w.part := rfl
@[simp] theorem Warp.goTo_slot (w : Warp) (t : Word) : (w.goTo t).slot = w.slot := rfl
@[simp] theorem Warp.goTo_ctx (w : Warp) (t : Word) : (w.goTo t).ctx = w.ctx := rfl
@[simp] theorem Warp.goTo_pat (w : Warp) (t : Word) : (w.goTo t).pat = w.pat := rfl
@[simp] theorem Warp.goTo_stage (w : Warp) (t : Word) : (w.goTo t).stage = w.stage := rfl
@[simp] theorem Warp.goTo_group (w : Warp) (t : Word) : (w.goTo t).group = w.group := rfl
@[simp] theorem Warp.goTo_index (w : Warp) (t : Word) : (w.goTo t).index = w.index := rfl
@[simp] theorem Warp.goTo_gidx (w : Warp) (t : Word) : (w.goTo t).gidx = w.gidx := rfl
@[simp] theorem Warp.goTo_queue (w : Warp) (t : Word) : (w.goTo t).queue = w.queue := rfl
@[simp] theorem Warp.goTo_seq (w : Warp) (t : Word) : (w.goTo t).seq = w.seq := rfl
@[simp] theorem Warp.goTo_spill (w : Warp) (t : Word) : (w.goTo t).spill = w.spill := rfl
@[simp] theorem Warp.goTo_livebase (w : Warp) (t : Word) : (w.goTo t).livebase = w.livebase := rfl
@[simp] theorem Warp.goTo_signed (w : Warp) (t : Word) : (w.goTo t).signed = w.signed := rfl
@[simp] theorem Warp.goTo_frame (w : Warp) (t : Word) : (w.goTo t).frame = w.frame := rfl
@[simp] theorem Warp.goTo_lanes (w : Warp) (t : Word) : (w.goTo t).lanes = w.lanes := rfl
@[simp] theorem Warp.goTo_recs (w : Warp) (t : Word) : (w.goTo t).recs = w.recs := rfl
@[simp] theorem Warp.goTo_ux (w : Warp) (t : Word) : (w.goTo t).ux = w.ux := rfl
@[simp] theorem Warp.goTo_active (w : Warp) (t : Word) : (w.goTo t).active = w.active := rfl
@[simp] theorem Warp.goTo_gone (w : Warp) (t : Word) : (w.goTo t).gone = w.gone := rfl
@[simp] theorem Warp.goTo_pleats (w : Warp) (t : Word) : (w.goTo t).pleats = w.pleats := rfl
@[simp] theorem Warp.goTo_calls (w : Warp) (t : Word) : (w.goTo t).calls = w.calls := rfl
@[simp] theorem Warp.goTo_pleatsOut (w : Warp) (t : Word) : (w.goTo t).pleatsOut = w.pleatsOut := rfl
@[simp] theorem Warp.goTo_callsOut (w : Warp) (t : Word) : (w.goTo t).callsOut = w.callsOut := rfl
@[simp] theorem Warp.goTo_ops (w : Warp) (t : Word) : (w.goTo t).ops = w.ops := rfl
@[simp] theorem Warp.goTo_sig (w : Warp) (t : Word) : (w.goTo t).sig = w.sig := rfl
@[simp] theorem Warp.goTo_fpmode (w : Warp) (t : Word) : (w.goTo t).fpmode = w.fpmode := rfl
@[simp] theorem Warp.goTo_fpflags (w : Warp) (t : Word) : (w.goTo t).fpflags = w.fpflags := rfl
@[simp] theorem Warp.goTo_wdog (w : Warp) (t : Word) : (w.goTo t).wdog = w.wdog := rfl
@[simp] theorem Warp.goTo_wcount (w : Warp) (t : Word) : (w.goTo t).wcount = w.wcount := rfl
@[simp] theorem Warp.goTo_mt (w : Warp) (t : Word) : (w.goTo t).mt = w.mt := rfl
@[simp] theorem Warp.goTo_h (w : Warp) (t : Word) : (w.goTo t).h = w.h := rfl
@[simp] theorem Warp.goTo_tcause (w : Warp) (t : Word) : (w.goTo t).tcause = w.tcause := rfl
@[simp] theorem Warp.goTo_tpc (w : Warp) (t : Word) : (w.goTo t).tpc = w.tpc := rfl
@[simp] theorem Warp.goTo_tnext (w : Warp) (t : Word) : (w.goTo t).tnext = w.tnext := rfl
@[simp] theorem Warp.goTo_tmask (w : Warp) (t : Word) : (w.goTo t).tmask = w.tmask := rfl
@[simp] theorem Warp.goTo_tinfo (w : Warp) (t : Word) : (w.goTo t).tinfo = w.tinfo := rfl
@[simp] theorem Warp.goTo_hret (w : Warp) (t : Word) : (w.goTo t).hret = w.hret := rfl
@[simp] theorem Warp.goTo_shadow (w : Warp) (t : Word) : (w.goTo t).shadow = w.shadow := rfl
@[simp] theorem Warp.goTo_region (w : Warp) (t : Word) : (w.goTo t).region = w.region := rfl
@[simp] theorem Warp.goTo_regionPc (w : Warp) (t : Word) : (w.goTo t).regionPc = w.regionPc := rfl
@[simp] theorem Warp.goTo_reports (w : Warp) (t : Word) : (w.goTo t).reports = w.reports := rfl
@[simp] theorem Warp.goTo_regs (w : Warp) (t : Word) : (w.goTo t).regs = w.regs := rfl
@[simp] theorem Warp.goTo_buf (w : Warp) (t : Word) : (w.goTo t).buf = w.buf := rfl
@[simp] theorem Warp.goTo_wake (w : Warp) (t : Word) : (w.goTo t).wake = w.wake := rfl
@[simp] theorem Warp.goTo_reissue (w : Warp) (t : Word) : (w.goTo t).reissue = w.reissue := rfl
@[simp] theorem Warp.goTo_replay (w : Warp) (t : Word) : (w.goTo t).replay = w.replay := rfl
@[simp] theorem Warp.goTo_stood (w : Warp) (t : Word) : (w.goTo t).stood = w.stood := rfl
@[simp] theorem Warp.goTo_behind (w : Warp) (t : Word) : (w.goTo t).behind = w.behind := rfl
@[simp] theorem Warp.goTo_waited (w : Warp) (t : Word) : (w.goTo t).waited = w.waited := rfl
@[simp] theorem Warp.goTo_homeCore (w : Warp) (t : Word) : (w.goTo t).homeCore = w.homeCore := rfl
@[simp] theorem Warp.goTo_stalled (w : Warp) (t : Word) : (w.goTo t).stalled = w.stalled := rfl

/-! ### `Warp.retire` -/

@[simp] theorem Warp.retire_id (w : Warp) (n : Nat) : (w.retire n).id = w.id := by simp only [Warp.retire, Warp.advance, Warp.goTo]; split <;> split <;> rfl
@[simp] theorem Warp.retire_status (w : Warp) (n : Nat) : (w.retire n).status = w.status := by simp only [Warp.retire, Warp.advance, Warp.goTo]; split <;> split <;> rfl
@[simp] theorem Warp.retire_die (w : Warp) (n : Nat) : (w.retire n).die = w.die := by simp only [Warp.retire, Warp.advance, Warp.goTo]; split <;> split <;> rfl
@[simp] theorem Warp.retire_core (w : Warp) (n : Nat) : (w.retire n).core = w.core := by simp only [Warp.retire, Warp.advance, Warp.goTo]; split <;> split <;> rfl
@[simp] theorem Warp.retire_part (w : Warp) (n : Nat) : (w.retire n).part = w.part := by simp only [Warp.retire, Warp.advance, Warp.goTo]; split <;> split <;> rfl
@[simp] theorem Warp.retire_slot (w : Warp) (n : Nat) : (w.retire n).slot = w.slot := by simp only [Warp.retire, Warp.advance, Warp.goTo]; split <;> split <;> rfl
@[simp] theorem Warp.retire_ctx (w : Warp) (n : Nat) : (w.retire n).ctx = w.ctx := by simp only [Warp.retire, Warp.advance, Warp.goTo]; split <;> split <;> rfl
@[simp] theorem Warp.retire_pat (w : Warp) (n : Nat) : (w.retire n).pat = w.pat := by simp only [Warp.retire, Warp.advance, Warp.goTo]; split <;> split <;> rfl
@[simp] theorem Warp.retire_stage (w : Warp) (n : Nat) : (w.retire n).stage = w.stage := by simp only [Warp.retire, Warp.advance, Warp.goTo]; split <;> split <;> rfl
@[simp] theorem Warp.retire_group (w : Warp) (n : Nat) : (w.retire n).group = w.group := by simp only [Warp.retire, Warp.advance, Warp.goTo]; split <;> split <;> rfl
@[simp] theorem Warp.retire_index (w : Warp) (n : Nat) : (w.retire n).index = w.index := by simp only [Warp.retire, Warp.advance, Warp.goTo]; split <;> split <;> rfl
@[simp] theorem Warp.retire_gidx (w : Warp) (n : Nat) : (w.retire n).gidx = w.gidx := by simp only [Warp.retire, Warp.advance, Warp.goTo]; split <;> split <;> rfl
@[simp] theorem Warp.retire_queue (w : Warp) (n : Nat) : (w.retire n).queue = w.queue := by simp only [Warp.retire, Warp.advance, Warp.goTo]; split <;> split <;> rfl
@[simp] theorem Warp.retire_seq (w : Warp) (n : Nat) : (w.retire n).seq = w.seq := by simp only [Warp.retire, Warp.advance, Warp.goTo]; split <;> split <;> rfl
@[simp] theorem Warp.retire_spill (w : Warp) (n : Nat) : (w.retire n).spill = w.spill := by simp only [Warp.retire, Warp.advance, Warp.goTo]; split <;> split <;> rfl
@[simp] theorem Warp.retire_livebase (w : Warp) (n : Nat) : (w.retire n).livebase = w.livebase := by simp only [Warp.retire, Warp.advance, Warp.goTo]; split <;> split <;> rfl
@[simp] theorem Warp.retire_signed (w : Warp) (n : Nat) : (w.retire n).signed = w.signed := by simp only [Warp.retire, Warp.advance, Warp.goTo]; split <;> split <;> rfl
@[simp] theorem Warp.retire_frame (w : Warp) (n : Nat) : (w.retire n).frame = w.frame := by simp only [Warp.retire, Warp.advance, Warp.goTo]; split <;> split <;> rfl
@[simp] theorem Warp.retire_lanes (w : Warp) (n : Nat) : (w.retire n).lanes = w.lanes := by simp only [Warp.retire, Warp.advance, Warp.goTo]; split <;> split <;> rfl
@[simp] theorem Warp.retire_recs (w : Warp) (n : Nat) : (w.retire n).recs = w.recs := by simp only [Warp.retire, Warp.advance, Warp.goTo]; split <;> split <;> rfl
@[simp] theorem Warp.retire_ux (w : Warp) (n : Nat) : (w.retire n).ux = w.ux := by simp only [Warp.retire, Warp.advance, Warp.goTo]; split <;> split <;> rfl
@[simp] theorem Warp.retire_active (w : Warp) (n : Nat) : (w.retire n).active = w.active := by simp only [Warp.retire, Warp.advance, Warp.goTo]; split <;> split <;> rfl
@[simp] theorem Warp.retire_gone (w : Warp) (n : Nat) : (w.retire n).gone = w.gone := by simp only [Warp.retire, Warp.advance, Warp.goTo]; split <;> split <;> rfl
@[simp] theorem Warp.retire_pleats (w : Warp) (n : Nat) : (w.retire n).pleats = w.pleats := by simp only [Warp.retire, Warp.advance, Warp.goTo]; split <;> split <;> rfl
@[simp] theorem Warp.retire_calls (w : Warp) (n : Nat) : (w.retire n).calls = w.calls := by simp only [Warp.retire, Warp.advance, Warp.goTo]; split <;> split <;> rfl
@[simp] theorem Warp.retire_pleatsOut (w : Warp) (n : Nat) : (w.retire n).pleatsOut = w.pleatsOut := by simp only [Warp.retire, Warp.advance, Warp.goTo]; split <;> split <;> rfl
@[simp] theorem Warp.retire_callsOut (w : Warp) (n : Nat) : (w.retire n).callsOut = w.callsOut := by simp only [Warp.retire, Warp.advance, Warp.goTo]; split <;> split <;> rfl
@[simp] theorem Warp.retire_ops (w : Warp) (n : Nat) : (w.retire n).ops = w.ops := by simp only [Warp.retire, Warp.advance, Warp.goTo]; split <;> split <;> rfl
@[simp] theorem Warp.retire_fpmode (w : Warp) (n : Nat) : (w.retire n).fpmode = w.fpmode := by simp only [Warp.retire, Warp.advance, Warp.goTo]; split <;> split <;> rfl
@[simp] theorem Warp.retire_fpflags (w : Warp) (n : Nat) : (w.retire n).fpflags = w.fpflags := by simp only [Warp.retire, Warp.advance, Warp.goTo]; split <;> split <;> rfl
@[simp] theorem Warp.retire_wdog (w : Warp) (n : Nat) : (w.retire n).wdog = w.wdog := by simp only [Warp.retire, Warp.advance, Warp.goTo]; split <;> split <;> rfl
@[simp] theorem Warp.retire_wcount (w : Warp) (n : Nat) : (w.retire n).wcount = w.wcount := by simp only [Warp.retire, Warp.advance, Warp.goTo]; split <;> split <;> rfl
@[simp] theorem Warp.retire_mt (w : Warp) (n : Nat) : (w.retire n).mt = w.mt := by simp only [Warp.retire, Warp.advance, Warp.goTo]; split <;> split <;> rfl
@[simp] theorem Warp.retire_h (w : Warp) (n : Nat) : (w.retire n).h = w.h := by simp only [Warp.retire, Warp.advance, Warp.goTo]; split <;> split <;> rfl
@[simp] theorem Warp.retire_tcause (w : Warp) (n : Nat) : (w.retire n).tcause = w.tcause := by simp only [Warp.retire, Warp.advance, Warp.goTo]; split <;> split <;> rfl
@[simp] theorem Warp.retire_tpc (w : Warp) (n : Nat) : (w.retire n).tpc = w.tpc := by simp only [Warp.retire, Warp.advance, Warp.goTo]; split <;> split <;> rfl
@[simp] theorem Warp.retire_tnext (w : Warp) (n : Nat) : (w.retire n).tnext = w.tnext := by simp only [Warp.retire, Warp.advance, Warp.goTo]; split <;> split <;> rfl
@[simp] theorem Warp.retire_tmask (w : Warp) (n : Nat) : (w.retire n).tmask = w.tmask := by simp only [Warp.retire, Warp.advance, Warp.goTo]; split <;> split <;> rfl
@[simp] theorem Warp.retire_tinfo (w : Warp) (n : Nat) : (w.retire n).tinfo = w.tinfo := by simp only [Warp.retire, Warp.advance, Warp.goTo]; split <;> split <;> rfl
@[simp] theorem Warp.retire_hret (w : Warp) (n : Nat) : (w.retire n).hret = w.hret := by simp only [Warp.retire, Warp.advance, Warp.goTo]; split <;> split <;> rfl
@[simp] theorem Warp.retire_shadow (w : Warp) (n : Nat) : (w.retire n).shadow = w.shadow := by simp only [Warp.retire, Warp.advance, Warp.goTo]; split <;> split <;> rfl
@[simp] theorem Warp.retire_region (w : Warp) (n : Nat) : (w.retire n).region = w.region := by simp only [Warp.retire, Warp.advance, Warp.goTo]; split <;> split <;> rfl
@[simp] theorem Warp.retire_regionPc (w : Warp) (n : Nat) : (w.retire n).regionPc = w.regionPc := by simp only [Warp.retire, Warp.advance, Warp.goTo]; split <;> split <;> rfl
@[simp] theorem Warp.retire_reports (w : Warp) (n : Nat) : (w.retire n).reports = w.reports := by simp only [Warp.retire, Warp.advance, Warp.goTo]; split <;> split <;> rfl
@[simp] theorem Warp.retire_regs (w : Warp) (n : Nat) : (w.retire n).regs = w.regs := by simp only [Warp.retire, Warp.advance, Warp.goTo]; split <;> split <;> rfl
@[simp] theorem Warp.retire_buf (w : Warp) (n : Nat) : (w.retire n).buf = w.buf := by simp only [Warp.retire, Warp.advance, Warp.goTo]; split <;> split <;> rfl
@[simp] theorem Warp.retire_wake (w : Warp) (n : Nat) : (w.retire n).wake = w.wake := by simp only [Warp.retire, Warp.advance, Warp.goTo]; split <;> split <;> rfl
@[simp] theorem Warp.retire_reissue (w : Warp) (n : Nat) : (w.retire n).reissue = w.reissue := by simp only [Warp.retire, Warp.advance, Warp.goTo]; split <;> split <;> rfl
@[simp] theorem Warp.retire_replay (w : Warp) (n : Nat) : (w.retire n).replay = w.replay := by simp only [Warp.retire, Warp.advance, Warp.goTo]; split <;> split <;> rfl
@[simp] theorem Warp.retire_stood (w : Warp) (n : Nat) : (w.retire n).stood = w.stood := by simp only [Warp.retire, Warp.advance, Warp.goTo]; split <;> split <;> rfl
@[simp] theorem Warp.retire_behind (w : Warp) (n : Nat) : (w.retire n).behind = w.behind := by simp only [Warp.retire, Warp.advance, Warp.goTo]; split <;> split <;> rfl
@[simp] theorem Warp.retire_waited (w : Warp) (n : Nat) : (w.retire n).waited = w.waited := by simp only [Warp.retire, Warp.advance, Warp.goTo]; split <;> split <;> rfl
@[simp] theorem Warp.retire_homeCore (w : Warp) (n : Nat) : (w.retire n).homeCore = w.homeCore := by simp only [Warp.retire, Warp.advance, Warp.goTo]; split <;> split <;> rfl
@[simp] theorem Warp.retire_stalled (w : Warp) (n : Nat) : (w.retire n).stalled = w.stalled := by simp only [Warp.retire, Warp.advance, Warp.goTo]; split <;> split <;> rfl

/-! ### `Warp.retireEvent` -/

@[simp] theorem Warp.retireEvent_id (w : Warp) (n k : Nat) : (w.retireEvent n k).id = w.id := by simp only [Warp.retireEvent, Warp.advance, Warp.goTo]; split <;> split <;> rfl
@[simp] theorem Warp.retireEvent_status (w : Warp) (n k : Nat) : (w.retireEvent n k).status = w.status := by simp only [Warp.retireEvent, Warp.advance, Warp.goTo]; split <;> split <;> rfl
@[simp] theorem Warp.retireEvent_die (w : Warp) (n k : Nat) : (w.retireEvent n k).die = w.die := by simp only [Warp.retireEvent, Warp.advance, Warp.goTo]; split <;> split <;> rfl
@[simp] theorem Warp.retireEvent_core (w : Warp) (n k : Nat) : (w.retireEvent n k).core = w.core := by simp only [Warp.retireEvent, Warp.advance, Warp.goTo]; split <;> split <;> rfl
@[simp] theorem Warp.retireEvent_part (w : Warp) (n k : Nat) : (w.retireEvent n k).part = w.part := by simp only [Warp.retireEvent, Warp.advance, Warp.goTo]; split <;> split <;> rfl
@[simp] theorem Warp.retireEvent_slot (w : Warp) (n k : Nat) : (w.retireEvent n k).slot = w.slot := by simp only [Warp.retireEvent, Warp.advance, Warp.goTo]; split <;> split <;> rfl
@[simp] theorem Warp.retireEvent_ctx (w : Warp) (n k : Nat) : (w.retireEvent n k).ctx = w.ctx := by simp only [Warp.retireEvent, Warp.advance, Warp.goTo]; split <;> split <;> rfl
@[simp] theorem Warp.retireEvent_pat (w : Warp) (n k : Nat) : (w.retireEvent n k).pat = w.pat := by simp only [Warp.retireEvent, Warp.advance, Warp.goTo]; split <;> split <;> rfl
@[simp] theorem Warp.retireEvent_stage (w : Warp) (n k : Nat) : (w.retireEvent n k).stage = w.stage := by simp only [Warp.retireEvent, Warp.advance, Warp.goTo]; split <;> split <;> rfl
@[simp] theorem Warp.retireEvent_group (w : Warp) (n k : Nat) : (w.retireEvent n k).group = w.group := by simp only [Warp.retireEvent, Warp.advance, Warp.goTo]; split <;> split <;> rfl
@[simp] theorem Warp.retireEvent_index (w : Warp) (n k : Nat) : (w.retireEvent n k).index = w.index := by simp only [Warp.retireEvent, Warp.advance, Warp.goTo]; split <;> split <;> rfl
@[simp] theorem Warp.retireEvent_gidx (w : Warp) (n k : Nat) : (w.retireEvent n k).gidx = w.gidx := by simp only [Warp.retireEvent, Warp.advance, Warp.goTo]; split <;> split <;> rfl
@[simp] theorem Warp.retireEvent_queue (w : Warp) (n k : Nat) : (w.retireEvent n k).queue = w.queue := by simp only [Warp.retireEvent, Warp.advance, Warp.goTo]; split <;> split <;> rfl
@[simp] theorem Warp.retireEvent_seq (w : Warp) (n k : Nat) : (w.retireEvent n k).seq = w.seq := by simp only [Warp.retireEvent, Warp.advance, Warp.goTo]; split <;> split <;> rfl
@[simp] theorem Warp.retireEvent_spill (w : Warp) (n k : Nat) : (w.retireEvent n k).spill = w.spill := by simp only [Warp.retireEvent, Warp.advance, Warp.goTo]; split <;> split <;> rfl
@[simp] theorem Warp.retireEvent_livebase (w : Warp) (n k : Nat) : (w.retireEvent n k).livebase = w.livebase := by simp only [Warp.retireEvent, Warp.advance, Warp.goTo]; split <;> split <;> rfl
@[simp] theorem Warp.retireEvent_signed (w : Warp) (n k : Nat) : (w.retireEvent n k).signed = w.signed := by simp only [Warp.retireEvent, Warp.advance, Warp.goTo]; split <;> split <;> rfl
@[simp] theorem Warp.retireEvent_frame (w : Warp) (n k : Nat) : (w.retireEvent n k).frame = w.frame := by simp only [Warp.retireEvent, Warp.advance, Warp.goTo]; split <;> split <;> rfl
@[simp] theorem Warp.retireEvent_lanes (w : Warp) (n k : Nat) : (w.retireEvent n k).lanes = w.lanes := by simp only [Warp.retireEvent, Warp.advance, Warp.goTo]; split <;> split <;> rfl
@[simp] theorem Warp.retireEvent_recs (w : Warp) (n k : Nat) : (w.retireEvent n k).recs = w.recs := by simp only [Warp.retireEvent, Warp.advance, Warp.goTo]; split <;> split <;> rfl
@[simp] theorem Warp.retireEvent_ux (w : Warp) (n k : Nat) : (w.retireEvent n k).ux = w.ux := by simp only [Warp.retireEvent, Warp.advance, Warp.goTo]; split <;> split <;> rfl
@[simp] theorem Warp.retireEvent_active (w : Warp) (n k : Nat) : (w.retireEvent n k).active = w.active := by simp only [Warp.retireEvent, Warp.advance, Warp.goTo]; split <;> split <;> rfl
@[simp] theorem Warp.retireEvent_gone (w : Warp) (n k : Nat) : (w.retireEvent n k).gone = w.gone := by simp only [Warp.retireEvent, Warp.advance, Warp.goTo]; split <;> split <;> rfl
@[simp] theorem Warp.retireEvent_pleats (w : Warp) (n k : Nat) : (w.retireEvent n k).pleats = w.pleats := by simp only [Warp.retireEvent, Warp.advance, Warp.goTo]; split <;> split <;> rfl
@[simp] theorem Warp.retireEvent_calls (w : Warp) (n k : Nat) : (w.retireEvent n k).calls = w.calls := by simp only [Warp.retireEvent, Warp.advance, Warp.goTo]; split <;> split <;> rfl
@[simp] theorem Warp.retireEvent_pleatsOut (w : Warp) (n k : Nat) : (w.retireEvent n k).pleatsOut = w.pleatsOut := by simp only [Warp.retireEvent, Warp.advance, Warp.goTo]; split <;> split <;> rfl
@[simp] theorem Warp.retireEvent_callsOut (w : Warp) (n k : Nat) : (w.retireEvent n k).callsOut = w.callsOut := by simp only [Warp.retireEvent, Warp.advance, Warp.goTo]; split <;> split <;> rfl
@[simp] theorem Warp.retireEvent_ops (w : Warp) (n k : Nat) : (w.retireEvent n k).ops = w.ops := by simp only [Warp.retireEvent, Warp.advance, Warp.goTo]; split <;> split <;> rfl
@[simp] theorem Warp.retireEvent_fpmode (w : Warp) (n k : Nat) : (w.retireEvent n k).fpmode = w.fpmode := by simp only [Warp.retireEvent, Warp.advance, Warp.goTo]; split <;> split <;> rfl
@[simp] theorem Warp.retireEvent_fpflags (w : Warp) (n k : Nat) : (w.retireEvent n k).fpflags = w.fpflags := by simp only [Warp.retireEvent, Warp.advance, Warp.goTo]; split <;> split <;> rfl
@[simp] theorem Warp.retireEvent_wdog (w : Warp) (n k : Nat) : (w.retireEvent n k).wdog = w.wdog := by simp only [Warp.retireEvent, Warp.advance, Warp.goTo]; split <;> split <;> rfl
@[simp] theorem Warp.retireEvent_wcount (w : Warp) (n k : Nat) : (w.retireEvent n k).wcount = w.wcount := by simp only [Warp.retireEvent, Warp.advance, Warp.goTo]; split <;> split <;> rfl
@[simp] theorem Warp.retireEvent_mt (w : Warp) (n k : Nat) : (w.retireEvent n k).mt = w.mt := by simp only [Warp.retireEvent, Warp.advance, Warp.goTo]; split <;> split <;> rfl
@[simp] theorem Warp.retireEvent_h (w : Warp) (n k : Nat) : (w.retireEvent n k).h = w.h := by simp only [Warp.retireEvent, Warp.advance, Warp.goTo]; split <;> split <;> rfl
@[simp] theorem Warp.retireEvent_tcause (w : Warp) (n k : Nat) : (w.retireEvent n k).tcause = w.tcause := by simp only [Warp.retireEvent, Warp.advance, Warp.goTo]; split <;> split <;> rfl
@[simp] theorem Warp.retireEvent_tpc (w : Warp) (n k : Nat) : (w.retireEvent n k).tpc = w.tpc := by simp only [Warp.retireEvent, Warp.advance, Warp.goTo]; split <;> split <;> rfl
@[simp] theorem Warp.retireEvent_tnext (w : Warp) (n k : Nat) : (w.retireEvent n k).tnext = w.tnext := by simp only [Warp.retireEvent, Warp.advance, Warp.goTo]; split <;> split <;> rfl
@[simp] theorem Warp.retireEvent_tmask (w : Warp) (n k : Nat) : (w.retireEvent n k).tmask = w.tmask := by simp only [Warp.retireEvent, Warp.advance, Warp.goTo]; split <;> split <;> rfl
@[simp] theorem Warp.retireEvent_tinfo (w : Warp) (n k : Nat) : (w.retireEvent n k).tinfo = w.tinfo := by simp only [Warp.retireEvent, Warp.advance, Warp.goTo]; split <;> split <;> rfl
@[simp] theorem Warp.retireEvent_hret (w : Warp) (n k : Nat) : (w.retireEvent n k).hret = w.hret := by simp only [Warp.retireEvent, Warp.advance, Warp.goTo]; split <;> split <;> rfl
@[simp] theorem Warp.retireEvent_shadow (w : Warp) (n k : Nat) : (w.retireEvent n k).shadow = w.shadow := by simp only [Warp.retireEvent, Warp.advance, Warp.goTo]; split <;> split <;> rfl
@[simp] theorem Warp.retireEvent_region (w : Warp) (n k : Nat) : (w.retireEvent n k).region = w.region := by simp only [Warp.retireEvent, Warp.advance, Warp.goTo]; split <;> split <;> rfl
@[simp] theorem Warp.retireEvent_regionPc (w : Warp) (n k : Nat) : (w.retireEvent n k).regionPc = w.regionPc := by simp only [Warp.retireEvent, Warp.advance, Warp.goTo]; split <;> split <;> rfl
@[simp] theorem Warp.retireEvent_reports (w : Warp) (n k : Nat) : (w.retireEvent n k).reports = w.reports := by simp only [Warp.retireEvent, Warp.advance, Warp.goTo]; split <;> split <;> rfl
@[simp] theorem Warp.retireEvent_regs (w : Warp) (n k : Nat) : (w.retireEvent n k).regs = w.regs := by simp only [Warp.retireEvent, Warp.advance, Warp.goTo]; split <;> split <;> rfl
@[simp] theorem Warp.retireEvent_buf (w : Warp) (n k : Nat) : (w.retireEvent n k).buf = w.buf := by simp only [Warp.retireEvent, Warp.advance, Warp.goTo]; split <;> split <;> rfl
@[simp] theorem Warp.retireEvent_wake (w : Warp) (n k : Nat) : (w.retireEvent n k).wake = w.wake := by simp only [Warp.retireEvent, Warp.advance, Warp.goTo]; split <;> split <;> rfl
@[simp] theorem Warp.retireEvent_reissue (w : Warp) (n k : Nat) : (w.retireEvent n k).reissue = w.reissue := by simp only [Warp.retireEvent, Warp.advance, Warp.goTo]; split <;> split <;> rfl
@[simp] theorem Warp.retireEvent_replay (w : Warp) (n k : Nat) : (w.retireEvent n k).replay = w.replay := by simp only [Warp.retireEvent, Warp.advance, Warp.goTo]; split <;> split <;> rfl
@[simp] theorem Warp.retireEvent_stood (w : Warp) (n k : Nat) : (w.retireEvent n k).stood = w.stood := by simp only [Warp.retireEvent, Warp.advance, Warp.goTo]; split <;> split <;> rfl
@[simp] theorem Warp.retireEvent_behind (w : Warp) (n k : Nat) : (w.retireEvent n k).behind = w.behind := by simp only [Warp.retireEvent, Warp.advance, Warp.goTo]; split <;> split <;> rfl
@[simp] theorem Warp.retireEvent_waited (w : Warp) (n k : Nat) : (w.retireEvent n k).waited = w.waited := by simp only [Warp.retireEvent, Warp.advance, Warp.goTo]; split <;> split <;> rfl
@[simp] theorem Warp.retireEvent_homeCore (w : Warp) (n k : Nat) : (w.retireEvent n k).homeCore = w.homeCore := by simp only [Warp.retireEvent, Warp.advance, Warp.goTo]; split <;> split <;> rfl
@[simp] theorem Warp.retireEvent_stalled (w : Warp) (n k : Nat) : (w.retireEvent n k).stalled = w.stalled := by simp only [Warp.retireEvent, Warp.advance, Warp.goTo]; split <;> split <;> rfl

/-! ### `Warp.fillAll` -/

@[simp] theorem Warp.fillAll_id (w : Warp) : (w.fillAll).id = w.id := rfl
@[simp] theorem Warp.fillAll_status (w : Warp) : (w.fillAll).status = w.status := rfl
@[simp] theorem Warp.fillAll_die (w : Warp) : (w.fillAll).die = w.die := rfl
@[simp] theorem Warp.fillAll_core (w : Warp) : (w.fillAll).core = w.core := rfl
@[simp] theorem Warp.fillAll_part (w : Warp) : (w.fillAll).part = w.part := rfl
@[simp] theorem Warp.fillAll_slot (w : Warp) : (w.fillAll).slot = w.slot := rfl
@[simp] theorem Warp.fillAll_ctx (w : Warp) : (w.fillAll).ctx = w.ctx := rfl
@[simp] theorem Warp.fillAll_pat (w : Warp) : (w.fillAll).pat = w.pat := rfl
@[simp] theorem Warp.fillAll_stage (w : Warp) : (w.fillAll).stage = w.stage := rfl
@[simp] theorem Warp.fillAll_group (w : Warp) : (w.fillAll).group = w.group := rfl
@[simp] theorem Warp.fillAll_index (w : Warp) : (w.fillAll).index = w.index := rfl
@[simp] theorem Warp.fillAll_gidx (w : Warp) : (w.fillAll).gidx = w.gidx := rfl
@[simp] theorem Warp.fillAll_queue (w : Warp) : (w.fillAll).queue = w.queue := rfl
@[simp] theorem Warp.fillAll_seq (w : Warp) : (w.fillAll).seq = w.seq := rfl
@[simp] theorem Warp.fillAll_spill (w : Warp) : (w.fillAll).spill = w.spill := rfl
@[simp] theorem Warp.fillAll_livebase (w : Warp) : (w.fillAll).livebase = w.livebase := rfl
@[simp] theorem Warp.fillAll_signed (w : Warp) : (w.fillAll).signed = w.signed := rfl
@[simp] theorem Warp.fillAll_frame (w : Warp) : (w.fillAll).frame = w.frame := rfl
@[simp] theorem Warp.fillAll_recs (w : Warp) : (w.fillAll).recs = w.recs := rfl
@[simp] theorem Warp.fillAll_ux (w : Warp) : (w.fillAll).ux = w.ux := rfl
@[simp] theorem Warp.fillAll_active (w : Warp) : (w.fillAll).active = w.active := rfl
@[simp] theorem Warp.fillAll_gone (w : Warp) : (w.fillAll).gone = w.gone := rfl
@[simp] theorem Warp.fillAll_pleats (w : Warp) : (w.fillAll).pleats = w.pleats := rfl
@[simp] theorem Warp.fillAll_calls (w : Warp) : (w.fillAll).calls = w.calls := rfl
@[simp] theorem Warp.fillAll_pleatsOut (w : Warp) : (w.fillAll).pleatsOut = w.pleatsOut := rfl
@[simp] theorem Warp.fillAll_callsOut (w : Warp) : (w.fillAll).callsOut = w.callsOut := rfl
@[simp] theorem Warp.fillAll_ops (w : Warp) : (w.fillAll).ops = w.ops := rfl
@[simp] theorem Warp.fillAll_sig (w : Warp) : (w.fillAll).sig = w.sig := rfl
@[simp] theorem Warp.fillAll_fpmode (w : Warp) : (w.fillAll).fpmode = w.fpmode := rfl
@[simp] theorem Warp.fillAll_fpflags (w : Warp) : (w.fillAll).fpflags = w.fpflags := rfl
@[simp] theorem Warp.fillAll_wdog (w : Warp) : (w.fillAll).wdog = w.wdog := rfl
@[simp] theorem Warp.fillAll_wcount (w : Warp) : (w.fillAll).wcount = w.wcount := rfl
@[simp] theorem Warp.fillAll_mt (w : Warp) : (w.fillAll).mt = w.mt := rfl
@[simp] theorem Warp.fillAll_h (w : Warp) : (w.fillAll).h = w.h := rfl
@[simp] theorem Warp.fillAll_tcause (w : Warp) : (w.fillAll).tcause = w.tcause := rfl
@[simp] theorem Warp.fillAll_tpc (w : Warp) : (w.fillAll).tpc = w.tpc := rfl
@[simp] theorem Warp.fillAll_tnext (w : Warp) : (w.fillAll).tnext = w.tnext := rfl
@[simp] theorem Warp.fillAll_tmask (w : Warp) : (w.fillAll).tmask = w.tmask := rfl
@[simp] theorem Warp.fillAll_tinfo (w : Warp) : (w.fillAll).tinfo = w.tinfo := rfl
@[simp] theorem Warp.fillAll_hret (w : Warp) : (w.fillAll).hret = w.hret := rfl
@[simp] theorem Warp.fillAll_shadow (w : Warp) : (w.fillAll).shadow = w.shadow := rfl
@[simp] theorem Warp.fillAll_region (w : Warp) : (w.fillAll).region = w.region := rfl
@[simp] theorem Warp.fillAll_regionPc (w : Warp) : (w.fillAll).regionPc = w.regionPc := rfl
@[simp] theorem Warp.fillAll_reports (w : Warp) : (w.fillAll).reports = w.reports := rfl
@[simp] theorem Warp.fillAll_regs (w : Warp) : (w.fillAll).regs = w.regs := rfl
@[simp] theorem Warp.fillAll_base (w : Warp) : (w.fillAll).base = w.base := rfl
@[simp] theorem Warp.fillAll_buf (w : Warp) : (w.fillAll).buf = w.buf := rfl
@[simp] theorem Warp.fillAll_idx (w : Warp) : (w.fillAll).idx = w.idx := rfl
@[simp] theorem Warp.fillAll_phase (w : Warp) : (w.fillAll).phase = w.phase := rfl
@[simp] theorem Warp.fillAll_wake (w : Warp) : (w.fillAll).wake = w.wake := rfl
@[simp] theorem Warp.fillAll_reissue (w : Warp) : (w.fillAll).reissue = w.reissue := rfl
@[simp] theorem Warp.fillAll_replay (w : Warp) : (w.fillAll).replay = w.replay := rfl
@[simp] theorem Warp.fillAll_yielded (w : Warp) : (w.fillAll).yielded = w.yielded := rfl
@[simp] theorem Warp.fillAll_stood (w : Warp) : (w.fillAll).stood = w.stood := rfl
@[simp] theorem Warp.fillAll_behind (w : Warp) : (w.fillAll).behind = w.behind := rfl
@[simp] theorem Warp.fillAll_waited (w : Warp) : (w.fillAll).waited = w.waited := rfl
@[simp] theorem Warp.fillAll_homeCore (w : Warp) : (w.fillAll).homeCore = w.homeCore := rfl
@[simp] theorem Warp.fillAll_stalled (w : Warp) : (w.fillAll).stalled = w.stalled := rfl

/-! ### `Warp.closeRegion` -/

@[simp] theorem Warp.closeRegion_id (w : Warp) : (w.closeRegion).id = w.id := rfl
@[simp] theorem Warp.closeRegion_status (w : Warp) : (w.closeRegion).status = w.status := rfl
@[simp] theorem Warp.closeRegion_die (w : Warp) : (w.closeRegion).die = w.die := rfl
@[simp] theorem Warp.closeRegion_core (w : Warp) : (w.closeRegion).core = w.core := rfl
@[simp] theorem Warp.closeRegion_part (w : Warp) : (w.closeRegion).part = w.part := rfl
@[simp] theorem Warp.closeRegion_slot (w : Warp) : (w.closeRegion).slot = w.slot := rfl
@[simp] theorem Warp.closeRegion_ctx (w : Warp) : (w.closeRegion).ctx = w.ctx := rfl
@[simp] theorem Warp.closeRegion_pat (w : Warp) : (w.closeRegion).pat = w.pat := rfl
@[simp] theorem Warp.closeRegion_stage (w : Warp) : (w.closeRegion).stage = w.stage := rfl
@[simp] theorem Warp.closeRegion_group (w : Warp) : (w.closeRegion).group = w.group := rfl
@[simp] theorem Warp.closeRegion_index (w : Warp) : (w.closeRegion).index = w.index := rfl
@[simp] theorem Warp.closeRegion_gidx (w : Warp) : (w.closeRegion).gidx = w.gidx := rfl
@[simp] theorem Warp.closeRegion_queue (w : Warp) : (w.closeRegion).queue = w.queue := rfl
@[simp] theorem Warp.closeRegion_seq (w : Warp) : (w.closeRegion).seq = w.seq := rfl
@[simp] theorem Warp.closeRegion_spill (w : Warp) : (w.closeRegion).spill = w.spill := rfl
@[simp] theorem Warp.closeRegion_livebase (w : Warp) : (w.closeRegion).livebase = w.livebase := rfl
@[simp] theorem Warp.closeRegion_signed (w : Warp) : (w.closeRegion).signed = w.signed := rfl
@[simp] theorem Warp.closeRegion_frame (w : Warp) : (w.closeRegion).frame = w.frame := rfl
@[simp] theorem Warp.closeRegion_lanes (w : Warp) : (w.closeRegion).lanes = w.lanes := rfl
@[simp] theorem Warp.closeRegion_recs (w : Warp) : (w.closeRegion).recs = w.recs := rfl
@[simp] theorem Warp.closeRegion_ux (w : Warp) : (w.closeRegion).ux = w.ux := rfl
@[simp] theorem Warp.closeRegion_active (w : Warp) : (w.closeRegion).active = w.active := rfl
@[simp] theorem Warp.closeRegion_gone (w : Warp) : (w.closeRegion).gone = w.gone := rfl
@[simp] theorem Warp.closeRegion_pleats (w : Warp) : (w.closeRegion).pleats = w.pleats := rfl
@[simp] theorem Warp.closeRegion_calls (w : Warp) : (w.closeRegion).calls = w.calls := rfl
@[simp] theorem Warp.closeRegion_pleatsOut (w : Warp) : (w.closeRegion).pleatsOut = w.pleatsOut := rfl
@[simp] theorem Warp.closeRegion_callsOut (w : Warp) : (w.closeRegion).callsOut = w.callsOut := rfl
@[simp] theorem Warp.closeRegion_ops (w : Warp) : (w.closeRegion).ops = w.ops := rfl
@[simp] theorem Warp.closeRegion_sig (w : Warp) : (w.closeRegion).sig = w.sig := rfl
@[simp] theorem Warp.closeRegion_fpmode (w : Warp) : (w.closeRegion).fpmode = w.fpmode := rfl
@[simp] theorem Warp.closeRegion_fpflags (w : Warp) : (w.closeRegion).fpflags = w.fpflags := rfl
@[simp] theorem Warp.closeRegion_wdog (w : Warp) : (w.closeRegion).wdog = w.wdog := rfl
@[simp] theorem Warp.closeRegion_wcount (w : Warp) : (w.closeRegion).wcount = w.wcount := rfl
@[simp] theorem Warp.closeRegion_mt (w : Warp) : (w.closeRegion).mt = w.mt := rfl
@[simp] theorem Warp.closeRegion_h (w : Warp) : (w.closeRegion).h = w.h := rfl
@[simp] theorem Warp.closeRegion_tcause (w : Warp) : (w.closeRegion).tcause = w.tcause := rfl
@[simp] theorem Warp.closeRegion_tpc (w : Warp) : (w.closeRegion).tpc = w.tpc := rfl
@[simp] theorem Warp.closeRegion_tnext (w : Warp) : (w.closeRegion).tnext = w.tnext := rfl
@[simp] theorem Warp.closeRegion_tmask (w : Warp) : (w.closeRegion).tmask = w.tmask := rfl
@[simp] theorem Warp.closeRegion_tinfo (w : Warp) : (w.closeRegion).tinfo = w.tinfo := rfl
@[simp] theorem Warp.closeRegion_hret (w : Warp) : (w.closeRegion).hret = w.hret := rfl
@[simp] theorem Warp.closeRegion_shadow (w : Warp) : (w.closeRegion).shadow = w.shadow := rfl
@[simp] theorem Warp.closeRegion_reports (w : Warp) : (w.closeRegion).reports = w.reports := rfl
@[simp] theorem Warp.closeRegion_regs (w : Warp) : (w.closeRegion).regs = w.regs := rfl
@[simp] theorem Warp.closeRegion_base (w : Warp) : (w.closeRegion).base = w.base := rfl
@[simp] theorem Warp.closeRegion_buf (w : Warp) : (w.closeRegion).buf = w.buf := rfl
@[simp] theorem Warp.closeRegion_idx (w : Warp) : (w.closeRegion).idx = w.idx := rfl
@[simp] theorem Warp.closeRegion_phase (w : Warp) : (w.closeRegion).phase = w.phase := rfl
@[simp] theorem Warp.closeRegion_wake (w : Warp) : (w.closeRegion).wake = w.wake := rfl
@[simp] theorem Warp.closeRegion_reissue (w : Warp) : (w.closeRegion).reissue = w.reissue := rfl
@[simp] theorem Warp.closeRegion_replay (w : Warp) : (w.closeRegion).replay = w.replay := rfl
@[simp] theorem Warp.closeRegion_yielded (w : Warp) : (w.closeRegion).yielded = w.yielded := rfl
@[simp] theorem Warp.closeRegion_stood (w : Warp) : (w.closeRegion).stood = w.stood := rfl
@[simp] theorem Warp.closeRegion_behind (w : Warp) : (w.closeRegion).behind = w.behind := rfl
@[simp] theorem Warp.closeRegion_waited (w : Warp) : (w.closeRegion).waited = w.waited := rfl
@[simp] theorem Warp.closeRegion_homeCore (w : Warp) : (w.closeRegion).homeCore = w.homeCore := rfl
@[simp] theorem Warp.closeRegion_stalled (w : Warp) : (w.closeRegion).stalled = w.stalled := rfl

/-! ### `Warp.report_` -/

@[simp] theorem Warp.report_id (w : Warp) (t : Trap) (p n : Word) : (w.report_ t p n).id = w.id := rfl
@[simp] theorem Warp.report_status (w : Warp) (t : Trap) (p n : Word) : (w.report_ t p n).status = w.status := rfl
@[simp] theorem Warp.report_die (w : Warp) (t : Trap) (p n : Word) : (w.report_ t p n).die = w.die := rfl
@[simp] theorem Warp.report_core (w : Warp) (t : Trap) (p n : Word) : (w.report_ t p n).core = w.core := rfl
@[simp] theorem Warp.report_part (w : Warp) (t : Trap) (p n : Word) : (w.report_ t p n).part = w.part := rfl
@[simp] theorem Warp.report_slot (w : Warp) (t : Trap) (p n : Word) : (w.report_ t p n).slot = w.slot := rfl
@[simp] theorem Warp.report_ctx (w : Warp) (t : Trap) (p n : Word) : (w.report_ t p n).ctx = w.ctx := rfl
@[simp] theorem Warp.report_pat (w : Warp) (t : Trap) (p n : Word) : (w.report_ t p n).pat = w.pat := rfl
@[simp] theorem Warp.report_stage (w : Warp) (t : Trap) (p n : Word) : (w.report_ t p n).stage = w.stage := rfl
@[simp] theorem Warp.report_group (w : Warp) (t : Trap) (p n : Word) : (w.report_ t p n).group = w.group := rfl
@[simp] theorem Warp.report_index (w : Warp) (t : Trap) (p n : Word) : (w.report_ t p n).index = w.index := rfl
@[simp] theorem Warp.report_gidx (w : Warp) (t : Trap) (p n : Word) : (w.report_ t p n).gidx = w.gidx := rfl
@[simp] theorem Warp.report_queue (w : Warp) (t : Trap) (p n : Word) : (w.report_ t p n).queue = w.queue := rfl
@[simp] theorem Warp.report_seq (w : Warp) (t : Trap) (p n : Word) : (w.report_ t p n).seq = w.seq := rfl
@[simp] theorem Warp.report_spill (w : Warp) (t : Trap) (p n : Word) : (w.report_ t p n).spill = w.spill := rfl
@[simp] theorem Warp.report_livebase (w : Warp) (t : Trap) (p n : Word) : (w.report_ t p n).livebase = w.livebase := rfl
@[simp] theorem Warp.report_signed (w : Warp) (t : Trap) (p n : Word) : (w.report_ t p n).signed = w.signed := rfl
@[simp] theorem Warp.report_frame (w : Warp) (t : Trap) (p n : Word) : (w.report_ t p n).frame = w.frame := rfl
@[simp] theorem Warp.report_lanes (w : Warp) (t : Trap) (p n : Word) : (w.report_ t p n).lanes = w.lanes := rfl
@[simp] theorem Warp.report_recs (w : Warp) (t : Trap) (p n : Word) : (w.report_ t p n).recs = w.recs := rfl
@[simp] theorem Warp.report_ux (w : Warp) (t : Trap) (p n : Word) : (w.report_ t p n).ux = w.ux := rfl
@[simp] theorem Warp.report_active (w : Warp) (t : Trap) (p n : Word) : (w.report_ t p n).active = w.active := rfl
@[simp] theorem Warp.report_gone (w : Warp) (t : Trap) (p n : Word) : (w.report_ t p n).gone = w.gone := rfl
@[simp] theorem Warp.report_pleats (w : Warp) (t : Trap) (p n : Word) : (w.report_ t p n).pleats = w.pleats := rfl
@[simp] theorem Warp.report_calls (w : Warp) (t : Trap) (p n : Word) : (w.report_ t p n).calls = w.calls := rfl
@[simp] theorem Warp.report_pleatsOut (w : Warp) (t : Trap) (p n : Word) : (w.report_ t p n).pleatsOut = w.pleatsOut := rfl
@[simp] theorem Warp.report_callsOut (w : Warp) (t : Trap) (p n : Word) : (w.report_ t p n).callsOut = w.callsOut := rfl
@[simp] theorem Warp.report_ops (w : Warp) (t : Trap) (p n : Word) : (w.report_ t p n).ops = w.ops := rfl
@[simp] theorem Warp.report_sig (w : Warp) (t : Trap) (p n : Word) : (w.report_ t p n).sig = w.sig := rfl
@[simp] theorem Warp.report_fpmode (w : Warp) (t : Trap) (p n : Word) : (w.report_ t p n).fpmode = w.fpmode := rfl
@[simp] theorem Warp.report_fpflags (w : Warp) (t : Trap) (p n : Word) : (w.report_ t p n).fpflags = w.fpflags := rfl
@[simp] theorem Warp.report_wdog (w : Warp) (t : Trap) (p n : Word) : (w.report_ t p n).wdog = w.wdog := rfl
@[simp] theorem Warp.report_wcount (w : Warp) (t : Trap) (p n : Word) : (w.report_ t p n).wcount = w.wcount := rfl
@[simp] theorem Warp.report_mt (w : Warp) (t : Trap) (p n : Word) : (w.report_ t p n).mt = w.mt := rfl
@[simp] theorem Warp.report_h (w : Warp) (t : Trap) (p n : Word) : (w.report_ t p n).h = w.h := rfl
@[simp] theorem Warp.report_hret (w : Warp) (t : Trap) (p n : Word) : (w.report_ t p n).hret = w.hret := rfl
@[simp] theorem Warp.report_shadow (w : Warp) (t : Trap) (p n : Word) : (w.report_ t p n).shadow = w.shadow := rfl
@[simp] theorem Warp.report_region (w : Warp) (t : Trap) (p n : Word) : (w.report_ t p n).region = w.region := rfl
@[simp] theorem Warp.report_regionPc (w : Warp) (t : Trap) (p n : Word) : (w.report_ t p n).regionPc = w.regionPc := rfl
@[simp] theorem Warp.report_reports (w : Warp) (t : Trap) (p n : Word) : (w.report_ t p n).reports = w.reports := rfl
@[simp] theorem Warp.report_regs (w : Warp) (t : Trap) (p n : Word) : (w.report_ t p n).regs = w.regs := rfl
@[simp] theorem Warp.report_base (w : Warp) (t : Trap) (p n : Word) : (w.report_ t p n).base = w.base := rfl
@[simp] theorem Warp.report_buf (w : Warp) (t : Trap) (p n : Word) : (w.report_ t p n).buf = w.buf := rfl
@[simp] theorem Warp.report_idx (w : Warp) (t : Trap) (p n : Word) : (w.report_ t p n).idx = w.idx := rfl
@[simp] theorem Warp.report_phase (w : Warp) (t : Trap) (p n : Word) : (w.report_ t p n).phase = w.phase := rfl
@[simp] theorem Warp.report_wake (w : Warp) (t : Trap) (p n : Word) : (w.report_ t p n).wake = w.wake := rfl
@[simp] theorem Warp.report_reissue (w : Warp) (t : Trap) (p n : Word) : (w.report_ t p n).reissue = w.reissue := rfl
@[simp] theorem Warp.report_replay (w : Warp) (t : Trap) (p n : Word) : (w.report_ t p n).replay = w.replay := rfl
@[simp] theorem Warp.report_yielded (w : Warp) (t : Trap) (p n : Word) : (w.report_ t p n).yielded = w.yielded := rfl
@[simp] theorem Warp.report_stood (w : Warp) (t : Trap) (p n : Word) : (w.report_ t p n).stood = w.stood := rfl
@[simp] theorem Warp.report_behind (w : Warp) (t : Trap) (p n : Word) : (w.report_ t p n).behind = w.behind := rfl
@[simp] theorem Warp.report_waited (w : Warp) (t : Trap) (p n : Word) : (w.report_ t p n).waited = w.waited := rfl
@[simp] theorem Warp.report_homeCore (w : Warp) (t : Trap) (p n : Word) : (w.report_ t p n).homeCore = w.homeCore := rfl
@[simp] theorem Warp.report_stalled (w : Warp) (t : Trap) (p n : Word) : (w.report_ t p n).stalled = w.stalled := rfl

/-! ### `Warp.setTop` -/

@[simp] theorem Warp.setTop_id (w : Warp) (e : Pleat) : (w.setTop e).id = w.id := rfl
@[simp] theorem Warp.setTop_status (w : Warp) (e : Pleat) : (w.setTop e).status = w.status := rfl
@[simp] theorem Warp.setTop_die (w : Warp) (e : Pleat) : (w.setTop e).die = w.die := rfl
@[simp] theorem Warp.setTop_core (w : Warp) (e : Pleat) : (w.setTop e).core = w.core := rfl
@[simp] theorem Warp.setTop_part (w : Warp) (e : Pleat) : (w.setTop e).part = w.part := rfl
@[simp] theorem Warp.setTop_slot (w : Warp) (e : Pleat) : (w.setTop e).slot = w.slot := rfl
@[simp] theorem Warp.setTop_ctx (w : Warp) (e : Pleat) : (w.setTop e).ctx = w.ctx := rfl
@[simp] theorem Warp.setTop_pat (w : Warp) (e : Pleat) : (w.setTop e).pat = w.pat := rfl
@[simp] theorem Warp.setTop_stage (w : Warp) (e : Pleat) : (w.setTop e).stage = w.stage := rfl
@[simp] theorem Warp.setTop_group (w : Warp) (e : Pleat) : (w.setTop e).group = w.group := rfl
@[simp] theorem Warp.setTop_index (w : Warp) (e : Pleat) : (w.setTop e).index = w.index := rfl
@[simp] theorem Warp.setTop_gidx (w : Warp) (e : Pleat) : (w.setTop e).gidx = w.gidx := rfl
@[simp] theorem Warp.setTop_queue (w : Warp) (e : Pleat) : (w.setTop e).queue = w.queue := rfl
@[simp] theorem Warp.setTop_seq (w : Warp) (e : Pleat) : (w.setTop e).seq = w.seq := rfl
@[simp] theorem Warp.setTop_spill (w : Warp) (e : Pleat) : (w.setTop e).spill = w.spill := rfl
@[simp] theorem Warp.setTop_livebase (w : Warp) (e : Pleat) : (w.setTop e).livebase = w.livebase := rfl
@[simp] theorem Warp.setTop_signed (w : Warp) (e : Pleat) : (w.setTop e).signed = w.signed := rfl
@[simp] theorem Warp.setTop_frame (w : Warp) (e : Pleat) : (w.setTop e).frame = w.frame := rfl
@[simp] theorem Warp.setTop_lanes (w : Warp) (e : Pleat) : (w.setTop e).lanes = w.lanes := rfl
@[simp] theorem Warp.setTop_recs (w : Warp) (e : Pleat) : (w.setTop e).recs = w.recs := rfl
@[simp] theorem Warp.setTop_ux (w : Warp) (e : Pleat) : (w.setTop e).ux = w.ux := rfl
@[simp] theorem Warp.setTop_active (w : Warp) (e : Pleat) : (w.setTop e).active = w.active := rfl
@[simp] theorem Warp.setTop_gone (w : Warp) (e : Pleat) : (w.setTop e).gone = w.gone := rfl
@[simp] theorem Warp.setTop_calls (w : Warp) (e : Pleat) : (w.setTop e).calls = w.calls := rfl
@[simp] theorem Warp.setTop_pleatsOut (w : Warp) (e : Pleat) : (w.setTop e).pleatsOut = w.pleatsOut := rfl
@[simp] theorem Warp.setTop_callsOut (w : Warp) (e : Pleat) : (w.setTop e).callsOut = w.callsOut := rfl
@[simp] theorem Warp.setTop_ops (w : Warp) (e : Pleat) : (w.setTop e).ops = w.ops := rfl
@[simp] theorem Warp.setTop_sig (w : Warp) (e : Pleat) : (w.setTop e).sig = w.sig := rfl
@[simp] theorem Warp.setTop_fpmode (w : Warp) (e : Pleat) : (w.setTop e).fpmode = w.fpmode := rfl
@[simp] theorem Warp.setTop_fpflags (w : Warp) (e : Pleat) : (w.setTop e).fpflags = w.fpflags := rfl
@[simp] theorem Warp.setTop_wdog (w : Warp) (e : Pleat) : (w.setTop e).wdog = w.wdog := rfl
@[simp] theorem Warp.setTop_wcount (w : Warp) (e : Pleat) : (w.setTop e).wcount = w.wcount := rfl
@[simp] theorem Warp.setTop_mt (w : Warp) (e : Pleat) : (w.setTop e).mt = w.mt := rfl
@[simp] theorem Warp.setTop_h (w : Warp) (e : Pleat) : (w.setTop e).h = w.h := rfl
@[simp] theorem Warp.setTop_tcause (w : Warp) (e : Pleat) : (w.setTop e).tcause = w.tcause := rfl
@[simp] theorem Warp.setTop_tpc (w : Warp) (e : Pleat) : (w.setTop e).tpc = w.tpc := rfl
@[simp] theorem Warp.setTop_tnext (w : Warp) (e : Pleat) : (w.setTop e).tnext = w.tnext := rfl
@[simp] theorem Warp.setTop_tmask (w : Warp) (e : Pleat) : (w.setTop e).tmask = w.tmask := rfl
@[simp] theorem Warp.setTop_tinfo (w : Warp) (e : Pleat) : (w.setTop e).tinfo = w.tinfo := rfl
@[simp] theorem Warp.setTop_hret (w : Warp) (e : Pleat) : (w.setTop e).hret = w.hret := rfl
@[simp] theorem Warp.setTop_shadow (w : Warp) (e : Pleat) : (w.setTop e).shadow = w.shadow := rfl
@[simp] theorem Warp.setTop_region (w : Warp) (e : Pleat) : (w.setTop e).region = w.region := rfl
@[simp] theorem Warp.setTop_regionPc (w : Warp) (e : Pleat) : (w.setTop e).regionPc = w.regionPc := rfl
@[simp] theorem Warp.setTop_reports (w : Warp) (e : Pleat) : (w.setTop e).reports = w.reports := rfl
@[simp] theorem Warp.setTop_regs (w : Warp) (e : Pleat) : (w.setTop e).regs = w.regs := rfl
@[simp] theorem Warp.setTop_base (w : Warp) (e : Pleat) : (w.setTop e).base = w.base := rfl
@[simp] theorem Warp.setTop_buf (w : Warp) (e : Pleat) : (w.setTop e).buf = w.buf := rfl
@[simp] theorem Warp.setTop_idx (w : Warp) (e : Pleat) : (w.setTop e).idx = w.idx := rfl
@[simp] theorem Warp.setTop_phase (w : Warp) (e : Pleat) : (w.setTop e).phase = w.phase := rfl
@[simp] theorem Warp.setTop_wake (w : Warp) (e : Pleat) : (w.setTop e).wake = w.wake := rfl
@[simp] theorem Warp.setTop_reissue (w : Warp) (e : Pleat) : (w.setTop e).reissue = w.reissue := rfl
@[simp] theorem Warp.setTop_replay (w : Warp) (e : Pleat) : (w.setTop e).replay = w.replay := rfl
@[simp] theorem Warp.setTop_yielded (w : Warp) (e : Pleat) : (w.setTop e).yielded = w.yielded := rfl
@[simp] theorem Warp.setTop_stood (w : Warp) (e : Pleat) : (w.setTop e).stood = w.stood := rfl
@[simp] theorem Warp.setTop_behind (w : Warp) (e : Pleat) : (w.setTop e).behind = w.behind := rfl
@[simp] theorem Warp.setTop_waited (w : Warp) (e : Pleat) : (w.setTop e).waited = w.waited := rfl
@[simp] theorem Warp.setTop_homeCore (w : Warp) (e : Pleat) : (w.setTop e).homeCore = w.homeCore := rfl
@[simp] theorem Warp.setTop_stalled (w : Warp) (e : Pleat) : (w.setTop e).stalled = w.stalled := rfl

/-! ### `Warp.pop` -/

@[simp] theorem Warp.pop_id (w : Warp) : (w.pop).id = w.id := rfl
@[simp] theorem Warp.pop_status (w : Warp) : (w.pop).status = w.status := rfl
@[simp] theorem Warp.pop_die (w : Warp) : (w.pop).die = w.die := rfl
@[simp] theorem Warp.pop_core (w : Warp) : (w.pop).core = w.core := rfl
@[simp] theorem Warp.pop_part (w : Warp) : (w.pop).part = w.part := rfl
@[simp] theorem Warp.pop_slot (w : Warp) : (w.pop).slot = w.slot := rfl
@[simp] theorem Warp.pop_ctx (w : Warp) : (w.pop).ctx = w.ctx := rfl
@[simp] theorem Warp.pop_pat (w : Warp) : (w.pop).pat = w.pat := rfl
@[simp] theorem Warp.pop_stage (w : Warp) : (w.pop).stage = w.stage := rfl
@[simp] theorem Warp.pop_group (w : Warp) : (w.pop).group = w.group := rfl
@[simp] theorem Warp.pop_index (w : Warp) : (w.pop).index = w.index := rfl
@[simp] theorem Warp.pop_gidx (w : Warp) : (w.pop).gidx = w.gidx := rfl
@[simp] theorem Warp.pop_queue (w : Warp) : (w.pop).queue = w.queue := rfl
@[simp] theorem Warp.pop_seq (w : Warp) : (w.pop).seq = w.seq := rfl
@[simp] theorem Warp.pop_spill (w : Warp) : (w.pop).spill = w.spill := rfl
@[simp] theorem Warp.pop_livebase (w : Warp) : (w.pop).livebase = w.livebase := rfl
@[simp] theorem Warp.pop_signed (w : Warp) : (w.pop).signed = w.signed := rfl
@[simp] theorem Warp.pop_frame (w : Warp) : (w.pop).frame = w.frame := rfl
@[simp] theorem Warp.pop_lanes (w : Warp) : (w.pop).lanes = w.lanes := rfl
@[simp] theorem Warp.pop_recs (w : Warp) : (w.pop).recs = w.recs := rfl
@[simp] theorem Warp.pop_ux (w : Warp) : (w.pop).ux = w.ux := rfl
@[simp] theorem Warp.pop_active (w : Warp) : (w.pop).active = w.active := rfl
@[simp] theorem Warp.pop_gone (w : Warp) : (w.pop).gone = w.gone := rfl
@[simp] theorem Warp.pop_calls (w : Warp) : (w.pop).calls = w.calls := rfl
@[simp] theorem Warp.pop_pleatsOut (w : Warp) : (w.pop).pleatsOut = w.pleatsOut := rfl
@[simp] theorem Warp.pop_callsOut (w : Warp) : (w.pop).callsOut = w.callsOut := rfl
@[simp] theorem Warp.pop_ops (w : Warp) : (w.pop).ops = w.ops := rfl
@[simp] theorem Warp.pop_sig (w : Warp) : (w.pop).sig = w.sig := rfl
@[simp] theorem Warp.pop_fpmode (w : Warp) : (w.pop).fpmode = w.fpmode := rfl
@[simp] theorem Warp.pop_fpflags (w : Warp) : (w.pop).fpflags = w.fpflags := rfl
@[simp] theorem Warp.pop_wdog (w : Warp) : (w.pop).wdog = w.wdog := rfl
@[simp] theorem Warp.pop_mt (w : Warp) : (w.pop).mt = w.mt := rfl
@[simp] theorem Warp.pop_h (w : Warp) : (w.pop).h = w.h := rfl
@[simp] theorem Warp.pop_tcause (w : Warp) : (w.pop).tcause = w.tcause := rfl
@[simp] theorem Warp.pop_tpc (w : Warp) : (w.pop).tpc = w.tpc := rfl
@[simp] theorem Warp.pop_tnext (w : Warp) : (w.pop).tnext = w.tnext := rfl
@[simp] theorem Warp.pop_tmask (w : Warp) : (w.pop).tmask = w.tmask := rfl
@[simp] theorem Warp.pop_tinfo (w : Warp) : (w.pop).tinfo = w.tinfo := rfl
@[simp] theorem Warp.pop_hret (w : Warp) : (w.pop).hret = w.hret := rfl
@[simp] theorem Warp.pop_shadow (w : Warp) : (w.pop).shadow = w.shadow := rfl
@[simp] theorem Warp.pop_region (w : Warp) : (w.pop).region = w.region := rfl
@[simp] theorem Warp.pop_regionPc (w : Warp) : (w.pop).regionPc = w.regionPc := rfl
@[simp] theorem Warp.pop_reports (w : Warp) : (w.pop).reports = w.reports := rfl
@[simp] theorem Warp.pop_regs (w : Warp) : (w.pop).regs = w.regs := rfl
@[simp] theorem Warp.pop_base (w : Warp) : (w.pop).base = w.base := rfl
@[simp] theorem Warp.pop_buf (w : Warp) : (w.pop).buf = w.buf := rfl
@[simp] theorem Warp.pop_idx (w : Warp) : (w.pop).idx = w.idx := rfl
@[simp] theorem Warp.pop_phase (w : Warp) : (w.pop).phase = w.phase := rfl
@[simp] theorem Warp.pop_wake (w : Warp) : (w.pop).wake = w.wake := rfl
@[simp] theorem Warp.pop_reissue (w : Warp) : (w.pop).reissue = w.reissue := rfl
@[simp] theorem Warp.pop_replay (w : Warp) : (w.pop).replay = w.replay := rfl
@[simp] theorem Warp.pop_yielded (w : Warp) : (w.pop).yielded = w.yielded := rfl
@[simp] theorem Warp.pop_stood (w : Warp) : (w.pop).stood = w.stood := rfl
@[simp] theorem Warp.pop_behind (w : Warp) : (w.pop).behind = w.behind := rfl
@[simp] theorem Warp.pop_waited (w : Warp) : (w.pop).waited = w.waited := rfl
@[simp] theorem Warp.pop_homeCore (w : Warp) : (w.pop).homeCore = w.homeCore := rfl
@[simp] theorem Warp.pop_stalled (w : Warp) : (w.pop).stalled = w.stalled := rfl

/-! ### `mapLanes` -/

@[simp] theorem mapLanes_id (w : Warp) (f : Nat → Lane → Lane) : (mapLanes w f).id = w.id := rfl
@[simp] theorem mapLanes_status (w : Warp) (f : Nat → Lane → Lane) : (mapLanes w f).status = w.status := rfl
@[simp] theorem mapLanes_die (w : Warp) (f : Nat → Lane → Lane) : (mapLanes w f).die = w.die := rfl
@[simp] theorem mapLanes_core (w : Warp) (f : Nat → Lane → Lane) : (mapLanes w f).core = w.core := rfl
@[simp] theorem mapLanes_part (w : Warp) (f : Nat → Lane → Lane) : (mapLanes w f).part = w.part := rfl
@[simp] theorem mapLanes_slot (w : Warp) (f : Nat → Lane → Lane) : (mapLanes w f).slot = w.slot := rfl
@[simp] theorem mapLanes_ctx (w : Warp) (f : Nat → Lane → Lane) : (mapLanes w f).ctx = w.ctx := rfl
@[simp] theorem mapLanes_pat (w : Warp) (f : Nat → Lane → Lane) : (mapLanes w f).pat = w.pat := rfl
@[simp] theorem mapLanes_stage (w : Warp) (f : Nat → Lane → Lane) : (mapLanes w f).stage = w.stage := rfl
@[simp] theorem mapLanes_group (w : Warp) (f : Nat → Lane → Lane) : (mapLanes w f).group = w.group := rfl
@[simp] theorem mapLanes_index (w : Warp) (f : Nat → Lane → Lane) : (mapLanes w f).index = w.index := rfl
@[simp] theorem mapLanes_gidx (w : Warp) (f : Nat → Lane → Lane) : (mapLanes w f).gidx = w.gidx := rfl
@[simp] theorem mapLanes_queue (w : Warp) (f : Nat → Lane → Lane) : (mapLanes w f).queue = w.queue := rfl
@[simp] theorem mapLanes_seq (w : Warp) (f : Nat → Lane → Lane) : (mapLanes w f).seq = w.seq := rfl
@[simp] theorem mapLanes_spill (w : Warp) (f : Nat → Lane → Lane) : (mapLanes w f).spill = w.spill := rfl
@[simp] theorem mapLanes_livebase (w : Warp) (f : Nat → Lane → Lane) : (mapLanes w f).livebase = w.livebase := rfl
@[simp] theorem mapLanes_signed (w : Warp) (f : Nat → Lane → Lane) : (mapLanes w f).signed = w.signed := rfl
@[simp] theorem mapLanes_frame (w : Warp) (f : Nat → Lane → Lane) : (mapLanes w f).frame = w.frame := rfl
@[simp] theorem mapLanes_recs (w : Warp) (f : Nat → Lane → Lane) : (mapLanes w f).recs = w.recs := rfl
@[simp] theorem mapLanes_ux (w : Warp) (f : Nat → Lane → Lane) : (mapLanes w f).ux = w.ux := rfl
@[simp] theorem mapLanes_active (w : Warp) (f : Nat → Lane → Lane) : (mapLanes w f).active = w.active := rfl
@[simp] theorem mapLanes_gone (w : Warp) (f : Nat → Lane → Lane) : (mapLanes w f).gone = w.gone := rfl
@[simp] theorem mapLanes_pleats (w : Warp) (f : Nat → Lane → Lane) : (mapLanes w f).pleats = w.pleats := rfl
@[simp] theorem mapLanes_calls (w : Warp) (f : Nat → Lane → Lane) : (mapLanes w f).calls = w.calls := rfl
@[simp] theorem mapLanes_pleatsOut (w : Warp) (f : Nat → Lane → Lane) : (mapLanes w f).pleatsOut = w.pleatsOut := rfl
@[simp] theorem mapLanes_callsOut (w : Warp) (f : Nat → Lane → Lane) : (mapLanes w f).callsOut = w.callsOut := rfl
@[simp] theorem mapLanes_ops (w : Warp) (f : Nat → Lane → Lane) : (mapLanes w f).ops = w.ops := rfl
@[simp] theorem mapLanes_sig (w : Warp) (f : Nat → Lane → Lane) : (mapLanes w f).sig = w.sig := rfl
@[simp] theorem mapLanes_fpmode (w : Warp) (f : Nat → Lane → Lane) : (mapLanes w f).fpmode = w.fpmode := rfl
@[simp] theorem mapLanes_fpflags (w : Warp) (f : Nat → Lane → Lane) : (mapLanes w f).fpflags = w.fpflags := rfl
@[simp] theorem mapLanes_wdog (w : Warp) (f : Nat → Lane → Lane) : (mapLanes w f).wdog = w.wdog := rfl
@[simp] theorem mapLanes_wcount (w : Warp) (f : Nat → Lane → Lane) : (mapLanes w f).wcount = w.wcount := rfl
@[simp] theorem mapLanes_mt (w : Warp) (f : Nat → Lane → Lane) : (mapLanes w f).mt = w.mt := rfl
@[simp] theorem mapLanes_h (w : Warp) (f : Nat → Lane → Lane) : (mapLanes w f).h = w.h := rfl
@[simp] theorem mapLanes_tcause (w : Warp) (f : Nat → Lane → Lane) : (mapLanes w f).tcause = w.tcause := rfl
@[simp] theorem mapLanes_tpc (w : Warp) (f : Nat → Lane → Lane) : (mapLanes w f).tpc = w.tpc := rfl
@[simp] theorem mapLanes_tnext (w : Warp) (f : Nat → Lane → Lane) : (mapLanes w f).tnext = w.tnext := rfl
@[simp] theorem mapLanes_tmask (w : Warp) (f : Nat → Lane → Lane) : (mapLanes w f).tmask = w.tmask := rfl
@[simp] theorem mapLanes_tinfo (w : Warp) (f : Nat → Lane → Lane) : (mapLanes w f).tinfo = w.tinfo := rfl
@[simp] theorem mapLanes_hret (w : Warp) (f : Nat → Lane → Lane) : (mapLanes w f).hret = w.hret := rfl
@[simp] theorem mapLanes_shadow (w : Warp) (f : Nat → Lane → Lane) : (mapLanes w f).shadow = w.shadow := rfl
@[simp] theorem mapLanes_region (w : Warp) (f : Nat → Lane → Lane) : (mapLanes w f).region = w.region := rfl
@[simp] theorem mapLanes_regionPc (w : Warp) (f : Nat → Lane → Lane) : (mapLanes w f).regionPc = w.regionPc := rfl
@[simp] theorem mapLanes_reports (w : Warp) (f : Nat → Lane → Lane) : (mapLanes w f).reports = w.reports := rfl
@[simp] theorem mapLanes_regs (w : Warp) (f : Nat → Lane → Lane) : (mapLanes w f).regs = w.regs := rfl
@[simp] theorem mapLanes_base (w : Warp) (f : Nat → Lane → Lane) : (mapLanes w f).base = w.base := rfl
@[simp] theorem mapLanes_buf (w : Warp) (f : Nat → Lane → Lane) : (mapLanes w f).buf = w.buf := rfl
@[simp] theorem mapLanes_idx (w : Warp) (f : Nat → Lane → Lane) : (mapLanes w f).idx = w.idx := rfl
@[simp] theorem mapLanes_phase (w : Warp) (f : Nat → Lane → Lane) : (mapLanes w f).phase = w.phase := rfl
@[simp] theorem mapLanes_wake (w : Warp) (f : Nat → Lane → Lane) : (mapLanes w f).wake = w.wake := rfl
@[simp] theorem mapLanes_reissue (w : Warp) (f : Nat → Lane → Lane) : (mapLanes w f).reissue = w.reissue := rfl
@[simp] theorem mapLanes_replay (w : Warp) (f : Nat → Lane → Lane) : (mapLanes w f).replay = w.replay := rfl
@[simp] theorem mapLanes_yielded (w : Warp) (f : Nat → Lane → Lane) : (mapLanes w f).yielded = w.yielded := rfl
@[simp] theorem mapLanes_stood (w : Warp) (f : Nat → Lane → Lane) : (mapLanes w f).stood = w.stood := rfl
@[simp] theorem mapLanes_behind (w : Warp) (f : Nat → Lane → Lane) : (mapLanes w f).behind = w.behind := rfl
@[simp] theorem mapLanes_waited (w : Warp) (f : Nat → Lane → Lane) : (mapLanes w f).waited = w.waited := rfl
@[simp] theorem mapLanes_homeCore (w : Warp) (f : Nat → Lane → Lane) : (mapLanes w f).homeCore = w.homeCore := rfl
@[simp] theorem mapLanes_stalled (w : Warp) (f : Nat → Lane → Lane) : (mapLanes w f).stalled = w.stalled := rfl

/-! ### `setUnit` -/

@[simp] theorem setUnit_warp (s : State) (u : MatrixUnit) : (setUnit s u).warp = s.warp := by unfold setUnit; split <;> rfl
@[simp] theorem setUnit_others (s : State) (u : MatrixUnit) : (setUnit s u).others = s.others := by unfold setUnit; split <;> rfl
@[simp] theorem setUnit_mem (s : State) (u : MatrixUnit) : (setUnit s u).mem = s.mem := by unfold setUnit; split <;> rfl
@[simp] theorem setUnit_groups (s : State) (u : MatrixUnit) : (setUnit s u).groups = s.groups := by unfold setUnit; split <;> rfl
@[simp] theorem setUnit_copies (s : State) (u : MatrixUnit) : (setUnit s u).copies = s.copies := by unfold setUnit; split <;> rfl
@[simp] theorem setUnit_patterns (s : State) (u : MatrixUnit) : (setUnit s u).patterns = s.patterns := by unfold setUnit; split <;> rfl
@[simp] theorem setUnit_bobbins (s : State) (u : MatrixUnit) : (setUnit s u).bobbins = s.bobbins := by unfold setUnit; split <;> rfl
@[simp] theorem setUnit_segments (s : State) (u : MatrixUnit) : (setUnit s u).segments = s.segments := by unfold setUnit; split <;> rfl
@[simp] theorem setUnit_heddles (s : State) (u : MatrixUnit) : (setUnit s u).heddles = s.heddles := by unfold setUnit; split <;> rfl
@[simp] theorem setUnit_queues (s : State) (u : MatrixUnit) : (setUnit s u).queues = s.queues := by unfold setUnit; split <;> rfl
@[simp] theorem setUnit_launches (s : State) (u : MatrixUnit) : (setUnit s u).launches = s.launches := by unfold setUnit; split <;> rfl
@[simp] theorem setUnit_decisions (s : State) (u : MatrixUnit) : (setUnit s u).decisions = s.decisions := by unfold setUnit; split <;> rfl
@[simp] theorem setUnit_contexts (s : State) (u : MatrixUnit) : (setUnit s u).contexts = s.contexts := by unfold setUnit; split <;> rfl
@[simp] theorem setUnit_faults (s : State) (u : MatrixUnit) : (setUnit s u).faults = s.faults := by unfold setUnit; split <;> rfl
@[simp] theorem setUnit_vfs (s : State) (u : MatrixUnit) : (setUnit s u).vfs = s.vfs := by unfold setUnit; split <;> rfl
@[simp] theorem setUnit_configs (s : State) (u : MatrixUnit) : (setUnit s u).configs = s.configs := by unfold setUnit; split <;> rfl
@[simp] theorem setUnit_pf (s : State) (u : MatrixUnit) : (setUnit s u).pf = s.pf := by unfold setUnit; split <;> rfl
@[simp] theorem setUnit_partmap (s : State) (u : MatrixUnit) : (setUnit s u).partmap = s.partmap := by unfold setUnit; split <;> rfl
@[simp] theorem setUnit_coh (s : State) (u : MatrixUnit) : (setUnit s u).coh = s.coh := by unfold setUnit; split <;> rfl
@[simp] theorem setUnit_caches (s : State) (u : MatrixUnit) : (setUnit s u).caches = s.caches := by unfold setUnit; split <;> rfl
@[simp] theorem setUnit_homes (s : State) (u : MatrixUnit) : (setUnit s u).homes = s.homes := by unfold setUnit; split <;> rfl
@[simp] theorem setUnit_ply (s : State) (u : MatrixUnit) : (setUnit s u).ply = s.ply := by unfold setUnit; split <;> rfl
@[simp] theorem setUnit_poison (s : State) (u : MatrixUnit) : (setUnit s u).poison = s.poison := by unfold setUnit; split <;> rfl
@[simp] theorem setUnit_harts (s : State) (u : MatrixUnit) : (setUnit s u).harts = s.harts := by unfold setUnit; split <;> rfl
@[simp] theorem setUnit_islandTime (s : State) (u : MatrixUnit) : (setUnit s u).islandTime = s.islandTime := by unfold setUnit; split <;> rfl
@[simp] theorem setUnit_cores (s : State) (u : MatrixUnit) : (setUnit s u).cores = s.cores := by unfold setUnit; split <;> rfl
@[simp] theorem setUnit_hbmStacks (s : State) (u : MatrixUnit) : (setUnit s u).hbmStacks = s.hbmStacks := by unfold setUnit; split <;> rfl
@[simp] theorem setUnit_ports (s : State) (u : MatrixUnit) : (setUnit s u).ports = s.ports := by unfold setUnit; split <;> rfl
@[simp] theorem setUnit_gated (s : State) (u : MatrixUnit) : (setUnit s u).gated = s.gated := by unfold setUnit; split <;> rfl
@[simp] theorem setUnit_sec (s : State) (u : MatrixUnit) : (setUnit s u).sec = s.sec := by unfold setUnit; split <;> rfl
@[simp] theorem setUnit_saved (s : State) (u : MatrixUnit) : (setUnit s u).saved = s.saved := by unfold setUnit; split <;> rfl
@[simp] theorem setUnit_sealed (s : State) (u : MatrixUnit) : (setUnit s u).sealed = s.sealed := by unfold setUnit; split <;> rfl
@[simp] theorem setUnit_stopping (s : State) (u : MatrixUnit) : (setUnit s u).stopping = s.stopping := by unfold setUnit; split <;> rfl
@[simp] theorem setUnit_escalating (s : State) (u : MatrixUnit) : (setUnit s u).escalating = s.escalating := by unfold setUnit; split <;> rfl
@[simp] theorem setUnit_answers (s : State) (u : MatrixUnit) : (setUnit s u).answers = s.answers := by unfold setUnit; split <;> rfl
@[simp] theorem setUnit_vectors (s : State) (u : MatrixUnit) : (setUnit s u).vectors = s.vectors := by unfold setUnit; split <;> rfl
@[simp] theorem setUnit_pkg (s : State) (u : MatrixUnit) : (setUnit s u).pkg = s.pkg := by unfold setUnit; split <;> rfl
@[simp] theorem setUnit_routes (s : State) (u : MatrixUnit) : (setUnit s u).routes = s.routes := by unfold setUnit; split <;> rfl
@[simp] theorem setUnit_remoteRanges (s : State) (u : MatrixUnit) : (setUnit s u).remoteRanges = s.remoteRanges := by unfold setUnit; split <;> rfl
@[simp] theorem setUnit_agenda (s : State) (u : MatrixUnit) : (setUnit s u).agenda = s.agenda := by unfold setUnit; split <;> rfl
@[simp] theorem setUnit_heldOutside (s : State) (u : MatrixUnit) : (setUnit s u).heldOutside = s.heldOutside := by unfold setUnit; split <;> rfl
@[simp] theorem setUnit_heldLines (s : State) (u : MatrixUnit) : (setUnit s u).heldLines = s.heldLines := by unfold setUnit; split <;> rfl
@[simp] theorem setUnit_partTurn (s : State) (u : MatrixUnit) : (setUnit s u).partTurn = s.partTurn := by unfold setUnit; split <;> rfl
@[simp] theorem setUnit_rowTurn (s : State) (u : MatrixUnit) : (setUnit s u).rowTurn = s.rowTurn := by unfold setUnit; split <;> rfl
@[simp] theorem setUnit_nextId (s : State) (u : MatrixUnit) : (setUnit s u).nextId = s.nextId := by unfold setUnit; split <;> rfl
@[simp] theorem setUnit_freeCtr (s : State) (u : MatrixUnit) : (setUnit s u).freeCtr = s.freeCtr := by unfold setUnit; split <;> rfl
@[simp] theorem setUnit_now (s : State) (u : MatrixUnit) : (setUnit s u).now = s.now := by unfold setUnit; split <;> rfl
@[simp] theorem setUnit_heldObj (s : State) (u : MatrixUnit) : (setUnit s u).heldObj = s.heldObj := by unfold setUnit; split <;> rfl
@[simp] theorem setUnit_retained (s : State) (u : MatrixUnit) : (setUnit s u).retained = s.retained := by unfold setUnit; split <;> rfl
@[simp] theorem setUnit_changes (s : State) (u : MatrixUnit) : (setUnit s u).changes = s.changes := by unfold setUnit; split <;> rfl

/-! ### `tick` -/

@[simp] theorem tick_warp (s : State) : (tick s).warp = s.warp := rfl
@[simp] theorem tick_others (s : State) : (tick s).others = s.others := rfl
@[simp] theorem tick_mem (s : State) : (tick s).mem = s.mem := rfl
@[simp] theorem tick_groups (s : State) : (tick s).groups = s.groups := rfl
@[simp] theorem tick_units (s : State) : (tick s).units = s.units := rfl
@[simp] theorem tick_copies (s : State) : (tick s).copies = s.copies := rfl
@[simp] theorem tick_patterns (s : State) : (tick s).patterns = s.patterns := rfl
@[simp] theorem tick_bobbins (s : State) : (tick s).bobbins = s.bobbins := rfl
@[simp] theorem tick_segments (s : State) : (tick s).segments = s.segments := rfl
@[simp] theorem tick_heddles (s : State) : (tick s).heddles = s.heddles := rfl
@[simp] theorem tick_queues (s : State) : (tick s).queues = s.queues := rfl
@[simp] theorem tick_launches (s : State) : (tick s).launches = s.launches := rfl
@[simp] theorem tick_decisions (s : State) : (tick s).decisions = s.decisions := rfl
@[simp] theorem tick_contexts (s : State) : (tick s).contexts = s.contexts := rfl
@[simp] theorem tick_faults (s : State) : (tick s).faults = s.faults := rfl
@[simp] theorem tick_vfs (s : State) : (tick s).vfs = s.vfs := rfl
@[simp] theorem tick_configs (s : State) : (tick s).configs = s.configs := rfl
@[simp] theorem tick_pf (s : State) : (tick s).pf = s.pf := rfl
@[simp] theorem tick_partmap (s : State) : (tick s).partmap = s.partmap := rfl
@[simp] theorem tick_coh (s : State) : (tick s).coh = s.coh := rfl
@[simp] theorem tick_caches (s : State) : (tick s).caches = s.caches := rfl
@[simp] theorem tick_homes (s : State) : (tick s).homes = s.homes := rfl
@[simp] theorem tick_ply (s : State) : (tick s).ply = s.ply := rfl
@[simp] theorem tick_poison (s : State) : (tick s).poison = s.poison := rfl
@[simp] theorem tick_harts (s : State) : (tick s).harts = s.harts := rfl
@[simp] theorem tick_islandTime (s : State) : (tick s).islandTime = s.islandTime := rfl
@[simp] theorem tick_cores (s : State) : (tick s).cores = s.cores := rfl
@[simp] theorem tick_hbmStacks (s : State) : (tick s).hbmStacks = s.hbmStacks := rfl
@[simp] theorem tick_ports (s : State) : (tick s).ports = s.ports := rfl
@[simp] theorem tick_gated (s : State) : (tick s).gated = s.gated := rfl
@[simp] theorem tick_sec (s : State) : (tick s).sec = s.sec := rfl
@[simp] theorem tick_saved (s : State) : (tick s).saved = s.saved := rfl
@[simp] theorem tick_sealed (s : State) : (tick s).sealed = s.sealed := rfl
@[simp] theorem tick_stopping (s : State) : (tick s).stopping = s.stopping := rfl
@[simp] theorem tick_escalating (s : State) : (tick s).escalating = s.escalating := rfl
@[simp] theorem tick_answers (s : State) : (tick s).answers = s.answers := rfl
@[simp] theorem tick_vectors (s : State) : (tick s).vectors = s.vectors := rfl
@[simp] theorem tick_pkg (s : State) : (tick s).pkg = s.pkg := rfl
@[simp] theorem tick_routes (s : State) : (tick s).routes = s.routes := rfl
@[simp] theorem tick_remoteRanges (s : State) : (tick s).remoteRanges = s.remoteRanges := rfl
@[simp] theorem tick_agenda (s : State) : (tick s).agenda = s.agenda := rfl
@[simp] theorem tick_heldOutside (s : State) : (tick s).heldOutside = s.heldOutside := rfl
@[simp] theorem tick_heldLines (s : State) : (tick s).heldLines = s.heldLines := rfl
@[simp] theorem tick_partTurn (s : State) : (tick s).partTurn = s.partTurn := rfl
@[simp] theorem tick_rowTurn (s : State) : (tick s).rowTurn = s.rowTurn := rfl
@[simp] theorem tick_nextId (s : State) : (tick s).nextId = s.nextId := rfl
@[simp] theorem tick_freeCtr (s : State) : (tick s).freeCtr = s.freeCtr := rfl
@[simp] theorem tick_heldObj (s : State) : (tick s).heldObj = s.heldObj := rfl
@[simp] theorem tick_retained (s : State) : (tick s).retained = s.retained := rfl
@[simp] theorem tick_changes (s : State) : (tick s).changes = s.changes := rfl

/-! ### `updateGroup` -/

@[simp] theorem updateGroup_warp (s : State) (k : Nat) (f : Group → Group) : (updateGroup s k f).warp = s.warp := rfl
@[simp] theorem updateGroup_others (s : State) (k : Nat) (f : Group → Group) : (updateGroup s k f).others = s.others := rfl
@[simp] theorem updateGroup_mem (s : State) (k : Nat) (f : Group → Group) : (updateGroup s k f).mem = s.mem := rfl
@[simp] theorem updateGroup_units (s : State) (k : Nat) (f : Group → Group) : (updateGroup s k f).units = s.units := rfl
@[simp] theorem updateGroup_copies (s : State) (k : Nat) (f : Group → Group) : (updateGroup s k f).copies = s.copies := rfl
@[simp] theorem updateGroup_patterns (s : State) (k : Nat) (f : Group → Group) : (updateGroup s k f).patterns = s.patterns := rfl
@[simp] theorem updateGroup_bobbins (s : State) (k : Nat) (f : Group → Group) : (updateGroup s k f).bobbins = s.bobbins := rfl
@[simp] theorem updateGroup_segments (s : State) (k : Nat) (f : Group → Group) : (updateGroup s k f).segments = s.segments := rfl
@[simp] theorem updateGroup_heddles (s : State) (k : Nat) (f : Group → Group) : (updateGroup s k f).heddles = s.heddles := rfl
@[simp] theorem updateGroup_queues (s : State) (k : Nat) (f : Group → Group) : (updateGroup s k f).queues = s.queues := rfl
@[simp] theorem updateGroup_launches (s : State) (k : Nat) (f : Group → Group) : (updateGroup s k f).launches = s.launches := rfl
@[simp] theorem updateGroup_decisions (s : State) (k : Nat) (f : Group → Group) : (updateGroup s k f).decisions = s.decisions := rfl
@[simp] theorem updateGroup_contexts (s : State) (k : Nat) (f : Group → Group) : (updateGroup s k f).contexts = s.contexts := rfl
@[simp] theorem updateGroup_faults (s : State) (k : Nat) (f : Group → Group) : (updateGroup s k f).faults = s.faults := rfl
@[simp] theorem updateGroup_vfs (s : State) (k : Nat) (f : Group → Group) : (updateGroup s k f).vfs = s.vfs := rfl
@[simp] theorem updateGroup_configs (s : State) (k : Nat) (f : Group → Group) : (updateGroup s k f).configs = s.configs := rfl
@[simp] theorem updateGroup_pf (s : State) (k : Nat) (f : Group → Group) : (updateGroup s k f).pf = s.pf := rfl
@[simp] theorem updateGroup_partmap (s : State) (k : Nat) (f : Group → Group) : (updateGroup s k f).partmap = s.partmap := rfl
@[simp] theorem updateGroup_coh (s : State) (k : Nat) (f : Group → Group) : (updateGroup s k f).coh = s.coh := rfl
@[simp] theorem updateGroup_caches (s : State) (k : Nat) (f : Group → Group) : (updateGroup s k f).caches = s.caches := rfl
@[simp] theorem updateGroup_homes (s : State) (k : Nat) (f : Group → Group) : (updateGroup s k f).homes = s.homes := rfl
@[simp] theorem updateGroup_ply (s : State) (k : Nat) (f : Group → Group) : (updateGroup s k f).ply = s.ply := rfl
@[simp] theorem updateGroup_poison (s : State) (k : Nat) (f : Group → Group) : (updateGroup s k f).poison = s.poison := rfl
@[simp] theorem updateGroup_harts (s : State) (k : Nat) (f : Group → Group) : (updateGroup s k f).harts = s.harts := rfl
@[simp] theorem updateGroup_islandTime (s : State) (k : Nat) (f : Group → Group) : (updateGroup s k f).islandTime = s.islandTime := rfl
@[simp] theorem updateGroup_cores (s : State) (k : Nat) (f : Group → Group) : (updateGroup s k f).cores = s.cores := rfl
@[simp] theorem updateGroup_hbmStacks (s : State) (k : Nat) (f : Group → Group) : (updateGroup s k f).hbmStacks = s.hbmStacks := rfl
@[simp] theorem updateGroup_ports (s : State) (k : Nat) (f : Group → Group) : (updateGroup s k f).ports = s.ports := rfl
@[simp] theorem updateGroup_gated (s : State) (k : Nat) (f : Group → Group) : (updateGroup s k f).gated = s.gated := rfl
@[simp] theorem updateGroup_sec (s : State) (k : Nat) (f : Group → Group) : (updateGroup s k f).sec = s.sec := rfl
@[simp] theorem updateGroup_saved (s : State) (k : Nat) (f : Group → Group) : (updateGroup s k f).saved = s.saved := rfl
@[simp] theorem updateGroup_sealed (s : State) (k : Nat) (f : Group → Group) : (updateGroup s k f).sealed = s.sealed := rfl
@[simp] theorem updateGroup_stopping (s : State) (k : Nat) (f : Group → Group) : (updateGroup s k f).stopping = s.stopping := rfl
@[simp] theorem updateGroup_escalating (s : State) (k : Nat) (f : Group → Group) : (updateGroup s k f).escalating = s.escalating := rfl
@[simp] theorem updateGroup_answers (s : State) (k : Nat) (f : Group → Group) : (updateGroup s k f).answers = s.answers := rfl
@[simp] theorem updateGroup_vectors (s : State) (k : Nat) (f : Group → Group) : (updateGroup s k f).vectors = s.vectors := rfl
@[simp] theorem updateGroup_pkg (s : State) (k : Nat) (f : Group → Group) : (updateGroup s k f).pkg = s.pkg := rfl
@[simp] theorem updateGroup_routes (s : State) (k : Nat) (f : Group → Group) : (updateGroup s k f).routes = s.routes := rfl
@[simp] theorem updateGroup_remoteRanges (s : State) (k : Nat) (f : Group → Group) : (updateGroup s k f).remoteRanges = s.remoteRanges := rfl
@[simp] theorem updateGroup_agenda (s : State) (k : Nat) (f : Group → Group) : (updateGroup s k f).agenda = s.agenda := rfl
@[simp] theorem updateGroup_heldOutside (s : State) (k : Nat) (f : Group → Group) : (updateGroup s k f).heldOutside = s.heldOutside := rfl
@[simp] theorem updateGroup_heldLines (s : State) (k : Nat) (f : Group → Group) : (updateGroup s k f).heldLines = s.heldLines := rfl
@[simp] theorem updateGroup_partTurn (s : State) (k : Nat) (f : Group → Group) : (updateGroup s k f).partTurn = s.partTurn := rfl
@[simp] theorem updateGroup_rowTurn (s : State) (k : Nat) (f : Group → Group) : (updateGroup s k f).rowTurn = s.rowTurn := rfl
@[simp] theorem updateGroup_nextId (s : State) (k : Nat) (f : Group → Group) : (updateGroup s k f).nextId = s.nextId := rfl
@[simp] theorem updateGroup_freeCtr (s : State) (k : Nat) (f : Group → Group) : (updateGroup s k f).freeCtr = s.freeCtr := rfl
@[simp] theorem updateGroup_now (s : State) (k : Nat) (f : Group → Group) : (updateGroup s k f).now = s.now := rfl
@[simp] theorem updateGroup_heldObj (s : State) (k : Nat) (f : Group → Group) : (updateGroup s k f).heldObj = s.heldObj := rfl
@[simp] theorem updateGroup_retained (s : State) (k : Nat) (f : Group → Group) : (updateGroup s k f).retained = s.retained := rfl
@[simp] theorem updateGroup_changes (s : State) (k : Nat) (f : Group → Group) : (updateGroup s k f).changes = s.changes := rfl

/-! ### `updateVf` -/

@[simp] theorem updateVf_warp (s : State) (v : Nat) (f : VfPage → VfPage) : (updateVf s v f).warp = s.warp := rfl
@[simp] theorem updateVf_others (s : State) (v : Nat) (f : VfPage → VfPage) : (updateVf s v f).others = s.others := rfl
@[simp] theorem updateVf_mem (s : State) (v : Nat) (f : VfPage → VfPage) : (updateVf s v f).mem = s.mem := rfl
@[simp] theorem updateVf_groups (s : State) (v : Nat) (f : VfPage → VfPage) : (updateVf s v f).groups = s.groups := rfl
@[simp] theorem updateVf_units (s : State) (v : Nat) (f : VfPage → VfPage) : (updateVf s v f).units = s.units := rfl
@[simp] theorem updateVf_copies (s : State) (v : Nat) (f : VfPage → VfPage) : (updateVf s v f).copies = s.copies := rfl
@[simp] theorem updateVf_patterns (s : State) (v : Nat) (f : VfPage → VfPage) : (updateVf s v f).patterns = s.patterns := rfl
@[simp] theorem updateVf_bobbins (s : State) (v : Nat) (f : VfPage → VfPage) : (updateVf s v f).bobbins = s.bobbins := rfl
@[simp] theorem updateVf_segments (s : State) (v : Nat) (f : VfPage → VfPage) : (updateVf s v f).segments = s.segments := rfl
@[simp] theorem updateVf_heddles (s : State) (v : Nat) (f : VfPage → VfPage) : (updateVf s v f).heddles = s.heddles := rfl
@[simp] theorem updateVf_queues (s : State) (v : Nat) (f : VfPage → VfPage) : (updateVf s v f).queues = s.queues := rfl
@[simp] theorem updateVf_launches (s : State) (v : Nat) (f : VfPage → VfPage) : (updateVf s v f).launches = s.launches := rfl
@[simp] theorem updateVf_decisions (s : State) (v : Nat) (f : VfPage → VfPage) : (updateVf s v f).decisions = s.decisions := rfl
@[simp] theorem updateVf_contexts (s : State) (v : Nat) (f : VfPage → VfPage) : (updateVf s v f).contexts = s.contexts := rfl
@[simp] theorem updateVf_faults (s : State) (v : Nat) (f : VfPage → VfPage) : (updateVf s v f).faults = s.faults := rfl
@[simp] theorem updateVf_configs (s : State) (v : Nat) (f : VfPage → VfPage) : (updateVf s v f).configs = s.configs := rfl
@[simp] theorem updateVf_pf (s : State) (v : Nat) (f : VfPage → VfPage) : (updateVf s v f).pf = s.pf := rfl
@[simp] theorem updateVf_partmap (s : State) (v : Nat) (f : VfPage → VfPage) : (updateVf s v f).partmap = s.partmap := rfl
@[simp] theorem updateVf_coh (s : State) (v : Nat) (f : VfPage → VfPage) : (updateVf s v f).coh = s.coh := rfl
@[simp] theorem updateVf_caches (s : State) (v : Nat) (f : VfPage → VfPage) : (updateVf s v f).caches = s.caches := rfl
@[simp] theorem updateVf_homes (s : State) (v : Nat) (f : VfPage → VfPage) : (updateVf s v f).homes = s.homes := rfl
@[simp] theorem updateVf_ply (s : State) (v : Nat) (f : VfPage → VfPage) : (updateVf s v f).ply = s.ply := rfl
@[simp] theorem updateVf_poison (s : State) (v : Nat) (f : VfPage → VfPage) : (updateVf s v f).poison = s.poison := rfl
@[simp] theorem updateVf_harts (s : State) (v : Nat) (f : VfPage → VfPage) : (updateVf s v f).harts = s.harts := rfl
@[simp] theorem updateVf_islandTime (s : State) (v : Nat) (f : VfPage → VfPage) : (updateVf s v f).islandTime = s.islandTime := rfl
@[simp] theorem updateVf_cores (s : State) (v : Nat) (f : VfPage → VfPage) : (updateVf s v f).cores = s.cores := rfl
@[simp] theorem updateVf_hbmStacks (s : State) (v : Nat) (f : VfPage → VfPage) : (updateVf s v f).hbmStacks = s.hbmStacks := rfl
@[simp] theorem updateVf_ports (s : State) (v : Nat) (f : VfPage → VfPage) : (updateVf s v f).ports = s.ports := rfl
@[simp] theorem updateVf_gated (s : State) (v : Nat) (f : VfPage → VfPage) : (updateVf s v f).gated = s.gated := rfl
@[simp] theorem updateVf_sec (s : State) (v : Nat) (f : VfPage → VfPage) : (updateVf s v f).sec = s.sec := rfl
@[simp] theorem updateVf_saved (s : State) (v : Nat) (f : VfPage → VfPage) : (updateVf s v f).saved = s.saved := rfl
@[simp] theorem updateVf_sealed (s : State) (v : Nat) (f : VfPage → VfPage) : (updateVf s v f).sealed = s.sealed := rfl
@[simp] theorem updateVf_stopping (s : State) (v : Nat) (f : VfPage → VfPage) : (updateVf s v f).stopping = s.stopping := rfl
@[simp] theorem updateVf_escalating (s : State) (v : Nat) (f : VfPage → VfPage) : (updateVf s v f).escalating = s.escalating := rfl
@[simp] theorem updateVf_answers (s : State) (v : Nat) (f : VfPage → VfPage) : (updateVf s v f).answers = s.answers := rfl
@[simp] theorem updateVf_vectors (s : State) (v : Nat) (f : VfPage → VfPage) : (updateVf s v f).vectors = s.vectors := rfl
@[simp] theorem updateVf_pkg (s : State) (v : Nat) (f : VfPage → VfPage) : (updateVf s v f).pkg = s.pkg := rfl
@[simp] theorem updateVf_routes (s : State) (v : Nat) (f : VfPage → VfPage) : (updateVf s v f).routes = s.routes := rfl
@[simp] theorem updateVf_remoteRanges (s : State) (v : Nat) (f : VfPage → VfPage) : (updateVf s v f).remoteRanges = s.remoteRanges := rfl
@[simp] theorem updateVf_agenda (s : State) (v : Nat) (f : VfPage → VfPage) : (updateVf s v f).agenda = s.agenda := rfl
@[simp] theorem updateVf_heldOutside (s : State) (v : Nat) (f : VfPage → VfPage) : (updateVf s v f).heldOutside = s.heldOutside := rfl
@[simp] theorem updateVf_heldLines (s : State) (v : Nat) (f : VfPage → VfPage) : (updateVf s v f).heldLines = s.heldLines := rfl
@[simp] theorem updateVf_partTurn (s : State) (v : Nat) (f : VfPage → VfPage) : (updateVf s v f).partTurn = s.partTurn := rfl
@[simp] theorem updateVf_rowTurn (s : State) (v : Nat) (f : VfPage → VfPage) : (updateVf s v f).rowTurn = s.rowTurn := rfl
@[simp] theorem updateVf_nextId (s : State) (v : Nat) (f : VfPage → VfPage) : (updateVf s v f).nextId = s.nextId := rfl
@[simp] theorem updateVf_freeCtr (s : State) (v : Nat) (f : VfPage → VfPage) : (updateVf s v f).freeCtr = s.freeCtr := rfl
@[simp] theorem updateVf_now (s : State) (v : Nat) (f : VfPage → VfPage) : (updateVf s v f).now = s.now := rfl
@[simp] theorem updateVf_heldObj (s : State) (v : Nat) (f : VfPage → VfPage) : (updateVf s v f).heldObj = s.heldObj := rfl
@[simp] theorem updateVf_retained (s : State) (v : Nat) (f : VfPage → VfPage) : (updateVf s v f).retained = s.retained := rfl
@[simp] theorem updateVf_changes (s : State) (v : Nat) (f : VfPage → VfPage) : (updateVf s v f).changes = s.changes := rfl

/-! ### `updateContext` -/

@[simp] theorem updateContext_warp (s : State) (c : Nat) (f : Context → Context) : (updateContext s c f).warp = s.warp := rfl
@[simp] theorem updateContext_others (s : State) (c : Nat) (f : Context → Context) : (updateContext s c f).others = s.others := rfl
@[simp] theorem updateContext_mem (s : State) (c : Nat) (f : Context → Context) : (updateContext s c f).mem = s.mem := rfl
@[simp] theorem updateContext_groups (s : State) (c : Nat) (f : Context → Context) : (updateContext s c f).groups = s.groups := rfl
@[simp] theorem updateContext_units (s : State) (c : Nat) (f : Context → Context) : (updateContext s c f).units = s.units := rfl
@[simp] theorem updateContext_copies (s : State) (c : Nat) (f : Context → Context) : (updateContext s c f).copies = s.copies := rfl
@[simp] theorem updateContext_patterns (s : State) (c : Nat) (f : Context → Context) : (updateContext s c f).patterns = s.patterns := rfl
@[simp] theorem updateContext_bobbins (s : State) (c : Nat) (f : Context → Context) : (updateContext s c f).bobbins = s.bobbins := rfl
@[simp] theorem updateContext_segments (s : State) (c : Nat) (f : Context → Context) : (updateContext s c f).segments = s.segments := rfl
@[simp] theorem updateContext_heddles (s : State) (c : Nat) (f : Context → Context) : (updateContext s c f).heddles = s.heddles := rfl
@[simp] theorem updateContext_queues (s : State) (c : Nat) (f : Context → Context) : (updateContext s c f).queues = s.queues := rfl
@[simp] theorem updateContext_launches (s : State) (c : Nat) (f : Context → Context) : (updateContext s c f).launches = s.launches := rfl
@[simp] theorem updateContext_decisions (s : State) (c : Nat) (f : Context → Context) : (updateContext s c f).decisions = s.decisions := rfl
@[simp] theorem updateContext_faults (s : State) (c : Nat) (f : Context → Context) : (updateContext s c f).faults = s.faults := rfl
@[simp] theorem updateContext_vfs (s : State) (c : Nat) (f : Context → Context) : (updateContext s c f).vfs = s.vfs := rfl
@[simp] theorem updateContext_configs (s : State) (c : Nat) (f : Context → Context) : (updateContext s c f).configs = s.configs := rfl
@[simp] theorem updateContext_pf (s : State) (c : Nat) (f : Context → Context) : (updateContext s c f).pf = s.pf := rfl
@[simp] theorem updateContext_partmap (s : State) (c : Nat) (f : Context → Context) : (updateContext s c f).partmap = s.partmap := rfl
@[simp] theorem updateContext_coh (s : State) (c : Nat) (f : Context → Context) : (updateContext s c f).coh = s.coh := rfl
@[simp] theorem updateContext_caches (s : State) (c : Nat) (f : Context → Context) : (updateContext s c f).caches = s.caches := rfl
@[simp] theorem updateContext_homes (s : State) (c : Nat) (f : Context → Context) : (updateContext s c f).homes = s.homes := rfl
@[simp] theorem updateContext_ply (s : State) (c : Nat) (f : Context → Context) : (updateContext s c f).ply = s.ply := rfl
@[simp] theorem updateContext_poison (s : State) (c : Nat) (f : Context → Context) : (updateContext s c f).poison = s.poison := rfl
@[simp] theorem updateContext_harts (s : State) (c : Nat) (f : Context → Context) : (updateContext s c f).harts = s.harts := rfl
@[simp] theorem updateContext_islandTime (s : State) (c : Nat) (f : Context → Context) : (updateContext s c f).islandTime = s.islandTime := rfl
@[simp] theorem updateContext_cores (s : State) (c : Nat) (f : Context → Context) : (updateContext s c f).cores = s.cores := rfl
@[simp] theorem updateContext_hbmStacks (s : State) (c : Nat) (f : Context → Context) : (updateContext s c f).hbmStacks = s.hbmStacks := rfl
@[simp] theorem updateContext_ports (s : State) (c : Nat) (f : Context → Context) : (updateContext s c f).ports = s.ports := rfl
@[simp] theorem updateContext_gated (s : State) (c : Nat) (f : Context → Context) : (updateContext s c f).gated = s.gated := rfl
@[simp] theorem updateContext_sec (s : State) (c : Nat) (f : Context → Context) : (updateContext s c f).sec = s.sec := rfl
@[simp] theorem updateContext_saved (s : State) (c : Nat) (f : Context → Context) : (updateContext s c f).saved = s.saved := rfl
@[simp] theorem updateContext_sealed (s : State) (c : Nat) (f : Context → Context) : (updateContext s c f).sealed = s.sealed := rfl
@[simp] theorem updateContext_stopping (s : State) (c : Nat) (f : Context → Context) : (updateContext s c f).stopping = s.stopping := rfl
@[simp] theorem updateContext_escalating (s : State) (c : Nat) (f : Context → Context) : (updateContext s c f).escalating = s.escalating := rfl
@[simp] theorem updateContext_answers (s : State) (c : Nat) (f : Context → Context) : (updateContext s c f).answers = s.answers := rfl
@[simp] theorem updateContext_vectors (s : State) (c : Nat) (f : Context → Context) : (updateContext s c f).vectors = s.vectors := rfl
@[simp] theorem updateContext_pkg (s : State) (c : Nat) (f : Context → Context) : (updateContext s c f).pkg = s.pkg := rfl
@[simp] theorem updateContext_routes (s : State) (c : Nat) (f : Context → Context) : (updateContext s c f).routes = s.routes := rfl
@[simp] theorem updateContext_remoteRanges (s : State) (c : Nat) (f : Context → Context) : (updateContext s c f).remoteRanges = s.remoteRanges := rfl
@[simp] theorem updateContext_agenda (s : State) (c : Nat) (f : Context → Context) : (updateContext s c f).agenda = s.agenda := rfl
@[simp] theorem updateContext_heldOutside (s : State) (c : Nat) (f : Context → Context) : (updateContext s c f).heldOutside = s.heldOutside := rfl
@[simp] theorem updateContext_heldLines (s : State) (c : Nat) (f : Context → Context) : (updateContext s c f).heldLines = s.heldLines := rfl
@[simp] theorem updateContext_partTurn (s : State) (c : Nat) (f : Context → Context) : (updateContext s c f).partTurn = s.partTurn := rfl
@[simp] theorem updateContext_rowTurn (s : State) (c : Nat) (f : Context → Context) : (updateContext s c f).rowTurn = s.rowTurn := rfl
@[simp] theorem updateContext_nextId (s : State) (c : Nat) (f : Context → Context) : (updateContext s c f).nextId = s.nextId := rfl
@[simp] theorem updateContext_freeCtr (s : State) (c : Nat) (f : Context → Context) : (updateContext s c f).freeCtr = s.freeCtr := rfl
@[simp] theorem updateContext_now (s : State) (c : Nat) (f : Context → Context) : (updateContext s c f).now = s.now := rfl
@[simp] theorem updateContext_heldObj (s : State) (c : Nat) (f : Context → Context) : (updateContext s c f).heldObj = s.heldObj := rfl
@[simp] theorem updateContext_retained (s : State) (c : Nat) (f : Context → Context) : (updateContext s c f).retained = s.retained := rfl
@[simp] theorem updateContext_changes (s : State) (c : Nat) (f : Context → Context) : (updateContext s c f).changes = s.changes := rfl

/-! ### `updateQueue` -/

@[simp] theorem updateQueue_warp (s : State) (q : Nat) (f : Queue → Queue) : (updateQueue s q f).warp = s.warp := by unfold updateQueue; split <;> rfl
@[simp] theorem updateQueue_others (s : State) (q : Nat) (f : Queue → Queue) : (updateQueue s q f).others = s.others := by unfold updateQueue; split <;> rfl
@[simp] theorem updateQueue_mem (s : State) (q : Nat) (f : Queue → Queue) : (updateQueue s q f).mem = s.mem := by unfold updateQueue; split <;> rfl
@[simp] theorem updateQueue_groups (s : State) (q : Nat) (f : Queue → Queue) : (updateQueue s q f).groups = s.groups := by unfold updateQueue; split <;> rfl
@[simp] theorem updateQueue_units (s : State) (q : Nat) (f : Queue → Queue) : (updateQueue s q f).units = s.units := by unfold updateQueue; split <;> rfl
@[simp] theorem updateQueue_copies (s : State) (q : Nat) (f : Queue → Queue) : (updateQueue s q f).copies = s.copies := by unfold updateQueue; split <;> rfl
@[simp] theorem updateQueue_patterns (s : State) (q : Nat) (f : Queue → Queue) : (updateQueue s q f).patterns = s.patterns := by unfold updateQueue; split <;> rfl
@[simp] theorem updateQueue_bobbins (s : State) (q : Nat) (f : Queue → Queue) : (updateQueue s q f).bobbins = s.bobbins := by unfold updateQueue; split <;> rfl
@[simp] theorem updateQueue_segments (s : State) (q : Nat) (f : Queue → Queue) : (updateQueue s q f).segments = s.segments := by unfold updateQueue; split <;> rfl
@[simp] theorem updateQueue_heddles (s : State) (q : Nat) (f : Queue → Queue) : (updateQueue s q f).heddles = s.heddles := by unfold updateQueue; split <;> rfl
@[simp] theorem updateQueue_launches (s : State) (q : Nat) (f : Queue → Queue) : (updateQueue s q f).launches = s.launches := by unfold updateQueue; split <;> rfl
@[simp] theorem updateQueue_decisions (s : State) (q : Nat) (f : Queue → Queue) : (updateQueue s q f).decisions = s.decisions := by unfold updateQueue; split <;> rfl
@[simp] theorem updateQueue_contexts (s : State) (q : Nat) (f : Queue → Queue) : (updateQueue s q f).contexts = s.contexts := by unfold updateQueue; split <;> rfl
@[simp] theorem updateQueue_faults (s : State) (q : Nat) (f : Queue → Queue) : (updateQueue s q f).faults = s.faults := by unfold updateQueue; split <;> rfl
@[simp] theorem updateQueue_vfs (s : State) (q : Nat) (f : Queue → Queue) : (updateQueue s q f).vfs = s.vfs := by unfold updateQueue; split <;> rfl
@[simp] theorem updateQueue_configs (s : State) (q : Nat) (f : Queue → Queue) : (updateQueue s q f).configs = s.configs := by unfold updateQueue; split <;> rfl
@[simp] theorem updateQueue_pf (s : State) (q : Nat) (f : Queue → Queue) : (updateQueue s q f).pf = s.pf := by unfold updateQueue; split <;> rfl
@[simp] theorem updateQueue_partmap (s : State) (q : Nat) (f : Queue → Queue) : (updateQueue s q f).partmap = s.partmap := by unfold updateQueue; split <;> rfl
@[simp] theorem updateQueue_coh (s : State) (q : Nat) (f : Queue → Queue) : (updateQueue s q f).coh = s.coh := by unfold updateQueue; split <;> rfl
@[simp] theorem updateQueue_caches (s : State) (q : Nat) (f : Queue → Queue) : (updateQueue s q f).caches = s.caches := by unfold updateQueue; split <;> rfl
@[simp] theorem updateQueue_homes (s : State) (q : Nat) (f : Queue → Queue) : (updateQueue s q f).homes = s.homes := by unfold updateQueue; split <;> rfl
@[simp] theorem updateQueue_ply (s : State) (q : Nat) (f : Queue → Queue) : (updateQueue s q f).ply = s.ply := by unfold updateQueue; split <;> rfl
@[simp] theorem updateQueue_poison (s : State) (q : Nat) (f : Queue → Queue) : (updateQueue s q f).poison = s.poison := by unfold updateQueue; split <;> rfl
@[simp] theorem updateQueue_harts (s : State) (q : Nat) (f : Queue → Queue) : (updateQueue s q f).harts = s.harts := by unfold updateQueue; split <;> rfl
@[simp] theorem updateQueue_islandTime (s : State) (q : Nat) (f : Queue → Queue) : (updateQueue s q f).islandTime = s.islandTime := by unfold updateQueue; split <;> rfl
@[simp] theorem updateQueue_cores (s : State) (q : Nat) (f : Queue → Queue) : (updateQueue s q f).cores = s.cores := by unfold updateQueue; split <;> rfl
@[simp] theorem updateQueue_hbmStacks (s : State) (q : Nat) (f : Queue → Queue) : (updateQueue s q f).hbmStacks = s.hbmStacks := by unfold updateQueue; split <;> rfl
@[simp] theorem updateQueue_ports (s : State) (q : Nat) (f : Queue → Queue) : (updateQueue s q f).ports = s.ports := by unfold updateQueue; split <;> rfl
@[simp] theorem updateQueue_gated (s : State) (q : Nat) (f : Queue → Queue) : (updateQueue s q f).gated = s.gated := by unfold updateQueue; split <;> rfl
@[simp] theorem updateQueue_sec (s : State) (q : Nat) (f : Queue → Queue) : (updateQueue s q f).sec = s.sec := by unfold updateQueue; split <;> rfl
@[simp] theorem updateQueue_saved (s : State) (q : Nat) (f : Queue → Queue) : (updateQueue s q f).saved = s.saved := by unfold updateQueue; split <;> rfl
@[simp] theorem updateQueue_sealed (s : State) (q : Nat) (f : Queue → Queue) : (updateQueue s q f).sealed = s.sealed := by unfold updateQueue; split <;> rfl
@[simp] theorem updateQueue_stopping (s : State) (q : Nat) (f : Queue → Queue) : (updateQueue s q f).stopping = s.stopping := by unfold updateQueue; split <;> rfl
@[simp] theorem updateQueue_escalating (s : State) (q : Nat) (f : Queue → Queue) : (updateQueue s q f).escalating = s.escalating := by unfold updateQueue; split <;> rfl
@[simp] theorem updateQueue_answers (s : State) (q : Nat) (f : Queue → Queue) : (updateQueue s q f).answers = s.answers := by unfold updateQueue; split <;> rfl
@[simp] theorem updateQueue_vectors (s : State) (q : Nat) (f : Queue → Queue) : (updateQueue s q f).vectors = s.vectors := by unfold updateQueue; split <;> rfl
@[simp] theorem updateQueue_pkg (s : State) (q : Nat) (f : Queue → Queue) : (updateQueue s q f).pkg = s.pkg := by unfold updateQueue; split <;> rfl
@[simp] theorem updateQueue_routes (s : State) (q : Nat) (f : Queue → Queue) : (updateQueue s q f).routes = s.routes := by unfold updateQueue; split <;> rfl
@[simp] theorem updateQueue_remoteRanges (s : State) (q : Nat) (f : Queue → Queue) : (updateQueue s q f).remoteRanges = s.remoteRanges := by unfold updateQueue; split <;> rfl
@[simp] theorem updateQueue_agenda (s : State) (q : Nat) (f : Queue → Queue) : (updateQueue s q f).agenda = s.agenda := by unfold updateQueue; split <;> rfl
@[simp] theorem updateQueue_heldOutside (s : State) (q : Nat) (f : Queue → Queue) : (updateQueue s q f).heldOutside = s.heldOutside := by unfold updateQueue; split <;> rfl
@[simp] theorem updateQueue_heldLines (s : State) (q : Nat) (f : Queue → Queue) : (updateQueue s q f).heldLines = s.heldLines := by unfold updateQueue; split <;> rfl
@[simp] theorem updateQueue_heldObj (s : State) (q : Nat) (f : Queue → Queue) : (updateQueue s q f).heldObj = s.heldObj := by unfold updateQueue; split <;> rfl
@[simp] theorem updateQueue_retained (s : State) (q : Nat) (f : Queue → Queue) : (updateQueue s q f).retained = s.retained := by unfold updateQueue; split <;> rfl
@[simp] theorem updateQueue_changes (s : State) (q : Nat) (f : Queue → Queue) : (updateQueue s q f).changes = s.changes := by unfold updateQueue; split <;> rfl
@[simp] theorem updateQueue_partTurn (s : State) (q : Nat) (f : Queue → Queue) : (updateQueue s q f).partTurn = s.partTurn := by unfold updateQueue; split <;> rfl
@[simp] theorem updateQueue_rowTurn (s : State) (q : Nat) (f : Queue → Queue) : (updateQueue s q f).rowTurn = s.rowTurn := by unfold updateQueue; split <;> rfl
@[simp] theorem updateQueue_nextId (s : State) (q : Nat) (f : Queue → Queue) : (updateQueue s q f).nextId = s.nextId := by unfold updateQueue; split <;> rfl
@[simp] theorem updateQueue_freeCtr (s : State) (q : Nat) (f : Queue → Queue) : (updateQueue s q f).freeCtr = s.freeCtr := by unfold updateQueue; split <;> rfl
@[simp] theorem updateQueue_now (s : State) (q : Nat) (f : Queue → Queue) : (updateQueue s q f).now = s.now := by unfold updateQueue; split <;> rfl

/-! ### `updateWarp` -/

@[simp] theorem updateWarp_mem (s : State) (k : Nat) (f : Warp → Warp) : (updateWarp s k f).mem = s.mem := by unfold updateWarp; split <;> rfl
@[simp] theorem updateWarp_groups (s : State) (k : Nat) (f : Warp → Warp) : (updateWarp s k f).groups = s.groups := by unfold updateWarp; split <;> rfl
@[simp] theorem updateWarp_units (s : State) (k : Nat) (f : Warp → Warp) : (updateWarp s k f).units = s.units := by unfold updateWarp; split <;> rfl
@[simp] theorem updateWarp_copies (s : State) (k : Nat) (f : Warp → Warp) : (updateWarp s k f).copies = s.copies := by unfold updateWarp; split <;> rfl
@[simp] theorem updateWarp_patterns (s : State) (k : Nat) (f : Warp → Warp) : (updateWarp s k f).patterns = s.patterns := by unfold updateWarp; split <;> rfl
@[simp] theorem updateWarp_bobbins (s : State) (k : Nat) (f : Warp → Warp) : (updateWarp s k f).bobbins = s.bobbins := by unfold updateWarp; split <;> rfl
@[simp] theorem updateWarp_segments (s : State) (k : Nat) (f : Warp → Warp) : (updateWarp s k f).segments = s.segments := by unfold updateWarp; split <;> rfl
@[simp] theorem updateWarp_heddles (s : State) (k : Nat) (f : Warp → Warp) : (updateWarp s k f).heddles = s.heddles := by unfold updateWarp; split <;> rfl
@[simp] theorem updateWarp_queues (s : State) (k : Nat) (f : Warp → Warp) : (updateWarp s k f).queues = s.queues := by unfold updateWarp; split <;> rfl
@[simp] theorem updateWarp_launches (s : State) (k : Nat) (f : Warp → Warp) : (updateWarp s k f).launches = s.launches := by unfold updateWarp; split <;> rfl
@[simp] theorem updateWarp_decisions (s : State) (k : Nat) (f : Warp → Warp) : (updateWarp s k f).decisions = s.decisions := by unfold updateWarp; split <;> rfl
@[simp] theorem updateWarp_contexts (s : State) (k : Nat) (f : Warp → Warp) : (updateWarp s k f).contexts = s.contexts := by unfold updateWarp; split <;> rfl
@[simp] theorem updateWarp_faults (s : State) (k : Nat) (f : Warp → Warp) : (updateWarp s k f).faults = s.faults := by unfold updateWarp; split <;> rfl
@[simp] theorem updateWarp_vfs (s : State) (k : Nat) (f : Warp → Warp) : (updateWarp s k f).vfs = s.vfs := by unfold updateWarp; split <;> rfl
@[simp] theorem updateWarp_configs (s : State) (k : Nat) (f : Warp → Warp) : (updateWarp s k f).configs = s.configs := by unfold updateWarp; split <;> rfl
@[simp] theorem updateWarp_pf (s : State) (k : Nat) (f : Warp → Warp) : (updateWarp s k f).pf = s.pf := by unfold updateWarp; split <;> rfl
@[simp] theorem updateWarp_partmap (s : State) (k : Nat) (f : Warp → Warp) : (updateWarp s k f).partmap = s.partmap := by unfold updateWarp; split <;> rfl
@[simp] theorem updateWarp_coh (s : State) (k : Nat) (f : Warp → Warp) : (updateWarp s k f).coh = s.coh := by unfold updateWarp; split <;> rfl
@[simp] theorem updateWarp_caches (s : State) (k : Nat) (f : Warp → Warp) : (updateWarp s k f).caches = s.caches := by unfold updateWarp; split <;> rfl
@[simp] theorem updateWarp_homes (s : State) (k : Nat) (f : Warp → Warp) : (updateWarp s k f).homes = s.homes := by unfold updateWarp; split <;> rfl
@[simp] theorem updateWarp_ply (s : State) (k : Nat) (f : Warp → Warp) : (updateWarp s k f).ply = s.ply := by unfold updateWarp; split <;> rfl
@[simp] theorem updateWarp_poison (s : State) (k : Nat) (f : Warp → Warp) : (updateWarp s k f).poison = s.poison := by unfold updateWarp; split <;> rfl
@[simp] theorem updateWarp_harts (s : State) (k : Nat) (f : Warp → Warp) : (updateWarp s k f).harts = s.harts := by unfold updateWarp; split <;> rfl
@[simp] theorem updateWarp_islandTime (s : State) (k : Nat) (f : Warp → Warp) : (updateWarp s k f).islandTime = s.islandTime := by unfold updateWarp; split <;> rfl
@[simp] theorem updateWarp_cores (s : State) (k : Nat) (f : Warp → Warp) : (updateWarp s k f).cores = s.cores := by unfold updateWarp; split <;> rfl
@[simp] theorem updateWarp_hbmStacks (s : State) (k : Nat) (f : Warp → Warp) : (updateWarp s k f).hbmStacks = s.hbmStacks := by unfold updateWarp; split <;> rfl
@[simp] theorem updateWarp_ports (s : State) (k : Nat) (f : Warp → Warp) : (updateWarp s k f).ports = s.ports := by unfold updateWarp; split <;> rfl
@[simp] theorem updateWarp_gated (s : State) (k : Nat) (f : Warp → Warp) : (updateWarp s k f).gated = s.gated := by unfold updateWarp; split <;> rfl
@[simp] theorem updateWarp_sec (s : State) (k : Nat) (f : Warp → Warp) : (updateWarp s k f).sec = s.sec := by unfold updateWarp; split <;> rfl
@[simp] theorem updateWarp_saved (s : State) (k : Nat) (f : Warp → Warp) : (updateWarp s k f).saved = s.saved := by unfold updateWarp; split <;> rfl
@[simp] theorem updateWarp_sealed (s : State) (k : Nat) (f : Warp → Warp) : (updateWarp s k f).sealed = s.sealed := by unfold updateWarp; split <;> rfl
@[simp] theorem updateWarp_stopping (s : State) (k : Nat) (f : Warp → Warp) : (updateWarp s k f).stopping = s.stopping := by unfold updateWarp; split <;> rfl
@[simp] theorem updateWarp_escalating (s : State) (k : Nat) (f : Warp → Warp) : (updateWarp s k f).escalating = s.escalating := by unfold updateWarp; split <;> rfl
@[simp] theorem updateWarp_answers (s : State) (k : Nat) (f : Warp → Warp) : (updateWarp s k f).answers = s.answers := by unfold updateWarp; split <;> rfl
@[simp] theorem updateWarp_vectors (s : State) (k : Nat) (f : Warp → Warp) : (updateWarp s k f).vectors = s.vectors := by unfold updateWarp; split <;> rfl
@[simp] theorem updateWarp_pkg (s : State) (k : Nat) (f : Warp → Warp) : (updateWarp s k f).pkg = s.pkg := by unfold updateWarp; split <;> rfl
@[simp] theorem updateWarp_routes (s : State) (k : Nat) (f : Warp → Warp) : (updateWarp s k f).routes = s.routes := by unfold updateWarp; split <;> rfl
@[simp] theorem updateWarp_remoteRanges (s : State) (k : Nat) (f : Warp → Warp) : (updateWarp s k f).remoteRanges = s.remoteRanges := by unfold updateWarp; split <;> rfl
@[simp] theorem updateWarp_agenda (s : State) (k : Nat) (f : Warp → Warp) : (updateWarp s k f).agenda = s.agenda := by unfold updateWarp; split <;> rfl
@[simp] theorem updateWarp_heldOutside (s : State) (k : Nat) (f : Warp → Warp) : (updateWarp s k f).heldOutside = s.heldOutside := by unfold updateWarp; split <;> rfl
@[simp] theorem updateWarp_heldLines (s : State) (k : Nat) (f : Warp → Warp) : (updateWarp s k f).heldLines = s.heldLines := by unfold updateWarp; split <;> rfl
@[simp] theorem updateWarp_heldObj (s : State) (k : Nat) (f : Warp → Warp) : (updateWarp s k f).heldObj = s.heldObj := by unfold updateWarp; split <;> rfl
@[simp] theorem updateWarp_retained (s : State) (k : Nat) (f : Warp → Warp) : (updateWarp s k f).retained = s.retained := by unfold updateWarp; split <;> rfl
@[simp] theorem updateWarp_changes (s : State) (k : Nat) (f : Warp → Warp) : (updateWarp s k f).changes = s.changes := by unfold updateWarp; split <;> rfl
@[simp] theorem updateWarp_partTurn (s : State) (k : Nat) (f : Warp → Warp) : (updateWarp s k f).partTurn = s.partTurn := by unfold updateWarp; split <;> rfl
@[simp] theorem updateWarp_rowTurn (s : State) (k : Nat) (f : Warp → Warp) : (updateWarp s k f).rowTurn = s.rowTurn := by unfold updateWarp; split <;> rfl
@[simp] theorem updateWarp_nextId (s : State) (k : Nat) (f : Warp → Warp) : (updateWarp s k f).nextId = s.nextId := by unfold updateWarp; split <;> rfl
@[simp] theorem updateWarp_freeCtr (s : State) (k : Nat) (f : Warp → Warp) : (updateWarp s k f).freeCtr = s.freeCtr := by unfold updateWarp; split <;> rfl
@[simp] theorem updateWarp_now (s : State) (k : Nat) (f : Warp → Warp) : (updateWarp s k f).now = s.now := by unfold updateWarp; split <;> rfl

/-! ### `removeWarp` -/

@[simp] theorem removeWarp_mem (s : State) (k : Nat) : (removeWarp s k).mem = s.mem := by unfold removeWarp; split <;> rfl
@[simp] theorem removeWarp_groups (s : State) (k : Nat) : (removeWarp s k).groups = s.groups := by unfold removeWarp; split <;> rfl
@[simp] theorem removeWarp_units (s : State) (k : Nat) : (removeWarp s k).units = s.units := by unfold removeWarp; split <;> rfl
@[simp] theorem removeWarp_copies (s : State) (k : Nat) : (removeWarp s k).copies = s.copies := by unfold removeWarp; split <;> rfl
@[simp] theorem removeWarp_patterns (s : State) (k : Nat) : (removeWarp s k).patterns = s.patterns := by unfold removeWarp; split <;> rfl
@[simp] theorem removeWarp_bobbins (s : State) (k : Nat) : (removeWarp s k).bobbins = s.bobbins := by unfold removeWarp; split <;> rfl
@[simp] theorem removeWarp_segments (s : State) (k : Nat) : (removeWarp s k).segments = s.segments := by unfold removeWarp; split <;> rfl
@[simp] theorem removeWarp_heddles (s : State) (k : Nat) : (removeWarp s k).heddles = s.heddles := by unfold removeWarp; split <;> rfl
@[simp] theorem removeWarp_queues (s : State) (k : Nat) : (removeWarp s k).queues = s.queues := by unfold removeWarp; split <;> rfl
@[simp] theorem removeWarp_launches (s : State) (k : Nat) : (removeWarp s k).launches = s.launches := by unfold removeWarp; split <;> rfl
@[simp] theorem removeWarp_decisions (s : State) (k : Nat) : (removeWarp s k).decisions = s.decisions := by unfold removeWarp; split <;> rfl
@[simp] theorem removeWarp_contexts (s : State) (k : Nat) : (removeWarp s k).contexts = s.contexts := by unfold removeWarp; split <;> rfl
@[simp] theorem removeWarp_faults (s : State) (k : Nat) : (removeWarp s k).faults = s.faults := by unfold removeWarp; split <;> rfl
@[simp] theorem removeWarp_vfs (s : State) (k : Nat) : (removeWarp s k).vfs = s.vfs := by unfold removeWarp; split <;> rfl
@[simp] theorem removeWarp_configs (s : State) (k : Nat) : (removeWarp s k).configs = s.configs := by unfold removeWarp; split <;> rfl
@[simp] theorem removeWarp_pf (s : State) (k : Nat) : (removeWarp s k).pf = s.pf := by unfold removeWarp; split <;> rfl
@[simp] theorem removeWarp_partmap (s : State) (k : Nat) : (removeWarp s k).partmap = s.partmap := by unfold removeWarp; split <;> rfl
@[simp] theorem removeWarp_coh (s : State) (k : Nat) : (removeWarp s k).coh = s.coh := by unfold removeWarp; split <;> rfl
@[simp] theorem removeWarp_caches (s : State) (k : Nat) : (removeWarp s k).caches = s.caches := by unfold removeWarp; split <;> rfl
@[simp] theorem removeWarp_homes (s : State) (k : Nat) : (removeWarp s k).homes = s.homes := by unfold removeWarp; split <;> rfl
@[simp] theorem removeWarp_ply (s : State) (k : Nat) : (removeWarp s k).ply = s.ply := by unfold removeWarp; split <;> rfl
@[simp] theorem removeWarp_poison (s : State) (k : Nat) : (removeWarp s k).poison = s.poison := by unfold removeWarp; split <;> rfl
@[simp] theorem removeWarp_harts (s : State) (k : Nat) : (removeWarp s k).harts = s.harts := by unfold removeWarp; split <;> rfl
@[simp] theorem removeWarp_islandTime (s : State) (k : Nat) : (removeWarp s k).islandTime = s.islandTime := by unfold removeWarp; split <;> rfl
@[simp] theorem removeWarp_cores (s : State) (k : Nat) : (removeWarp s k).cores = s.cores := by unfold removeWarp; split <;> rfl
@[simp] theorem removeWarp_hbmStacks (s : State) (k : Nat) : (removeWarp s k).hbmStacks = s.hbmStacks := by unfold removeWarp; split <;> rfl
@[simp] theorem removeWarp_ports (s : State) (k : Nat) : (removeWarp s k).ports = s.ports := by unfold removeWarp; split <;> rfl
@[simp] theorem removeWarp_gated (s : State) (k : Nat) : (removeWarp s k).gated = s.gated := by unfold removeWarp; split <;> rfl
@[simp] theorem removeWarp_sec (s : State) (k : Nat) : (removeWarp s k).sec = s.sec := by unfold removeWarp; split <;> rfl
@[simp] theorem removeWarp_saved (s : State) (k : Nat) : (removeWarp s k).saved = s.saved := by unfold removeWarp; split <;> rfl
@[simp] theorem removeWarp_sealed (s : State) (k : Nat) : (removeWarp s k).sealed = s.sealed := by unfold removeWarp; split <;> rfl
@[simp] theorem removeWarp_stopping (s : State) (k : Nat) : (removeWarp s k).stopping = s.stopping := by unfold removeWarp; split <;> rfl
@[simp] theorem removeWarp_escalating (s : State) (k : Nat) : (removeWarp s k).escalating = s.escalating := by unfold removeWarp; split <;> rfl
@[simp] theorem removeWarp_answers (s : State) (k : Nat) : (removeWarp s k).answers = s.answers := by unfold removeWarp; split <;> rfl
@[simp] theorem removeWarp_vectors (s : State) (k : Nat) : (removeWarp s k).vectors = s.vectors := by unfold removeWarp; split <;> rfl
@[simp] theorem removeWarp_pkg (s : State) (k : Nat) : (removeWarp s k).pkg = s.pkg := by unfold removeWarp; split <;> rfl
@[simp] theorem removeWarp_routes (s : State) (k : Nat) : (removeWarp s k).routes = s.routes := by unfold removeWarp; split <;> rfl
@[simp] theorem removeWarp_remoteRanges (s : State) (k : Nat) : (removeWarp s k).remoteRanges = s.remoteRanges := by unfold removeWarp; split <;> rfl
@[simp] theorem removeWarp_agenda (s : State) (k : Nat) : (removeWarp s k).agenda = s.agenda := by unfold removeWarp; split <;> rfl
@[simp] theorem removeWarp_heldOutside (s : State) (k : Nat) : (removeWarp s k).heldOutside = s.heldOutside := by unfold removeWarp; split <;> rfl
@[simp] theorem removeWarp_heldLines (s : State) (k : Nat) : (removeWarp s k).heldLines = s.heldLines := by unfold removeWarp; split <;> rfl
@[simp] theorem removeWarp_heldObj (s : State) (k : Nat) : (removeWarp s k).heldObj = s.heldObj := by unfold removeWarp; split <;> rfl
@[simp] theorem removeWarp_retained (s : State) (k : Nat) : (removeWarp s k).retained = s.retained := by unfold removeWarp; split <;> rfl
@[simp] theorem removeWarp_changes (s : State) (k : Nat) : (removeWarp s k).changes = s.changes := by unfold removeWarp; split <;> rfl
@[simp] theorem removeWarp_partTurn (s : State) (k : Nat) : (removeWarp s k).partTurn = s.partTurn := by unfold removeWarp; split <;> rfl
@[simp] theorem removeWarp_rowTurn (s : State) (k : Nat) : (removeWarp s k).rowTurn = s.rowTurn := by unfold removeWarp; split <;> rfl
@[simp] theorem removeWarp_nextId (s : State) (k : Nat) : (removeWarp s k).nextId = s.nextId := by unfold removeWarp; split <;> rfl
@[simp] theorem removeWarp_freeCtr (s : State) (k : Nat) : (removeWarp s k).freeCtr = s.freeCtr := by unfold removeWarp; split <;> rfl
@[simp] theorem removeWarp_now (s : State) (k : Nat) : (removeWarp s k).now = s.now := by unfold removeWarp; split <;> rfl

/-! ### `mapWarps` -/

@[simp] theorem mapWarps_mem (s : State) (f : Warp → Warp) : (mapWarps s f).mem = s.mem := rfl
@[simp] theorem mapWarps_groups (s : State) (f : Warp → Warp) : (mapWarps s f).groups = s.groups := rfl
@[simp] theorem mapWarps_units (s : State) (f : Warp → Warp) : (mapWarps s f).units = s.units := rfl
@[simp] theorem mapWarps_copies (s : State) (f : Warp → Warp) : (mapWarps s f).copies = s.copies := rfl
@[simp] theorem mapWarps_patterns (s : State) (f : Warp → Warp) : (mapWarps s f).patterns = s.patterns := rfl
@[simp] theorem mapWarps_bobbins (s : State) (f : Warp → Warp) : (mapWarps s f).bobbins = s.bobbins := rfl
@[simp] theorem mapWarps_segments (s : State) (f : Warp → Warp) : (mapWarps s f).segments = s.segments := rfl
@[simp] theorem mapWarps_heddles (s : State) (f : Warp → Warp) : (mapWarps s f).heddles = s.heddles := rfl
@[simp] theorem mapWarps_queues (s : State) (f : Warp → Warp) : (mapWarps s f).queues = s.queues := rfl
@[simp] theorem mapWarps_launches (s : State) (f : Warp → Warp) : (mapWarps s f).launches = s.launches := rfl
@[simp] theorem mapWarps_decisions (s : State) (f : Warp → Warp) : (mapWarps s f).decisions = s.decisions := rfl
@[simp] theorem mapWarps_contexts (s : State) (f : Warp → Warp) : (mapWarps s f).contexts = s.contexts := rfl
@[simp] theorem mapWarps_faults (s : State) (f : Warp → Warp) : (mapWarps s f).faults = s.faults := rfl
@[simp] theorem mapWarps_vfs (s : State) (f : Warp → Warp) : (mapWarps s f).vfs = s.vfs := rfl
@[simp] theorem mapWarps_configs (s : State) (f : Warp → Warp) : (mapWarps s f).configs = s.configs := rfl
@[simp] theorem mapWarps_pf (s : State) (f : Warp → Warp) : (mapWarps s f).pf = s.pf := rfl
@[simp] theorem mapWarps_partmap (s : State) (f : Warp → Warp) : (mapWarps s f).partmap = s.partmap := rfl
@[simp] theorem mapWarps_coh (s : State) (f : Warp → Warp) : (mapWarps s f).coh = s.coh := rfl
@[simp] theorem mapWarps_caches (s : State) (f : Warp → Warp) : (mapWarps s f).caches = s.caches := rfl
@[simp] theorem mapWarps_homes (s : State) (f : Warp → Warp) : (mapWarps s f).homes = s.homes := rfl
@[simp] theorem mapWarps_ply (s : State) (f : Warp → Warp) : (mapWarps s f).ply = s.ply := rfl
@[simp] theorem mapWarps_poison (s : State) (f : Warp → Warp) : (mapWarps s f).poison = s.poison := rfl
@[simp] theorem mapWarps_harts (s : State) (f : Warp → Warp) : (mapWarps s f).harts = s.harts := rfl
@[simp] theorem mapWarps_islandTime (s : State) (f : Warp → Warp) : (mapWarps s f).islandTime = s.islandTime := rfl
@[simp] theorem mapWarps_cores (s : State) (f : Warp → Warp) : (mapWarps s f).cores = s.cores := rfl
@[simp] theorem mapWarps_hbmStacks (s : State) (f : Warp → Warp) : (mapWarps s f).hbmStacks = s.hbmStacks := rfl
@[simp] theorem mapWarps_ports (s : State) (f : Warp → Warp) : (mapWarps s f).ports = s.ports := rfl
@[simp] theorem mapWarps_gated (s : State) (f : Warp → Warp) : (mapWarps s f).gated = s.gated := rfl
@[simp] theorem mapWarps_sec (s : State) (f : Warp → Warp) : (mapWarps s f).sec = s.sec := rfl
@[simp] theorem mapWarps_saved (s : State) (f : Warp → Warp) : (mapWarps s f).saved = s.saved := rfl
@[simp] theorem mapWarps_sealed (s : State) (f : Warp → Warp) : (mapWarps s f).sealed = s.sealed := rfl
@[simp] theorem mapWarps_stopping (s : State) (f : Warp → Warp) : (mapWarps s f).stopping = s.stopping := rfl
@[simp] theorem mapWarps_escalating (s : State) (f : Warp → Warp) : (mapWarps s f).escalating = s.escalating := rfl
@[simp] theorem mapWarps_answers (s : State) (f : Warp → Warp) : (mapWarps s f).answers = s.answers := rfl
@[simp] theorem mapWarps_vectors (s : State) (f : Warp → Warp) : (mapWarps s f).vectors = s.vectors := rfl
@[simp] theorem mapWarps_pkg (s : State) (f : Warp → Warp) : (mapWarps s f).pkg = s.pkg := rfl
@[simp] theorem mapWarps_routes (s : State) (f : Warp → Warp) : (mapWarps s f).routes = s.routes := rfl
@[simp] theorem mapWarps_remoteRanges (s : State) (f : Warp → Warp) : (mapWarps s f).remoteRanges = s.remoteRanges := rfl
@[simp] theorem mapWarps_agenda (s : State) (f : Warp → Warp) : (mapWarps s f).agenda = s.agenda := rfl
@[simp] theorem mapWarps_heldOutside (s : State) (f : Warp → Warp) : (mapWarps s f).heldOutside = s.heldOutside := rfl
@[simp] theorem mapWarps_heldLines (s : State) (f : Warp → Warp) : (mapWarps s f).heldLines = s.heldLines := rfl
@[simp] theorem mapWarps_heldObj (s : State) (f : Warp → Warp) : (mapWarps s f).heldObj = s.heldObj := rfl
@[simp] theorem mapWarps_retained (s : State) (f : Warp → Warp) : (mapWarps s f).retained = s.retained := rfl
@[simp] theorem mapWarps_changes (s : State) (f : Warp → Warp) : (mapWarps s f).changes = s.changes := rfl
@[simp] theorem mapWarps_partTurn (s : State) (f : Warp → Warp) : (mapWarps s f).partTurn = s.partTurn := rfl
@[simp] theorem mapWarps_rowTurn (s : State) (f : Warp → Warp) : (mapWarps s f).rowTurn = s.rowTurn := rfl
@[simp] theorem mapWarps_nextId (s : State) (f : Warp → Warp) : (mapWarps s f).nextId = s.nextId := rfl
@[simp] theorem mapWarps_freeCtr (s : State) (f : Warp → Warp) : (mapWarps s f).freeCtr = s.freeCtr := rfl
@[simp] theorem mapWarps_now (s : State) (f : Warp → Warp) : (mapWarps s f).now = s.now := rfl

/-! ### `updateCopy` -/

@[simp] theorem updateCopy_warp (s : State) (k : Nat) (f : Copy → Copy) : (updateCopy s k f).warp = s.warp := rfl
@[simp] theorem updateCopy_others (s : State) (k : Nat) (f : Copy → Copy) : (updateCopy s k f).others = s.others := rfl
@[simp] theorem updateCopy_mem (s : State) (k : Nat) (f : Copy → Copy) : (updateCopy s k f).mem = s.mem := rfl
@[simp] theorem updateCopy_groups (s : State) (k : Nat) (f : Copy → Copy) : (updateCopy s k f).groups = s.groups := rfl
@[simp] theorem updateCopy_units (s : State) (k : Nat) (f : Copy → Copy) : (updateCopy s k f).units = s.units := rfl
@[simp] theorem updateCopy_patterns (s : State) (k : Nat) (f : Copy → Copy) : (updateCopy s k f).patterns = s.patterns := rfl
@[simp] theorem updateCopy_bobbins (s : State) (k : Nat) (f : Copy → Copy) : (updateCopy s k f).bobbins = s.bobbins := rfl
@[simp] theorem updateCopy_segments (s : State) (k : Nat) (f : Copy → Copy) : (updateCopy s k f).segments = s.segments := rfl
@[simp] theorem updateCopy_heddles (s : State) (k : Nat) (f : Copy → Copy) : (updateCopy s k f).heddles = s.heddles := rfl
@[simp] theorem updateCopy_queues (s : State) (k : Nat) (f : Copy → Copy) : (updateCopy s k f).queues = s.queues := rfl
@[simp] theorem updateCopy_launches (s : State) (k : Nat) (f : Copy → Copy) : (updateCopy s k f).launches = s.launches := rfl
@[simp] theorem updateCopy_decisions (s : State) (k : Nat) (f : Copy → Copy) : (updateCopy s k f).decisions = s.decisions := rfl
@[simp] theorem updateCopy_contexts (s : State) (k : Nat) (f : Copy → Copy) : (updateCopy s k f).contexts = s.contexts := rfl
@[simp] theorem updateCopy_faults (s : State) (k : Nat) (f : Copy → Copy) : (updateCopy s k f).faults = s.faults := rfl
@[simp] theorem updateCopy_vfs (s : State) (k : Nat) (f : Copy → Copy) : (updateCopy s k f).vfs = s.vfs := rfl
@[simp] theorem updateCopy_configs (s : State) (k : Nat) (f : Copy → Copy) : (updateCopy s k f).configs = s.configs := rfl
@[simp] theorem updateCopy_pf (s : State) (k : Nat) (f : Copy → Copy) : (updateCopy s k f).pf = s.pf := rfl
@[simp] theorem updateCopy_partmap (s : State) (k : Nat) (f : Copy → Copy) : (updateCopy s k f).partmap = s.partmap := rfl
@[simp] theorem updateCopy_coh (s : State) (k : Nat) (f : Copy → Copy) : (updateCopy s k f).coh = s.coh := rfl
@[simp] theorem updateCopy_caches (s : State) (k : Nat) (f : Copy → Copy) : (updateCopy s k f).caches = s.caches := rfl
@[simp] theorem updateCopy_homes (s : State) (k : Nat) (f : Copy → Copy) : (updateCopy s k f).homes = s.homes := rfl
@[simp] theorem updateCopy_ply (s : State) (k : Nat) (f : Copy → Copy) : (updateCopy s k f).ply = s.ply := rfl
@[simp] theorem updateCopy_poison (s : State) (k : Nat) (f : Copy → Copy) : (updateCopy s k f).poison = s.poison := rfl
@[simp] theorem updateCopy_harts (s : State) (k : Nat) (f : Copy → Copy) : (updateCopy s k f).harts = s.harts := rfl
@[simp] theorem updateCopy_islandTime (s : State) (k : Nat) (f : Copy → Copy) : (updateCopy s k f).islandTime = s.islandTime := rfl
@[simp] theorem updateCopy_cores (s : State) (k : Nat) (f : Copy → Copy) : (updateCopy s k f).cores = s.cores := rfl
@[simp] theorem updateCopy_hbmStacks (s : State) (k : Nat) (f : Copy → Copy) : (updateCopy s k f).hbmStacks = s.hbmStacks := rfl
@[simp] theorem updateCopy_ports (s : State) (k : Nat) (f : Copy → Copy) : (updateCopy s k f).ports = s.ports := rfl
@[simp] theorem updateCopy_gated (s : State) (k : Nat) (f : Copy → Copy) : (updateCopy s k f).gated = s.gated := rfl
@[simp] theorem updateCopy_sec (s : State) (k : Nat) (f : Copy → Copy) : (updateCopy s k f).sec = s.sec := rfl
@[simp] theorem updateCopy_saved (s : State) (k : Nat) (f : Copy → Copy) : (updateCopy s k f).saved = s.saved := rfl
@[simp] theorem updateCopy_sealed (s : State) (k : Nat) (f : Copy → Copy) : (updateCopy s k f).sealed = s.sealed := rfl
@[simp] theorem updateCopy_stopping (s : State) (k : Nat) (f : Copy → Copy) : (updateCopy s k f).stopping = s.stopping := rfl
@[simp] theorem updateCopy_escalating (s : State) (k : Nat) (f : Copy → Copy) : (updateCopy s k f).escalating = s.escalating := rfl
@[simp] theorem updateCopy_answers (s : State) (k : Nat) (f : Copy → Copy) : (updateCopy s k f).answers = s.answers := rfl
@[simp] theorem updateCopy_vectors (s : State) (k : Nat) (f : Copy → Copy) : (updateCopy s k f).vectors = s.vectors := rfl
@[simp] theorem updateCopy_pkg (s : State) (k : Nat) (f : Copy → Copy) : (updateCopy s k f).pkg = s.pkg := rfl
@[simp] theorem updateCopy_routes (s : State) (k : Nat) (f : Copy → Copy) : (updateCopy s k f).routes = s.routes := rfl
@[simp] theorem updateCopy_remoteRanges (s : State) (k : Nat) (f : Copy → Copy) : (updateCopy s k f).remoteRanges = s.remoteRanges := rfl
@[simp] theorem updateCopy_agenda (s : State) (k : Nat) (f : Copy → Copy) : (updateCopy s k f).agenda = s.agenda := rfl
@[simp] theorem updateCopy_heldOutside (s : State) (k : Nat) (f : Copy → Copy) : (updateCopy s k f).heldOutside = s.heldOutside := rfl
@[simp] theorem updateCopy_heldLines (s : State) (k : Nat) (f : Copy → Copy) : (updateCopy s k f).heldLines = s.heldLines := rfl
@[simp] theorem updateCopy_heldObj (s : State) (k : Nat) (f : Copy → Copy) : (updateCopy s k f).heldObj = s.heldObj := rfl
@[simp] theorem updateCopy_retained (s : State) (k : Nat) (f : Copy → Copy) : (updateCopy s k f).retained = s.retained := rfl
@[simp] theorem updateCopy_changes (s : State) (k : Nat) (f : Copy → Copy) : (updateCopy s k f).changes = s.changes := rfl
@[simp] theorem updateCopy_partTurn (s : State) (k : Nat) (f : Copy → Copy) : (updateCopy s k f).partTurn = s.partTurn := rfl
@[simp] theorem updateCopy_rowTurn (s : State) (k : Nat) (f : Copy → Copy) : (updateCopy s k f).rowTurn = s.rowTurn := rfl
@[simp] theorem updateCopy_nextId (s : State) (k : Nat) (f : Copy → Copy) : (updateCopy s k f).nextId = s.nextId := rfl
@[simp] theorem updateCopy_freeCtr (s : State) (k : Nat) (f : Copy → Copy) : (updateCopy s k f).freeCtr = s.freeCtr := rfl
@[simp] theorem updateCopy_now (s : State) (k : Nat) (f : Copy → Copy) : (updateCopy s k f).now = s.now := rfl

/-! ### `updateConfig` -/

@[simp] theorem updateConfig_warp (s : State) (v : Nat) (f : VfConfig → VfConfig) : (updateConfig s v f).warp = s.warp := by unfold updateConfig; split <;> rfl
@[simp] theorem updateConfig_others (s : State) (v : Nat) (f : VfConfig → VfConfig) : (updateConfig s v f).others = s.others := by unfold updateConfig; split <;> rfl
@[simp] theorem updateConfig_mem (s : State) (v : Nat) (f : VfConfig → VfConfig) : (updateConfig s v f).mem = s.mem := by unfold updateConfig; split <;> rfl
@[simp] theorem updateConfig_groups (s : State) (v : Nat) (f : VfConfig → VfConfig) : (updateConfig s v f).groups = s.groups := by unfold updateConfig; split <;> rfl
@[simp] theorem updateConfig_units (s : State) (v : Nat) (f : VfConfig → VfConfig) : (updateConfig s v f).units = s.units := by unfold updateConfig; split <;> rfl
@[simp] theorem updateConfig_copies (s : State) (v : Nat) (f : VfConfig → VfConfig) : (updateConfig s v f).copies = s.copies := by unfold updateConfig; split <;> rfl
@[simp] theorem updateConfig_patterns (s : State) (v : Nat) (f : VfConfig → VfConfig) : (updateConfig s v f).patterns = s.patterns := by unfold updateConfig; split <;> rfl
@[simp] theorem updateConfig_bobbins (s : State) (v : Nat) (f : VfConfig → VfConfig) : (updateConfig s v f).bobbins = s.bobbins := by unfold updateConfig; split <;> rfl
@[simp] theorem updateConfig_segments (s : State) (v : Nat) (f : VfConfig → VfConfig) : (updateConfig s v f).segments = s.segments := by unfold updateConfig; split <;> rfl
@[simp] theorem updateConfig_heddles (s : State) (v : Nat) (f : VfConfig → VfConfig) : (updateConfig s v f).heddles = s.heddles := by unfold updateConfig; split <;> rfl
@[simp] theorem updateConfig_queues (s : State) (v : Nat) (f : VfConfig → VfConfig) : (updateConfig s v f).queues = s.queues := by unfold updateConfig; split <;> rfl
@[simp] theorem updateConfig_launches (s : State) (v : Nat) (f : VfConfig → VfConfig) : (updateConfig s v f).launches = s.launches := by unfold updateConfig; split <;> rfl
@[simp] theorem updateConfig_decisions (s : State) (v : Nat) (f : VfConfig → VfConfig) : (updateConfig s v f).decisions = s.decisions := by unfold updateConfig; split <;> rfl
@[simp] theorem updateConfig_contexts (s : State) (v : Nat) (f : VfConfig → VfConfig) : (updateConfig s v f).contexts = s.contexts := by unfold updateConfig; split <;> rfl
@[simp] theorem updateConfig_faults (s : State) (v : Nat) (f : VfConfig → VfConfig) : (updateConfig s v f).faults = s.faults := by unfold updateConfig; split <;> rfl
@[simp] theorem updateConfig_vfs (s : State) (v : Nat) (f : VfConfig → VfConfig) : (updateConfig s v f).vfs = s.vfs := by unfold updateConfig; split <;> rfl
@[simp] theorem updateConfig_pf (s : State) (v : Nat) (f : VfConfig → VfConfig) : (updateConfig s v f).pf = s.pf := by unfold updateConfig; split <;> rfl
@[simp] theorem updateConfig_partmap (s : State) (v : Nat) (f : VfConfig → VfConfig) : (updateConfig s v f).partmap = s.partmap := by unfold updateConfig; split <;> rfl
@[simp] theorem updateConfig_coh (s : State) (v : Nat) (f : VfConfig → VfConfig) : (updateConfig s v f).coh = s.coh := by unfold updateConfig; split <;> rfl
@[simp] theorem updateConfig_caches (s : State) (v : Nat) (f : VfConfig → VfConfig) : (updateConfig s v f).caches = s.caches := by unfold updateConfig; split <;> rfl
@[simp] theorem updateConfig_homes (s : State) (v : Nat) (f : VfConfig → VfConfig) : (updateConfig s v f).homes = s.homes := by unfold updateConfig; split <;> rfl
@[simp] theorem updateConfig_ply (s : State) (v : Nat) (f : VfConfig → VfConfig) : (updateConfig s v f).ply = s.ply := by unfold updateConfig; split <;> rfl
@[simp] theorem updateConfig_poison (s : State) (v : Nat) (f : VfConfig → VfConfig) : (updateConfig s v f).poison = s.poison := by unfold updateConfig; split <;> rfl
@[simp] theorem updateConfig_harts (s : State) (v : Nat) (f : VfConfig → VfConfig) : (updateConfig s v f).harts = s.harts := by unfold updateConfig; split <;> rfl
@[simp] theorem updateConfig_islandTime (s : State) (v : Nat) (f : VfConfig → VfConfig) : (updateConfig s v f).islandTime = s.islandTime := by unfold updateConfig; split <;> rfl
@[simp] theorem updateConfig_cores (s : State) (v : Nat) (f : VfConfig → VfConfig) : (updateConfig s v f).cores = s.cores := by unfold updateConfig; split <;> rfl
@[simp] theorem updateConfig_hbmStacks (s : State) (v : Nat) (f : VfConfig → VfConfig) : (updateConfig s v f).hbmStacks = s.hbmStacks := by unfold updateConfig; split <;> rfl
@[simp] theorem updateConfig_ports (s : State) (v : Nat) (f : VfConfig → VfConfig) : (updateConfig s v f).ports = s.ports := by unfold updateConfig; split <;> rfl
@[simp] theorem updateConfig_gated (s : State) (v : Nat) (f : VfConfig → VfConfig) : (updateConfig s v f).gated = s.gated := by unfold updateConfig; split <;> rfl
@[simp] theorem updateConfig_sec (s : State) (v : Nat) (f : VfConfig → VfConfig) : (updateConfig s v f).sec = s.sec := by unfold updateConfig; split <;> rfl
@[simp] theorem updateConfig_saved (s : State) (v : Nat) (f : VfConfig → VfConfig) : (updateConfig s v f).saved = s.saved := by unfold updateConfig; split <;> rfl
@[simp] theorem updateConfig_sealed (s : State) (v : Nat) (f : VfConfig → VfConfig) : (updateConfig s v f).sealed = s.sealed := by unfold updateConfig; split <;> rfl
@[simp] theorem updateConfig_stopping (s : State) (v : Nat) (f : VfConfig → VfConfig) : (updateConfig s v f).stopping = s.stopping := by unfold updateConfig; split <;> rfl
@[simp] theorem updateConfig_escalating (s : State) (v : Nat) (f : VfConfig → VfConfig) : (updateConfig s v f).escalating = s.escalating := by unfold updateConfig; split <;> rfl
@[simp] theorem updateConfig_answers (s : State) (v : Nat) (f : VfConfig → VfConfig) : (updateConfig s v f).answers = s.answers := by unfold updateConfig; split <;> rfl
@[simp] theorem updateConfig_vectors (s : State) (v : Nat) (f : VfConfig → VfConfig) : (updateConfig s v f).vectors = s.vectors := by unfold updateConfig; split <;> rfl
@[simp] theorem updateConfig_pkg (s : State) (v : Nat) (f : VfConfig → VfConfig) : (updateConfig s v f).pkg = s.pkg := by unfold updateConfig; split <;> rfl
@[simp] theorem updateConfig_routes (s : State) (v : Nat) (f : VfConfig → VfConfig) : (updateConfig s v f).routes = s.routes := by unfold updateConfig; split <;> rfl
@[simp] theorem updateConfig_remoteRanges (s : State) (v : Nat) (f : VfConfig → VfConfig) : (updateConfig s v f).remoteRanges = s.remoteRanges := by unfold updateConfig; split <;> rfl
@[simp] theorem updateConfig_agenda (s : State) (v : Nat) (f : VfConfig → VfConfig) : (updateConfig s v f).agenda = s.agenda := by unfold updateConfig; split <;> rfl
@[simp] theorem updateConfig_heldOutside (s : State) (v : Nat) (f : VfConfig → VfConfig) : (updateConfig s v f).heldOutside = s.heldOutside := by unfold updateConfig; split <;> rfl
@[simp] theorem updateConfig_heldLines (s : State) (v : Nat) (f : VfConfig → VfConfig) : (updateConfig s v f).heldLines = s.heldLines := by unfold updateConfig; split <;> rfl
@[simp] theorem updateConfig_heldObj (s : State) (v : Nat) (f : VfConfig → VfConfig) : (updateConfig s v f).heldObj = s.heldObj := by unfold updateConfig; split <;> rfl
@[simp] theorem updateConfig_retained (s : State) (v : Nat) (f : VfConfig → VfConfig) : (updateConfig s v f).retained = s.retained := by unfold updateConfig; split <;> rfl
@[simp] theorem updateConfig_changes (s : State) (v : Nat) (f : VfConfig → VfConfig) : (updateConfig s v f).changes = s.changes := by unfold updateConfig; split <;> rfl
@[simp] theorem updateConfig_partTurn (s : State) (v : Nat) (f : VfConfig → VfConfig) : (updateConfig s v f).partTurn = s.partTurn := by unfold updateConfig; split <;> rfl
@[simp] theorem updateConfig_rowTurn (s : State) (v : Nat) (f : VfConfig → VfConfig) : (updateConfig s v f).rowTurn = s.rowTurn := by unfold updateConfig; split <;> rfl
@[simp] theorem updateConfig_nextId (s : State) (v : Nat) (f : VfConfig → VfConfig) : (updateConfig s v f).nextId = s.nextId := by unfold updateConfig; split <;> rfl
@[simp] theorem updateConfig_freeCtr (s : State) (v : Nat) (f : VfConfig → VfConfig) : (updateConfig s v f).freeCtr = s.freeCtr := by unfold updateConfig; split <;> rfl
@[simp] theorem updateConfig_now (s : State) (v : Nat) (f : VfConfig → VfConfig) : (updateConfig s v f).now = s.now := by unfold updateConfig; split <;> rfl

/-! ### `dropL1` -/

@[simp] theorem dropL1_warp (s : State) (p : L1Line → Bool) : (dropL1 s p).warp = s.warp := rfl
@[simp] theorem dropL1_others (s : State) (p : L1Line → Bool) : (dropL1 s p).others = s.others := rfl
@[simp] theorem dropL1_mem (s : State) (p : L1Line → Bool) : (dropL1 s p).mem = s.mem := rfl
@[simp] theorem dropL1_groups (s : State) (p : L1Line → Bool) : (dropL1 s p).groups = s.groups := rfl
@[simp] theorem dropL1_units (s : State) (p : L1Line → Bool) : (dropL1 s p).units = s.units := rfl
@[simp] theorem dropL1_copies (s : State) (p : L1Line → Bool) : (dropL1 s p).copies = s.copies := rfl
@[simp] theorem dropL1_patterns (s : State) (p : L1Line → Bool) : (dropL1 s p).patterns = s.patterns := rfl
@[simp] theorem dropL1_bobbins (s : State) (p : L1Line → Bool) : (dropL1 s p).bobbins = s.bobbins := rfl
@[simp] theorem dropL1_segments (s : State) (p : L1Line → Bool) : (dropL1 s p).segments = s.segments := rfl
@[simp] theorem dropL1_heddles (s : State) (p : L1Line → Bool) : (dropL1 s p).heddles = s.heddles := rfl
@[simp] theorem dropL1_queues (s : State) (p : L1Line → Bool) : (dropL1 s p).queues = s.queues := rfl
@[simp] theorem dropL1_launches (s : State) (p : L1Line → Bool) : (dropL1 s p).launches = s.launches := rfl
@[simp] theorem dropL1_decisions (s : State) (p : L1Line → Bool) : (dropL1 s p).decisions = s.decisions := rfl
@[simp] theorem dropL1_contexts (s : State) (p : L1Line → Bool) : (dropL1 s p).contexts = s.contexts := rfl
@[simp] theorem dropL1_faults (s : State) (p : L1Line → Bool) : (dropL1 s p).faults = s.faults := rfl
@[simp] theorem dropL1_vfs (s : State) (p : L1Line → Bool) : (dropL1 s p).vfs = s.vfs := rfl
@[simp] theorem dropL1_configs (s : State) (p : L1Line → Bool) : (dropL1 s p).configs = s.configs := rfl
@[simp] theorem dropL1_pf (s : State) (p : L1Line → Bool) : (dropL1 s p).pf = s.pf := rfl
@[simp] theorem dropL1_partmap (s : State) (p : L1Line → Bool) : (dropL1 s p).partmap = s.partmap := rfl
@[simp] theorem dropL1_caches (s : State) (p : L1Line → Bool) : (dropL1 s p).caches = s.caches := rfl
@[simp] theorem dropL1_homes (s : State) (p : L1Line → Bool) : (dropL1 s p).homes = s.homes := rfl
@[simp] theorem dropL1_ply (s : State) (p : L1Line → Bool) : (dropL1 s p).ply = s.ply := rfl
@[simp] theorem dropL1_poison (s : State) (p : L1Line → Bool) : (dropL1 s p).poison = s.poison := rfl
@[simp] theorem dropL1_harts (s : State) (p : L1Line → Bool) : (dropL1 s p).harts = s.harts := rfl
@[simp] theorem dropL1_islandTime (s : State) (p : L1Line → Bool) : (dropL1 s p).islandTime = s.islandTime := rfl
@[simp] theorem dropL1_cores (s : State) (p : L1Line → Bool) : (dropL1 s p).cores = s.cores := rfl
@[simp] theorem dropL1_hbmStacks (s : State) (p : L1Line → Bool) : (dropL1 s p).hbmStacks = s.hbmStacks := rfl
@[simp] theorem dropL1_ports (s : State) (p : L1Line → Bool) : (dropL1 s p).ports = s.ports := rfl
@[simp] theorem dropL1_gated (s : State) (p : L1Line → Bool) : (dropL1 s p).gated = s.gated := rfl
@[simp] theorem dropL1_sec (s : State) (p : L1Line → Bool) : (dropL1 s p).sec = s.sec := rfl
@[simp] theorem dropL1_saved (s : State) (p : L1Line → Bool) : (dropL1 s p).saved = s.saved := rfl
@[simp] theorem dropL1_sealed (s : State) (p : L1Line → Bool) : (dropL1 s p).sealed = s.sealed := rfl
@[simp] theorem dropL1_stopping (s : State) (p : L1Line → Bool) : (dropL1 s p).stopping = s.stopping := rfl
@[simp] theorem dropL1_escalating (s : State) (p : L1Line → Bool) : (dropL1 s p).escalating = s.escalating := rfl
@[simp] theorem dropL1_answers (s : State) (p : L1Line → Bool) : (dropL1 s p).answers = s.answers := rfl
@[simp] theorem dropL1_vectors (s : State) (p : L1Line → Bool) : (dropL1 s p).vectors = s.vectors := rfl
@[simp] theorem dropL1_pkg (s : State) (p : L1Line → Bool) : (dropL1 s p).pkg = s.pkg := rfl
@[simp] theorem dropL1_routes (s : State) (p : L1Line → Bool) : (dropL1 s p).routes = s.routes := rfl
@[simp] theorem dropL1_remoteRanges (s : State) (p : L1Line → Bool) : (dropL1 s p).remoteRanges = s.remoteRanges := rfl
@[simp] theorem dropL1_agenda (s : State) (p : L1Line → Bool) : (dropL1 s p).agenda = s.agenda := rfl
@[simp] theorem dropL1_heldOutside (s : State) (p : L1Line → Bool) : (dropL1 s p).heldOutside = s.heldOutside := rfl
@[simp] theorem dropL1_heldLines (s : State) (p : L1Line → Bool) : (dropL1 s p).heldLines = s.heldLines := rfl
@[simp] theorem dropL1_heldObj (s : State) (p : L1Line → Bool) : (dropL1 s p).heldObj = s.heldObj := rfl
@[simp] theorem dropL1_retained (s : State) (p : L1Line → Bool) : (dropL1 s p).retained = s.retained := rfl
@[simp] theorem dropL1_changes (s : State) (p : L1Line → Bool) : (dropL1 s p).changes = s.changes := rfl
@[simp] theorem dropL1_partTurn (s : State) (p : L1Line → Bool) : (dropL1 s p).partTurn = s.partTurn := rfl
@[simp] theorem dropL1_rowTurn (s : State) (p : L1Line → Bool) : (dropL1 s p).rowTurn = s.rowTurn := rfl
@[simp] theorem dropL1_nextId (s : State) (p : L1Line → Bool) : (dropL1 s p).nextId = s.nextId := rfl
@[simp] theorem dropL1_freeCtr (s : State) (p : L1Line → Bool) : (dropL1 s p).freeCtr = s.freeCtr := rfl
@[simp] theorem dropL1_now (s : State) (p : L1Line → Bool) : (dropL1 s p).now = s.now := rfl

/-! ### `mapLoose` -/

@[simp] theorem mapLoose_warp (s : State) (f : LooseWrite → LooseWrite) : (mapLoose s f).warp = s.warp := by unfold mapLoose; split <;> rfl
@[simp] theorem mapLoose_others (s : State) (f : LooseWrite → LooseWrite) : (mapLoose s f).others = s.others := by unfold mapLoose; split <;> rfl
@[simp] theorem mapLoose_mem (s : State) (f : LooseWrite → LooseWrite) : (mapLoose s f).mem = s.mem := by unfold mapLoose; split <;> rfl
@[simp] theorem mapLoose_units (s : State) (f : LooseWrite → LooseWrite) : (mapLoose s f).units = s.units := by unfold mapLoose; split <;> rfl
@[simp] theorem mapLoose_copies (s : State) (f : LooseWrite → LooseWrite) : (mapLoose s f).copies = s.copies := by unfold mapLoose; split <;> rfl
@[simp] theorem mapLoose_patterns (s : State) (f : LooseWrite → LooseWrite) : (mapLoose s f).patterns = s.patterns := by unfold mapLoose; split <;> rfl
@[simp] theorem mapLoose_bobbins (s : State) (f : LooseWrite → LooseWrite) : (mapLoose s f).bobbins = s.bobbins := by unfold mapLoose; split <;> rfl
@[simp] theorem mapLoose_segments (s : State) (f : LooseWrite → LooseWrite) : (mapLoose s f).segments = s.segments := by unfold mapLoose; split <;> rfl
@[simp] theorem mapLoose_heddles (s : State) (f : LooseWrite → LooseWrite) : (mapLoose s f).heddles = s.heddles := by unfold mapLoose; split <;> rfl
@[simp] theorem mapLoose_queues (s : State) (f : LooseWrite → LooseWrite) : (mapLoose s f).queues = s.queues := by unfold mapLoose; split <;> rfl
@[simp] theorem mapLoose_launches (s : State) (f : LooseWrite → LooseWrite) : (mapLoose s f).launches = s.launches := by unfold mapLoose; split <;> rfl
@[simp] theorem mapLoose_decisions (s : State) (f : LooseWrite → LooseWrite) : (mapLoose s f).decisions = s.decisions := by unfold mapLoose; split <;> rfl
@[simp] theorem mapLoose_contexts (s : State) (f : LooseWrite → LooseWrite) : (mapLoose s f).contexts = s.contexts := by unfold mapLoose; split <;> rfl
@[simp] theorem mapLoose_faults (s : State) (f : LooseWrite → LooseWrite) : (mapLoose s f).faults = s.faults := by unfold mapLoose; split <;> rfl
@[simp] theorem mapLoose_vfs (s : State) (f : LooseWrite → LooseWrite) : (mapLoose s f).vfs = s.vfs := by unfold mapLoose; split <;> rfl
@[simp] theorem mapLoose_configs (s : State) (f : LooseWrite → LooseWrite) : (mapLoose s f).configs = s.configs := by unfold mapLoose; split <;> rfl
@[simp] theorem mapLoose_pf (s : State) (f : LooseWrite → LooseWrite) : (mapLoose s f).pf = s.pf := by unfold mapLoose; split <;> rfl
@[simp] theorem mapLoose_partmap (s : State) (f : LooseWrite → LooseWrite) : (mapLoose s f).partmap = s.partmap := by unfold mapLoose; split <;> rfl
@[simp] theorem mapLoose_coh (s : State) (f : LooseWrite → LooseWrite) : (mapLoose s f).coh = s.coh := by unfold mapLoose; split <;> rfl
@[simp] theorem mapLoose_caches (s : State) (f : LooseWrite → LooseWrite) : (mapLoose s f).caches = s.caches := by unfold mapLoose; split <;> rfl
@[simp] theorem mapLoose_homes (s : State) (f : LooseWrite → LooseWrite) : (mapLoose s f).homes = s.homes := by unfold mapLoose; split <;> rfl
@[simp] theorem mapLoose_ply (s : State) (f : LooseWrite → LooseWrite) : (mapLoose s f).ply = s.ply := by unfold mapLoose; split <;> rfl
@[simp] theorem mapLoose_poison (s : State) (f : LooseWrite → LooseWrite) : (mapLoose s f).poison = s.poison := by unfold mapLoose; split <;> rfl
@[simp] theorem mapLoose_harts (s : State) (f : LooseWrite → LooseWrite) : (mapLoose s f).harts = s.harts := by unfold mapLoose; split <;> rfl
@[simp] theorem mapLoose_islandTime (s : State) (f : LooseWrite → LooseWrite) : (mapLoose s f).islandTime = s.islandTime := by unfold mapLoose; split <;> rfl
@[simp] theorem mapLoose_cores (s : State) (f : LooseWrite → LooseWrite) : (mapLoose s f).cores = s.cores := by unfold mapLoose; split <;> rfl
@[simp] theorem mapLoose_hbmStacks (s : State) (f : LooseWrite → LooseWrite) : (mapLoose s f).hbmStacks = s.hbmStacks := by unfold mapLoose; split <;> rfl
@[simp] theorem mapLoose_ports (s : State) (f : LooseWrite → LooseWrite) : (mapLoose s f).ports = s.ports := by unfold mapLoose; split <;> rfl
@[simp] theorem mapLoose_gated (s : State) (f : LooseWrite → LooseWrite) : (mapLoose s f).gated = s.gated := by unfold mapLoose; split <;> rfl
@[simp] theorem mapLoose_sec (s : State) (f : LooseWrite → LooseWrite) : (mapLoose s f).sec = s.sec := by unfold mapLoose; split <;> rfl
@[simp] theorem mapLoose_saved (s : State) (f : LooseWrite → LooseWrite) : (mapLoose s f).saved = s.saved := by unfold mapLoose; split <;> rfl
@[simp] theorem mapLoose_sealed (s : State) (f : LooseWrite → LooseWrite) : (mapLoose s f).sealed = s.sealed := by unfold mapLoose; split <;> rfl
@[simp] theorem mapLoose_stopping (s : State) (f : LooseWrite → LooseWrite) : (mapLoose s f).stopping = s.stopping := by unfold mapLoose; split <;> rfl
@[simp] theorem mapLoose_escalating (s : State) (f : LooseWrite → LooseWrite) : (mapLoose s f).escalating = s.escalating := by unfold mapLoose; split <;> rfl
@[simp] theorem mapLoose_answers (s : State) (f : LooseWrite → LooseWrite) : (mapLoose s f).answers = s.answers := by unfold mapLoose; split <;> rfl
@[simp] theorem mapLoose_vectors (s : State) (f : LooseWrite → LooseWrite) : (mapLoose s f).vectors = s.vectors := by unfold mapLoose; split <;> rfl
@[simp] theorem mapLoose_pkg (s : State) (f : LooseWrite → LooseWrite) : (mapLoose s f).pkg = s.pkg := by unfold mapLoose; split <;> rfl
@[simp] theorem mapLoose_routes (s : State) (f : LooseWrite → LooseWrite) : (mapLoose s f).routes = s.routes := by unfold mapLoose; split <;> rfl
@[simp] theorem mapLoose_remoteRanges (s : State) (f : LooseWrite → LooseWrite) : (mapLoose s f).remoteRanges = s.remoteRanges := by unfold mapLoose; split <;> rfl
@[simp] theorem mapLoose_agenda (s : State) (f : LooseWrite → LooseWrite) : (mapLoose s f).agenda = s.agenda := by unfold mapLoose; split <;> rfl
@[simp] theorem mapLoose_heldOutside (s : State) (f : LooseWrite → LooseWrite) : (mapLoose s f).heldOutside = s.heldOutside := by unfold mapLoose; split <;> rfl
@[simp] theorem mapLoose_heldLines (s : State) (f : LooseWrite → LooseWrite) : (mapLoose s f).heldLines = s.heldLines := by unfold mapLoose; split <;> rfl
@[simp] theorem mapLoose_heldObj (s : State) (f : LooseWrite → LooseWrite) : (mapLoose s f).heldObj = s.heldObj := by unfold mapLoose; split <;> rfl
@[simp] theorem mapLoose_retained (s : State) (f : LooseWrite → LooseWrite) : (mapLoose s f).retained = s.retained := by unfold mapLoose; split <;> rfl
@[simp] theorem mapLoose_changes (s : State) (f : LooseWrite → LooseWrite) : (mapLoose s f).changes = s.changes := by unfold mapLoose; split <;> rfl
@[simp] theorem mapLoose_partTurn (s : State) (f : LooseWrite → LooseWrite) : (mapLoose s f).partTurn = s.partTurn := by unfold mapLoose; split <;> rfl
@[simp] theorem mapLoose_rowTurn (s : State) (f : LooseWrite → LooseWrite) : (mapLoose s f).rowTurn = s.rowTurn := by unfold mapLoose; split <;> rfl
@[simp] theorem mapLoose_nextId (s : State) (f : LooseWrite → LooseWrite) : (mapLoose s f).nextId = s.nextId := by unfold mapLoose; split <;> rfl
@[simp] theorem mapLoose_freeCtr (s : State) (f : LooseWrite → LooseWrite) : (mapLoose s f).freeCtr = s.freeCtr := by unfold mapLoose; split <;> rfl
@[simp] theorem mapLoose_now (s : State) (f : LooseWrite → LooseWrite) : (mapLoose s f).now = s.now := by unfold mapLoose; split <;> rfl

end Sys2Proof.Machine
end

