-- ==== Sys2Proof/Laws/Work.lean ====
section
/-! SUPPORT. What ends of warps leave alone (R164, R297, R346): a warp or an image that goes touches warps, objects, tiles, scratchpads and memory, and
none of the queues, contexts, records, heddles, images or pages. -/

namespace Sys2Proof.Machine

/-- Everything is as it was but warps, groups, units, copies, objects and what is held for them, waiters of faults, memory with its caches, and the power
of dies. -/
def WorkKept (s t : State) : Prop :=
  { t with
    warp := s.warp, others := s.others, mem := s.mem, groups := s.groups, units := s.units, copies := s.copies, faults := s.faults
    coh := s.coh, homes := s.homes, stopping := s.stopping, freeCtr := s.freeCtr, gated := s.gated, heldObj := s.heldObj } = s

theorem WorkKept.refl (s : State) : WorkKept s s := rfl

theorem WorkKept.trans {s t u : State} (h1 : WorkKept s t) (h2 : WorkKept t u) : WorkKept s u := by
  have h := congrArg (fun x : State => { x with
    warp := s.warp, others := s.others, mem := s.mem, groups := s.groups, units := s.units, copies := s.copies, faults := s.faults
    coh := s.coh, homes := s.homes, stopping := s.stopping, freeCtr := s.freeCtr, gated := s.gated, heldObj := s.heldObj }) h2
  exact h.trans h1

theorem WorkKept.foldl {α : Type} (f : State → α → State) (h : ∀ s a, WorkKept s (f s a)) (l : List α) :
    ∀ s, WorkKept s (l.foldl f s) := by
  induction l with
  | nil => exact WorkKept.refl
  | cons a l ih => exact fun s => (h s a).trans (ih _)

theorem WorkKept.queues {s t : State} (h : WorkKept s t) : t.queues = s.queues := by have e := congrArg State.queues h; exact e
theorem WorkKept.contexts {s t : State} (h : WorkKept s t) : t.contexts = s.contexts := by have e := congrArg State.contexts h; exact e
theorem WorkKept.vfs {s t : State} (h : WorkKept s t) : t.vfs = s.vfs := by have e := congrArg State.vfs h; exact e
theorem WorkKept.configs {s t : State} (h : WorkKept s t) : t.configs = s.configs := by have e := congrArg State.configs h; exact e
theorem WorkKept.launches {s t : State} (h : WorkKept s t) : t.launches = s.launches := by have e := congrArg State.launches h; exact e
theorem WorkKept.bobbins {s t : State} (h : WorkKept s t) : t.bobbins = s.bobbins := by have e := congrArg State.bobbins h; exact e
theorem WorkKept.segments {s t : State} (h : WorkKept s t) : t.segments = s.segments := by have e := congrArg State.segments h; exact e
theorem WorkKept.heddles {s t : State} (h : WorkKept s t) : t.heddles = s.heddles := by have e := congrArg State.heddles h; exact e
theorem WorkKept.patterns {s t : State} (h : WorkKept s t) : t.patterns = s.patterns := by have e := congrArg State.patterns h; exact e
theorem WorkKept.saved {s t : State} (h : WorkKept s t) : t.saved = s.saved := by have e := congrArg State.saved h; exact e
theorem WorkKept.vectors {s t : State} (h : WorkKept s t) : t.vectors = s.vectors := by have e := congrArg State.vectors h; exact e
theorem WorkKept.caches {s t : State} (h : WorkKept s t) : t.caches = s.caches := by have e := congrArg State.caches h; exact e
theorem WorkKept.pf {s t : State} (h : WorkKept s t) : t.pf = s.pf := by have e := congrArg State.pf h; exact e
theorem WorkKept.partmap {s t : State} (h : WorkKept s t) : t.partmap = s.partmap := by have e := congrArg State.partmap h; exact e

theorem mapLoose_kept (s : State) (f : LooseWrite → LooseWrite) : WorkKept s (mapLoose s f) := by
  unfold mapLoose; split <;> rfl

theorem seeWrites_kept (s : State) (k : Nat) (p : LooseWrite → Bool) : WorkKept s (seeWrites s k p) := mapLoose_kept s _

theorem wakeHome_kept (s : State) (pa : Nat) : WorkKept s (wakeHome s pa) := by
  unfold wakeHome
  split
  · unfold wakeDie
    split
    · rfl
    · unfold wakeUnit; split <;> rfl
  · rfl

theorem wake_kept (s : State) (p : ObjPlace) (f : BitVec 16 → Option Word) : WorkKept s (wake s p f) := by
  unfold wake
  refine WorkKept.trans (t := if noneLoose s then s else (warps s).foldl _ s) ?_ rfl
  split
  · rfl
  · refine WorkKept.foldl _ (fun s w => ?_) _ s
    split
    · split
      · exact seeWrites_kept s _ _
      · rfl
    · rfl

theorem writeObj_kept (s : State) (p : ObjPlace) (o : Obj) : WorkKept s (writeObj s p o) := by
  unfold writeObj; cases p.space <;> rfl

theorem unmark_kept (s : State) (p : ObjPlace) : WorkKept s (unmark s p) := by
  unfold unmark; cases p.space <;> rfl

theorem takeFreeBytes_kept (n : Nat) : ∀ s : State, WorkKept s (takeFreeBytes s n).2 := by
  induction n with
  | zero => exact WorkKept.refl
  | succ n ih => exact fun s => (show WorkKept s (takeFreeByte s).2 from rfl).trans (ih _)

theorem loosen_kept (s : State) (pa : Nat) : WorkKept s (loosen s pa) := by
  unfold loosen
  split
  · exact (takeFreeBytes_kept 128 s).trans rfl
  · rfl

theorem applyObj_kept (s : State) (p : ObjPlace) (e : ObjEvent) : WorkKept s (applyObj s p e) := by
  unfold applyObj
  split
  · rfl
  · have h1 : WorkKept s (if p.space == .global then loosen (wakeHome s p.at_) p.at_ else s) := by
      split
      · exact (wakeHome_kept s p.at_).trans (loosen_kept _ p.at_)
      · rfl
    refine h1.trans ?_
    generalize (if p.space == .global then loosen (wakeHome s p.at_) p.at_ else s) = t
    dsimp only
    have h2 := writeObj_kept t p (applyEvent (readObj t p) e).1
    cases (applyEvent (readObj t p) e).2
    · exact h2
    · exact h2
    · exact h2.trans (wake_kept _ _ _)
    · exact ((h2.trans (wake_kept _ _ _)).trans (unmark_kept _ _)).trans (wake_kept _ _ _)

theorem objEvent_kept (s : State) (p : ObjPlace) (e : ObjEvent) : WorkKept s (objEvent s p e) := by
  unfold objEvent
  split
  · rfl
  · exact applyObj_kept s p e

theorem implicitDrops_kept (s : State) (w : Warp) : WorkKept s (implicitDrops s w) :=
  WorkKept.foldl _ (fun s _ => objEvent_kept s _ _) _ s

theorem joinArrival_kept (s : State) (c : Nat) (r : Record) : WorkKept s (joinArrival s c r) := by
  unfold joinArrival
  split
  · split
    · exact objEvent_kept s _ _
    · rfl
  · rfl

theorem joinLanes_kept (s : State) (w : Warp) (m : Mask) : WorkKept s (joinLanes s w m) := by
  refine WorkKept.foldl _ (fun s l => ?_) _ s
  split
  · exact joinArrival_kept s _ _
  · rfl

theorem dissolve_kept (s : State) (h : Home) : WorkKept s (dissolve s h) :=
  ((writeObj_kept s _ _).trans (unmark_kept _ _)).trans (wake_kept _ _ _)

theorem refuseQuad_kept (old s : State) (die quad : Nat) : WorkKept s (refuseQuad old s die quad) := by
  unfold refuseQuad; split <;> rfl

theorem endGroup_kept (s : State) (key : Nat) : WorkKept s (endGroup s key) := by
  unfold endGroup
  split
  · rfl
  · refine (WorkKept.foldl dissolve dissolve_kept (s.homes.filter fun h => h.group == some key) s).trans ?_
    refine WorkKept.trans ?_ (refuseQuad_kept _ _ _ _)
    rfl

theorem settleGroup_kept (s : State) (w : Warp) : WorkKept s (settleGroup s w) := by
  unfold settleGroup
  split
  · split
    · rfl
    · exact endGroup_kept s _
  · rfl

theorem removeWarp_kept (s : State) (k : Nat) : WorkKept s (removeWarp s k) := by
  unfold removeWarp; split <;> rfl

theorem unslot_kept (s : State) (w : Warp) (st : List Stopping) (p : Waiter → Bool) :
    WorkKept s (dropWaiters { releaseMatrix s w with stopping := st } p) := rfl

theorem vacate_kept (s : State) (w : Warp) : WorkKept s (vacate s w) := by
  unfold vacate
  refine WorkKept.trans ?_ (settleGroup_kept _ _)
  refine WorkKept.trans ?_ (seeWrites_kept _ _ _)
  refine WorkKept.trans ?_ (removeWarp_kept _ _)
  exact (implicitDrops_kept s w).trans (unslot_kept _ w _ _)

/-- A warp kill leaves the work of queues and contexts, the images and the pages as they were (R346). -/
theorem killWarp_kept (s : State) (id : Nat) : WorkKept s (killWarp s id) := by
  unfold killWarp
  split
  · rfl
  · split
    · exact (joinLanes_kept s _ _).trans (vacate_kept _ _)
    · rfl

/-- A discarded image leaves them too, but for the list of images. -/
theorem killSaved_kept (s : State) (x : SavedWarp) :
    WorkKept { s with saved := s.saved.filter fun y => y.warp.id != x.warp.id } (killSaved s x) := by
  unfold killSaved
  have h1 := (joinLanes_kept s x.warp (~~~x.warp.gone)).trans (implicitDrops_kept _ x.warp)
  revert h1
  generalize implicitDrops (joinLanes s x.warp (~~~x.warp.gone)) x.warp = t
  intro h1
  have hs : t.saved = s.saved := h1.saved
  refine WorkKept.trans ?_ ((seeWrites_kept _ _ _).trans (settleGroup_kept _ _))
  have h := congrArg (fun y : State => { y with saved := s.saved.filter fun y => y.warp.id != x.warp.id }) h1
  rw [hs]
  exact h

/-- Images killed one after another: those that stay are none of them. -/
theorem killSaved_all (l : List SavedWarp) : ∀ s : State, ∃ sv, WorkKept { s with saved := sv } (l.foldl killSaved s)
    ∧ ∀ x ∈ sv, x ∈ s.saved ∧ ∀ y ∈ l, x.warp.id ≠ y.warp.id := by
  induction l with
  | nil => exact fun s => ⟨s.saved, WorkKept.refl s, fun x hx => ⟨hx, fun y hy => by cases hy⟩⟩
  | cons a l ih =>
    intro s
    obtain ⟨sv, h, hm⟩ := ih (killSaved s a)
    have ha := killSaved_kept s a
    refine ⟨sv, ?_, fun x hx => ?_⟩
    · exact WorkKept.trans (t := { killSaved s a with saved := sv })
        (by have e := congrArg (fun y : State => { y with saved := sv }) (show _ = _ from ha); exact e) h
    · obtain ⟨h1, h2⟩ := hm x hx
      rw [ha.saved] at h1
      have h3 := List.mem_filter.mp h1
      refine ⟨h3.1, fun y hy => ?_⟩
      rcases List.mem_cons.mp hy with rfl | hy
      · simpa using h3.2
      · exact h2 y hy

/-- The images that satisfy a test killed, from a state that another was kept in. -/
theorem killSaved_where (b t : State) (pw : Warp → Bool) (h : WorkKept b t) :
    ∃ sv, WorkKept { b with saved := sv } ((t.saved.filter fun x => pw x.warp).foldl killSaved t) ∧ ∀ x ∈ sv, x ∈ b.saved ∧ pw x.warp = false := by
  obtain ⟨sv, h2, hm⟩ := killSaved_all (t.saved.filter fun x => pw x.warp) t
  refine ⟨sv, WorkKept.trans (t := { t with saved := sv }) ?_ h2, fun x hx => ?_⟩
  · have e := congrArg (fun y : State => { y with saved := sv }) (show _ = _ from h)
    exact e
  · obtain ⟨h3, h4⟩ := hm x hx
    refine ⟨h.saved ▸ h3, ?_⟩
    by_contra hc
    exact h4 x (List.mem_filter.mpr ⟨h3, by simpa using hc⟩) rfl

/-- What discarding work leaves: the launches, records, heddles outside it, and no image of it (R346). -/
theorem discardWork_kept (s : State) (pw : Warp → Bool) (pl : Launch → Bool) (pr : Nat → Record → Bool) (pe : Nat → SegEntry → Bool)
    (ph : Heddle → Bool) (pc : Copy → Bool) :
    ∃ sv, WorkKept { s with
        launches := s.launches.filter (fun l => !pl l)
        bobbins := s.bobbins.map (fun b => { b with recs := b.recs.filter fun r => !pr b.ctx r })
        segments := s.segments.map (fun g => { g with entries := g.entries.filter fun e => !pe g.ctx e })
        heddles := s.heddles.filter (fun h => !ph h), saved := sv } (discardWork s pw pl pr pe ph pc)
      ∧ ∀ x ∈ sv, x ∈ s.saved ∧ pw x.warp = false := by
  refine killSaved_where { s with
        launches := s.launches.filter (fun l => !pl l)
        bobbins := s.bobbins.map (fun b => { b with recs := b.recs.filter fun r => !pr b.ctx r })
        segments := s.segments.map (fun g => { g with entries := g.entries.filter fun e => !pe g.ctx e })
        heddles := s.heddles.filter (fun h => !ph h) } _ pw ?_
  refine WorkKept.trans ?_ (WorkKept.foldl (fun (s : State) (w : Warp) => killWarp s w.id) (fun s w => killWarp_kept s w.id) _ _)
  rfl

end Sys2Proof.Machine
end

