-- ==== Sys2Proof/Tests/Slice0.lean ====
section
/-! SUPPORT. Tests of one step or one function each, with results from the manual's tables and worked examples; words written out from the encoding
tables; ill-formed terms; and for the claims with hypotheses, states and operands that meet them. -/

open Sys2Proof Sys2Proof.Machine

namespace Sys2Proof.Tests

set_option Elab.async false

/-- Words of the control group written out from R45, R62; worked words of R179 to R181 and of the SEAM of R45. -/
theorem test_decode_control :
    decode false 0x000BC00000000000 = .ok (.nop .always)
    ∧ decode false 0x004BC00000002000 = .ok (.bra .always 1)
    ∧ decode false 0x004BFFFFFFFFC000 = .ok (.bra .always (-2))
    ∧ decode false 0x0080400000008002 = .ok (.brc { neg := false, p := 1 } 4 2)
    ∧ decode false 0x00CBC8D080010000 = .ok (.seam .always { d0 := 2, d1 := 3, n := 2, s0 := 1, s1 := 0, s2 := 0, s3 := 0, s4 := 2, s5 := 0, s6 := 0, s7 := 0 })
    ∧ decode false 0x010BC00000000002 = .ok (.mark .always 2)
    ∧ decode false 0x014BC20000000002 = .ok (.conform .always 2 { c0 := 1, c1 := 0, c2 := 0, c3 := 0, c4 := 0, c5 := 0, c6 := 0, c7 := 0 })
    ∧ decode false 0x0180BFFFFFFFC000 = .ok (.brl { neg := false, p := 2 } (-2))
    ∧ decode false 0x01CBC18000000000 = .ok (.brx .always (.w 3))
    ∧ decode false 0x020BC00000004001 = .ok (.call .always 2 0 1)
    ∧ decode false 0x024BC88000000032 = .ok (.callx .always (.f 1) 3 2)
    ∧ decode false 0x028BC00000000001 = .ok (.ret .always 1)
    ∧ decode false 0x02CBC00000000000 = .ok (.exit .always)
    ∧ decode false 0x0311400000000000 = .ok (.yield { neg := true, p := 5 }) := by decide +kernel

/-- Words of the weft group written out from R63. -/
theorem test_decode_weft :
    decode false 0x100BC08000000000 = .ok (.pick .always false { src := .w 1 })
    ∧ decode false 0x102BD90000000000 = .ok (.pick .always true { src := .x 2 })
    ∧ decode false 0x104BC1000000001F = .ok (.save .always { src := .w 2 } 31)
    ∧ decode false 0x108BC00100000249 = .ok (.pack .always true 2 .s16x4 { src := .w 0 } { src := .w 1 })
    ∧ decode false 0x10CBC000001801EB = .ok (.unpack .always 15 .s4x16 { src := .w 0, m := .std { swz := 3 } }) := by decide +kernel

/-- Words of the integer group written out from R64; the worked word of an IADC. -/
theorem test_decode_integer :
    decode false 0x202BC08200000020 = .ok (.iadd .always true true .s8 { src := .w 1 } { src := .w 2 })
    ∧ decode false 0x204BC08201400002 = .ok (.isub .always false false .s32 { src := .w 1, m := .std { neg := true, half := true } } { src := .w 2 })
    ∧ decode false 0x208BC00200000147 = .ok (.iadc .always .z64 5 { src := .w 0 } { src := .w 2 })
    ∧ decode false 0x20CBC08200000BC7 = .ok (.isbb .always .z64 47 { src := .w 1 } { src := .w 2 })
    ∧ decode false 0x210BC08200020025 = .ok (.imul .always false true .z16 { src := .w 1 } { src := .w 2, m := { abs := true } })
    ∧ decode false 0x214BC08200000003 = .ok (.imulh .always false .s64 { src := .w 1 } { src := .w 2 })
    ∧ decode false 0x218BC08206000006 = .ok (.imad .always false false .z32 { src := .w 1 } { src := .w 2 } (.w 3))
    ∧ decode false 0x21CBC08206000003 = .ok (.imadw .always false .s64 { src := .w 1 } { src := .w 2 } (.w 3))
    ∧ decode false 0x220BC08200000008 = .ok (.imin .always false .s8x8 { src := .w 1 } { src := .w 2 })
    ∧ decode false 0x224BC0820000000E = .ok (.imax .always false .z32x2 { src := .w 1 } { src := .w 2 })
    ∧ decode false 0x228BC08200000001 = .ok (.iabsd .always false .s16 { src := .w 1 } { src := .w 2 })
    ∧ decode false 0x22CBC082C2000004 = .ok (.iclamp .always false .z8 { src := .w 1 } { src := .w 2 } (.imm 33))
    ∧ decode false 0x230BC082C4000007 = .ok (.lea .always false .z64 { src := .w 1 } { src := .w 2 } (.imm 34))
    ∧ decode false 0x234BC08000000102 = .ok (.isat .always false .s32 .z8 { src := .w 1 })
    ∧ decode false 0x238BC08206000022 = .ok (.idot4 .always false true .s32 { src := .w 1 } { src := .w 2 } (.w 3))
    ∧ decode false 0x23CBC08206000006 = .ok (.idot2 .always false false .z32 { src := .w 1 } { src := .w 2 } (.w 3)) := by decide +kernel

/-- Words of the logic group written out from R65; the worked word of R109. -/
theorem test_decode_logic :
    decode false 0x300BC08200000007 = .ok (.and .always false .z64 { src := .w 1 } { src := .w 2 })
    ∧ decode false 0x306BC08200000007 = .ok (.or .always true .z64 { src := .w 1 } { src := .w 2 })
    ∧ decode false 0x308BC08201000008 = .ok (.xor .always false .s8x8 { src := .w 1, m := .std { neg := true } } { src := .w 2 })
    ∧ decode false 0x30CBC001040012C7 = .ok (.lop3 .always false .z64 0x96 { src := .w 0 } { src := .w 1 } (.w 2))
    ∧ decode false 0x310BC08200000007 = .ok (.shl .always false .z64 { src := .w 1 } { src := .w 2 })
    ∧ decode false 0x314BC08200000009 = .ok (.shr .always false .s16x4 { src := .w 1 } { src := .w 2 })
    ∧ decode false 0x318BC08200000003 = .ok (.sar .always false .s64 { src := .w 1 } { src := .w 2 })
    ∧ decode false 0x31CBC08200000004 = .ok (.rol .always false .z8 { src := .w 1 } { src := .w 2 })
    ∧ decode false 0x320BC082FE000006 = .ok (.funnel .always false .z32 { src := .w 1 } { src := .w 2 } (.imm 63))
    ∧ decode false 0x324BC08000000007 = .ok (.popc .always false .z64 { src := .w 1 })
    ∧ decode false 0x328BC08000000006 = .ok (.clz .always false .z32 { src := .w 1 })
    ∧ decode false 0x32CBC08000000005 = .ok (.ctz .always false .z16 { src := .w 1 })
    ∧ decode false 0x330BC08000000000 = .ok (.brev .always false .s8 { src := .w 1 })
    ∧ decode false 0x334BC08200000002 = .ok (.bfx .always false .s32 { src := .w 1 } { src := .w 2 })
    ∧ decode false 0x338BC08206000007 = .ok (.bfi .always false .z64 { src := .w 1 } { src := .w 2 } (.w 3))
    ∧ decode false 0x33CBC08278000007 = .ok (.permb .always false .z64 { src := .w 1 } { src := .w 2 } .lit) := by decide +kernel

/-- Words of the compare group written out from R66; the words of worked programs. -/
theorem test_decode_compare :
    decode false 0x400BC082000000A2 = .ok (.icmp .always .s32 .lt 1 { src := .w 1 } { src := .w 2 })
    ∧ decode false 0x400BC082000000A2 = .ok (.icmp .always .s32 .lt 1 { src := .w 1 } { src := .w 2 })
    ∧ decode false 0x404BC082000017F3 = .ok (.fcmp .always .bf16 .ord 47 { src := .w 1 } { src := .w 2 })
    ∧ decode false 0x408BC08200000200 = .ok (.sel .always false 4 { src := .w 1 } { src := .w 2 })
    ∧ decode false 0x40CBC0AF041800F0 = .ok (.plop .always 0xF0 1 47 2 3)
    ∧ decode false 0x410BDC0000000280 = .ok (.pset .always 5 { src := .zero })
    ∧ decode false 0x414BC00000000000 = .ok (.ptov .always)
    ∧ decode false 0x418BC0BC00000000 = .ok (.vtop .always { src := .w 1 } { src := .lit })
    ∧ decode false 0x41CBC08200000080 = .ok (.itst .always 1 { src := .w 1 } { src := .w 2 }) := by decide +kernel

/-- Words of the float group written out from R67. -/
theorem test_decode_float :
    decode false 0x500BC08200000011 = .ok (.fadd .always false .f32 .mode { src := .w 1 } { src := .w 2 })
    ∧ decode false 0x504BC08200000030 = .ok (.fsub .always false .f64 .rne { src := .w 1 } { src := .w 2 })
    ∧ decode false 0x50ABC08200000052 = .ok (.fmul .always true .f16 .rtz { src := .w 1 } { src := .w 2 })
    ∧ decode false 0x50CBC08206000073 = .ok (.ffma .always false .bf16 .rup { src := .w 1 } { src := .w 2 } (.w 3))
    ∧ decode false 0x510BC08200000011 = .ok (.fmin .always false .f32 { src := .w 1 } { src := .w 2 })
    ∧ decode false 0x514BC08200000011 = .ok (.fmax .always false .f32 { src := .w 1 } { src := .w 2 })
    ∧ decode false 0x518BC08000000091 = .ok (.frnd .always false .f32 .rdn { src := .w 1 })
    ∧ decode false 0x51CBC08200000011 = .ok (.fscale .always false .f32 .mode { src := .w 1 } { src := .w 2 })
    ∧ decode false 0x520BC08000000010 = .ok (.fclass .always false .f64 { src := .w 1 })
    ∧ decode false 0x524BC08206000013 = .ok (.fdot2 .always false .bf16 .mode { src := .w 1 } { src := .w 2 } (.w 3))
    ∧ decode false 0x528BC08000000011 = .ok (.fsqrt .always false .f32 .mode { src := .w 1 })
    ∧ decode false 0x52CBC08200000011 = .ok (.fdiv .always false .f32 .mode { src := .w 1 } { src := .w 2 }) := by decide +kernel

/-- Words of the quick group written out from R67. -/
theorem test_decode_quick :
    decode false 0x600BC08000000011 = .ok (.frcp .always false { src := .w 1 })
    ∧ decode false 0x604BC08000000011 = .ok (.frsq .always false { src := .w 1 })
    ∧ decode false 0x608BC08000000011 = .ok (.fex2 .always false { src := .w 1 })
    ∧ decode false 0x60CBC08000000011 = .ok (.flg2 .always false { src := .w 1 })
    ∧ decode false 0x610BC08000000011 = .ok (.fsin .always false { src := .w 1 })
    ∧ decode false 0x614BC08000000011 = .ok (.fcos .always false { src := .w 1 })
    ∧ decode false 0x618BC08000000011 = .ok (.ftanh .always false { src := .w 1 }) := by decide +kernel

/-- Words of the conversion group written out from R68; worked words of R134 to R139. -/
theorem test_decode_conversion :
    decode false 0x700BC00000000A22 = .ok (.cvt .always false .rtz .f32 .s32 { src := .w 0 })
    ∧ decode false 0x704BC00000000238 = .ok (.qscale .always .f32 .bi8 { src := .w 0 })
    ∧ decode false 0x708BC08000000238 = .ok (.qcvt .always .f32 .bi8 { src := .w 1 } { src := .w 0 })
    ∧ decode false 0x70CBC00100000311 = .ok (.dqcvt .always .bi8 .f32 { src := .w 0 } { src := .w 1 })
    ∧ decode false 0x710BC00000000003 = .ok (.resenc .always false .s64 { src := .w 0 })
    ∧ decode false 0x714BC00000000002 = .ok (.resdec .always false .s32 { src := .w 0 }) := by decide +kernel

/-- Words of the warp-wide group written out from R69; worked words of R185 to R187. -/
theorem test_decode_warp_wide :
    decode false 0x800BC00000000200 = .ok (.vote .always .all 4 (.w 0))
    ∧ decode false 0x804BC06100000183 = .ok (.shfl .always .xor 3 (.w 0) (.imm 33))
    ∧ decode false 0x808BC00000000011 = .ok (.wred .always .add .f32 .mode (.w 0))
    ∧ decode false 0x80CBC08000000822 = .ok (.wscan .always true .min .s32 .mode (.w 1))
    ∧ decode false 0x810BC08000000007 = .ok (.matchLanes .always .z64 (.w 1))
    ∧ decode false 0x814BC08200000180 = .ok (.bcast .always 3 (.w 1) (.w 2))
    ∧ decode false 0x818BC00000000000 = .ok (.active .always) := by decide +kernel

/-- Words of the memory group written out from R70; worked words of the ordering chapters. -/
theorem test_decode_memory :
    decode false 0x900BC10000000C4A = .ok (.ld .always { a := true, b := false } .pkg .acq .normal true .b4 (.w 2))
    ∧ decode false 0x904BC08000001482 = .ok (.st .always { a := false, b := true } .pkg .rel .normal .b4 (.w 1) (.w 0))
    ∧ decode false 0x908BC08000000243 = .ok (.lds .always { a := false, b := false } .quad .acq false .b8 (.w 1))
    ∧ decode false 0x90CBC08200000184 = .ok (.sts .always { a := false, b := false } .core .rel .b16 (.w 1) (.w 2))
    ∧ decode false 0x910BC08000001809 = .ok (.ldp .always { a := true, b := true } true .b2 (.w 1))
    ∧ decode false 0x914BC08200000000 = .ok (.stp .always { a := false, b := false } .b1 (.w 1) (.w 2))
    ∧ decode false 0x918BC08000000020 = .ok (.pref .always .both (.w 1))
    ∧ decode false 0x91CBC00000000400 = .ok (.fence .always { a := false, b := false } .pkg .sc)
    ∧ decode false 0x920BC08000001001 = .ok (.cctl .always { a := false, b := true } .wb (.w 1)) := by decide +kernel

/-- Words of the atomic group written out from R71; worked words of R280 to R290. -/
theorem test_decode_atomic :
    decode false 0xA00BC06100000CC1 = .ok (.atom .always { a := true, b := false } .pkg .acqRel .add .w64 (.w 0) (.imm 33))
    ∧ decode false 0xA04BC20004000C42 = .ok (.acas .always { a := true, b := false } .pkg .acq .w128 (.w 4) (.w 0) (.w 2))
    ∧ decode false 0xA08BC082000004B4 = .ok (.red .always { a := false, b := false } .pkg .rel .dec .w32 (.w 1) (.w 2))
    ∧ decode false 0xA0CBC08200000120 = .ok (.atoms .always { a := false, b := false } .core .rlx .exch .w32 (.w 1) (.w 2))
    ∧ decode false 0xA10BC08206000201 = .ok (.acass .always { a := false, b := false } .quad .rlx .w64 (.w 1) (.w 2) (.w 3))
    ∧ decode false 0xA14BC08000000440 = .ok (.ldv .always { a := false, b := false } .pkg .acq (.w 1) (.w 0))
    ∧ decode false 0xA18BC08206000480 = .ok (.stv .always { a := false, b := false } .pkg .rel (.w 1) (.w 2) (.w 3))
    ∧ decode false 0xA1CBC082060004C0 = .ok (.recon .always { a := false, b := false } .pkg .acqRel (.w 1) (.w 2) (.w 3)) := by decide +kernel

/-- Words of the barrier group written out from R72; worked words of R298 to R308. -/
theorem test_decode_barrier :
    decode false 0xB00BC08206000001 = .ok (.binit .always { a := false, b := false } .global (.w 1) (.w 2) (.w 3))
    ∧ decode false 0xB04BC0B800000800 = .ok (.barrive .always { a := true, b := false } .scratch (.w 1) .zero)
    ∧ decode false 0xB08BDE6000000000 = .ok (.bexpect .always { a := false, b := false } .scratch .lit (.imm 32))
    ∧ decode false 0xB0CBC08200000001 = .ok (.bwait .always .global (.w 1) (.w 2))
    ∧ decode false 0xB10BC08200000000 = .ok (.btest .always .scratch (.w 1) (.w 2))
    ∧ decode false 0xB14BC08000000000 = .ok (.bdrop .always { a := false, b := false } .scratch (.w 1))
    ∧ decode false 0xB18BC0837C000380 = .ok (.copy .always { a := false, b := false } .s2g .global true (.w 1) (.w 3) .ones)
    ∧ decode false 0xB1CBC00208000080 = .ok (.copym .always { a := false, b := false } .g2s .scratch true (.w 0) (.w 2) (.w 4))
    ∧ decode false 0xB20BC0837C000800 = .ok (.copyg .always { a := true, b := false } .scratch (.w 1) (.w 3) .ones) := by decide +kernel

/-- Words of the matrix group written out from R73; worked words of R155 to R162. -/
theorem test_decode_matrix :
    decode false 0xC00BC00000000006 = .ok (.mzero .always .exact 2)
    ∧ decode false 0xC04BDE3C00000018 = .ok (.mlds .always { a := false, b := false } .bi8 .lit .lit)
    ∧ decode false 0xC08BC00000000000 = .ok (.mswap .always)
    ∧ decode false 0xC0CBDE3C78000010 = .ok (.mstream .always { a := false, b := false } 1 0 .lit .lit .lit)
    ∧ decode false 0xC10BC63C78000870 = .ok (.mdrain .always { a := true, b := false } .f32 .relu true true 0 (.w 12) .lit .lit)
    ∧ decode false 0xC14BC00000000007 = .ok (.mstat .always true 3) := by decide +kernel

/-- Words of the spawn group written out from R74; worked words of R197 to R208. -/
theorem test_decode_spawn :
    decode false 0xD00BC00208000813 = .ok (.spawn .always { a := true, b := false } true 3 (.w 0) (.w 2) (.w 4))
    ∧ decode false 0xD04BC08000000062 = .ok (.watch .always { a := false, b := false } 6 2 (.w 1))
    ∧ decode false 0xD08BC00000000000 = .ok (.unwatch .always { a := false, b := false } (.w 0))
    ∧ decode false 0xD0CBC00000000001 = .ok (.bobq .always 1) := by decide +kernel

/-- Words of the system group written out from R75; worked words of R370 to R374, R385, R386. -/
theorem test_decode_system :
    decode false 0xE00BC00000000006 = .ok (.iregion .always 6)
    ∧ decode false 0xE00BC00000000020 = .ok (.iregionClose .always)
    ∧ decode false 0xE04BDE0000000000 = .ok (.chksig .always .lit)
    ∧ decode false 0xE0CBC00000000022 = .ok (.csrr .always false 0x022)
    ∧ decode false 0xE10BC00000000021 = .ok (.csrw .always 0x021 (.w 0))
    ∧ decode false 0xE14BDC000000002A = .ok (.trap .always 0x2A .zero)
    ∧ decode false 0xE18BC00000000000 = .ok (.tret .always)
    ∧ decode false 0xE1EBC00000000000 = .ok (.clock .always true)
    ∧ decode false 0xE20BC00000000003 = .ok (.bkpt .always 3)
    ∧ decode false 0xE08BC00000000000 = .ok (.unassignedOpcode 0xE08BC00000000000)
    ∧ decode false 0xF00BC00000000001 = .ok (.unassignedOpcode 0xF00BC00000000001) := by decide +kernel

/-! ### Well-formedness: an ill-formed term for each check (R58) -/

/-- No term of a list is well-formed in normal service. -/
def refusesAll (is : List Instr) : Bool := is.all fun i => !i.wellFormed false

/-- Types, roundings, conditions, operations, orders, sizes and directions that no layout of R63 to R75 accepts. -/
theorem test_wf_operations : refusesAll
    [.pack .always false 0 .s8 { src := .w 0 } { src := .w 1 }, .unpack .always 0 .z64 { src := .w 0 }
    , .iadd .always false false .f32 { src := .w 0 } { src := .w 1 }, .iabsd .always false .res { src := .w 0 } { src := .w 1 }
    , .iclamp .always false .bi8 { src := .w 0 } { src := .w 1 } (.w 2), .iadc .always .s8x8 1 { src := .w 0 } { src := .w 1 }
    , .imul .always false false .s8x8 { src := .w 0 } { src := .w 1 }, .imulh .always false .f64 { src := .w 0 } { src := .w 1 }
    , .imadw .always false .s32 { src := .w 0 } { src := .w 1 } (.w 2), .lea .always false .s32 { src := .w 0 } { src := .w 1 } (.w 2)
    , .isat .always false .s32 .s8x8 { src := .w 0 }, .isat .always false .f32 .s8 { src := .w 0 }
    , .idot4 .always false false .s64 { src := .w 0 } { src := .w 1 } (.w 2), .and .always false .f32 { src := .w 0 } { src := .w 1 }
    , .permb .always false .res { src := .w 0 } { src := .w 1 } (.w 2), .sar .always false .s16x4 { src := .w 0 } { src := .w 1 }
    , .funnel .always false .s16x4 { src := .w 0 } { src := .w 1 } (.w 2), .popc .always false .s16x4 { src := .w 0 }
    , .bfx .always false .s16x4 { src := .w 0 } { src := .w 1 }, .icmp .always .s32 .un 1 { src := .w 0 } { src := .w 1 }
    , .icmp .always .f32 .eq 1 { src := .w 0 } { src := .w 1 }, .fcmp .always .e4m3 .eq 1 { src := .w 0 } { src := .w 1 }
    , .fadd .always false .e5m2 .rne { src := .w 0 } { src := .w 1 }, .fclass .always false .s32 { src := .w 0 }
    , .fdot2 .always false .f32 .rne { src := .w 0 } { src := .w 1 } (.w 2), .cvt .always false .rne .f32 .f32 { src := .w 0 }
    , .cvt .always false .rne .s8x8 .f32 { src := .w 0 }, .qscale .always .f64 .bi8 { src := .w 0 }
    , .qcvt .always .f32 .f16 { src := .w 0 } { src := .w 1 }, .dqcvt .always .bi8 .f64 { src := .w 0 } { src := .w 1 }
    , .resenc .always false .f32 { src := .w 0 }, .wred .always .add .s32 .rne (.w 0), .wred .always .and .f32 .mode (.w 0)
    , .wscan .always false .min .f32 .rne (.w 0), .matchLanes .always .f32 (.w 0)] = true := by decide +kernel

/-- The same for memory, atomics, copies, votes, and an opcode that is assigned. -/
theorem test_wf_operations_memory : refusesAll
    [.ld .always { a := false, b := false } .pkg .rel .normal false .b8 (.w 0)
    , .ld .always { a := false, b := false } .pkg .rlx .normal true .b8 (.w 0)
    , .st .always { a := false, b := false } .pkg .acq .normal .b8 (.w 0) (.w 1)
    , .lds .always { a := false, b := false } .core .acqRel false .b8 (.w 0)
    , .sts .always { a := false, b := false } .core .acq .b8 (.w 0) (.w 1), .ldp .always { a := false, b := false } true .b16 (.w 0)
    , .atom .always { a := false, b := false } .pkg .rlx .add .w128 (.w 0) (.w 1)
    , .red .always { a := false, b := false } .pkg .acq .add .w64 (.w 0) (.w 1)
    , .copym .always { a := false, b := false } .s2g .scratch false (.w 0) (.w 2) (.w 4), .vote .always .ballot 1 (.w 0)
    , .unassignedOpcode 0x000BC00000000000, .clauseFetch, .doorbell 0 0 0] = true := by decide +kernel

/-- Guards, predicates, counts, indices, selectors, scopes and modifiers out of their range. -/
theorem test_wf_operands : refusesAll
    [.nop { neg := false, p := 48 }, .exit { neg := true, p := 63 }
    , .seam { neg := false, p := 1 } { d0 := 0, d1 := 0, n := 0, s0 := 0, s1 := 0, s2 := 0, s3 := 0, s4 := 0, s5 := 0, s6 := 0, s7 := 0 }
    , .seam .always { d0 := 1, d1 := 1, n := 5, s0 := 0, s1 := 0, s2 := 0, s3 := 0, s4 := 0, s5 := 0, s6 := 0, s7 := 0 }
    , .seam .always { d0 := 1, d1 := 1, n := 1, s0 := 1, s1 := 0, s2 := 0, s3 := 0, s4 := 0, s5 := 0, s6 := 0, s7 := 0 }
    , .seam .always { d0 := 1, d1 := 1, n := 1, s0 := 0, s1 := 0, s2 := 0, s3 := 0, s4 := 0, s5 := 1, s6 := 0, s7 := 0 }
    , .mark .always 9, .mark { neg := false, p := 1 } 1
    , .conform .always 1 { c0 := 1, c1 := 1, c2 := 0, c3 := 0, c4 := 0, c5 := 0, c6 := 0, c7 := 0 }
    , .call .always 1 33 0, .call .always 1 0 9, .ret .always 9, .pick .always false { src := .w 0, m := .std { neg := true } }
    , .pick .always false { src := .w 0, m := .perm 1 1 0 }, .pack .always false 4 .s16x4 { src := .w 0 } { src := .w 1 }
    , .unpack .always 2 .s32x2 { src := .w 0 }, .iadd .always false false .s64 { src := .w 0, m := .std { half := true } } { src := .w 1 }
    , .iadd .always false false .s64 { src := .w 0, m := .std { swz := 1 } } { src := .w 1 }
    , .iadc .always .s64 48 { src := .w 0 } { src := .w 1 }, .iadc .always .s32 1 { src := .w 0, m := .std { neg := true } } { src := .w 1 }
    , .imadw .always false .s64 { src := .w 0 } { src := .w 1 } (.w 15), .imadw .always false .s64 { src := .w 0 } { src := .w 1 } .lit
    , .lea .always false .s64 { src := .w 0 } { src := .w 1, m := { neg := true } } (.w 2)
    , .bfx .always false .s32 { src := .w 0 } { src := .w 1, m := { half := true } }
    , .icmp .always .s32 .eq 48 { src := .w 0 } { src := .w 1 }, .sel .always false 48 { src := .w 0 } { src := .w 1 }
    , .plop .always 0 48 0 0 1, .plop .always 0 0 0 127 1, .plop .always 0 0 0 0 48, .pset .always 48 { src := .w 0 }
    , .vtop .always { src := .w 0, m := .std { abs := true } } { src := .w 1 }
    , .fadd .always false .f32 .rne { src := .w 0 } { src := .w 1, m := { swz := 1 } }
    , .fdot2 .always false .f16 .rne { src := .w 0, m := .std { neg := true } } { src := .w 1 } (.w 2)
    , .cvt .always false .rne .s64 .f32 { src := .w 0, m := .std { half := true } }, .resdec .always false .s64 { src := .w 0, m := .std { half := true } }
    , .vote .always .all 48 (.w 0), .bcast .always 48 (.w 0) (.w 1)] = true := by decide +kernel

theorem test_wf_operands_memory : refusesAll
    [.cctl .always { a := false, b := false } .invall (.w 1), .st .always { a := false, b := false } .pkg .rlx .normal .b16 (.w 0) (.w 15)
    , .lds .always { a := false, b := false } .die .rlx false .b8 (.w 0), .sts .always { a := false, b := false } .core .rlx .b16 (.w 0) .lit
    , .stp .always { a := false, b := false } .b16 (.w 0) (.f 31), .atoms .always { a := false, b := false } .sys .rlx .add .w64 (.w 0) (.w 1)
    , .acas .always { a := false, b := false } .pkg .rlx .w128 (.w 0) (.w 15) (.w 2)
    , .acass .always { a := false, b := false } .core .rlx .w128 (.w 0) (.w 2) (.x 7)
    , .copy .always { a := false, b := false } .g2s .scratch false (.w 15) (.w 2) (.w 4)
    , .copym .always { a := false, b := false } .g2s .scratch false (.w 0) (.w 2) .lit
    , .spawn .always { a := false, b := false } false 1 (.w 0) (.w 2) (.w 1), .spawn .always { a := false, b := false } true 1 (.w 15) (.w 2) (.w 1)
    , .watch .always { a := false, b := false } 2 0 (.w 0), .watch .always { a := false, b := false } 17 0 (.w 0), .iregion .always 17
    , .iregion { neg := false, p := 1 } 1, .iregionClose { neg := true, p := 47 }, .chksig .always (.w 0), .bkpt { neg := false, p := 50 } 1]
    = true := by decide +kernel

/-- R42: in maintenance mode a permutation is in its ranges and B carries no modifier; in normal service there is none. -/
theorem test_wf_maintenance :
    let i := fun (c : Fin 4) (s : Fin 8) (d : Fin 32) => Instr.iadd .always false false .s64 { src := .w 0, m := .perm c s d } { src := .w 1 }
    (i 1 2 1).wellFormed true = true ∧ (i 2 5 31).wellFormed true = true ∧ (i 3 3 7).wellFormed true = true ∧ (i 0 0 0).wellFormed true = true
    ∧ (i 0 0 1).wellFormed true = false ∧ (i 1 0 0).wellFormed true = false ∧ (i 1 6 0).wellFormed true = false
    ∧ (i 2 3 8).wellFormed true = false ∧ (i 3 1 2).wellFormed true = false ∧ (i 1 2 1).wellFormed false = false
    ∧ (Instr.iadd .always false false .s64 { src := .w 0, m := .perm 0 0 0 } { src := .w 1, m := { neg := true } }).wellFormed true = false := by
  decide +kernel

/-- R37 to R58: words with a field that no layout assigns, by the trap that R47 puts first. -/
theorem test_decode_refuses :
    decode false 0xFC0BC00000000000 = .ok (.unassignedOpcode 0xFC0BC00000000000)
    ∧ decode false 0x202BC00200000007 = .ok (.iadd .always true false .z64 { src := .w 0 } { src := .w 2 })
    ∧ decode false 0x20ABC00200000147 = .illop                       -- U on IADC
    ∧ decode false 0x200BC0020000000F = .illop                       -- type 15
    ∧ decode false 0x200BC00200001007 = .illop                       -- F[12] of an integer instruction
    ∧ decode false 0x200BC00202000007 = .illopnd                     -- a source C that IADD does not use
    ∧ decode false 0x200BDF8200000007 = .illopnd                     -- source A 63
    ∧ decode false 0x200C000200000007 = .illopnd                     -- guard 48
    ∧ decode false 0x900BC00000000703 = .illopnd                     -- scope 7
    ∧ decode false 0x900BC00000000083 = .illop                       -- `.rel` on LD
    ∧ decode false 0x010BC00000000009 = .illopnd                     -- MARK with k = 9
    ∧ decode false 0x00CBC02800000000 = .illopnd                     -- SEAM with n = 5
    ∧ decode true 0x200BC00200A08007 = .ok (.iadd .always false false .z64 { src := .w 0, m := .perm 1 2 1 } { src := .w 2 })
    ∧ decode true 0x200BC00200A0A007 = .illopnd                      -- bits [1:0] of a permutation
    ∧ decode true 0x200BC00200A08207 = .illop := by decide +kernel

/-! ### Values from the manual's examples, each one step -/

/-- A lane that holds values, the first on top. -/
def holding (vs : List Word) : Lane := { weft := vs.map (fun v => { val := v }) ++ List.replicate (16 - vs.length) {} }

/-- A word about to issue in a warp whose lane 0 alone is active and holds values. -/
def one (w : Word) (vs : List Word) : State :=
  let s := State.reset.withFetchWord 64 w.toNat
  { s with warp := { s.warp with active := 1, lanes := s.warp.lanes.set 0 (holding vs) } }

/-- The state a step leaves. -/
def after (s : State) : State :=
  match step s with
  | .next t => t
  | _ => s

/-- The values on top of lane 0 after the word. -/
def pushed (w : Word) (vs : List Word) (n : Nat) : List Word := (((after (one w vs)).warp.lane 0).weft.take n).map (·.val)

/-- The sticky flags after the word. -/
def flagsAfter (w : Word) (vs : List Word) : Flags := BitVec.ofNat 6 (after (one w vs)).warp.fpflags.toNat

/-- R102. -/
theorem test_pack :
    pushed 0x108BC00100000249 [0x4000300020001, 0x9c40] 1 = [0x47fff00020001] ∧ flagsAfter 0x108BC00100000249 [0x4000300020001, 0x9c40] = Flag.sat
    ∧ pushed 0x108BC00100000049 [0x4000300020001, 0x9c40] 1 = [0x49c4000020001] ∧ flagsAfter 0x108BC00100000049 [0x4000300020001, 0x9c40] = 0 := by decide +kernel

/-- R80: 100 + 100 in `.s8`, clamped and wrapped. -/
theorem test_iadd_sat :
    pushed 0x200BC00100000020 [0x64, 0x64] 1 = [0x7f] ∧ flagsAfter 0x200BC00100000020 [0x64, 0x64] = Flag.sat
    ∧ pushed 0x200BC00100000000 [0x64, 0x64] 1 = [0xffffffffffffffc8] ∧ flagsAfter 0x200BC00100000000 [0x64, 0x64] = 0 := by decide +kernel

/-- R103. -/
theorem test_iabsd :
    pushed 0x228BC00100000000 [0xffffffffffffff80, 0x7f] 1 = [0xff] ∧ flagsAfter 0x228BC00100000000 [0xffffffffffffff80, 0x7f] = 0 := by decide +kernel

/-- R105. -/
theorem test_imadw :
    pushed 0x21CBC00104000003 [0xfffffffffffffffd, 5, 7, 0] 2 = [0xfffffffffffffff8, 0xffffffffffffffff] ∧ flagsAfter 0x21CBC00104000003 [0xfffffffffffffffd, 5, 7, 0] = 0 := by decide +kernel

/-- R106. -/
theorem test_isat :
    pushed 0x234BC00000000102 [0xfffffffffffffffb] 1 = [0] ∧ flagsAfter 0x234BC00000000102 [0xfffffffffffffffb] = Flag.sat
    ∧ pushed 0x234BC00000000102 [0x12c] 1 = [0xff] ∧ flagsAfter 0x234BC00000000102 [0x12c] = Flag.sat
    ∧ pushed 0x234BC00000000102 [0x11] 1 = [0x11] ∧ flagsAfter 0x234BC00000000102 [0x11] = 0 := by decide +kernel

/-- R107. -/
theorem test_idot4 :
    pushed 0x238BC00104000002 [0x403fe01, 0xf8070605, 0x64] 1 = [0x52] ∧ flagsAfter 0x238BC00104000002 [0x403fe01, 0xf8070605, 0x64] = 0 := by decide +kernel

/-- R109. -/
theorem test_lop3 :
    pushed 0x30CBC001040012C7 [0xff, 0xf0f, 0x3333] 1 = [0x3cc3]
    ∧ pushed 0x30CBC00104001D07 [0xff, 0xf0f, 0x3333] 1 = [0x33f] := by decide +kernel

/-- R110: an arithmetic shift past the width of a `.z8`, a rotation, a funnel. -/
theorem test_shifts :
    pushed 0x318BC00100000004 [0x80, 9] 1 = [0xff]
    ∧ pushed 0x31CBC00100000004 [0x81, 9] 1 = [3]
    ∧ pushed 0x320BC00104000004 [0x12, 0x34, 4] 1 = [0x23] := by decide +kernel

/-- R112. -/
theorem test_bfx :
    pushed 0x334BC00100000002 [0xf50, 0x403] 1 = [0xfffffffffffffffa] := by decide +kernel

/-- R113. -/
theorem test_permb :
    pushed 0x33CBC00104000007 [0x807060504030201, 0, 0x1234567] 1 = [0x102030405060708] := by decide +kernel

/-- R111: zero operands. -/
theorem test_counts :
    pushed 0x328BC00000000005 [0] 1 = [0x10]
    ∧ pushed 0x32CBC00000000004 [0] 1 = [8]
    ∧ pushed 0x330BC00000000000 [1] 1 = [0xffffffffffffff80] := by decide +kernel

/-- R41: the high half of a slot, negated. -/
theorem test_pick_half :
    pushed 0x200BC03801400002 [0x300000007] 1 = [0xfffffffffffffffd] := by decide +kernel

/-- R129: one rounding against two. -/
theorem test_ffma :
    pushed 0x50CBC00104000051 [0x3f800800, 0x3f800800, 0xbf800000] 1 = [0x3a000400] ∧ flagsAfter 0x50CBC00104000051 [0x3f800800, 0x3f800800, 0xbf800000] = 0
    ∧ pushed 0x508BC00100000011 [0x3f800800, 0x3f800800] 1 = [0x3f801000] ∧ flagsAfter 0x508BC00100000011 [0x3f800800, 0x3f800800] = Flag.inx := by decide +kernel

/-- R124. -/
theorem test_fdiv :
    pushed 0x52CBC00100000011 [0x3f800000, 0x80000000] 1 = [0xff800000] ∧ flagsAfter 0x52CBC00100000011 [0x3f800000, 0x80000000] = Flag.dze
    ∧ pushed 0x52CBC00100000011 [0, 0] 1 = [0x7fc00000] ∧ flagsAfter 0x52CBC00100000011 [0, 0] = Flag.inv := by decide +kernel

/-- R127. -/
theorem test_fscale :
    pushed 0x51CBC00100000011 [0x3fc00000, 0xffffffffffffff6b] 1 = [2] ∧ flagsAfter 0x51CBC00100000011 [0x3fc00000, 0xffffffffffffff6b] = Flag.unf ||| Flag.inx
    ∧ pushed 0x51CBC00100000011 [0x3fc00000, 0xffffffffffffff6a] 1 = [1] ∧ flagsAfter 0x51CBC00100000011 [0x3fc00000, 0xffffffffffffff6a] = Flag.unf ||| Flag.inx := by decide +kernel

/-- R126, R128. -/
theorem test_frnd_fclass :
    pushed 0x518BC00000000051 [0xbf400000] 1 = [0x80000000] ∧ flagsAfter 0x518BC00000000051 [0xbf400000] = Flag.inx
    ∧ pushed 0x520BC00000000011 [0x7f800001] 1 = [0x100] ∧ flagsAfter 0x520BC00000000011 [0x7f800001] = 0 := by decide +kernel

/-- R132. -/
theorem test_quick :
    pushed 0x610BC00000000011 [0x3f000000] 1 = [0x3f800000] ∧ flagsAfter 0x610BC00000000011 [0x3f000000] = 0
    ∧ pushed 0x610BC00000000011 [0x3e800000] 1 = [0x3f350000] ∧ flagsAfter 0x610BC00000000011 [0x3e800000] = Flag.inx
    ∧ pushed 0x614BC00000000011 [0x3f000000] 1 = [0] ∧ flagsAfter 0x614BC00000000011 [0x3f000000] = 0
    ∧ pushed 0x608BC00000000011 [0x3f000000] 1 = [0x3fb50000] ∧ flagsAfter 0x608BC00000000011 [0x3f000000] = Flag.inx
    ∧ pushed 0x608BC00000000011 [0xc0400000] 1 = [0x3e000000] ∧ flagsAfter 0x608BC00000000011 [0xc0400000] = 0 := by decide +kernel

/-- R132, R131. -/
theorem test_quick_more :
    pushed 0x60CBC00000000011 [0x41000000] 1 = [0x40400000] ∧ flagsAfter 0x60CBC00000000011 [0x41000000] = 0
    ∧ pushed 0x618BC00000000011 [0x3f800000] 1 = [0x3f42f000] ∧ flagsAfter 0x618BC00000000011 [0x3f800000] = Flag.inx
    ∧ pushed 0x604BC00000000011 [0x40000000] 1 = [0x3f350000] ∧ flagsAfter 0x604BC00000000011 [0x40000000] = Flag.inx
    ∧ pushed 0x600BC00000000011 [0x80000000] 1 = [0xff800000] ∧ flagsAfter 0x600BC00000000011 [0x80000000] = Flag.dze := by decide +kernel

/-- R134. -/
theorem test_cvt :
    pushed 0x700BC00000000222 [0xc0200000] 1 = [0xfffffffffffffffe] ∧ flagsAfter 0x700BC00000000222 [0xc0200000] = Flag.inx
    ∧ pushed 0x700BC00000000226 [0xbf800000] 1 = [0] ∧ flagsAfter 0x700BC00000000226 [0xbf800000] = Flag.inv
    ∧ pushed 0x700BC00000000071 [0x1000001] 1 = [0x4b800000] ∧ flagsAfter 0x700BC00000000071 [0x1000001] = Flag.inx
    ∧ pushed 0x700BC00000000232 [0x477ff000] 1 = [0x7c00] ∧ flagsAfter 0x700BC00000000232 [0x477ff000] = Flag.ovf ||| Flag.inx := by decide +kernel

/-- R134. -/
theorem test_cvt_small :
    pushed 0x700BC00000000234 [0x43fa0000] 1 = [0x7e] ∧ flagsAfter 0x700BC00000000234 [0x43fa0000] = Flag.sat ||| Flag.inx
    ∧ pushed 0x700BC00000000236 [0x3dcccccd] 1 = [0] ∧ flagsAfter 0x700BC00000000236 [0x3dcccccd] = Flag.unf ||| Flag.inx
    ∧ pushed 0x700BC00000000044 [0xffffffffffffffff] 1 = [0xff] ∧ flagsAfter 0x700BC00000000044 [0xffffffffffffffff] = 0
    ∧ pushed 0x700BC00000000040 [0x12c] 1 = [0x2c] ∧ flagsAfter 0x700BC00000000040 [0x12c] = 0 := by decide +kernel

/-- R94, R137. -/
theorem test_qcvt :
    pushed 0x708BC08000000238 [0x7a, 0xc0500000] 1 = [0xffffffffffffff98] ∧ flagsAfter 0x708BC08000000238 [0x7a, 0xc0500000] = 0
    ∧ pushed 0x708BC08000000238 [0x7a, 0x3d400000] 1 = [2] ∧ flagsAfter 0x708BC08000000238 [0x7a, 0x3d400000] = Flag.inx
    ∧ pushed 0x70CBC00100000311 [0xffffffffffffff98, 0x7a] 1 = [0xc0500000] ∧ flagsAfter 0x70CBC00100000311 [0xffffffffffffff98, 0x7a] = 0 := by decide +kernel

/-- R94: the lone acting lane’s own scale. -/
theorem test_qscale :
    pushed 0x704BC00000000238 [0xc0500000] 1 = [0x7a] := by decide +kernel

/-- R138, R139. -/
theorem test_residues :
    pushed 0x710BC00000000003 [0xb2d05e00] 1 = [0x1b03002d7]
    ∧ pushed 0x714BC00000000002 [0x1b03002d7] 1 = [0x7fffffff] ∧ flagsAfter 0x714BC00000000002 [0x1b03002d7] = Flag.sat
    ∧ pushed 0x714BC00000000003 [0x2003ffffe] 1 = [0xffffffffffffffff] ∧ flagsAfter 0x714BC00000000003 [0x2003ffffe] = 0
    ∧ pushed 0x714BC00000000003 [0x7ff] 1 = [0] ∧ flagsAfter 0x714BC00000000003 [0x7ff] = Flag.inv := by decide +kernel

/-! ### Across the lanes, control, the selvage -/

/-- A word about to issue in a warp with some lanes active; lane l holds the l-th list. -/
def some_ (w : Word) (m : Mask) (vs : List (List Word)) : State :=
  let s := State.reset.withFetchWord 64 w.toNat
  { s with warp := { s.warp with active := m, lanes := (vs.map holding) ++ s.warp.lanes.drop vs.length } }

/-- The value on top of each of the first n lanes, and its predicate p3. -/
def tops (s : State) (n : Nat) : List (Word × Bool) :=
  (s.warp.lanes.take n).map fun y => (((y.weft.head?).map (·.val)).getD 0, y.pred 3)

/-- R186's example: `shfl.xor w0, #1 -> p3` with lanes 0, 1 and 3 active. -/
theorem test_shfl : tops (after (some_ 0x804BC06100000183 0xB [[10], [11], [12], [13]])) 4 = [(11, true), (10, true), (12, false), (13, false)] := by
  decide +kernel

/-- R187's example: the tree's order of addition, which a serial sum would not give. -/
theorem test_wred : tops (after (some_ 0x808BC00000000011 0xF [[0x3F800000], [0x33800000], [0x33800000], [0x33800000]])) 1 = [(0x3F800001, false)] := by
  decide +kernel

/-- The prefix sums of R187, without a lane's own value: the identity for the first. -/
theorem test_wscan : tops (after (some_ 0x80CBC00000000803 0xB [[10], [11], [12], [13]])) 4 = [(0, false), (10, false), (12, false), (21, false)] := by
  decide +kernel

/-- R185: `vote.all w0 -> p3` is false when an acting lane holds 0, and a lane that does not act is left out. -/
theorem test_vote : tops (after (some_ 0x800BC00000000180 0x5 [[1], [0], [2]])) 3 = [(1, true), (0, false), (2, true)] := by decide +kernel

/-- The weft and D of a lane. -/
def weftOf (s : State) (l n : Nat) : List Word × Nat := (((s.warp.lane l).weft.take n).map (·.val), (s.warp.lane l).d)

/-- The loop of the manual's example (after R188), lane 1: CONFORM drops the pick below the two values kept. -/
theorem test_conform :
    let s := one 0x014BC20000000002 [1, 4, 1, 0, 1]
    let lane := { holding [1, 4, 1, 0, 1] with d := 4 }
    let e : Pleat := { kind := .loop, span := 1, count := some 2, savedD := List.replicate 32 1 }
    weftOf (after { s with warp := { s.warp with lanes := s.warp.lanes.set 0 lane, pleats := [e] } }) 0 5 = ([4, 1, 1, 0, 0], 2) := by decide +kernel

/-- The same example at its SEAM: the second arrival drops the odd arm's extra pick, and D is what the entry saved and the export. -/
theorem test_seam_merges :
    let s := one 0x00CBC48800000000 [4, 3, 1, 0, 1]
    let lane := { holding [4, 3, 1, 0, 1] with d := 2 }
    let e : Pleat := { kind := .split, span := 3, waiting := 2, phase := true, resume := some 0, seam := 0, count := some 1
                       savedD := List.replicate 32 2 }
    let t := after { s with warp := { s.warp with lanes := s.warp.lanes.set 0 lane, pleats := [e] } }
    weftOf t 0 5 = ([4, 1, 0, 1, 0], 3) ∧ t.warp.active = 3 ∧ t.warp.pleats = [] := by decide +kernel

/-- The same example at its BRC: lane 1 waits at the target, the others go on with D zero. -/
theorem test_brc :
    let s := some_ 0x0080400000008002 0xF [[2], [1], [4], [8]]
    let t := after { s with warp := { s.warp with base := 0x1000, lanes := s.warp.lanes.set 1 { holding [1] with preds := 2 } } }
    t.warp.active = 0xD ∧ t.warp.base = 0x1080 ∧ t.warp.pleats.map (fun e => (e.waiting, e.resume, e.seam)) = [(2, some 0x1200, 0x1100)] := by
  decide +kernel

/-- R384's example: NOP in a block at 0x1000. -/
theorem test_selvage : foldWord 0x1000 0x000BC00000000000 = 0x000BC00000020000 := by decide +kernel

/-- R372: `bkpt #3` in a stage whose handler stands at 0x2000, then R373: TRET goes back to the word `cr.tpc` names. -/
theorem test_bkpt_and_tret :
    let img : PatternImage := { stages := [{ num := 0, isGroup := true, entry := some 0, handler := 0x2000 }] }
    let pat : Pattern := { ctx := 0, addr := 0, image := img, ovfBase := 0, parkBase := 0, parkImages := 0, parkGroups := 0, hwBase := 0 }
    let s := some_ 0xE20BC00000000003 0xF []
    let t := after { s with patterns := [pat], warp := { s.warp with base := 0x1000 } }
    t.warp.h = true ∧ t.warp.tcause = 0x12 ∧ t.warp.tpc = 0x1008 ∧ t.warp.tnext = 0x1080 ∧ t.warp.tmask = 0xF ∧ t.warp.tinfo = 3 ∧ t.warp.base = 0x2000
    ∧ (let u := after { t with warp := { t.warp with buf := blockOf 0xE18BC00000000000, phase := .issue, yielded := false } }
       u.warp.h = false ∧ u.warp.base = 0x1000 ∧ u.warp.phase = .fetch (.tretAt 1)) := by decide +kernel

/-- R6, R29: the bytes of a word in memory, lowest address first. -/
theorem test_memory :
    let m := Memory.writeWord [] 0x100 0x0807060504030201
    m = (List.range 8).map (fun k => (0x100 + k, BitVec.ofNat 8 (k + 1))) ∧ Memory.readWord m 0xFC = 0x0403020100000000
    ∧ Memory.writeWord m 0x100 0 = [] := by decide +kernel

/-- R280: the atomics' corners: increment and decrement wrap at B, the signed minimum, the float minimum of −0 and +0. -/
theorem test_atomics :
    rmwValue .inc 32 7 7 = 0 ∧ rmwValue .dec 32 0 7 = 7 ∧ rmwValue .dec 32 9 7 = 7 ∧ rmwValue .smin 32 0xFFFFFFFF 1 = 0xFFFFFFFF
    ∧ rmwValue .umin 32 0xFFFFFFFF 1 = 1 ∧ rmwValue .add 32 0xFFFFFFFF 1 = 0 ∧ rmwValue .fmin 32 0 0x80000000 = 0x80000000 := by decide +kernel

/-! ### Witnesses: states and operands that meet the hypotheses of each claim -/

/-- Every instruction of a list is ready in a state. -/
def readyAll (is : List Instr) (s : State) : Bool := is.all fun i => operandsOk (s.issue i) && decide (pendingOf (s.issue i) = none)

theorem ready_of_readyAll {is : List Instr} {s : State} (h : readyAll is s = true) {i : Instr} (hi : i ∈ is) : Ready i s := by
  simpa [readyAll, Ready] using List.all_eq_true.mp h i hi

theorem forall_lanes {m : Mask} {P : Nat → Prop} (h : ∀ l : Fin 32, m.getLsbD l.val = true → P l.val) (l : Nat) (hl : m.getLsbD l = true) : P l :=
  h ⟨l, lane_lt hl⟩ hl

/-- A warp at a NOP, with every lane active and a frame of 32 slots. -/
def plain : State :=
  let s := State.reset.withFetchWord 64 0x000BC00000000000
  { s with warp := { s.warp with frame := 32, lanes := s.warp.lanes.map fun y => { y with pocket := List.replicate 32 0 } } }

/-- No trap of a flag is enabled after reset. -/
theorem plain_noFpx (m : Mask) (fl : Nat → Flags) : NoFpx plain m fl := by
  have h : enables plain.warp.fpmode = 0 := by decide +kernel
  exact .inr (by simp [h])

/-- Sources at the edges of what R40 names. -/
def edgeA : OpA := { src := .f 31 }
def edgeB : OpB := { src := .w 15, m := {} }

theorem witness_WeftGroup :
    readyAll [.pick .always true { src := .x 7 }, .save .always edgeA 31, .pack .always true 15 .s4x16 edgeA edgeB, .unpack .always 15 .s4x16 edgeA] plain
      = true ∧ ∀ m fl, NoFpx plain m fl := ⟨by decide +kernel, plain_noFpx⟩

theorem witness_IntegerArithmetic :
    readyAll [.iadd .always false true .z64 edgeA edgeB, .isub .always true true .s4x16 edgeA edgeB, .imin .always false .s8 edgeA edgeB
      , .imax .always false .z32x2 edgeA edgeB, .iclamp .always false .s64 edgeA edgeB (.imm 63), .imul .always false true .z64 edgeA edgeB
      , .imad .always false true .s8 edgeA edgeB .lit, .imulh .always false .s64 edgeA edgeB] plain = true ∧ ∀ m fl, NoFpx plain m fl :=
  ⟨by decide +kernel, plain_noFpx⟩

theorem witness_IntegerForms :
    readyAll [.iabsd .always false .s8 edgeA edgeB, .lea .always false .s64 edgeA edgeB (.imm 63), .isat .always false .s64 .z8 edgeA
      , .imadw .always false .s64 edgeA edgeB (.w 14), .idot4 .always false true .s32 edgeA edgeB .ones, .idot2 .always true false .z32 edgeA edgeB .gid] plain
      = true ∧ Ty.z8.isInt = true ∧ ∀ m fl, NoFpx plain m fl := ⟨by decide +kernel, rfl, plain_noFpx⟩

theorem witness_CarryChains :
    readyAll [.iadc .always .z64 47 edgeA edgeB, .isbb .always .s8 0 edgeA edgeB] plain = true ∧ ∀ m fl, NoFpx plain m fl :=
  ⟨by decide +kernel, plain_noFpx⟩

theorem witness_LogicGroup :
    readyAll [.and .always false .z64 edgeA edgeB, .or .always true .s8x8 edgeA edgeB, .xor .always false .s4x16 edgeA edgeB
      , .lop3 .always false .z64 0x96 edgeA edgeB (.f 31), .permb .always false .z8 edgeA edgeB .lit] plain = true ∧ (∀ m fl, NoFpx plain m fl)
    ∧ 63 < 64 ∧ 7 < 8 := ⟨by decide +kernel, plain_noFpx, by decide, by decide⟩

theorem witness_Shifts :
    readyAll [.shl .always false .s4x16 edgeA edgeB, .shr .always false .z64 edgeA edgeB, .sar .always false .s64 edgeA edgeB
      , .rol .always false .z8 edgeA edgeB, .funnel .always true .z64 edgeA edgeB (.imm 63)] plain = true ∧ ∀ m fl, NoFpx plain m fl :=
  ⟨by decide +kernel, plain_noFpx⟩

/-- The field of 255 bits at position 255 of a `.s64`, and one at the top of an 8-bit word. -/
theorem witness_BitCountsAndFields :
    readyAll [.popc .always false .z64 edgeA, .clz .always false .s8 edgeA, .ctz .always false .z16 edgeA, .brev .always true .z64 edgeA
      , .bfx .always false .s64 edgeA edgeB, .bfi .always false .z64 edgeA edgeB (.f 31)] plain = true ∧ (∀ m fl, NoFpx plain m fl)
    ∧ Ty.s64.isInt = true ∧ 63 < Ty.s64.width ∧ 255 < 2 ^ 8 ∧ 7 < 8 ∧ (Instr.popc .always false .z64 { src := .w 0 }).wellFormed false = true
    ∧ (Instr.bfi .always false .z64 { src := .w 0 } { src := .w 1 } (.w 2)).wellFormed false = true :=
  ⟨by decide +kernel, plain_noFpx, rfl, by decide, by decide, by decide, by decide, by decide⟩

theorem witness_ComparesAndPredicates :
    readyAll [.icmp .always .s64 .ge 47 edgeA edgeB, .sel .always true 46 edgeA edgeB, .pset .always 0 edgeA, .itst .always 46 edgeA edgeB
      , .plop .always 0xF0 47 46 0 1, .ptov .always, .vtop .always edgeA edgeB, .fcmp .always .bf16 .ord 46 edgeA edgeB] plain = true
    ∧ (∀ m fl, NoFpx plain m fl) ∧ Cond.ge ≠ .un ∧ Cond.ge ≠ .ord := ⟨by decide +kernel, plain_noFpx, by decide, by decide⟩

/-- The largest code of each kind of format, and a tie of the rounding to nearest. -/
theorem witness_RoundingOnce :
    Ty.f64.isFloat = true ∧ 2 ^ 64 - 1 < 2 ^ (formatOf .f64).width ∧ Ty.e2m1.isFloat = true ∧ 15 < 2 ^ (formatOf .e2m1).width
    ∧ (formatOf .e2m1).value 15 = .fin true 3 1 ∧ (roundUnits .rne false 3 0 (0 + (1 : Nat))).1 = 2 ∧ Ty.e4m3.isFloat = true ∧ 2 ^ 70 ≠ 0 := by
  decide +kernel

theorem witness_FloatArithmetic :
    readyAll [.fadd .always false .f64 .mode edgeA edgeB, .fsub .always true .bf16 .rdn edgeA edgeB, .fmul .always false .f16 .rup edgeA edgeB
      , .ffma .always false .f32 .rtz edgeA edgeB (.f 31), .fdiv .always false .f32 .rne edgeA edgeB, .fsqrt .always false .f64 .rne edgeA
      , .frnd .always false .f32 .rdn edgeA, .fscale .always false .f32 .mode edgeA edgeB, .fmin .always false .f32 edgeA edgeB
      , .fmax .always false .f64 edgeA edgeB, .fclass .always false .f16 edgeA, .fdot2 .always false .bf16 .rne edgeA edgeB .lit] plain = true
    ∧ ∀ m fl, NoFpx plain m fl := ⟨by decide +kernel, plain_noFpx⟩

/-- Sums, products and roots that are not zero, and those that are: 3/2 and −1, 1 and −1, a zero. -/
theorem witness_FloatArithmetic_values :
    let real := fun (s : Bool) (m : Nat) (e : ℤ) => (signedM s m : ℝ) * (2 : ℝ) ^ e
    let x := real false 3 (-1)
    let y := real true 1 0
    x + y ≠ 0 ∧ x * y ≠ 0 ∧ x * y + x * x ≠ 0 ∧ x ≠ 0 ∧ y ≠ 0 ∧ 0 < x ∧ y < 0 ∧ real false 1 0 + y = 0 ∧ real true 0 5 = 0 ∧ real true 0 5 * x = 0
    ∧ y * real false 1 0 + real false 1 0 = 0 ∧ x * y + y * y + x ≠ 0
    ∧ (formatOf .f16).value 0x3C00 = .fin false 1024 (-10) ∧ (formatOf .f16).value 0xBC00 = .fin true 1024 (-10) ∧ 0xBC00 < 2 ^ (formatOf .f16).width
    ∧ ((formatOf .f16).value 0x7E00).isNan = true := by
  refine ⟨?_, ?_, ?_, ?_, ?_, ?_, ?_, ?_, ?_, ?_, ?_, ?_, by decide +kernel, by decide +kernel, by decide +kernel, by decide +kernel⟩ <;> norm_num [signedM]

/-- Zero times infinity, an infinite product against the opposite infinity and beside a number, an infinite addend; the terms of a dot product that make
it zero with either sign, infinite with either sign, no number by a signalling NaN, by a void product, by terms that oppose each other, or by a quiet NaN
alone. -/
theorem witness_FloatArithmetic_specials :
    let one := FVal.fin false 1 0
    let minus := FVal.fin true 1 0
    let void := fun (x y : FVal) => x.isInf && y.isZero || x.isZero && y.isInf
    let endless := fun (x y : FVal) (n : Bool) =>
      !x.isNan && !y.isNan && !x.isZero && !y.isZero && (x.isInf || y.isInf) && (x.neg != y.neg) == n
    let term := fun (a b v w c : FVal) n => endless a b n || endless v w n || c == .inf n
    let bad := fun (a b v w c : FVal) => [a, b, v, w, c].any FVal.isSnan || void a b || void v w || term a b v w c true && term a b v w c false
    ((FVal.inf true).isInf && (FVal.fin true 0 4).isZero) = true
    ∧ (!(FVal.inf true).isNan && !one.isNan && !(FVal.inf true).isZero && !one.isZero && ((FVal.inf true).isInf || one.isInf)) = true
    ∧ (FVal.inf false = .inf !true ∧ one ≠ .inf !true ∧ one.isNan = false) ∧ (!one.isNan && !minus.isNan && !one.isInf && !minus.isInf) = true
    ∧ (signedM true 0 = 0 ∧ signedM false 0 = 0 ∧ (true != false) = true)
    ∧ ([bad (.nan true) one one one one, bad (.inf true) (.fin true 0 0) one one one, bad one one (.inf true) one (.inf false)].all id) = true
    ∧ bad (.nan false) one one one one = false ∧ ([FVal.nan false, one].any FVal.isNan) = true
    ∧ (∀ n, bad one (.inf n) one one one = false ∧ term one (.inf n) one one one n = true) := by decide +kernel

/-- A rounded value above, below and within the range of an integer type, equal to what it was and not; the greatest magnitude of a list; half a unit of a
block's element. -/
theorem witness_Conversions_values :
    let real := fun (s : Bool) (m : Nat) (e : ℤ) => (signedM s m : ℝ) * (2 : ℝ) ^ e
    let vs := [FVal.fin true 3 (-1), .fin false 1 0]
    RoundedTo .rne (real false 300 0) 0 300 ∧ RoundedTo .rne (real true 3 (-1)) 0 (-2) ∧ RoundedTo .rtz (real true 3 (-1)) 0 (-1)
    ∧ RoundedTo .rup (real false 5 0) 0 5 ∧ ((5 : ℤ) : ℝ) = real false 5 0 ∧ ((-2 : ℤ) : ℝ) ≠ real true 3 (-1)
    ∧ (∀ (n : Bool) (m : Nat) (e : ℤ), .fin n m e ∈ vs → (m : ℝ) * (2 : ℝ) ^ e ≤ 3 / 2) ∧ vs.any FVal.isNan = false ∧ vs.any FVal.isInf = false
    ∧ ((3 : ℝ) * (2 : ℝ) ^ (-1 : ℤ) = 3 / 2) ∧ [FVal.inf true].any FVal.isInf = true ∧ [FVal.nan false].any FVal.isNan = true
    ∧ RoundedTo .rne (real false 1 (-1) / (2 : ℝ) ^ (((127 : Nat) : ℤ) - 127)) 0 0 := by
  refine ⟨?_, ?_, ?_, ?_, ?_, ?_, ?_, rfl, rfl, ?_, rfl, rfl, ?_⟩
  case refine_7 =>
    intro n m e h
    rcases List.mem_cons.1 h with h | h
    · cases h; norm_num [zpow_neg]
    · cases List.mem_singleton.1 h; norm_num
  all_goals norm_num [RoundedTo, signedM, zpow_neg, abs_lt, abs_le]

/-- One half, 8 and −64 as FP32, and the numbers that they are. -/
theorem witness_QuickFunctions_values :
    let real := fun (s : Bool) (m : Nat) (e : ℤ) => (signedM s m : ℝ) * (2 : ℝ) ^ e
    (formatOf .f32).value 0x3F000000 = .fin false (2 ^ 23) (-24) ∧ (formatOf .f32).value 0x41000000 = .fin false (2 ^ 23) (-20)
    ∧ (formatOf .f32).value 0xC2800000 = .fin true (2 ^ 23) (-17) ∧ (formatOf .f32).value 0x80000000 = .fin true 0 (-149)
    ∧ 2 * real false (2 ^ 23) (-24) = (1 : ℤ) ∧ real false (2 ^ 23) (-20) = (8 : ℤ) ∧ real false (2 ^ 23) (-20) = (2 : ℝ) ^ (3 : ℤ)
    ∧ 32 < |real true (2 ^ 23) (-17)| ∧ real true (2 ^ 23) (-17) < 0 ∧ 128 ≤ real false (2 ^ 23) (-16) := by
  refine ⟨by decide +kernel, by decide +kernel, by decide +kernel, by decide +kernel, ?_, ?_, ?_, ?_, ?_, ?_⟩ <;> norm_num [signedM, zpow_neg]

theorem witness_QuickFunctions :
    readyAll [.frcp .always false edgeA, .frsq .always true edgeA, .fex2 .always false edgeA, .flg2 .always false edgeA, .fsin .always false edgeA
      , .fcos .always false edgeA, .ftanh .always false edgeA] plain = true ∧ ∀ m fl, NoFpx plain m fl := ⟨by decide +kernel, plain_noFpx⟩

/-- The last residues, the two ends of the range, and each class of type pair. -/
theorem witness_Conversions :
    readyAll [.cvt .always false .rne .s64 .z8 edgeA, .cvt .always true .rtz .f64 .s64 edgeA, .cvt .always false .mode .f32 .e2m1 edgeA
      , .qscale .always .f32 .e2m1 edgeA, .qcvt .always .bf16 .bi4 edgeA edgeB, .dqcvt .always .bi8 .f16 edgeA edgeB
      , .resenc .always false .z64 edgeA, .resdec .always false .s8 edgeA] plain = true ∧ (∀ m fl, NoFpx plain m fl)
    ∧ 2046 < 2047 ∧ 2048 < 2049 ∧ (2 : Int) * 4294966272 ≤ 2047 * 2048 * 2049 ∧ -(2047 * 2048 * 2049) < (2 : Int) * -4294966271
    ∧ Ty.s64.isInt = true ∧ Ty.e2m1.isInt = false := ⟨by decide +kernel, plain_noFpx, by decide, by decide, by decide, by decide, rfl, rfl⟩

/-- INX enabled: 1 + 2^−24, (1 + 2^−12)², and 16,777,217 as an FP32, each inexact. -/
def trapsOn (vs : List Word) : State :=
  let s := one 0x000BC00000000000 vs
  { s with warp := { s.warp with fpmode := 1 + 2 ^ 12 } }

theorem witness_EnabledFlagTraps :
    let a : OpA := { src := .w 0 }
    let b : OpB := { src := .w 1 }
    let meets := fun (s : State) (i : Instr) (fl : Nat → Flags) =>
      readyAll [i] s = true ∧ s.warp.h = false ∧ s.warp.region = none ∧ flagsOf (actingOf s.warp false .always) fl &&& enables s.warp.fpmode ≠ 0
    let s1 := trapsOn [0x3F800000, 0x33800000]
    let s2 := trapsOn [0x3F800800, 0x3F800800]
    let s3 := trapsOn [16777217]
    meets s1 (.fadd .always false .f32 .mode a b) (fun l => (float2Lane addF .f32 .mode a b (s1.issue (.fadd .always false .f32 .mode a b)) l).flags)
    ∧ meets s2 (.fmul .always false .f32 .mode a b) (fun l => (float2Lane mulF .f32 .mode a b (s2.issue (.fmul .always false .f32 .mode a b)) l).flags)
    ∧ meets s3 (.cvt .always false .mode .s64 .f32 a) (fun l => (cvtLane .mode .s64 .f32 a (s3.issue (.cvt .always false .mode .s64 .f32 a)) l).flags) := by
  decide +kernel

/-- Every flag's trap enabled. -/
def armed (vs : List Word) : State :=
  let s := one 0x000BC00000000000 vs
  { s with warp := { s.warp with fpmode := 1 + 0x3F * 2 ^ 8 } }

/-- An instruction of lane 0, ready, raises a flag whose trap is enabled. -/
def raises (vs : List Word) (i : Instr) (f : Issue → Nat → LaneOut) : Bool :=
  let s := armed vs
  readyAll [i] s && !s.warp.h && s.warp.region.isNone && flagsOf (actingOf s.warp false .always) (fun l => (f (s.issue i) l).flags) &&& enables s.warp.fpmode != 0

/-- Saturation in each integer form; R107's products over a sum at its type's end. -/
theorem witness_EnabledFlagTraps_integers :
    let a : OpA := { src := .w 0 }
    let b : OpB := { src := .w 1 }
    let ints := fun (op : Int → Int → Int → Int) (x : Issue) (l : Nat) => intOut .s8 true fun k =>
      op (intElem .s8 (valA x .arith .s8 a l) k) (intElem .s8 (valB x .arith .s8 b l) k) (intElem .s8 (Machine.srcC x (.w 2) l) k)
    let dots := fun (w n : Nat) (x : Issue) (l : Nat) => intOut .s32 true fun _ => intElem .s32 (Machine.srcC x (.w 2) l) 0
      + ((List.range n).map fun k => signedOf w (elemOf w k (valA x .arith .z32 a l).toNat) * signedOf w (elemOf w k (valB x .arith .z32 b l).toNat)).sum
    raises [0x12345, 0x12345] (.pack .always true 0 .z8 a b) (packLane true 0 .z8 a b)
    ∧ raises [0x64, 0x64] (.iadd .always false true .s8 a b) (ints fun x y _ => x + y)
    ∧ raises [0x80, 0x64] (.isub .always false true .s8 a b) (ints fun x y _ => x - y)
    ∧ raises [0x64, 0x64] (.imul .always false true .s8 a b) (ints fun x y _ => x * y)
    ∧ raises [0x64, 0x64, 0x64] (.imad .always false true .s8 a b (.w 2)) (ints fun x y z => x * y + z)
    ∧ raises [0x64, 0x64, 0x7FFFFFFF] (.idot4 .always false true .s32 a b (.w 2)) (dots 8 4)
    ∧ raises [0x64, 0x64, 0x7FFFFFFF] (.idot2 .always false true .s32 a b (.w 2)) (dots 16 2)
    ∧ raises [300] (.isat .always false .s64 .z8 a) (fun x l => intOut .z8 true fun _ => intElem .s64 (valA x .arith .s64 a l) 0) := by decide +kernel

/-- A signalling NaN in each float form. -/
theorem witness_EnabledFlagTraps_floats :
    let a : OpA := { src := .w 0 }
    let b : OpB := { src := .w 1 }
    let vs : List Word := [0x7F800001, 0x3F800000, 0x3F800000]
    let f := formatOf .f32
    let out := fun (op : FVal → FVal → FVal → Nat × Flags) (x : Issue) (l : Nat) => floatOut (op (floatA x .f32 a l) (floatB x .f32 b l) (floatC x .f32 (.w 2) l))
    let least := fun (first : Int → Bool) (x : Issue) (l : Nat) =>
      floatOut (minMaxF first f ((valA x .float .f32 a l).toNat % 2 ^ f.width) ((valB x .float .f32 b l).toNat % 2 ^ f.width))
    raises vs (.fcmp .always .f32 .lt 3 a b) (fcmpLane .f32 .lt 3 a b)
    ∧ raises vs (.fadd .always false .f32 .rne a b) (out fun x y _ => addF f .rne x y)
    ∧ raises vs (.fsub .always false .f32 .rne a b) (out fun x y _ => addF f .rne x y.flip)
    ∧ raises vs (.fmul .always false .f32 .rne a b) (out fun x y _ => mulF f .rne x y)
    ∧ raises vs (.ffma .always false .f32 .rne a b (.w 2)) (out fun x y z => fmaF f .rne x y z)
    ∧ raises vs (.fdiv .always false .f32 .rne a b) (out fun x y _ => divF f .rne x y)
    ∧ raises vs (.fsqrt .always false .f32 .rne a) (out fun x _ _ => sqrtF f .rne x)
    ∧ raises vs (.frnd .always false .f32 .rne a) (out fun x _ _ => roundIntegral f .rne x)
    ∧ raises vs (.fscale .always false .f32 .rne a b) (fscaleLane .f32 .rne a b)
    ∧ raises vs (.fmin .always false .f32 a b) (least fun o => decide (o ≤ 0)) ∧ raises vs (.fmax .always false .f32 a b) (least fun o => decide (o ≥ 0))
    ∧ raises [0x7F81, 0x3F80, 0] (.fdot2 .always false .bf16 .rne a b (.w 2)) (fdot2Lane .bf16 .rne a b (.w 2)) := by decide +kernel

/-- The same in the quick functions, conversions and reductions; a block scale that is none; a residue number that is none. -/
theorem witness_EnabledFlagTraps_others :
    let a : OpA := { src := .w 0 }
    let b : OpB := { src := .w 1 }
    let vs : List Word := [0x7F800001, 0x3F800000]
    let quick := fun (i : Instr) (q : FVal → Nat × Flags) => raises vs i fun x l => floatOut (q (floatA x .f32 a l))
    let reduces := fun (i : Instr) (set : Mask) => raises vs i fun x _ =>
      let v := fun l => (Machine.srcA x (.w 0) l).toNat % 2 ^ Ty.f32.width
      { flags := flagsOf 1 (fun _ => (treeRoot .add .f32 .rne v set).2) ||| if ((formatOf .f32).value (v 0)).isSnan then Flag.inv else 0 }
    quick (.frcp .always false a) frcpQ ∧ quick (.frsq .always false a) frsqQ ∧ quick (.fex2 .always false a) fex2Q ∧ quick (.flg2 .always false a) flg2Q
    ∧ quick (.fsin .always false a) fsinQ ∧ quick (.fcos .always false a) fcosQ ∧ quick (.ftanh .always false a) ftanhQ
    ∧ raises vs (.cvt .always false .rne .f32 .f16 a) (cvtLane .rne .f32 .f16 a)
    ∧ raises vs (.qscale .always .f32 .bi8 a) (fun x l => { flags := if (floatA x .f32 a l).isNan then Flag.inv else 0 })
    ∧ raises vs (.qcvt .always .f32 .bi8 a b) (qcvtLane .f32 .bi8 a b) ∧ raises [1, 255] (.dqcvt .always .bi8 .f32 a b) (dqcvtLane .bi8 .f32 a b)
    ∧ raises [0x7FF] (.resdec .always false .s32 a) (resdecLane .s32 a)
    ∧ reduces (.wred .always .add .f32 .rne (.w 0)) 1 ∧ reduces (.wscan .always true .add .f32 .rne (.w 0)) 0 := by decide +kernel

theorem witness_WarpWide :
    readyAll [.vote .always .all 46 (.f 31), .vote .always .any 47 (.w 15), .vote .always .uni 0 (.x 7), .vote .always .ballot 0 .lane
      , .active .always, .shfl .always .idx 3 (.w 0) .lane, .shfl .always .up 3 (.w 0) (.imm 63), .shfl .always .down 3 (.w 0) .ones
      , .shfl .always .xor 46 (.w 0) (.imm 33), .bcast .always 3 (.w 0) .lit, .matchLanes .always .s8 .lane] plain = true
    ∧ (∀ m fl, NoFpx plain m fl) ∧ (Instr.matchLanes .always .z64 (.w 0)).wellFormed false = true := ⟨by decide +kernel, plain_noFpx, by decide⟩

theorem witness_Reductions :
    readyAll [.wred .always .add .f32 .rup (.f 31), .wscan .always true .xor .z8 .mode .lane] plain = true ∧ (∀ m fl, NoFpx plain m fl)
    ∧ Ty.z8.isInt = true ∧ (255 < 2 ^ Ty.z8.width) ∧ (BitVec.allOnes 32 : Mask) ≠ 0 :=
  ⟨by decide +kernel, plain_noFpx, rfl, by decide, by decide⟩

/-- `plain` with its warp changed. -/
def plainWith (f : Warp → Warp) : State := { plain with warp := f plain.warp }

/-- A guard that holds in no lane. -/
def never : Guard := { neg := true, p := 47 }

theorem witness_UniformBranches :
    let s := plainWith fun w => { w with ux := 0x01FFFFFFFFFFFF80 :: w.ux.drop 1 }
    (readyAll [.bra never 0, .brx never (.x 0)] plain = true ∧ guardDiffers plain.warp never = 0 ∧ acting plain.warp never = 0)
    ∧ (readyAll [.bra .always (2 ^ 32)] plain = true ∧ guardDiffers plain.warp .always = 0 ∧ acting plain.warp .always ≠ 0
        ∧ field (blockAt plain.warp (2 ^ 32 : BitVec 33).toInt) 0 7 = 0)
    ∧ (readyAll [.brx .always (.x 0)] s = true ∧ guardDiffers s.warp .always = 0 ∧ acting s.warp .always ≠ 0
        ∧ (∀ l : Fin 32, Machine.srcA (s.issue (.brx .always (.x 0))) (.x 0) l.val = 0x01FFFFFFFFFFFF80) ∧ field (0x01FFFFFFFFFFFF80 : Word) 0 7 = 0)
    ∧ readyAll [.nop never, .yield .always] plain = true ∧ acting plain.warp .always ≠ 0 := by decide +kernel

/-- A lane's pleat entry, for lists of them. -/
def anEntry : Pleat := { kind := .split, span := -1, savedD := List.replicate 32 16 }

/-- One level short of the deepest, a split of the lanes and a guard that holds in all. -/
theorem witness_SplitPushes :
    let s := plainWith fun w => { w with pleats := List.replicate 63 anEntry, lanes := w.lanes.set 3 { w.lane 3 with preds := 2 } }
    readyAll [.brc { neg := false, p := 1 } 4 2, .brc .always 4 2] s = true ∧ s.warp.region = none ∧ s.warp.h = false ∧ s.warp.pleats.length < 64
    ∧ field (blockAt s.warp 4) 0 7 = 0 ∧ acting s.warp { neg := false, p := 1 } = 8 := by decide +kernel

/-- A call level as a call from `plain` leaves it. -/
def aLevel : CallLevel := { lanes := List.replicate 32 { weft := emptyWeft, d := 16, pocket := [] }, frame := 0, active := -1, depth := 0, ret := 0x1000 }

def deepDecl (n : Fin 8) : SeamDecl := { d0 := 15, d1 := 14, n := n, s0 := 14, s1 := 0, s2 := 0, s3 := 0, s4 := 13, s5 := 0, s6 := 0, s7 := 0 }

/-- The first arrival of two and the last, with four exports and none. -/
theorem witness_SeamArrivals :
    let lanes := fun (d : Nat) => List.replicate 32 ({ Lane.blank with d := d } : Lane)
    let e : Pleat := { anEntry with waiting := 0xFFFF0000, resume := some 0x1000, seam := 0 }
    let s := plainWith fun w => { w with pleats := [e], active := 0xFFFF, lanes := lanes 15 }
    let t := plainWith fun w => { w with pleats := [{ e with phase := true }], active := 0xFFFF, lanes := lanes 14 }
    (readyAll [.seam .always (deepDecl 4)] s = true ∧ s.warp.region = none ∧ s.warp.innermost = some e ∧ e.kind = .split ∧ e.seam = s.warp.base
      ∧ (deepDecl 4).n.val ≤ 4 ∧ (∀ y ∈ s.warp.lanes, y.weft.length = 16) ∧ (∀ l : Fin 32, (s.warp.lane l.val).d = 15) ∧ e.phase = false ∧ e.waiting ≠ 0)
    ∧ (readyAll [.seam .always (deepDecl 0)] t = true ∧ t.warp.innermost = some { e with phase := true }
        ∧ ∀ l : Fin 32, (t.warp.lane l.val).d = 14) := by decide +kernel

theorem witness_ControlTraps :
    let g : Guard := { neg := false, p := 1 }
    let mixed := plainWith fun w => { w with lanes := w.lanes.set 31 { w.lane 31 with preds := 2 } }
    let lanes := fun (d : Nat) => List.replicate 32 ({ Lane.blank with d := d } : Lane)
    let split := plainWith fun w => { w with pleats := [{ anEntry with seam := 128 }] }
    let here := plainWith fun w => { w with pleats := [anEntry], lanes := lanes 14 }
    let loop := plainWith fun w => { w with pleats := [{ anEntry with kind := .loop, count := some 8 }] }
    let away := plainWith fun w => { w with base := 64 }
    (mixed.warp.region = none ∧ readyAll [.bra g 0, .brx g (.w 0)] mixed = true ∧ guardDiffers mixed.warp g = 0x80000000)
    ∧ (readyAll [.brx .always .lane, .brx .always .ones] plain = true ∧ lowest (acting plain.warp .always) = some 0
        ∧ (maskOf fun l => plain.warp.active.getLsbD l && Machine.srcA (plain.issue (.brx .always .lane)) .lane l != 0) ≠ 0
        ∧ (maskOf fun l => plain.warp.active.getLsbD l && Machine.srcA (plain.issue (.brx .always .ones)) .ones l != -1) = 0 ∧ field (-1 : Word) 0 7 ≠ 0)
    ∧ (readyAll [.bra .always 1] away = true ∧ acting away.warp .always ≠ 0 ∧ field (blockAt away.warp 1) 0 7 ≠ 0)
    ∧ (readyAll [.seam .always (deepDecl 0), .conform .always 8 { c0 := 15, c1 := 0, c2 := 0, c3 := 0, c4 := 0, c5 := 0, c6 := 0, c7 := 0 }, .brl .always 0] plain
          = true ∧ plain.warp.innermost = none ∧ field (blockAt plain.warp 0) 0 7 = 0)
    ∧ (readyAll [.seam .always (deepDecl 0)] split = true ∧ (split.warp.innermost.map (·.seam)) = some 128 ∧ split.warp.base ≠ 128)
    ∧ (loop.warp.innermost.map (·.count)) = some (some 8)
    ∧ (readyAll [.seam .always (deepDecl 0)] here = true ∧ here.warp.innermost = some anEntry ∧ anEntry.seam = here.warp.base
        ∧ (maskOf fun l => here.warp.active.getLsbD l && (here.warp.lane l).d != 15) ≠ 0) := by decide +kernel

/-- The full stack of pleats and a handler's four; the full stack of calls, none, and one of another depth; the depths a loop does not want; a second
way out of a loop; targets of calls. -/
theorem witness_ControlTraps_stacks :
    let g : Guard := { neg := false, p := 1 }
    let c : ConformSel := { c0 := 15, c1 := 0, c2 := 0, c3 := 0, c4 := 0, c5 := 0, c6 := 0, c7 := 0 }
    let mixed := fun (w : Warp) => w.lanes.set 31 { w.lane 31 with preds := 2 }
    let full := plainWith fun w => { w with pleats := List.replicate 64 anEntry }
    let four := plainWith fun w => { w with pleats := List.replicate 5 anEntry, h := true, shadow := some { lanes := [], active := -1, depth := 1, wcount := 0 } }
    let deep := plainWith fun w => { w with calls := List.replicate 256 aLevel, ux := 0x01FFFFFFFFFFFF80 :: w.ux.drop 1 }
    let open_ := plainWith fun w => { w with calls := [aLevel], lanes := mixed w }
    let crossed := plainWith fun w => { w with calls := [{ aLevel with depth := 3 }], pleats := [anEntry] }
    let loop := fun (n d : Nat) (r : Option Word) => plainWith fun w => { w with
      pleats := [{ anEntry with kind := .loop, count := some n, resume := r }], lanes := List.replicate 32 { Lane.blank with d := d } }
    let away := plainWith fun w => { w with base := 64, lanes := mixed w }
    (readyAll [.brc .always 1 2, .mark never 15] full = true ∧ field (blockAt full.warp 1) 0 7 = 0 ∧ 64 ≤ full.warp.pleats.length)
    ∧ (readyAll [.brc .always 1 2, .mark never 15] four = true ∧ four.warp.pleats.length < 64 ∧ (four.warp.shadow.map (·.depth + 4)) = some four.warp.pleats.length)
    ∧ (readyAll [.call .always 0 0 0, .callx .always (.x 0) 0 0] deep = true ∧ guardDiffers deep.warp .always = 0 ∧ lowest (acting deep.warp .always) = some 0
        ∧ (∀ l : Fin 32, Machine.srcA (deep.issue (.callx .always (.x 0) 0 0)) (.x 0) l.val = 0x01FFFFFFFFFFFF80) ∧ 256 ≤ deep.warp.calls.length
        ∧ ∀ y ∈ deep.warp.lanes, ∀ v ∈ y.weft, v.pend = none)
    ∧ (readyAll [.call g 0 0 0, .callx g (.w 0) 0 0, .ret g 0] open_ = true ∧ guardDiffers open_.warp g ≠ 0 ∧ open_.warp.calls = [aLevel]
        ∧ aLevel.depth = open_.warp.pleats.length)
    ∧ (readyAll [.callx .always .lane 0 0, .callx .always .ones 0 0, .ret .always 0] plain = true ∧ plain.warp.calls = [])
    ∧ (readyAll [.ret never 4] crossed = true ∧ (crossed.warp.calls.map (·.depth)) = [3] ∧ 3 ≠ crossed.warp.pleats.length)
    ∧ (readyAll [.conform .always 8 c, .brl .always 0] (loop 8 16 none) = true ∧ ((loop 8 16 none).warp.innermost.map (·.count)) = some (some 8)
        ∧ (maskOf fun l => (loop 8 16 none).warp.active.getLsbD l && ((loop 8 16 none).warp.lane l).d == 16) ≠ 0)
    ∧ (readyAll [.brl never 0] (loop 8 8 (some 0x4000)) = true ∧ acting (loop 8 8 (some 0x4000)).warp never = 0
        ∧ (maskOf fun l => (loop 8 8 (some 0x4000)).warp.active.getLsbD l && ((loop 8 8 (some 0x4000)).warp.lane l).d != 8) = 0
        ∧ (loop 8 8 (some 0x4000)).warp.nextBlock ≠ 0x4000)
    ∧ (readyAll [.call .always 1 0 0, .brc g 1 2, .brl g 1] away = true ∧ field (blockAt away.warp 1) 0 7 ≠ 0) := by decide +kernel

theorem witness_Loops :
    let lanes := List.replicate 32 ({ Lane.blank with d := 8 } : Lane)
    let e : Pleat := { anEntry with kind := .loop, count := some 8 }
    let c : ConformSel := { c0 := 15, c1 := 0, c2 := 0, c3 := 0, c4 := 0, c5 := 0, c6 := 0, c7 := 15 }
    let full := plainWith fun w => { w with pleats := List.replicate 63 anEntry }
    let s := plainWith fun w => { w with pleats := [e], lanes := lanes }
    let some_ : Guard := { neg := false, p := 1 }
    let t := plainWith fun w => { w with pleats := [{ e with resume := some w.nextBlock, waiting := 0 }], lanes := lanes.set 0 { Lane.blank with d := 8, preds := 2 } }
    (readyAll [.mark .always 8, .mark .always 0] full = true ∧ full.warp.region = none ∧ full.warp.h = false ∧ full.warp.pleats.length < 64)
    ∧ (readyAll [.conform .always 8 c, .brl .always 0, .brl never 0] s = true ∧ s.warp.innermost = some e ∧ e.kind = .loop ∧ e.count = some 8
        ∧ (∀ y ∈ s.warp.lanes, y.weft.length = 16) ∧ (∀ l : Fin 32, (s.warp.lane l.val).d = 8) ∧ field (blockAt s.warp 0) 0 7 = 0
        ∧ s.warp.active &&& ~~~(acting s.warp .always) = 0 ∧ acting s.warp never = 0 ∧ e.resume = none)
    ∧ (readyAll [.brl some_ 0] t = true ∧ acting t.warp some_ = 1 ∧ (∀ l : Fin 32, (t.warp.lane l.val).d = 8)
        ∧ (t.warp.innermost.map (·.resume)) = some (some t.warp.nextBlock)) := by decide +kernel

theorem witness_CallsAndReturns :
    let s := plainWith fun w => { w with calls := List.replicate 255 aLevel, ux := 0x01FFFFFFFFFFFF80 :: w.ux.drop 1 }
    s.warp.region = none ∧ s.warp.h = false ∧ guardDiffers s.warp .always = 0 ∧ acting s.warp .always ≠ 0
    ∧ readyAll [.call .always (-1) 32 8, .callx .always (.x 0) 0 0, .ret .always 8] s = true
    ∧ (∀ y ∈ s.warp.lanes, ∀ v ∈ y.weft, v.pend = none) ∧ s.warp.calls.length < 256 ∧ field (blockAt s.warp (-1)) 0 7 = 0
    ∧ field (0x01FFFFFFFFFFFF80 : Word) 0 7 = 0 ∧ (∀ l : Fin 32, Machine.srcA (s.issue (.callx .always (.x 0) 0 0)) (.x 0) l.val = 0x01FFFFFFFFFFFF80)
    ∧ s.warp.calls = aLevel :: List.replicate 254 aLevel ∧ aLevel.depth = s.warp.pleats.length ∧ aLevel.lanes.length = s.warp.lanes.length := by
  decide +kernel

theorem witness_ExitEnds :
    let g : Guard := { neg := false, p := 1 }
    let s := plainWith fun w => { w with lanes := w.lanes.set 31 { w.lane 31 with preds := 2 } }
    let e : Pleat := { anEntry with phase := true, waiting := 0xFF, count := some 4 }
    let t := plainWith fun w => { w with pleats := [e], active := 0xFFFFFF00 }
    let joins := fun (w : Warp) => w.recs.any fun r => match r with
      | some r => r.join
      | none => false
    (readyAll [.exit never, .exit .always] plain = true ∧ plain.warp.region = none ∧ joins plain.warp = false ∧ acting plain.warp never = 0)
    ∧ (readyAll [.exit g] s = true ∧ acting s.warp g ≠ 0 ∧ s.warp.active &&& ~~~(acting s.warp g) ≠ 0)
    ∧ (acting plain.warp .always ≠ 0 ∧ plain.warp.active &&& ~~~(acting plain.warp .always) = 0 ∧ plain.warp.h = false ∧ plain.warp.pleats = []
        ∧ plain.warp.calls = [] ∧ isQuiet plain plain.warp = true ∧ plain.warp.regs = [] ∧ plain.warp.group = none)
    ∧ (readyAll [.exit .always] t = true ∧ t.warp.pleats = [e] ∧ e.kind = .split ∧ e.phase = true ∧ acting t.warp .always ≠ 0
        ∧ t.warp.active &&& ~~~(acting t.warp .always) = 0 ∧ e.waiting &&& ~~~(acting t.warp .always) ≠ 0 ∧ joins t.warp = false) := by decide +kernel

/-- A pattern of context 0 at address 0 whose stage 0 is a group stage with a handler at 0x2000. -/
def handled : Pattern :=
  { ctx := 0, addr := 0, image := { stages := [{ num := 0, isGroup := true, entry := some 0, handler := 0x2000 }] }
    ovfBase := 0, parkBase := 0, parkImages := 0, parkGroups := 0, hwBase := 0 }

/-- `plain` in a stage with a handler. -/
def caught : State := { plain with patterns := [handled] }

/-- `caught` in its handler, the shadow as the entry left it. -/
def inHandler : State :=
  { caught with warp := { caught.warp with
    h := true, tpc := 0x1078, hret := 2
    shadow := some { lanes := caught.warp.lanes.map (fun y => (y.weft, y.d)), active := -1, depth := 0, wcount := 7 } } }

theorem witness_TrapEntry : caught.warp.h = false ∧ handlerOf caught caught.warp ≠ 0 := by decide +kernel

/-- A warp without a handler whose queue has work published. -/
theorem witness_UnhandledTrapFlushes :
    let s := { plain with queues := [{ num := 0, vf := 0, enabled := true, p := 5, c := 2 }] }
    handlerOf s s.warp = 0 ∧ s.warp.resident = true ∧ s.warp.regs = [] ∧ s.warp.group = none
    ∧ (s.warp.recs.all fun r => match r with
        | some r => !r.join
        | none => true) = true
    ∧ s.queues.find? (fun x => x.num == s.warp.queue) = some { num := 0, vf := 0, enabled := true, p := 5, c := 2 }
    ∧ s.saved = [] ∧ s.others = [] ∧ s.homes = [] ∧ s.heddles = [] ∧ (inHandler.warp.h = true ∧ inHandler.warp.resident = true) := by decide +kernel

theorem witness_RaisedTraps :
    let v : Word := 0x200BC00200000007
    trapWaits caught = false ∧ trapWaits inHandler = false
    ∧ readyAll [.unassignedOpcode v, .trap .always 255 .ones, .bkpt .always 0, .trap never 0 (.w 0), .bkpt never 255] caught = true
    ∧ lowest (acting caught.warp .always) = some 0 ∧ acting caught.warp .always ≠ 0 ∧ acting caught.warp never = 0 ∧ inHandler.warp.h = true := by
  decide +kernel

theorem witness_HandlerReturns :
    let g : Guard := { neg := false, p := 1 }
    let deep := { inHandler with warp := { inHandler.warp with pleats := [anEntry] } }
    let head := { inHandler with warp := { inHandler.warp with tpc := 0x1000 } }
    readyAll [.tret .always, .tret g, .call .always 1 0 0, .callx g (.w 0) 32 8, .ret .always 0] inHandler = true ∧ inHandler.warp.h = true
    ∧ inHandler.warp.shadow.isSome = true ∧ inHandler.warp.pleats.length = 0 ∧ field inHandler.warp.tpc 3 4 = 15
    ∧ (inHandler.warp.shadow.map (·.lanes.length)) = some inHandler.warp.lanes.length ∧ (∀ y ∈ inHandler.warp.lanes, ∀ v ∈ y.weft, v.pend = none)
    ∧ inHandler.warp.region = none ∧ g ≠ .always ∧ readyAll [.tret g] caught = true ∧ caught.warp.h = false
    ∧ readyAll [.tret .always] deep = true ∧ deep.warp.pleats.length ≠ 0
    ∧ readyAll [.tret .always] head = true ∧ head.warp.pleats.length = 0 ∧ field head.warp.tpc 3 4 = 0 := by decide +kernel

/-- A block whose header gives one word, fetched for a TRET to word 9; a header, and a word past the length, start no instruction. -/
theorem witness_HandlerReturns_block :
    let s := { inHandler with warp := { inHandler.warp with phase := .check (.tretAt 9), buf := 0x0400000000000000 :: List.replicate 15 0, h := false } }
    s.warp.phase = .check (.tretAt 9) ∧ clauseBad s.warp.buf = none ∧ 9 ∉ starts s.warp.buf ∧ 0 ∉ starts s.warp.buf := by decide +kernel

/-- The ends of each run of numbers, and the numbers beside them. -/
theorem witness_ControlRegisterRead :
    readyAll [.csrr .always false 9, .csrr .always true 0x010, .csrr .always false 0x015, .csrr .always false 0x020, .csrr .always false 0x025
      , .csrr .always false 0x00A, .csrr .always false 0x016, .csrr .always false 0x01F, .csrr .always false 0x026, .csrr .always false 0xFFF] plain = true
    ∧ (∀ m fl, NoFpx plain m fl) ∧ plain.warp.region = none
    ∧ (∀ n ∈ [0x00A, 0x00F, 0x016, 0x01F, 0x026, 0xFFF], ¬ (n < 10 ∨ 0x010 ≤ n ∧ n ≤ 0x015 ∨ 0x020 ≤ n ∧ n ≤ 0x025)) :=
  ⟨by decide +kernel, plain_noFpx, by decide, by decide⟩

/-- The value that a CSRW of the uniform slot 0 writes in `s`. -/
def csrwState (s : State) (v : Word) : State := { s with warp := { s.warp with ux := v :: s.warp.ux.drop 1 } }

def csrwHolds (s : State) (n : BitVec 12) (v : Word) : Bool :=
  let i := Instr.csrw .always n (.x 0)
  readyAll [i] (csrwState s v) && lowest (acting (csrwState s v).warp .always) == some 0
    && Machine.srcA ((csrwState s v).issue i) (.x 0) 0 == v

theorem witness_ControlRegisterWrite :
    let signed := { plain with warp := { plain.warp with signed := true } }
    (csrwHolds plain 0x010 (2 ^ 14 - 2 ^ 8 + 4) ∧ field (2 ^ 14 - 2 ^ 8 + 4 : Word) 3 5 = 0 ∧ field (2 ^ 14 - 2 ^ 8 + 4 : Word) 0 3 = 4)
    ∧ csrwHolds plain 0x011 63 ∧ csrwHolds plain 0x012 20 ∧ csrwHolds plain 0x012 32 ∧ csrwHolds signed 0x013 3 ∧ signed.warp.signed = true ∧ csrwHolds plain 0x013 2
    ∧ (csrwHolds inHandler 0x021 (2 ^ 57 - 8) ∧ field (2 ^ 57 - 8 : Word) 0 3 = 0 ∧ csrwHolds inHandler 0x025 2 ∧ inHandler.warp.h = true)
    ∧ (readyAll [.csrw never 0x025 (.w 0), .csrw never 9 (.w 0)] plain = true ∧ acting plain.warp never = 0
        ∧ (readCr plain.warp 0 0x025).isSome = true ∧ (readCr plain.warp 0 9).isSome = true)
    ∧ (plain.warp.region = none ∧ csrwHolds plain 9 0 ∧ csrwHolds plain 0x014 0 ∧ csrwHolds plain 0x015 0 ∧ csrwHolds plain 0x024 0 ∧ csrwHolds plain 0x021 0
        ∧ plain.warp.h = false ∧ csrwHolds plain 0x013 1 ∧ plain.warp.signed = false)
    ∧ (csrwHolds plain 0x010 0 ∧ csrwHolds plain 0x010 5 ∧ csrwHolds plain 0x010 9 ∧ field (9 : Word) 3 5 ≠ 0 ∧ csrwHolds plain 0x010 (2 ^ 14 + 1)
        ∧ csrwHolds plain 0x011 64 ∧ csrwHolds plain 0x012 19 ∧ csrwHolds plain 0x012 33 ∧ csrwHolds plain 0x013 4) := by decide +kernel

theorem witness_ClockPushes : readyAll [.clock .always false, .clock .always true] plain = true := by decide +kernel

/-- An open region that has been replayed twice. -/
def aRegion : Region := { keep := 16, replays := 2, lanes := [], mask := -1 }

theorem witness_SelvageCheck :
    let s := { plain with warp := { plain.warp with region := some aRegion, sig := 1, buf := blockOf 0xE04BDE0000000000 } }
    readyAll [.chksig .always .lit] plain = true ∧ plain.warp.sig = plain.warp.buf.getD (plain.warp.idx + 1) 0
    ∧ readyAll [.chksig .always .lit] inHandler = true ∧ inHandler.warp.h = true
    ∧ readyAll [.chksig .always .lit] s = true ∧ s.warp.h = false ∧ s.warp.sig ≠ s.warp.buf.getD (s.warp.idx + 1) 0
    ∧ s.warp.region = some aRegion ∧ aRegion.replays < 3
    ∧ (let t := { s with warp := { s.warp with region := none } }; readyAll [.chksig .always .lit] t = true ∧ t.warp.region = none ∧ trapWaits t = false)
    ∧ (let t := { s with warp := { s.warp with region := some { aRegion with replays := 3 } } }
       readyAll [.chksig .always .lit] t = true ∧ t.warp.region = some { aRegion with replays := 3 } ∧ trapWaits t = false) := by decide +kernel

/-- A context whose VF's ring has one place left, none, and none with 256 events held. -/
theorem witness_SelvageCheck_events :
    let p : VfPage := { vf := 3, evtBase := 0x1000, evtSize := 2, evtProd := 2, evtCons := 0xFFFFFFFFFFFFFFFF }
    let s := fun (p : VfPage) => { plain with contexts := [{ num := 4095, vf := 3, asid := 0, root := 0, quota := 0, evSeq := 9 }], vfs := [p] }
    let room := fun (p : VfPage) => p.evtBase ≠ 0 ∧ (p.evtProd - p.evtCons).toNat < 2 ^ p.evtSize.toNat
    (findContext (s p) 4095).isSome = true ∧ vfPage (s p) 3 = some p ∧ room p ∧ p.heldEvents = [] ∧ p.discarded = 0 ∧ (s p).hbmStacks = []
    ∧ (s p).ports = [] ∧ (s p).homes = [] ∧ ¬ room { p with evtProd := 3 } ∧ ¬ room { p with evtBase := 0 }
    ∧ ({ p with evtProd := 3, heldEvents := List.replicate 256 [] } : VfPage).heldEvents.length = 256 := by decide +kernel

theorem witness_Regions :
    let s := { plain with warp := { plain.warp with region := some aRegion } }
    readyAll [.iregion .always 16, .iregionClose .always] plain = true ∧ plain.warp.h = false ∧ isQuiet plain plain.warp = true
    ∧ readyAll [.iregion .always 0, .iregionClose .always] s = true ∧ isQuiet s s.warp = true
    ∧ readyAll [.iregion .always 16, .iregionClose .always] inHandler = true ∧ inHandler.warp.h = true := by decide +kernel

theorem witness_MemoryReadsWhatWasWritten :
    Memory.wf [] = true ∧ Memory.wf [(0, 1), (2 ^ 52 - 1, 0xFF)] = true ∧ 7 < 8 ∧ (0x107 < 0x108 ∨ 0x108 + 8 ≤ 0x107) ∧ (0x100 < 0x100 ∨ 0xF8 + 8 ≤ 0x100) := by
  decide

/-- A page of 2 MiB that the die's TLBs hold, at the same physical address as its virtual one. -/
def page (va pa treat : Nat) : TlbEntry :=
  { die := 0, ctx := 0, va := word va, lg := 21, pa := pa, treat := BitVec.ofNat 3 treat, r := true, w := true, x := true, w2 := true }

/-- Every lane active, in a group with 4 KiB of scratchpad and 64 private bytes a lane; lane l's f0 is the l-th 16-byte place from 0xE00 up, its f1 the
l-th 8-byte place. The pages from 0 are tracked, from 2 MiB ply, from 4 MiB watched, the private window's at 16 MiB. -/
def mapped : State :=
  let g : Group := { key := 1, ctx := 0, pat := 0, stage := 0, gidx := 0, die := 0, core := 0, nwarps := 1, scratch := 4096 }
  let lanes := (List.range 32).map fun l =>
    ({ plain.warp.lane l with pocket := word (0xE00 + 16 * l) :: word (0xE00 + 8 * l) :: List.replicate 30 0 } : Lane)
  { plain with
    groups := [g], warp := { plain.warp with group := some 1, lanes := lanes, recs := List.replicate 32 (some { priv := 64 }), ux := 48 :: plain.warp.ux.drop 1 }
    caches := { tlb := [page 0 0 0, page 0x200000 0x200000 4, page 0x400000 0x400000 3, page privateBase 0x1000000 0] } }

theorem mapped_calm : Calm mapped := by decide +kernel

def noPeg : PegSel := { a := false, b := false }

/-- A self-invalidating line homed elsewhere of which the die holds a dirty byte, its home cache a clean copy and the warp's core an L1 line, lane 0
alone acting; x0 is its address, f1 lane 0's last word of it. -/
def dirtyLine : State :=
  let bytes := List.replicate 128 (7 : Byte)
  { mapped with
    warp := { mapped.warp with active := 1, ux := 0x1078 :: mapped.warp.ux.drop 1 }
    coh := { l1 := [{ die := 0, core := 0, line := 32, bytes := some bytes }] }
    caches := { tlb := [page 0 0 1], dirty := [{ die := 0, pa := 0x1078, val := 1, writers := [(mapped.warp.id, 0)] }]
                clean := [{ die := 0, line := 32, bytes := bytes }]
                code := [{ die := 0, core := 0, ctx := 0, va := 0x1000, pa := 0x1000, words := [] }] } }

theorem dirtyLine_clear : Clear dirtyLine 1 0x1078 := by decide +kernel

/-- `mapped` with its first page self-invalidating. -/
def selfInv : State := { mapped with caches := { mapped.caches with tlb := [page 0 0 1] } }

theorem selfInv_calm : Calm selfInv := by decide +kernel

/-- Sixteen bytes in the last places of the scratchpad, at the end of the private bytes, and in a page of each treatment. -/
theorem witness_LoadsComplete :
    let ld := Instr.ld .always noPeg .sys .rlx .normal false .b16 (.f 0)
    let lds := Instr.lds .always noPeg .quad .acq false .b16 (.f 0)
    let ldp := Instr.ldp .always noPeg false .b16 (.x 0)
    Calm mapped ∧ readyAll [ld, lds, ldp, .ld .always noPeg .thread .acq .keep true .b1 (.f 0)] mapped = true
    ∧ (∀ l : Fin 32, globFate mapped mapped.warp (Machine.srcA (mapped.issue ld) (.f 0) l) 16 .load false = .fine (.glob (0xE00 + 16 * l) 0 false))
    ∧ (∀ l : Fin 32, scratchFate mapped mapped.warp (Machine.srcA (mapped.issue lds) (.f 0) l) 16 false = .fine (.scratch (0xE00 + 16 * l) false))
    ∧ (∀ l : Fin 32, privateFate mapped mapped.warp l (Machine.srcA (mapped.issue ldp) (.x 0) l) 16 false
        = .fine (.priv [(0x1000000 + (192 + l) * 8, 8), (0x1000000 + (224 + l) * 8, 8)])) :=
  ⟨mapped_calm, by decide +kernel, by decide +kernel, by decide +kernel, by decide +kernel⟩

/-- A self-invalidating page where nothing stands in a cache, and the line that stands in all of them. -/
theorem witness_LoadsComplete_copies :
    let ld := Instr.ld .always noPeg .sys .rlx .normal false .b16 (.f 0)
    let one := Instr.ld .always noPeg .thread .rlx .normal true .b8 (.x 0)
    Calm selfInv ∧ readyAll [ld] selfInv = true
    ∧ (∀ l : Fin 32, globFate selfInv selfInv.warp (Machine.srcA (selfInv.issue ld) (.f 0) l) 16 .load false = .fine (.glob (0xE00 + 16 * l) 1 false)
        ∧ (0xE00 + 16 * l.val) % 16 = 0)
    ∧ readyAll [one] dirtyLine = true ∧ HomeRoom dirtyLine 1 ∧ lanesOf (acting dirtyLine.warp .always) = [0] ∧ 0x1078 % 8 = 0 ∧ Clear dirtyLine 1 0x1078
    ∧ globFate dirtyLine dirtyLine.warp (Machine.srcA (dirtyLine.issue one) (.x 0) 0) 8 .load false = .fine (.glob 0x1078 1 false)
    ∧ jobsDue dirtyLine dirtyLine.warp = false ∧ (l1Of dirtyLine 0 0 0x1078).isSome = true
    ∧ (l1Of { dirtyLine with coh := {} } 0 0 0x1078).isSome = false :=
  ⟨selfInv_calm, by decide +kernel, by decide +kernel, by decide +kernel, by decide +kernel, by decide +kernel, by decide +kernel, dirtyLine_clear, by decide +kernel
    , by decide +kernel, by decide +kernel, by decide +kernel⟩

theorem witness_StoresComplete :
    let st := Instr.st .always noPeg .sys .rel .normal .b16 (.f 0) (.w 14)
    let sts := Instr.sts .always noPeg .quad .rel .b16 (.f 0) (.w 14)
    let stp := Instr.stp .always noPeg .b16 (.x 0) (.w 14)
    let st8 := Instr.stp .always noPeg .b8 (.x 0) (.w 14)
    Calm mapped ∧ readyAll [st, sts, stp, st8] mapped = true
    ∧ (∀ l : Fin 32, globFate mapped mapped.warp (Machine.srcA (mapped.issue st) (.f 0) l) 16 .store true = .fine (.glob (0xE00 + 16 * l) 0 false))
    ∧ (∀ l : Fin 32, scratchFate mapped mapped.warp (Machine.srcA (mapped.issue sts) (.f 0) l) 16 true = .fine (.scratch (0xE00 + 16 * l) false))
    ∧ (findGroup mapped (mapped.warp.group.getD 0)).isSome = true
    ∧ (∀ l : Fin 32, privateFate mapped mapped.warp l (Machine.srcA (mapped.issue stp) (.x 0) l) 16 true
        = .fine (.priv [(0x1000000 + (192 + l) * 8, 8), (0x1000000 + (224 + l) * 8, 8)]))
    ∧ (∀ l : Fin 32, privateFate mapped mapped.warp l (Machine.srcA (mapped.issue st8) (.x 0) l) 8 true
        = .fine (.priv [(0x1000000 + (192 + l) * 8, 8)])) :=
  ⟨mapped_calm, by decide +kernel, by decide +kernel, by decide +kernel, by decide +kernel, by decide +kernel, by decide +kernel⟩

/-- A self-invalidating page: the first line is homed on the warp's die, 0x1000 on another. -/
theorem witness_StoresComplete_copies :
    let st := fun (sc : Scope) (o : Order) => Instr.st .always noPeg sc o .normal .b8 (.f 1) (.w 14)
    Calm selfInv ∧ readyAll [st .pkg .rel, st .die .rlx] selfInv = true
    ∧ (∀ l : Fin 32, globFate selfInv selfInv.warp (Machine.srcA (selfInv.issue (st .pkg .rel)) (.f 1) l) 8 .store true = .fine (.glob (0xE00 + 8 * l) 1 false))
    ∧ homedElsewhere selfInv 0 0xE00 = false ∧ homedElsewhere selfInv 0 0x1000 = true ∧ releases .rel = true ∧ reachesPkg .pkg = true ∧ reachesPkg .die = false :=
  ⟨selfInv_calm, by decide +kernel, by decide +kernel, by decide +kernel, by decide +kernel, by decide +kernel, by decide +kernel, by decide +kernel⟩

/-- The lanes of an instruction that are unaligned, and those out of range, as the claim counts them. -/
def badLanes (s : State) (i : Instr) (a : Src) (n : Nat) : Mask × Mask :=
  let A := fun l => (Machine.srcA (s.issue i) a l).toNat
  (maskOf fun l => s.warp.active.getLsbD l && A l % n != 0,
   maskOf fun l => s.warp.active.getLsbD l && (decide (A l + n > 2 ^ 57)
     || (decide (A l < 0x01FF000000000000 + 96 * 2 ^ 30) && decide (A l + n > 0x01FF000000000000))))

/-- Address 1 is unaligned; 2^57 and the window's first and last words are out of range, and the words beside the window are not. -/
theorem witness_AddressTraps :
    let at_ := fun (v : Word) => { plain with warp := { plain.warp with ux := v :: plain.warp.ux.drop 1 } }
    let ld := Instr.ld .always noPeg .thread .rlx .normal false .b8 (.x 0)
    let st := Instr.st .always noPeg .thread .rlx .normal .b8 (.x 0) (.w 0)
    let atom := Instr.atom .always noPeg .pkg .rlx .add .w64 (.x 0) (.w 0)
    (∀ i ∈ [ld, st, atom], readyAll [i] (at_ 1) = true ∧ badLanes (at_ 1) i (.x 0) 8 = (-1, 0))
    ∧ ([0x0200000000000000, 0x01FF000000000000, 0x01FF0017FFFFFFF8].all fun v => badLanes (at_ v) ld (.x 0) 8 == (0, -1)) = true
    ∧ ([0x01FFFFFFFFFFFFF8, 0x01FEFFFFFFFFFFF8, 0x01FF001800000000].all fun v => badLanes (at_ v) ld (.x 0) 8 == (0, 0)) = true
    ∧ (at_ 1).warp.region = none ∧ lowest (-1 : Mask) = some 0 := by decide +kernel

/-- `mapped` with lane 0 alone and x0 an address. -/
def oneAt (v : Word) : State := { mapped with warp := { mapped.warp with active := 1, ux := v :: mapped.warp.ux.drop 1 } }

/-- A page that no table maps; one that may be read and not written, and the other way round; a ply cell for a store and a plain word for STV; a marked
granule under the access's last byte; the last places of the scratchpad and of the private bytes, and the next ones. -/
theorem witness_AddressTraps_pages :
    let s := fun (v : Word) (tlb : List TlbEntry) => { oneAt v with caches := { tlb := tlb }, homes := [{ pa := 0x108, ctx := 0, group := none }] }
    let X := fun (s : State) => translate s 0 (some 0) 0 (s.warp.ux.getD 0 0).toNat
    let st := Instr.st .always noPeg .thread .rlx .normal .b16 (.x 0) (.w 0)
    let sts := Instr.sts .always noPeg .quad .rlx .b16 (.x 0) (.w 0)
    let inGroup := { oneAt 0xFF0 with groups := mapped.groups.map fun g => { g with marks := [0xFF0] } }
    readyAll [st, .stv .always noPeg .pkg .rel (.x 0) (.x 1) (.x 2), .ldv .always noPeg .pkg .acq (.x 0) (.x 1)] (s 0x100 []) = true
    ∧ lanesOf (acting (s 0x100 []).warp .always) = [0] ∧ X (s 0x100 []) = .page ∧ badLanes (s 0x100 []) st (.x 0) 16 = (0, 0)
    ∧ X (s 0x100 [{ page 0 0 0 with w := false }]) = .ok 0x100 0 true false true true
    ∧ X (s 0x100 [{ page 0 0 0 with r := false, x := false }]) = .ok 0x100 0 false true false true ∧ X (s 0x100 [page 0 0 4]) = .ok 0x100 4 true true true true
    ∧ (let t := s 0x100 [page 0 0 0]
       X t = .ok 0x100 0 true true true true ∧ reachable t 0x100 = true ∧ inDeviceArea t 0 0x100 16 = false ∧ hwOffset t 0 0x100 = none
         ∧ (∃ z ∈ t.homes, 0x100 < z.pa + 16 ∧ z.pa < 0x100 + 16))
    ∧ (readyAll [sts] inGroup = true ∧ (∃ gr, groupOf inGroup inGroup.warp = some gr ∧ 0xFF0 + 16 ≤ gr.scratch ∧ inQuad inGroup.warp.core = inQuad gr.core)
        ∧ (findGroup inGroup (inGroup.warp.group.getD 0)).map (·.marks) = some [0xFF0] ∧ inQuad inGroup.warp.core * 2 ^ 19 + 0xFF0 % 2 ^ 19 = 0xFF0)
    ∧ (groupOf (oneAt 0x1000) (oneAt 0x1000).warp).map (·.scratch) = some 0x1000
    ∧ (((oneAt 48).warp.recs.getD 0 none).map (·.priv)).getD 0 = 64 ∧ 48 + 16 ≤ 64 ∧ 64 < 64 + 16 := by
  refine ⟨by decide +kernel, by decide +kernel, by decide +kernel, by decide +kernel, by decide +kernel, by decide +kernel, by decide +kernel, ?_, ?_
    , by decide +kernel, by decide +kernel, by decide, by decide⟩
  · exact ⟨by decide +kernel, by decide +kernel, by decide +kernel, by decide +kernel, ⟨_, List.mem_singleton.mpr rfl, by decide, by decide⟩⟩
  · exact ⟨by decide +kernel, ⟨_, rfl, by decide +kernel, by decide +kernel⟩, by decide +kernel, by decide +kernel⟩

theorem witness_AtomicValues : newValue .inc 32 7 7 = some 0 ∧ newValue .dec 64 0 9 = some 9 ∧ newValue .smin 32 0x80000000 0 = some 0x80000000
    ∧ newValue .exch 128 1 2 = some 2 := by decide

theorem witness_AtomicsComplete :
    let atom := Instr.atom .always noPeg .pkg .acqRel .dec .w64 (.f 1) (.w 15)
    let red := Instr.red .always noPeg .sys .rel .fadd .w32 (.f 1) .lit
    let acas := Instr.acas .always noPeg .pkg .acqRel .w128 (.f 0) (.w 14) (.w 12)
    let atoms := Instr.atoms .always noPeg .quad .rlx .smin .w32 (.f 1) (.w 0)
    let acass := Instr.acass .always noPeg .quad .rlx .w128 (.f 0) (.w 0) (.w 2)
    Calm mapped ∧ mapped.warp.region = none ∧ readyAll [atom, red, acas, atoms, acass] mapped = true
    ∧ (∀ l : Fin 32, globFate mapped mapped.warp (Machine.srcA (mapped.issue atom) (.f 1) l) 8 (.atomic false) true = .fine (.glob (0xE00 + 8 * l) 0 false)
        ∧ globFate mapped mapped.warp (Machine.srcA (mapped.issue red) (.f 1) l) 4 (.atomic false) true = .fine (.glob (0xE00 + 8 * l) 0 false)
        ∧ globFate mapped mapped.warp (Machine.srcA (mapped.issue acas) (.f 0) l) 16 (.atomic true) true = .fine (.glob (0xE00 + 16 * l) 0 false))
    ∧ (∀ l : Fin 32, scratchFate mapped mapped.warp (Machine.srcA (mapped.issue atoms) (.f 1) l) 4 true = .fine (.scratch (0xE00 + 8 * l) false)
        ∧ scratchFate mapped mapped.warp (Machine.srcA (mapped.issue acass) (.f 0) l) 16 true = .fine (.scratch (0xE00 + 16 * l) false))
    ∧ (findGroup mapped (mapped.warp.group.getD 0)).isSome = true :=
  ⟨mapped_calm, rfl, by decide +kernel, by decide +kernel, by decide +kernel, by decide +kernel⟩

/-- An atomic on a line that the die's caches hold. -/
theorem witness_AtomicsComplete_copies :
    let atom := Instr.atom .always noPeg .pkg .rlx .umax .w64 (.x 0) (.w 15)
    let red := Instr.red .always noPeg .sys .rlx .inc .w32 (.x 0) .lit
    let acas := Instr.acas .always noPeg .pkg .rlx .w64 (.x 0) (.w 14) (.w 12)
    let s := { dirtyLine with mem := [] }
    readyAll [atom, red, acas] s = true ∧ lanesOf (acting s.warp .always) = [0] ∧ 0x1078 % 8 = 0 ∧ 0x1078 % 4 = 0 ∧ Clear s 1 0x1078
    ∧ globFate s s.warp (Machine.srcA (s.issue atom) (.x 0) 0) 8 (.atomic (hostCarries .umax)) true = .fine (.glob 0x1078 1 false)
    ∧ globFate s s.warp (Machine.srcA (s.issue red) (.x 0) 0) 4 (.atomic (hostCarries .inc)) true = .fine (.glob 0x1078 1 false)
    ∧ globFate s s.warp (Machine.srcA (s.issue acas) (.x 0) 0) 8 (.atomic true) true = .fine (.glob 0x1078 1 false)
    ∧ jobsDue s s.warp = false ∧ s.memOk = true ∧ s.warp.region = none := by decide +kernel

theorem witness_FencesAndCacheControl :
    let ops : List CctlOp := [.inv, .wb, .iinv, .invall, .iinvall]
    let s := dirtyLine
    let bare := { s with coh := {}, caches := { tlb := s.caches.tlb } }
    let fused := { s with groups := s.groups.map fun g => { g with fused := true } }
    readyAll ([.pref .always .both (.x 0), .pref .always .l1 (.x 0), .pref .always .home (.x 0), .fence .always noPeg .sys .sc
      , .fence .always noPeg .pkg .acqRel, .fence .always noPeg .quad .rel, .fence .always noPeg .quad .acq, .fence .always noPeg .die .acq]
      ++ ops.map fun op => .cctl .always noPeg op (.x 0)) s = true ∧ jobsDue s s.warp = false
    ∧ reachesPkg .pkg = true ∧ reachesPkg .quad = false ∧ acting s.warp .always ≠ 0 ∧ lanesOf (acting s.warp .always) = [0]
    ∧ isFused s 0 0 = false ∧ isFused fused 0 0 = true
    ∧ (quietPlace bare bare.warp (Machine.srcA (bare.issue (.pref .always .both (.x 0))) (.x 0) 0) = some (0x1078, 1) ∧ Clear bare 1 0x1078 ∧ HomeRoom bare 32
        ∧ homedElsewhere bare 0 0x1078 = true ∧ 0 < l1Room bare 0 (l1Core bare 0 0 0x1078))
    ∧ quietPlace s s.warp (Machine.srcA (s.issue (.cctl .always noPeg .wb (.x 0))) (.x 0) 0) = some (0x1078, 1)
    ∧ s.caches.dirty = [{ die := 0, pa := 0x1078, val := 1, writers := [(s.warp.id, 0)] }] ∧ lineOf 0x1078 = 32 := by
  decide +kernel

/-- Lane 0 alone acting on a ply cell with some siblings; x1 holds its current knot, x2 the blind one, x3 a value. -/
def plyState (n : Nat) : State :=
  let c : PlyCell := { pa := 0x200000, epoch := 2 ^ 40 - 1, siblings := (List.range n).map word }
  let s := { mapped with ply := [c], warp := { mapped.warp with active := 1 } }
  { s with warp := { s.warp with ux := [0x200000, knotOf c 0x200000, 0, 9, 0, 0, 0, 0] } }

theorem witness_PlyCells :
    let ldv := Instr.ldv .always noPeg .pkg .acq (.x 0) (.imm 39)
    let stv := fun (k : Fin 8) => Instr.stv .always noPeg .pkg .rel (.x 0) (.x 3) (.x k)
    let recon := fun (k : Fin 8) => Instr.recon .always noPeg .sys .acqRel (.x 0) (.x 3) (.x k)
    let s := plyState 7
    s.caches.dirty = [] ∧ Clear s 4 0x200000 ∧ jobsDue s s.warp = false ∧ s.warp.region = none ∧ lanesOf (acting s.warp .always) = [0]
    ∧ readyAll [ldv, stv 1, stv 2, recon 1, recon 2] s = true ∧ (plyCell s 0x200000).poisoned = false
    ∧ globFate s s.warp (Machine.srcA (s.issue ldv) (.x 0) 0) 8 .ply false = .fine (.glob 0x200000 4 false)
    ∧ globFate s s.warp (Machine.srcA (s.issue (stv 1)) (.x 0) 0) 8 .ply true = .fine (.glob 0x200000 4 false)
    ∧ globFate s s.warp (Machine.srcA (s.issue (recon 2)) (.x 0) 0) 8 .ply true = .fine (.glob 0x200000 4 false)
    ∧ (plyCell s 0x200000).siblings.length = 7 ∧ plyUsed s (homeDie 0x200000) < plyCapacity ∧ (plyCell s 0x200000).siblings ≠ []
    ∧ (plyCell (plyState 8) 0x200000).siblings.length = 8 ∧ (Machine.srcC (s.issue (stv 1)) (.x 1) 0) ≠ 0
    ∧ knotOf (plyCell s 0x200000) 0x200000 = Machine.srcC (s.issue (stv 1)) (.x 1) 0 := by decide +kernel

theorem witness_ObjectEvents :
    let o : Obj := { phase := 65535, expArr := 65535, pendArr := 65535, expBytes := 2 ^ 32 - 1, pendBytes := 2 ^ 31 - 1 }
    let p : Obj := { expArr := 1, pendArr := 1, pendBytes := -(2 ^ 31) }
    o.pendArr ≤ 65535 ∧ o.expArr ≤ 65535 ∧ -(2 ^ 31) ≤ o.pendBytes ∧ o.pendBytes < 2 ^ 31 ∧ -(2 ^ 31) ≤ p.pendBytes
    ∧ (applyEvent o .spawn).2 = .discarded ∧ (applyEvent o (.credit 1)).2 = .applied ∧ (applyEvent { p with pendBytes := 0 } .join).2 = .completed
    ∧ (applyEvent { p with pendBytes := 0 } .drop).2 = .retired := by decide

/-- The last sixteen bytes of scratchpad, and the same place in memory, hold an object; x0 is its address, x1 and x2 the largest operands, x3 a phase just
passed. The warp is registered on seven others. -/
def objects : State :=
  let r : Registration := { space := .scratch, addr := 0, place := 0, phase := 0 }
  { mapped with
    groups := mapped.groups.map fun g => { g with marks := [0xFF0] }
    homes := [{ pa := 0xFF0, ctx := 0, group := none }]
    warp := { mapped.warp with ux := [0xFF0, 0xFFFF, 0x7FFFFFFF, 0xFFFF, 0, 0xE00, 0, 0], regs := List.replicate 7 r } }

theorem objects_calm : Calm objects := by decide +kernel

theorem witness_BarrierInstructions :
    let loc : Space → Loc := fun sp => match sp with
      | .scratch => .scratch 0xFF0 false
      | .global => .glob 0xFF0 0 false
    let bare := { objects with homes := [], groups := mapped.groups }
    Calm objects ∧ objects.memOk = true ∧ objects.warp.region = none ∧ objects.warp.status = .running ∧ lowest (acting objects.warp .always) = some 0
    ∧ (objects.warp.group.bind (findGroup objects)).isSome = true
    ∧ (∀ sp ∈ [Space.scratch, Space.global],
        let arrive := Instr.barrive .always noPeg sp (.x 0) (.x 2)
        let p := placeOf objects.warp sp (loc sp)
        readyAll [.binit .always noPeg sp (.x 0) (.x 1) (.x 2), arrive, .bexpect .always noPeg sp (.x 0) (.x 2), .bdrop .always noPeg sp (.x 0)
          , .btest .always sp (.x 0) (.x 3), .bwait .always sp (.x 0) (.x 3)] objects = true
        ∧ objFate objects objects.warp sp (Machine.srcA (objects.issue arrive) (.x 0) 0) true true = .fine (loc sp)
        ∧ objFate objects objects.warp sp (Machine.srcA (objects.issue arrive) (.x 0) 0) true false = .fine (loc sp)
        ∧ objFate bare bare.warp sp (Machine.srcA (bare.issue arrive) (.x 0) 0) false true = .fine (loc sp)
        ∧ isMarked objects p = true ∧ isMarked bare p = false ∧ homeFull bare p = false ∧ (readObj objects p).expBytes < 2 ^ 31
        ∧ objects.warp.regs.length < 8 ∧ (readObj objects p).phase = 0)
    ∧ objects.warp.wake = none ∧ objects.warp.reissue = false ∧ (0 + 65536 - 65535) % 65536 = 1 := by
  refine ⟨objects_calm, ?_⟩
  decide +kernel

/-- x0 and x1: destination and source; x2 and x3: the size and the strides; x4: no object; x5: a follow-on of 16 rows into tile 3. -/
def copying (dst src b0 b1 : Word) : State :=
  let u : MatrixUnit := { die := 0, core := 0, part := 0, holder := some 1, plane0 := { fmt := some .bi8 }
                          tiles := List.replicate 4 { owner := some 1, mode := .fp32 } }
  { mapped with
    units := [u]
    warp := { mapped.warp with ux := [dst, src, b0, b1, BitVec.allOnes 64, word (15 * 2 ^ 32 + 3 * 2 ^ 39), 0, 0] } }

theorem copying_calm (dst src b0 b1 : Word) : Calm (copying dst src b0 b1) := by
  refine ⟨⟨rfl, rfl, rfl, rfl, rfl, rfl, rfl, rfl, (fun c h => nomatch (show c ∈ ([] : List PlyCell) from h)), by simp [copying, mapped]⟩, ?_⟩
  simp only [jobsDue, unitOf, findUnit, copying, List.find?_cons, List.find?_nil]
  split <;> rfl

/-- One row of 512 bytes from the last bytes of the address space to the last of the scratchpad; two rows of 16; a gather of 256 rows with its indices. -/
theorem witness_CopiesEnter :
    let i := fun (m : Bool) (d2 : Bool) => if m then Instr.copym .always noPeg .g2s .scratch d2 (.x 0) (.x 2) (.x 4)
      else Instr.copy .always noPeg .g2s .global d2 (.x 0) (.x 2) .ones
    let gather := Instr.copyg .always noPeg .scratch (.x 0) (.x 2) .ones
    let one := copying 0xE00 0x01FFFFFFFFFFFE00 512 0
    let two := copying 0xFD0 0x1000 (word (2 ^ 32 + 16)) (word (32 * 2 ^ 32 + 16))
    let many := copying 0 0x1000 (word (63 * 2 ^ 32 + 16)) (word (16 * 2 ^ 32 + 0xF00))
    let q : Copy := { cid := 0, warp := 0, op := 0, ctx := 0, group := none, queue := 0, die := 0, core := 0, shape := .rows .g2s 0 0, dst := 0xE00
                      src := 0x01FFFFFFFFFFFE00, s := 512, n := 1, space := .global, obj := none, left := [] }
    let q2 := { q with shape := .rows .g2s 16 32, dst := 0xFD0, src := 0x1000, s := 16, n := 2 }
    let q3 := { q with shape := .gather 0xF00 16, dst := 0, src := 0x1000, s := 16, n := 64 }
    (∀ dst src b0 b1, Calm (copying dst src b0 b1)) ∧ one.warp.region = none ∧ acting one.warp .always = BitVec.allOnes 32
    ∧ (one.copies.filter fun q => q.die == one.warp.die && q.core / 4 == one.warp.core / 4).length < 64
    ∧ readyAll [i false false, i true false] one = true ∧ readyAll [i false true, i true true] two = true ∧ readyAll [gather] many = true
    ∧ (let x := one.issue (i false false)
       Machine.srcA x (.x 0) 0 = 0xE00 ∧ readHigh one.warp 0 (.x 0) = 0x01FFFFFFFFFFFE00 ∧ field (Machine.srcB x (.x 2) 0) 0 32 = 512
         ∧ Machine.srcC x .ones 0 = BitVec.allOnes 64 ∧ field (Machine.srcB x (.x 2) 0) 32 32 = 0)
    ∧ (rowsFit one one.warp q.dstScratch q.n q.s q.dstRow = true ∧ rowsFit one one.warp q.srcScratch q.n q.s (fun k => (q.srcRow 0 k).getD 0) = true)
    ∧ (rowsFit two two.warp q2.dstScratch 2 16 q2.dstRow = true ∧ rowsFit two two.warp q2.srcScratch 2 16 (fun k => (q2.srcRow 0 k).getD 0) = true)
    ∧ (field (readHigh one.warp 0 (.x 4)) 41 23 = 0 ∧ streamCheck one one.warp 3 16 0xE00 0 32 = none ∧ 3 + (16 + 31) / 32 ≤ 4)
    ∧ (rowsFit many many.warp q3.dstScratch 64 16 q3.dstRow = true ∧ (scratchPlace many many.warp 0xF00 256).isSome = true) := by
  refine ⟨copying_calm, ?_⟩
  decide +kernel

/-- The object a copy names, marked and not, in either space. -/
theorem witness_CopiesEnter_object :
    let i := fun (sp : Space) => Instr.copy .always noPeg .g2s sp false (.x 0) (.x 2) (.x 4)
    let loc : Space → Loc := fun sp => match sp with
      | .scratch => .scratch 0xFF0 false
      | .global => .glob 0xFF0 0 false
    let s := copying 0xE00 0x01FFFFFFFFFFFE00 512 0
    let named := { s with warp := { s.warp with ux := s.warp.ux.set 4 0xFF0 } }
    let marked := { named with groups := named.groups.map fun g => { g with marks := [0xFF0] }, homes := [{ pa := 0xFF0, ctx := 0, group := none }] }
    Calm named ∧ Calm marked ∧ ∀ sp ∈ [Space.scratch, Space.global], readyAll [i sp] named = true ∧ readyAll [i sp] marked = true
      ∧ Machine.srcC (marked.issue (i sp)) (.x 4) 0 = 0xFF0 ∧ objFate named named.warp sp 0xFF0 true true = .fine (loc sp)
      ∧ objFate marked marked.warp sp 0xFF0 true true = .fine (loc sp) ∧ isMarked named (placeOf named.warp sp (loc sp)) = false
      ∧ isMarked marked (placeOf marked.warp sp (loc sp)) = true := by
  refine ⟨by decide +kernel, by decide +kernel, by decide +kernel⟩

/-- Seven operations of the warp queued, every tile its own; x0 to x4: a place at the end of the scratchpad for each operand; x5 a stride. -/
def streaming : State :=
  let s := copying 0x800 0xEF0 0x1000 32 
  { s with units := s.units.map fun u => { u with jobs := List.replicate 7 { warp := 1, op := none, what := .mzero 3 .fp32 } } }

theorem witness_MatrixInstructions :
    let s := copying 0x800 0xEF0 0x1000 32
    let x : Guard := { neg := false, p := 1 }
    let part := { s with warp := { s.warp with lanes := s.warp.lanes.set 0 { s.warp.lane 0 with preds := 2 } } }
    let theirs := { s with units := s.units.map fun u => { u with tiles := List.replicate 4 { owner := some 77 } } }
    let mlds := Instr.mlds .always noPeg .bi8 (.x 0) (.x 1)
    let mstream := Instr.mstream .always noPeg 31 3 (.x 0) (.x 1) (.x 3)
    let drain := fun (gl : Bool) => Instr.mdrain .always noPeg .bi8 .clamp gl true 3 (if gl then .x 2 else .x 0) (.x 1) (.x 3)
    let v := viewOf (unitOf streaming streaming.warp)
    let runs := drainRunsOf false .bi8 true 0x1000 32
    acting s.warp .always = BitVec.allOnes 32 ∧ ((unitOf streaming streaming.warp).jobs.filter fun j => j.copy.isNone).length < 8
    ∧ readyAll [.mzero .always .raw 3, .mswap .always, mlds, mstream, drain false, drain true, .mstat .always true 3] s = true
    ∧ readyAll [.mzero .always .raw 3, .mswap .always] streaming = true ∧ v.holder = some s.warp.id ∧ (v.tile 3).owner = some s.warp.id
    ∧ (field (0x800 : Word) 0 7 = 0 ∧ inAllocation s s.warp 0x800 (planeBytes .bi8) = true ∧ inAllocation s s.warp 0xEF0 32 = true)
    ∧ (s.warp.region = none ∧ 3 + (31 + 32) / 32 ≤ 4 ∧ streamCheck s s.warp 3 32 0x800 0xEF0 32 = none)
    ∧ (((viewOf (unitOf s s.warp)).tile 3).mode = .fp32 ∧ field (0xEF0 : Word) 0 4 = 0 ∧ inAllocation s s.warp 0xEF0 (epilogueBytes .clamp true) = true
        ∧ (∀ r ∈ drainRunsOf false .bi8 false 0x800 32, inAllocation s s.warp r.1 r.2 = true ∧ touchesScratchMark s 1 (scratchKey 0 r.1) r.2 = false))
    ∧ ((∀ r ∈ runs, outOfRange r.1 r.2 = false) ∧ pagesOf runs = [0x1000]
        ∧ pageFate s 0 (some 0) 0 0x1000 1 .store true = .fine (.glob 0x1000 0 false) ∧ translate s 0 (some 0) 0 0x1000 = .ok 0x1000 0 true true true true ∧ s.homes = [])
    ∧ (readyAll [.mzero never .raw 3, .mlds never noPeg .bi8 (.x 0) (.x 1), .mswap never, .mstat never true 3] s = true ∧ acting s.warp never = 0)
    ∧ (readyAll [.mzero x .raw 3, .mswap x, .mstat x true 3] part = true ∧ acting part.warp x ≠ 0 ∧ acting part.warp x ≠ BitVec.allOnes 32)
    ∧ (((viewOf (unitOf theirs theirs.warp)).tile 3).owner = some 77 ∧ 77 ≠ theirs.warp.id) := by decide +kernel

/-- Lane 0 alone acting in a pattern with a thread stage 1 and group stage 0, n records waiting and k in the segment; x0: a watched range, x1: 511. -/
def spawning (n k : Nat) : State :=
  let stages : List StageDecl := [{ num := 0, isGroup := true, entry := some 0 }, { num := 1, isGroup := false, entry := some 0 }]
  let p : Pattern := { handled with image := { handled.image with stages := stages }, ovfBase := 0x800000, parkBase := 0x900000, hwBase := 0xA00000 }
  { mapped with
    patterns := [p], bobbins := [{ ctx := 0, pat := 0, stage := 1, die := 0, core := 0, recs := List.replicate n {} }]
    segments := [{ ctx := 0, pat := 0, stage := 1, die := 0
                   entries := List.replicate k { va := 0, joinPa := none, launch := none, heddle := none, queue := 0, priv := 0 } }]
    warp := { mapped.warp with active := 1, ux := [0x410000, 511, 0, 0, 0, 0, 0, 0] } }

theorem witness_SpawnInstructions :
    let s := spawning 63 0
    let full := spawning 64 8
    let h : Heddle := { id := 511, key := 1, ctx := 0, pat := 0, stage := 1, base := 0, lg := 3, frames := [], die := 0, core := 0, gidx := 0, queue := 0, seq := 0 }
    let held := { s with heddles := [h], contexts := [{ num := 0, vf := 0, asid := 0, root := 0, quota := 2 }] }
    let spawn := fun (st : Fin 16) => Instr.spawn .always noPeg false st (.w 14) (.f 30) (.w 0)
    let watch := fun (st : Fin 16) => Instr.watch .always noPeg 16 st (.x 0)
    s.warp.region = none ∧ s.hbmStacks = [] ∧ s.caches.dirty = [] ∧ jobsDue s s.warp = false ∧ lanesOf (acting s.warp .always) = [0]
    ∧ readyAll [spawn 1, spawn 15, spawn 0, watch 1, watch 0, watch 15, .unwatch .always noPeg (.x 1), .bobq .always 1, .bobq .always 15] s = true
    ∧ ((declOf s 0 0 1).map (·.isGroup)) = some false ∧ ((declOf full 0 0 1).map (·.overflow * 8)) = some 8
    ∧ ((findBobbin s 0 0 1 0 0).recs.length < 64 ∧ (findSegment s 0 0 1 0).entries = [])
    ∧ (64 ≤ (findBobbin full 0 0 1 0 0).recs.length ∧ 8 ≤ (findSegment full 0 0 1 0).entries.length)
    ∧ (watchFate s s.warp 16 0x410000 = .fine .none ∧ (watchedFrames s s.warp 0x410000 16).isSome = true ∧ freeHeddle s = some 0
        ∧ quotaUsed s s.warp.ctx = true ∧ quotaUsed held held.warp.ctx = false)
    ∧ (Machine.srcA (held.issue (.unwatch .always noPeg (.x 1))) (.x 1) 0 = 511 ∧ held.heddles = [h])
    ∧ declOf s 0 0 15 = none ∧ ((declOf s 0 0 0).map (·.isGroup)) = some true := by decide +kernel

/-- x5 names an object in memory whose pending arrivals are one short of the most, and at the most. -/
theorem witness_SpawnInstructions_join :
    let place : ObjPlace := { space := .global, at_ := 0xFF0 }
    let s := fun (n : Nat) => writeObj { spawning 63 0 with homes := [{ pa := 0xFF0, ctx := 0, group := none }]
                                                            warp := { (spawning 63 0).warp with ux := [0, 0, 0, 0, 0, 0xFF0, 0, 0] } } place
      { init := true, expArr := 1, pendArr := n, expBytes := 2 ^ 31 - 1 }
    let i := Instr.spawn .always noPeg true 1 (.w 14) (.f 30) (.x 5)
    (∀ n ∈ [65534, 65535], Still (s n) ∧ (s n).memOk = true ∧ readyAll [i] (s n) = true ∧ lanesOf (acting (s n).warp .always) = [0]
      ∧ joinFate (s n) (s n).warp (Machine.srcC ((s n).issue i) (.x 5) 0) = .fine (.glob 0xFF0 0 false) ∧ (readObj (s n) place).pendArr = n
      ∧ (readObj (s n) place).expBytes < 2 ^ 31 ∧ (findBobbin (s n) 0 0 1 0 0).recs.length < 64 ∧ (findSegment (s n) 0 0 1 0).entries = []
      ∧ ((declOf (s n) 0 0 1).map (·.isGroup)) = some false ∧ jobsDue (s n) (s n).warp = false) := by decide +kernel

/-! #### The device's own steps -/

/-- Identity tables of 1 GiB: stage 1 at 0x13000, stage 2 at 0x10000, every treatment 0 and every permission granted. -/
def tables : List Host.Cell :=
  [(0x10000, 0x11001), (0x11000, 0x12001), (0x12000, 0x1F), (0x13000, 0x14001), (0x14000, 0x15001), (0x15000, 0x1F)].foldl
    (fun m x => Memory.writeWord m x.1 (word x.2)) []

/-- Context 0 of VF 0, which owns queue 0, over those tables; the warp is of no group, and nothing is cached. -/
def device : State :=
  let b : VfBlock := { enabled := true, root := 0x10000, queues := [0, 1], hartMask := 1, ctxLimit := 4095, heddleLimit := 511 }
  { plain with
    mem := tables, vfs := [{ vf := 0 }], configs := [{ vf := 0, written := b, inForce := b }]
    contexts := [{ num := 0, vf := 0, asid := 0, root := 0x13000, quota := 0 }] }

def identity (a : Nat) : Xlat := .ok a 0 true true true true

def atPhase (s : State) (p : Phase) (base : Word) : State := { s with warp := { s.warp with phase := p, base := base } }

/-- A block with one word, waiting for pegs or not; a broken one and one with peg 12 in a valid set; a split's seam block without SEAM. In an area of the
device: a block of its reserved part, and one past the end of a warp's spool. -/
theorem witness_AroundInstructions :
    let f := atPhase device (.fetch .start) 0x3FFFFF80
    let line : CodeLine := { die := 0, core := 0, ctx := 0, va := 0x3FFFFF80, pa := 0x3FFFFF80, words := [] }
    let hit := { f with caches := { f.caches with code := [line] } }
    let out := { f with contexts := [] }
    let p : Pattern := { ctx := 0, addr := 0, image := { stages := [] }, ovfBase := 0, parkBase := 0, parkImages := 0, parkGroups := 0, hwBase := 0x2000000 }
    let area := fun (base : Word) => { atPhase device (.fetch .start) base with patterns := [p] }
    let fate := fun (s : State) => (match translate s 0 (some 0) 0 s.warp.base.toNat with | .ok pa tr _ _ x _ => (pa, tr, x) | _ => (0, 9, false))
    let c := atPhase device (.check .start) 0
    let block := fun (h : Word) => { c with warp := { c.warp with buf := h :: List.replicate 15 0, ops := [{ id := 9, pegs := 0x800, done := true }] } }
    let h : Word := 0x0400000000000000
    let split : Pleat := { kind := .split, span := 1, seam := 0, savedD := [] }
    let unsewn := { block h with warp := { (block h).warp with pleats := [split] } }
    let old := { device with warp := { device.warp with wdog := 3, wcount := 8 } }
    let told := { device with warp := { device.warp with reports := [{ code := 4, addr := 7 }] } }
    f.warp.region = none ∧ f.warp.phase = .fetch .start ∧ hit.caches.code.find? (isCodeOf hit.warp) = some line ∧ f.caches.code.find? (isCodeOf f.warp) = none
    ∧ outOfRange f.warp.base.toNat 128 = false ∧ translate f 0 (some 0) 0 f.warp.base.toNat = identity 0x3FFFFF80 ∧ 0 < 3 ∧ reachable f 0x3FFFFF80 = true
    ∧ inDeviceArea f 0 f.warp.base.toNat 128 = false ∧ Clear f 0 0x3FFFFF80 ∧ hwOffset f 0 f.warp.base.toNat = none
    ∧ (fate (area 0x2001F80) = (0x2001F80, 0, true) ∧ hwOffset (area 0x2001F80) 0 0x2001F80 = some (0x1F80, 0x103F80) ∧ 0x1F80 + 128 ≤ 0x103F80
        ∧ (0x1400 ≤ 0x1F80 ∧ 0x1F80 < 0x2000) ∧ inDeviceArea (area 0x2001F80) 0 0x2001F80 128 = false ∧ Clear (area 0x2001F80) 0 0x2001F80)
    ∧ (fate (area 0x2103F80) = (0x2103F80, 0, true) ∧ hwOffset (area 0x2103F80) 0 0x2103F80 = some (0x103F80, 0x103F80))
    ∧ translate out 0 (some 0) 0 out.warp.base.toNat = .page
    ∧ (clauseBad (block h).warp.buf = none ∧ seamMissing (block h).warp .start = false ∧ (block h).warp.pegs &&& Header.waitMask (block h).warp.header = 0)
    ∧ (let g := h + 0x800 * 2 ^ 46; clauseBad (block g).warp.buf = none ∧ (block g).warp.pegs &&& Header.waitMask (block g).warp.header ≠ 0)
    ∧ clauseBad (block 0).warp.buf = some 0x03 ∧ clauseBad (block (h + 2 ^ 45 + 12 * 2 ^ 41)).warp.buf = some 0x02
    ∧ (unsewn.warp.phase = .check .start ∧ unsewn.warp.h = false ∧ unsewn.warp.frameDepth ≠ 0 ∧ unsewn.warp.pleats.head? = some split
        ∧ split.seam = unsewn.warp.base ∧ (unsewn.warp.buf.getD 1 0).toNat / 2 ^ 54 ≠ 0x003)
    ∧ (old.warp.status = .running ∧ old.warp.phase = .issue ∧ 2 ^ old.warp.wdog.toNat ≤ old.warp.wcount ∧ old.warp.h = false)
    ∧ told.warp.reports = [{ code := 4, addr := 7, here := false }]
    ∧ (device.caches.tlb.any (tlbCovers 7 none 0 0x3FFFFFFF) = false ∧ (device.caches.tlb.filter fun e => e.die == 7 && e.core == none).length < 32768
        ∧ walkVa device 0 0x3FFFFFFF = (identity 0x3FFFFFFF, 30)) := by decide +kernel

/-- A self-invalidating block of which the die holds a dirty byte. -/
theorem witness_AroundInstructions_code :
    let f := atPhase device (.fetch .start) 0x3FFFFF80
    let own := { f with caches := { f.caches with tlb := [page 0x3FE00000 0x3FE00000 1], dirty := [{ die := 0, pa := 0x3FFFFF81, val := 5, writers := [] }] } }
    translate own 0 (some 0) 0 own.warp.base.toNat = .ok 0x3FFFFF80 1 true true true true ∧ Clear own 1 0x3FFFFF80 ∧ reachable own 0x3FFFFF80 = true
    ∧ (codeByte own 0 0x3FFFFF80, codeByte own 0 0x3FFFFF81) = (0, 5) := by decide +kernel

/-- The 64th entry pushed: the last place of 48, at 0x13C0 of the last whole page; and the same with no tables. -/
def deepPleats : State :=
  let e : Pleat := { kind := .loop, span := 1, waiting := 0, resume := none, seam := 0, count := some 0, savedD := [] }
  { device with warp := { device.warp with pleats := List.replicate 64 e, pleatsOut := 47, spill := 0x3FFFE000 } }

theorem witness_AroundInstructions_spool :
    let out := { deepPleats with mem := [] }
    Calm deepPleats ∧ deepPleats.hasTurn = true ∧ deepPleats.warp.replay = false ∧ deepPleats.warp.reportDue = false
    ∧ 16 < deepPleats.warp.pleats.length - deepPleats.warp.pleatsOut ∧ deepPleats.warp.spill.toNat % 4096 = 0 ∧ deepPleats.memOk = true
    ∧ translate deepPleats 0 (some 0) 0 0x3FFFF3C0 = identity 0x3FFFF3C0 ∧ out.hasTurn = true
    ∧ (match translate out 0 (some 0) 0 0x3FFFF3C0 with | .fault .. => true | _ => false) = true := by decide +kernel

/-- R19: the move is made, and where it faults the warp waits. -/
theorem test_spool :
    ((match step deepPleats with | .next t => (t.warp.pleatsOut, t.freeCtr, t.warp.spoolDue) | _ => (0, 0, true))) = (48, 64, false)
    ∧ (match step { deepPleats with mem := [] } with
        | .next t => (match t.warp.status with | .faulted [x] => (x.mask, x.addr) | _ => (0, 0))
        | _ => (0, 0)) = (deepPleats.warp.active, 0x3FFFF3C0) := by decide +kernel

/-- A unit's job of the warp, its tiles of a mode. -/
def working (die core part : Nat) (md : TileMode) (o : MatrixOp) (pages : List (Nat × Nat × Nat)) : State :=
  let job : MatrixJob := { warp := 1, op := some 4, what := o, pages := pages }
  { mapped with
    units := [{ die := die, core := core, part := part, jobs := [job]
                tiles := List.replicate 4 { owner := some 1, mode := md, elems := List.replicate 1024 { r31 := if md = .exact then 1 else 0 } } }] }

/-- Its first job may be performed. -/
abbrev Due (s : State) (die core part : Nat) (o : MatrixOp) : Prop :=
  (findUnit s die core part).jobs.map (fun j => (j.what, j.copy, j.raced)) = [(o, none, [])]
    ∧ s.copies = [] ∧ s.hbmStacks = [] ∧ s.caches.undef = [] ∧ (∀ g ∈ s.groups, g.poison = []) ∧ ((findWarp s 1).map (·.status)) = some .running ∧ Still s ∧ s.memOk = true
    ∧ (findUnit s die core part).tiles.length = 4 ∧ ∀ x ∈ (findUnit s die core part).tiles, x.elems = [] ∨ x.elems.length = 1024

/-- A tile of zeros, and an epilogue that leaves them so. -/
def zeroTile : Tile := { owner := some 1, mode := .fp32, elems := List.replicate 1024 {} }
def zeroEpilogue : Epilogue := { cv := .f32, act := .none, bias := false, block := List.replicate 128 0 }

theorem test_drain_row_zero (r : Fin 32) : drainRow zeroEpilogue zeroTile r.val = some (List.replicate 128 0, 0, 0) := by
  have first : drainRow zeroEpilogue zeroTile 0 = some (List.replicate 128 0, 0, 0) := by decide +kernel
  have elem (k : Nat) : zeroTile.elem k = {} := by
    unfold Tile.elem zeroTile
    rw [List.getD_eq_getElem?_getD, List.getElem?_replicate]
    split <;> rfl
  rw [← first]; unfold drainRow; simp only [elem]

theorem witness_EngineRows_jobs :
    let e := zeroEpilogue
    let x := zeroTile
    let starts := (drainStores .f32 false 0x1F80 128 32 fun r => (drainRow e x r).getD ([], 0, 0)).flatMap fun q =>
      (List.range (q.2.length / 4)).map fun k => (q.1 + 4 * k, (q.2.drop (4 * k)).take 4)
    let pages := [(0x1000, 0x1000, 3), (0x2000, 0x2000, 3)]
    ([MatrixOp.mzero 3 .exact, .mswap, .mlds .bi8 0 1024, .mstream .e2m1 3 32 0 0xFE0 32].all fun o => decide (Due (working 7 95 3 .fp32 o []) 7 95 3 o)) = true
    ∧ (let o := MatrixOp.mdrain 3 .f32 .none false false 0 0x800 128 0;
        let s := working 7 95 3 .fp32 o []
        Due s 7 95 3 o ∧ (∀ r : Fin 32, drainRow e x r.val ≠ none) ∧ s.groups.map (·.marks) = [[]])
    ∧ (let o := MatrixOp.mdrain 3 .f32 .none true false 0x1F80 0x800 128 0;
        Due (working 7 95 3 .fp32 o pages) 7 95 3 o ∧ (0x1F80 : Word).toNat % 16 = 0 ∧ 128 % 16 = 0 ∧ ∀ q ∈ starts, inPages pages q.1 = some (q.1, 3) ∧ touchesMark (working 7 95 3 .fp32 o pages) q.1 q.2.length = false)
    ∧ (let o := MatrixOp.mdrain 3 .f32 .none false false 0 0x800 128 0;
        let s := working 0 0 0 .exact o [];
        Due s 0 0 0 o ∧ drainRow e ((findUnit s 0 0 0).tile 3) 0 = none ∧ s.warp.active ≠ 0 ∧ (s.warp.die, s.warp.core, s.warp.part) = (0, 0, 0))
    ∧ readyJob mapped [] (findUnit mapped 7 95 3).jobs = none := by
  have rows : drainStores .f32 false 0x1F80 128 32 (fun r => (drainRow zeroEpilogue zeroTile r).getD ([], 0, 0))
      = drainStores .f32 false 0x1F80 128 32 fun _ => (List.replicate 128 0, 0, 0) := by
    refine List.flatMap_congr fun r hr => ?_
    have h : drainRow zeroEpilogue zeroTile r = some (List.replicate 128 0, 0, 0) := test_drain_row_zero ⟨r, List.mem_range.1 hr⟩
    simp only [h, Option.getD_some]
  refine ⟨by decide +kernel, ⟨by decide +kernel, fun r => by rw [test_drain_row_zero r]; simp, rfl⟩, ⟨by decide +kernel, by decide, by decide, ?_⟩,
    by decide +kernel, by decide +kernel⟩
  rw [rows]; decide +kernel

/-- 3/2 · 1 − 1 and 1 · 1 − 1, a clamp to ±1; an element that is no number, a sum of 1 with −1 and with 1. -/
theorem witness_EngineRows_values :
    let e : Epilogue := { cv := .f32, act := .clamp, bias := true
                          block := leBytes 4 0x3F800000 ++ List.replicate 124 0 ++ leBytes 4 0xBF800000 ++ List.replicate 124 0
                            ++ leBytes 4 0xBF800000 ++ leBytes 4 0x3F800000 }
    let real := fun (s : Bool) (m : Nat) (e : ℤ) => (signedM s m : ℝ) * (2 : ℝ) ^ e
    e.f (4 * 0) = .fin false (2 ^ 23) (-23) ∧ e.f (128 + 4 * 0) = .fin true (2 ^ 23) (-23) ∧ e.f 256 = .fin true (2 ^ 23) (-23) ∧ e.f 260 = .fin false (2 ^ 23) (-23)
    ∧ isIntConv .f32 = false ∧ isIntConv .s64 = true
    ∧ real false 3 (-1) * real false (2 ^ 23) (-23) + real true (2 ^ 23) (-23) ≠ 0
    ∧ real false 1 0 * real false (2 ^ 23) (-23) + real true (2 ^ 23) (-23) = 0 ∧ real false 3 (-1) ≠ 0 ∧ real true 5 2 = (-20 : ℤ)
    ∧ f32.value (0x3F800000 : BitVec 32).toNat = .fin false (2 ^ 23) (-23)
    ∧ real false (2 ^ 23) (-23) + (((-1 : ℤ) : ℝ)) * (2 : ℝ) ^ (((127 : Nat) : ℤ) - 127 + (((127 : Nat) : ℤ) - 127) - 0) = 0
    ∧ real false (2 ^ 23) (-23) + (((1 : ℤ) : ℝ)) * (2 : ℝ) ^ (((254 : Nat) : ℤ) - 127 + (((254 : Nat) : ℤ) - 127) - 2) ≠ 0 := by
  refine ⟨by decide +kernel, by decide +kernel, by decide +kernel, by decide +kernel, rfl, rfl, ?_, ?_, ?_, ?_, by decide +kernel, ?_, ?_⟩
    <;> norm_num [signedM, zpow_neg]

/-- A copy's row of 512 bytes at its last 128 of scratchpad or of memory, with an object at the page's start. -/
def landing (dir : CopyDir) (status : CopyStatus) : State :=
  let c : Copy := { cid := 9, warp := 1, op := 4, ctx := 0, group := some 1, queue := 0, die := 0, core := 0, shape := .rows dir 0 0, dst := 0xE00, src := 0x1000
                    s := 512, n := 1, space := .global, obj := some 0xFF0, objAddr := 0xFF0, left := [(384, 128)], status := status }
  { mapped with copies := [if dir = .s2g then { c with dst := 0x1000, src := 0xE00 } else c], homes := [{ pa := 0xFF0, ctx := 0, group := none }] }

theorem witness_EngineRows :
    let job := fun (cid : Option Nat) => ({ warp := 1, op := none, what := .mswap, copy := cid } : MatrixJob)
    let s := fun (dir : CopyDir) => landing dir .going
    let c := fun (dir : CopyDir) => (s dir).copies.head?
    let p : ObjPlace := { space := .global, group := some 1, at_ := 0xFF0 }
    let failed := landing .g2s (.failing 0x06 0x1000 0)
    let gone := { s .g2s with caches := { tlb := [] } }
    (∀ dir, Still (s dir) ∧ (s dir).memOk = true ∧ (s dir).copies.map (fun c => (c.status, c.left, c.kept)) = [(.going, [(384, 128)], [])]
      ∧ (0 < 128 ∧ 0 < 512 ∧ 384 + 128 ≤ 512 * 1) ∧ (findWarp (s dir) 1).map (·.status) = some .running
      ∧ (s dir).hbmStacks = [] ∧ ((c dir).map fun c => creditPoison (s dir) c) = some none
      ∧ isMarked (s dir) p = true ∧ (readObj (s dir) p).expBytes < 2 ^ 31 ∧ (c dir).map (·.place) = some (some p))
    ∧ ((c .g2s).map fun c => (c.dstScratch, c.dstRow 0, c.srcScratch, c.srcRow 0 0)) = some (true, 0xE00, false, some 0x1000)
    ∧ ((c .s2g).map fun c => (c.dstScratch, c.dstRow 0, c.srcScratch, c.srcRow 0 0)) = some (false, 0x1000, true, some 0xE00)
    ∧ ((findGroup (s .g2s) 1).isSome = true ∧ touchesScratchMark (s .g2s) 1 (addrKey 0 0xF80) 128 = false
        ∧ ∀ k : Fin 128, ((c .g2s).map fun c => c.isSource (addrKey 0 0xF80 + k.val)) = some false)
    ∧ pageFate (s .g2s) 0 none 0 0x1180 128 .load false = .fine (.glob 0x1180 0 false)
    ∧ pageFate (s .s2g) 0 none 0 0x1180 128 .store true = .fine (.glob 0x1180 0 false)
    ∧ pageFate gone 0 none 0 0x1180 128 .load false = .page
    ∧ (failed.copies.map (·.status) = [.failing 0x06 0x1000 0] ∧ failed.warp.id = 1 ∧ failed.warp.status = .running ∧ failed.warp.active ≠ 0
        ∧ Still failed ∧ isMarked failed p = true ∧ (0x06 : BitVec 8) ≠ 0x11)
    ∧ findCopy mapped 9 = none ∧ (findCopy (s .g2s) 9).isSome = true ∧ (job none).copy = none := by
  refine ⟨fun dir => by cases dir <;> decide +kernel, ?_⟩
  decide +kernel

/-- What the engine finds for those pieces. -/
theorem witness_EngineRows_finds :
    (∀ c, (landing .g2s .going).copies.head? = some c → ∃ bs, CopyFinds (landing .g2s .going) c 0 384 128 bs)
    ∧ ∀ c, (landing .s2g .going).copies.head? = some c → ∃ bs, CopyFinds (landing .s2g .going) c 0 384 128 bs := by
  refine ⟨fun c h => ?_, fun c h => ?_⟩ <;> cases h
  · exact ⟨_, 0x1180, 0, 0, 0, false, false, by decide +kernel, by decide, fun h => absurd h (by decide), rfl⟩
  · exact ⟨_, by decide +kernel, rfl⟩

/-- Group stage 0 of two warps and thread stage 15 of a pattern; two group records on core 0, 31 thread records on core 95 whose timer has expired, a full
bobbin on die 1 beside one with a heddle's record; records in memory in a segment: one of a thread, one of that heddle, a bad one. -/
def launching : State :=
  let stages : List StageDecl := [{ num := 0, isGroup := true, size := 2, scratch := 32768, entry := some 0 }
    , { num := 15, isGroup := false, timer := 9, entry := some 0 }]
  let p : Pattern := { ctx := 0, addr := 0, image := { stages := stages }, ovfBase := 0x800000, parkBase := 0x900000, parkImages := 1, parkGroups := 1, hwBase := 0xA00000 }
  let l : Launch := { key := 50, queue := 0, index := 0, ctx := 0, pat := 0, groups := 20, arg := 7, priv := 0, most := 32768, fused := false
                      dists := [{ die := 0, lo := 3, hi := 8 }, { die := 7, lo := 0, hi := 0, first := 1, blocks := 2 }] }
  let r : Record := { kind := 0, stage := 15 }
  let g : Record := { kind := 1, launch := some 50 }
  { device with
    mem := Memory.writeBytes (Memory.writeBytes device.mem 0x20000 (recordBytes { r with p0 := 77 })) 0x20040 (recordBytes { r with kind := 3 })
    patterns := [p], launches := [l]
    bobbins := [{ ctx := 0, pat := 0, stage := 0, die := 0, core := 0, recs := [g, { g with gidx := 1 }] }
      , { ctx := 0, pat := 0, stage := 15, die := 7, core := 95, recs := List.replicate 31 r, expired := true }
      , { ctx := 0, pat := 0, stage := 15, die := 1, core := 0, recs := List.replicate 64 r }
      , { ctx := 0, pat := 0, stage := 15, die := 1, core := 70, recs := [{ r with hkey := some 8 }] }]
    queues := [{ num := 0, vf := 0, prio := 3, enabled := true }] }

def segmentEntry (va : Word) (heddle : Option (Nat × Word)) : SegEntry := { va := va, joinPa := none, launch := none, heddle := heddle, queue := 0, priv := 0 }

def overflowed (e : SegEntry) : State := { launching with segments := [{ ctx := 0, pat := 0, stage := 15, die := 1, entries := [e] }] }

/-- A warp being made, of a record on its last lane, its hardware area at the end of the page. -/
def making : State :=
  let w := device.warp
  { device with warp := { w with status := .creating, recs := List.replicate 31 none ++ [some { p3 := 5 }], spill := 0x3FFFF800 } }

theorem witness_LaunchRows_overflow :
    let thread : StageDecl := { num := 15, isGroup := false, timer := 9, entry := some 0 }
    let meets := fun (s : State) (va : Word) (heddle : Option (Nat × Word)) (c : Nat) (bad : Bool) =>
      (findSegment s 0 0 15 1).entries == [segmentEntry va heddle] && declOf s 0 0 15 == some thread && !contextHeld s 0 && !devicePoisoned s 1 0 va.toNat 64 && !deviceHeld s 1 0 va.toNat 64
      && (match heddleCore s 0 0 15 1 (heddle.map (·.1)) with
        | some k => k == c && bobbinRoom thread (findBobbin s 0 0 15 1 c)
        | none => ((List.range 96).find? fun k => bobbinRoom thread (findBobbin s 0 0 15 1 k)) == some c)
      && ((findPattern s 0 0).bind fun p => (deviceRead (deviceTouch s 1 0 va.toNat 64) 1 0 va.toNat 64).map fun bs => recordBad (stageDecl p (segRecord (segmentEntry va heddle) bs).stage).isSome
          (segRecord (segmentEntry va heddle) bs)) == some bad
    let held := { overflowed (segmentEntry 0x20000 none) with contexts := [{ num := 0, vf := 0, asid := 0, root := 0x13000, quota := 0, held := true }] }
    meets (overflowed (segmentEntry 0x20000 none)) 0x20000 none 1 false = true
    ∧ meets (overflowed (segmentEntry 0x20000 (some (8, 0)))) 0x20000 (some (8, 0)) 70 false = true
    ∧ meets (overflowed (segmentEntry 0x20040 none)) 0x20040 none 1 true = true
    ∧ contextHeld held 0 = true ∧ (findPattern held 0 0).isSome = true ∧ (declOf held 0 0 15).isSome = true := by decide +kernel

theorem witness_LaunchRows :
    let s := launching
    let i : PatternImage := (s.patterns.map (·.image)).headD { stages := [] }
    let thread := i.stages.getLastD { num := 0, isGroup := true, entry := none }
    let group := i.stages.headD { num := 9, isGroup := false, entry := none }
    let late := { s with launches := s.launches.map fun l => setDist l { die := 0, lo := 8, hi := 8 } }
    let even := { s with bobbins := s.bobbins.map fun b => { b with recs := b.recs.take 1 } }
    Calm making ∧ making.memOk = true
    ∧ ((findBobbin s 0 0 15 7 95).recs ≠ [] ∧ s.gated.contains (.core 7 95) = false)
    ∧ (thread.isGroup = false ∧ declOf s 0 0 15 = some thread ∧ ((findPattern s 0 0).map fun p => mayLaunch s p thread (findBobbin s 0 0 15 7 95)) = some true
        ∧ (freeSlots s 7 95).contains (3, 15) = true)
    ∧ (group.isGroup = true ∧ declOf s 0 0 0 = some group ∧ ((findPattern s 0 0).map fun p => mayLaunch s p group (findBobbin s 0 0 0 0 0)) = some true
        ∧ (freeSlots s 0 0).contains (3, 15) = true ∧ (findBobbin s 0 0 0 0 0).recs ≠ [])
    ∧ (refusedStages s 7 = [] ∧ restorable s 7 95 = [] ∧ ((candidates s 7 95 []).map fun c => c.b.recs.length) = [31] ∧ candidates s 7 94 [] = []
        ∧ pickSlot (freeSlots s 7 95) = some (0, 0))
    ∧ (making.warp.status = .creating ∧ making.warp.recs.length = 32 ∧ translate making 0 none 0 making.warp.spill.toNat = identity 0x3FFFF800
        ∧ reachable making 0x3FFFF800 = true ∧ touchesMark making 0x3FFFF800 2048 = false)
    ∧ (let cold := { making with mem := [] }
       let lost := { making with contexts := [] }
       let barred := { making with caches := { making.caches with tlb := [page 0x3FE00000 0x3FE00000 4] } }
       let holds := { making with homes := [{ pa := 0x3FFFFFF8, ctx := 0, group := none }] }
       (match translate cold 0 none 0 cold.warp.spill.toNat with | .fault .. => true | _ => false) = true
         ∧ translate lost 0 none 0 lost.warp.spill.toNat = .page ∧ translate barred 0 none 0 barred.warp.spill.toNat = .ok 0x3FFFF800 4 true true true true
         ∧ touchesMark holds 0x3FFFF800 2048 = true)
    ∧ ((findLaunch s 50).bind fun l => l.dists.find? fun x => x.die == 0) = some { die := 0, lo := 3, hi := 8 } ∧ 3 < 8
    ∧ ((findLaunch s 50).bind fun l => (declOf s 0 0 0).bind fun d => emptiest s l d 0) = some 4
    ∧ ((findLaunch late 50).map fun l => (victimOrder l 0).map fun v => (v.die, v.blocks)) = some [(7, 2)]
    ∧ ((findLaunch late 50).bind fun l => (l.dists.find? fun x => x.die == 0).map fun x => (x.left l.groups, x.done)) = some (0, false)
    ∧ ((findBobbin s 0 0 0 0 3).recs.length < 2 ∧ ((declOf s 0 0 0).map fun d => (groupCores d).contains 3) = some true ∧ contextHeld s 0 = false
        ∧ ((findLaunch s 50).bind fun l => donor s l 0 3) = some 0 ∧ ((findBobbin s 0 0 0 0 0).recs.getLast?.map (·.gidx)) = some 1)
    ∧ ((findBobbin even 0 0 0 0 3).recs.length < 2 ∧ ((findLaunch even 50).bind fun l => donor even l 0 3) = none) := by
  refine ⟨?_, ?_, ?_, ?_, ?_, ?_, ?_, ?_, ?_, ?_, ?_, ?_, ?_, ?_⟩ <;> decide +kernel

/-- The warp at a clause boundary asked to stop; its pattern has stages 0 to 7 with eight reserved slots each, and stage 15, whose records wait. -/
def residing : State :=
  let stages : List StageDecl := ((List.range 8).map fun k => { num := BitVec.ofNat 4 k, isGroup := k == 0, reserve := 8, entry := some 0 })
    ++ [{ num := 15, isGroup := false, entry := some 0 }]
  let i : PatternImage := { stages := stages }
  let p : Pattern := { ctx := 0, addr := 0, image := i, ovfBase := 0x800000, parkBase := 0x900000, parkImages := 1, parkGroups := 1, hwBase := 0xA00000 }
  { device with
    warp := { device.warp with phase := .fetch .start, base := 0x2000, livebase := 0x30000, frame := 0, lanes := List.replicate 32 Lane.blank }, stopping := [{ warp := 1 }], patterns := [p]
    bobbins := [{ ctx := 0, pat := 0, stage := 15, die := 0, core := 0, recs := List.replicate 32 {} }]
    queues := [{ num := 0, vf := 0, prio := 3, enabled := true }] }

/-- A warp of the same pattern saved in the first image slot. -/
def lifted : State :=
  { residing with saved := [{ warp := { residing.warp with id := 9 }, image := 0 }], warp := { residing.warp with status := .free, slot := 5 } }

/-- Every stack of the package in self-refresh. -/
def allHolding : List Stack := (List.range 16).map fun k => { num := k, st := .holding }

theorem isHeld_allHolding {s : State} {pa : Nat} (h : s.hbmStacks = allHolding) (ht : targetOf s pa = .hbm) (hd : homeDie pa < 8) : isHeld s pa = true := by
  unfold isHeld stackState stackOf
  generalize homeDie pa = d at hd
  rw [h, ht]
  interval_cases d <;> cases Config.stackHash (lineOf pa) <;> decide

theorem runHeld_allHolding {s : State} {pa n : Nat} (h : s.hbmStacks = allHolding) (ht : targetOf s (128 * lineOf pa) = .hbm)
    (hd : homeDie (128 * lineOf pa) < 8) (hn : 0 < n) : runHeld s pa n = true := by
  simp only [runHeld, linesOf, if_neg (Nat.ne_of_gt hn), List.any_map, List.any_eq_true]
  refine ⟨0, List.mem_range.2 ?_, isHeld_allHolding h ht hd⟩
  have : pa / 128 ≤ (pa + n - 1) / 128 := Nat.div_le_div_right (by omega)
  omega

theorem deviceHeld_allHolding {s : State} {die ctx va n pa tr : Nat} {r w x w2 : Bool} (h : s.hbmStacks = allHolding)
    (hx : translate s die none ctx va = .ok pa tr r w x w2) (ht : targetOf s (128 * lineOf pa) = .hbm) (hd : homeDie (128 * lineOf pa) < 8) (hn : 0 < n) :
    deviceHeld s die ctx va n = true := by
  have hp : 0 ∈ List.range (if n = 0 then 0 else (va % 4096 + n + 4095) / 4096) := by
    rw [List.mem_range, if_neg (Nat.ne_of_gt hn)]
    exact Nat.div_pos (by omega) (by omega)
  simp only [deviceHeld, h, Bool.and_eq_true, List.any_eq_true, pageRuns]
  refine ⟨⟨_, List.mem_cons_self, rfl⟩, _, List.mem_map_of_mem hp, ?_⟩
  have hm : max va (va / 4096 * 4096 + 4096 * 0) = va := Nat.max_eq_left (by omega)
  simp only [hm, hx]
  exact runHeld_allHolding h ht hd (by omega)

/-- `s` with its context's pages in die 0's TLB and every stack in self-refresh. -/
def heldBack (s : State) : State := { s with hbmStacks := allHolding, caches := { s.caches with tlb := [page 0 0 0, page 0x800000 0x800000 0] } }

/-- The pattern's park area moved. -/
def parkingAt (s : State) (park : Word) : State := { s with patterns := s.patterns.map fun p => { p with parkBase := park } }

/-- The warp the last one of a group. -/
def grouped (scratch : Nat) (lanes : List Lane) : State :=
  { residing with
    groups := [{ key := 7, ctx := 0, pat := 0, stage := 0, gidx := 0, die := 0, core := 0, nwarps := 2, scratch := scratch }]
    warp := { residing.warp with group := some 7, lanes := lanes } }

/-- The pattern, the image slot, and the state with the image in it. -/
def imageStored (s : State) : Option (Pattern × Nat × State) :=
  (findPattern s 0 0).bind fun p => (imageSlot s p).bind fun k =>
    (storeAll (deviceTouch s 0 0 (livenessVa s.warp) 1) 0 0 (imageVa p k) (slotWrites s s.warp 0)).map fun t => (p, k, t)

/-- The group saved after its warp. -/
def groupStored (s : State) : Option State := (imageStored s).bind fun x => saveGroup (liftWarp x.2.2 s.warp x.2.1 false) x.1 7

/-- It has been asked to stop, has stopped and drained. -/
abbrev Stopped (s : State) : Prop :=
  (s.stopping.find? fun x => x.warp == 1) = some { warp := 1 } ∧ s.warp.id = 1 ∧ s.warp.atStop = true ∧ isQuiet s s.warp = true
    ∧ deviceHeld s 0 0 (livenessVa s.warp) 1 = false ∧ livenessOf (deviceTouch s 0 0 (livenessVa s.warp) 1) s.warp = some 0

theorem witness_ResidencyRows_save :
    let pair := { grouped 4096 residing.warp.lanes with others := [{ residing.warp with id := 5, group := some 7, slot := 1 }] }
    let off := { residing with patterns := [] }
    (Stopped residing ∧ residing.warp.group = none)
    ∧ (Stopped pair ∧ (pair.others.any fun v => v.resident && v.id != 1 && v.group == some 7) = true)
    ∧ (Stopped (grouped 0 []) ∧ (findGroup (grouped 0 []) 7).isSome = true ∧ (grouped 0 []).others = [])
    ∧ (Stopped (grouped 4096 []) ∧ (findGroup (grouped 4096 []) 7).isSome = true)
    ∧ Stopped (parkingAt residing 0x40000000) ∧ (Stopped off ∧ findPattern off 0 0 = none) := by
  refine ⟨?_, ?_, ?_, ?_, ?_, ?_⟩ <;> decide +kernel

theorem witness_ResidencyRows_stored : (imageStored { residing with warp := { residing.warp with lanes := [] } }).isSome = true := by decide +kernel
theorem witness_ResidencyRows_group : (groupStored (grouped 0 [])).isSome = true := by decide +kernel

/-- No room for the image; room for it up to the last byte that translates, and none for the group behind it. -/
theorem witness_ResidencyRows_full : (imageStored (parkingAt residing 0x40000000)).isSome = false
    ∧ (imageStored (parkingAt (grouped 4096 []) (0x40000000 - 147456))).isSome = true
    ∧ (groupStored (parkingAt (grouped 4096 []) (0x40000000 - 147456))).isSome = false := by
  refine ⟨?_, ?_, ?_⟩ <;> decide +kernel

/-- The liveness byte, and the image of a saved warp, on a stack in self-refresh. -/
theorem witness_ResidencyRows_held :
    deviceHeld (heldBack residing) 0 0 (livenessVa residing.warp) 1 = true
    ∧ mayTake (heldBack lifted) { warp := { residing.warp with id := 9 }, image := 0 } 0 95 3 15 = true
    ∧ deviceHeld (heldBack lifted) 0 0 0x900000 slotBytes = true :=
  ⟨deviceHeld_allHolding (pa := livenessVa residing.warp) (tr := 0) (r := true) (w := true) (x := true) (w2 := true) rfl
      (by decide +kernel) (by decide +kernel) (by decide +kernel) (by decide)
    , by decide +kernel
    , deviceHeld_allHolding (pa := 0x900000) (tr := 0) (r := true) (w := true) (x := true) (w2 := true) rfl (by decide +kernel) (by decide +kernel)
      (by decide +kernel) (by decide)⟩

theorem witness_ResidencyRows_timeout :
    let busy := { residing with warp := { residing.warp with lanes := residing.warp.lanes.set 31 { residing.warp.lane 31 with weft := [{ pend := some 4 }] } } }
    let hot := { busy with warp := { busy.warp with stalled := some (.stack 3) }, hbmStacks := [{ num := 3, st := .holding }] }
    (busy.warp.id = 1 ∧ isStopping busy 1 = true ∧ busy.warp.atStop = true ∧ isQuiet busy busy.warp = false ∧ waitsOnHold busy busy.warp = false)
    ∧ (isStopping hot 1 = true ∧ hot.warp.atStop = true ∧ isQuiet hot hot.warp = false ∧ waitsOnHold hot hot.warp = true) := by decide +kernel

/-- Where no line is poisoned, no stack failed and no port is down, no image is poisoned. -/
theorem imagePoisoned_whole {s : State} (hp : s.poison = []) (hs : s.hbmStacks = []) (hq : s.ports = []) (x : SavedWarp) : imagePoisoned s x = false := by
  have hm : ∀ pa, meetsPoison s pa = false := fun pa => by simp [meetsPoison, isPoisoned, stackState, portLost, hp, hs, hq]
  have hd : ∀ d c va n, devicePoisoned s d c va n = false := fun d c va n => by
    rw [devicePoisoned, List.any_eq_false]
    intro r _
    simp only [runMeets, hm]
    split <;> simp
  simp only [imagePoisoned, imageAny, hd]
  split
  · rfl
  · split <;> simp

theorem cannotStore_whole {s : State} (hs : s.hbmStacks = []) (hq : s.ports = []) (pa : Nat) : cannotStore s pa = false := by
  simp [cannotStore, stackState, portLost, hs, hq]

theorem witness_ResidencyRows :
    let s := residing
    let blocked := { s with stopping := [], warp := { s.warp with status := .blocked .global 0x100 65535 0 } }
    let x : SavedWarp := { warp := { s.warp with id := 9 }, image := 0 }
    let poisoned := { lifted with poison := [0x900000 / 128] }
    let idle := { s with vfs := [{ vf := 0, lattol := [(7, 40), (0, 40), (3071, 40)] }], gated := [.island 0 1], cores := [{ die := 0, core := 48, clock := 9 }] }
    let dark := { s with
      vfs := [{ vf := 0, lattol := (List.range 192).map fun k => (k + 192, 30000) }], gated := (List.range 48).map fun c => .core 0 (c + 48)
      caches := { dirty := [{ die := 0, pa := 767, val := 3, writers := [(1, 0)] }] } }
    let l : Launch := { key := 50, queue := 0, index := 0, ctx := 0, pat := 0, groups := 20, arg := 7, priv := 0, most := 0, fused := false, dists := [] }
    let starved := { launching with launches := [l] }
    ((findLaunch starved 50 = some l ∧ (starved.bobbins.any fun b => b.recs.any fun r => r.launch == some 50) = true ∧ (findPattern starved 0 0).isSome = true ∧ (declOf starved 0 0 0).isSome = true)
        ∧ (starved.bobbins.any fun b => b.ctx == 0 && b.pat == 0 && b.stage == 0 && b.die == 0 && !b.recs.isEmpty) = true ∧ contextHeld starved 0 = false)
    ∧ (((coreWarps blocked 0 0).filter fun w => parkable blocked w && !isStopping blocked w.id) = [blocked.warp] ∧ groupOf blocked blocked.warp = none
        ∧ denied blocked 0 0 = true ∧ ∀ x ∈ blocked.stopping, x.park = false)
    ∧ ((lifted.saved.find? fun x => x.warp.id == 9) = some x ∧ x.warp.group = none ∧ mayTake lifted x 0 95 3 15 = true
        ∧ ((findPattern lifted 0 0).map fun p => imageVa p 0) = some 0x900000)
    ∧ (mayTake poisoned x 0 95 3 15 = true ∧ imagePoisoned poisoned x = true ∧ poisoned.hbmStacks = [])
    ∧ (let lost := { lifted with mem := [] }
       mayTake lost x 0 95 3 15 = true ∧ (deviceLoad (deviceTouch lost 0 0 0x900000 slotBytes) 0 0 0x900000 slotBytes).isSome = false)
    ∧ realUnit (.core 0 96) = false ∧ ([PowerUnit.part 0 1 3, .part 7 95 3, .island 0 1].all realUnit) = true ∧ (∀ pa, cannotStore dark pa = false)
    ∧ (unitIdle idle (.part 0 1 3) = true ∧ toleranceAllows idle (.part 0 1 3) = true ∧ idle.gated.contains (.part 0 1 3) = false)
    ∧ (unitIdle idle (.part 7 95 3) = true ∧ toleranceAllows idle (.part 7 95 3) = true ∧ unitIdle idle (.part 0 0 0) = false)
    ∧ (unitIdle dark (.island 0 1) = true ∧ toleranceAllows dark (.island 0 1) = true ∧ dark.gated.contains (.island 0 1) = false ∧ dark.memOk = true
        ∧ (∀ x ∈ dark.caches.dirty, x.die = 0 ∧ ∀ y ∈ dark.caches.dirty, y.pa = x.pa → y.val = x.val) ∧ dark.caches.dirty ≠ [])
    ∧ (idle.gated.contains (.island 0 1) = true ∧ islandOf 48 = 1 ∧ islandOf 47 = 0) := by
  refine ⟨?_, ?_, ?_, ?_, ?_, ?_, ?_, cannotStore_whole rfl rfl, ?_, ?_, ?_, ?_⟩ <;> decide +kernel

theorem witness_ResidencyRows_image : (deviceLoad (deviceTouch lifted 0 0 0x900000 slotBytes) 0 0 0x900000 slotBytes).isSome = true ∧ ∀ x, imagePoisoned lifted x = false :=
  ⟨by decide +kernel, imagePoisoned_whole rfl rfl rfl⟩

/-- Queue 0 of VF 0 with a ring of two records at 0x20000 in its context, the second published and not read. -/
def queueing : State :=
  { device with
    queues := [{ num := 0, vf := 0, enabled := true, base := 0x20000, lgSize := 1, wb := 0x3FFFFFF0, p := 4, c := 3, s := 3, wbDue := true }, { num := 1, vf := 0 }]
    vfs := [{ vf := 0, busy := true, evtProd := 9, evtCons := 7, fltProd := 9, fltCons := 7 }] }

theorem witness_QueueRows :
    let s := queueing
    let x := queueOf s 0
    let lost := { s with contexts := [] }
    let cold := { s with mem := [] }
    let barred := fun (va : Nat) => { s with caches := { s.caches with tlb := [{ page va va 0 with r := false, w := false }] } }
    let behind := { s with heldOutside := [.row (.hostWindowWrite 0 0 [1])] }
    let idle := { s with vfs := [{ vf := 0 }] }
    let r : QueueRecord := { index := 3, words := [word (3 * 2 ^ 60 + 2 ^ 58)], started := true, done := true }
    let done := { s with queues := [{ num := 0, vf := 0, recs := [r] }] }
    let waits := { s with queues := [{ num := 0, vf := 0, recs := [{ r with done := false }] }] }
    let p : Pattern := { ctx := 0, addr := 64, image := { stages := [] }, ovfBase := 0, parkBase := 0, parkImages := 0, parkGroups := 0, hwBase := 0, unloading := [(0, 3), (1, 0)] }
    let off := { s with patterns := [p] }
    let full := { off with bobbins := [{ ctx := 0, pat := 64, stage := 0, die := 0, core := 0, recs := [{}] }] }
    Calm s ∧ s.memOk = true ∧ queueOwner s 0 = some 0 ∧ queueOwner s 0 ≠ some 1 ∧ s.heldOutside = [] ∧ behind.heldOutside ≠ []
    ∧ (x.p.toNat ≤ 5 ∧ 5 ≤ x.c.toNat + 2 ^ x.lgSize ∧ x.error = false) ∧ 3 < x.p.toNat ∧ x.c.toNat + 2 ^ x.lgSize < 6
    ∧ (x.enabled = true ∧ x.ringWait = none ∧ x.c.toNat < x.p.toNat
        ∧ translate s ioDie none x.ctx (x.base.toNat + 128 * (x.c.toNat % 2 ^ x.lgSize)) = identity 0x20080 ∧ reachable s 0x20080 = true
        ∧ isHeld s 0x20080 = false ∧ meetsPoison s 0x20080 = false ∧ translate lost ioDie none x.ctx 0x20080 = .page
        ∧ (match translate cold ioDie none x.ctx 0x20080 with | .fault .. => true | _ => false) = true)
    ∧ (translate (barred 0) ioDie none x.ctx 0x20080 = .ok 0x20080 0 false false true true ∧ isHeld (barred 0) 0x20080 = false
        ∧ meetsPoison { s with poison := [0x20080 / 128] } 0x20080 = true)
    ∧ (x.wbDue = true ∧ x.wbFailed = false ∧ x.wbWait = none ∧ translate s ioDie none x.ctx x.wb.toNat = identity 0x3FFFFFF0
        ∧ reachable s 0x3FFFFFF0 = true ∧ touchesMark s 0x3FFFFFF0 16 = false ∧ translate lost ioDie none x.ctx x.wb.toNat = .page)
    ∧ (translate (barred 0x3FE00000) ioDie none x.ctx x.wb.toNat = .ok 0x3FFFFFF0 0 false false true true ∧ isHeld (barred 0x3FE00000) 0x3FFFFFF0 = false)
    ∧ ((findPattern off 0 64).map (·.unloading) = some [(0, 3), (1, 0)] ∧ patternWarps off 0 64 = false ∧ patternRecords off 0 64 = false)
    ∧ (patternWarps full 0 64 = false ∧ patternRecords full 0 64 = true)
    ∧ ((queueOf done 0).error = false ∧ (queueOf done 0).recs = [r] ∧ workDone done r = true ∧ (r.words.getD 0 0).getLsbD 58 = true
        ∧ workDone waits { r with done := false } = false)
    ∧ ((pageOf s 0).map fun p => (p.heldEvents, p.discarded, p.heldFaults)) = some ([], 0, []) ∧ ((pageOf s 0).map fun p => (p.evtCons, p.evtProd)) = some (7, 9)
    ∧ (queueOwner s 1 = some 0 ∧ (queueOf s 1).enabled = false ∧ (queueOf s 1).recs = [])
    ∧ (field 0x01FFFFFFFFFFF000 0 12 = 0 ∧ field 0x01FFFFFFFFFFF000 57 7 = 0 ∧ field 0x800 0 12 ≠ 0)
    ∧ (ownsPartition s 0 3071 = true ∧ ownsPartition s 0 3072 = false ∧ ((pageOf s 0).map (·.busy)) = some true ∧ ((pageOf idle 0).map (·.busy)) = some false)
    ∧ pageOf s 63 = none ∧ 63 < 64 := by
  refine ⟨?_, ?_, ?_, ?_, ?_, ?_, ?_, ?_, ?_, ?_, ?_, ?_, ?_, ?_, ?_, ?_, ?_, ?_, ?_, ?_, ?_, ?_, ?_⟩ <;> decide +kernel

/-- A record that waits to be dispatched, with a pattern loaded at 64. -/
def dispatching (ws : List Word) : State :=
  let p : Pattern := { ctx := 0, addr := 64, image := { stages := [{ num := 0, isGroup := true, scratch := 32768, entry := some 0 }] }, ovfBase := 0, parkBase := 0
                       parkImages := 0, parkGroups := 0, hwBase := 0 }
  { device with patterns := [p], queues := [{ num := 0, vf := 0, enabled := true, recs := [{ index := 3, words := ws }], s := 3 }] }

/-- The queue is the one that is ready. -/
abbrev DueAlone (ws : List Word) : Prop :=
  let s := noteReady (dispatching ws)
  (readyQueues s 0).map (fun z => (z.1, z.2.index, z.2.words)) = [(queueOf s 0, 3, ws)]

/-- A launch, one of no groups, one of a pattern that is not there; a load; an unload, and one of a pattern that is not there; a marker; a kind that is
reserved, and a reserved bit. Whether a load finds an image is `Config.gwasImage`'s, of which nothing is known. -/
theorem witness_QueueRows_dispatch :
    let launch : List Word := [word (2 ^ 53), 64, 2 ^ 32 - 1, 5, 65536]
    let w := fun (ws : List Word) (k : Nat) => ws.getD k 0
    let kind := fun (k : Nat) => word (k * 2 ^ 60)
    DueAlone launch ∧ reservedBad (w launch) = false ∧ ((findPattern (dispatching launch) 0 64).map fun p => launchOk p (w launch)) = some true
    ∧ (DueAlone (launch.set 2 0) ∧ ((findPattern (dispatching []) 0 64).map fun p => launchOk p (w (launch.set 2 0))) = some false)
    ∧ (DueAlone (launch.set 1 128) ∧ reservedBad (w (launch.set 1 128)) = false ∧ findPattern (dispatching []) 0 128 = none)
    ∧ (DueAlone [kind 1, 64] ∧ reservedBad (w [kind 1, 64]) = false ∧ loadHeld (dispatching []) { index := 3, words := [kind 1, 64] } = false
        ∧ loadHeld { dispatching [] with hbmStacks := allHolding } { index := 3, words := [kind 1, 64] } = true)
    ∧ (DueAlone [kind 2, 64] ∧ reservedBad (w [kind 2, 64]) = false ∧ DueAlone [kind 2, 128] ∧ reservedBad (w [kind 2, 128]) = false)
    ∧ (DueAlone [kind 3] ∧ reservedBad (w [kind 3]) = false) ∧ (DueAlone [kind 15] ∧ reservedBad (w [kind 15]) = false)
    ∧ (DueAlone [1] ∧ reservedBad (w [1]) = true) := by
  refine ⟨?_, ?_, ?_, ?_, ?_, ?_, ?_, ?_, ?_, ?_⟩ <;> decide +kernel

/-- The directory's part of a state in which a clause's line, line 5, stands. -/
def cohState (c : Coherence) : State := { State.reset with coh := c }

/-- A line that nothing holds, tracked or watched; entries shared with the die and with others, owned by the die and by another, held by none. -/
theorem witness_DirectoryRows_requests :
    let watched := { device with mem := Memory.writeWord device.mem 0x15000 0xDF }
    let e : DirEntry := { line := 5, st := .shared, sharers := 0x80 }
    let x : DirEntry := { line := 5, st := .exclusive, owner := 7, sharers := 0x80 }
    let o : DirEntry := { line := 5, st := .owned, owner := 0, sharers := 0x81 }
    let meets := fun (e : DirEntry) => let s := cohState { dir := [e] }
      busyOf s.coh 5 = none ∧ dirEntry s.coh 5 = some e ∧ e.line = 5 ∧ isWatched s 5 = e.watched
    let busy := cohState { busy := [{ line := 5, req := .rds false, die := 7 }] }
    (busyOf device.coh 5 = none ∧ dirEntry device.coh 5 = none ∧ device.coh.dir.length < 1572864 ∧ isWatched device 5 = false)
    ∧ (busyOf watched.coh 5 = none ∧ dirEntry watched.coh 5 = none ∧ isWatched watched 5 = true)
    ∧ (meets e ∧ e.st = .shared ∧ e.watched = false ∧ holders e &&& ~~~dieBit 7 = 0 ∧ e.sharers.getLsbD 7 = true)
    ∧ (meets { e with sharers := 0x81 } ∧ holders { e with sharers := 0x81 } &&& ~~~dieBit 7 ≠ 0)
    ∧ (meets x ∧ x.st ≠ .shared ∧ x.owner = 7 ∧ holders x &&& ~~~dieBit 7 = 0 ∧ x.sharers.getLsbD 7 = true)
    ∧ (meets o ∧ o.st ≠ .shared ∧ o.owner ≠ 7 ∧ o.sharers.getLsbD 7 = true ∧ o.sharers.getLsbD 1 = false)
    ∧ (meets { e with sharers := 0 } ∧ holders { e with sharers := 0 } = 0 ∧ holders e ≠ 0)
    ∧ meets { e with watched := true } ∧ (busyOf busy.coh 5).isSome = true ∧ isWatched busy 5 = false := by
  refine ⟨?_, ?_, ?_, ?_, ?_, ?_, ?_, ?_, ?_, ?_⟩ <;> decide +kernel

/-- Messages on their way to die 7, to the home from it, with what its clause needs of the line. -/
theorem witness_DirectoryRows_messages :
    let m := fun (k : MsgKind) => ({ kind := k, line := 5, die := 7 } : Msg)
    let k : DieCopy := { die := 7, line := 5, st := .m }
    let b : BusyLine := { line := 5, req := .rds false, die := 0, fwd := some 7 }
    let e : DirEntry := { line := 5, st := .owned, owner := 7, sharers := 0x81 }
    let x : DirEntry := { e with st := .exclusive, sharers := 0x80 }
    (∀ f, let c : Coherence := { msgs := [m (.fwd f (some 0))], copies := [k], busy := [b] };
        c.msgs = m (.fwd f (some 0)) :: [] ∧ busyOf c 5 = some b ∧ b.die = 0 ∧ b.fwd = some 7 ∧ copyOf c 7 5 = some k ∧ k.st ≠ .s)
    ∧ (let c : Coherence := { msgs := [m (.fwd true (some 0))], busy := [b] }; busyOf c 5 = some b ∧ copyOf c 7 5 = none)
    ∧ (let c : Coherence := { msgs := [m (.fwd true none)], copies := [k] }; copyOf c 7 5 = some k)
    ∧ (let c : Coherence := { msgs := [m .inv], copies := [{ k with st := .s }] }; c.msgs = m .inv :: [] ∧ (copyOf c 7 5).isSome = true)
    ∧ (let c : Coherence := { msgs := [m .binv], copies := [k] }; c.msgs = m .binv :: [] ∧ copyOf c 7 5 = some k)
    ∧ ((m (.data .e true)).kind = .data .e true ∧ (m .nack).kind = .nack ∧ HomeRoom (cohState { msgs := [m (.data .e true)] }) 1)
    ∧ (∀ r ∈ [Request.rdx, .upg, .rds false, .rds true], let y : BusyLine := { line := 5, req := r, die := 7, sent := true }
        let c : Coherence := { msgs := [m (.ack false)], busy := [y] };
        busyOf c 5 = some y ∧ y.owed = 0 ∧ y.fwd = none ∧ y.sent = true ∧ y.die = 7 ∧ c.waiting = [] ∧ ∀ z ∈ c.busy, z.awaits ≠ some 5)
    ∧ (∀ r ∈ [Request.rdx, .upg], let two : BusyLine := { line := 5, req := r, die := 0, owed := 0x82 }
        let last : BusyLine := { two with owed := 0x80 };
        (two.owed.getLsbD 7 = true ∧ two.owed &&& ~~~dieBit 7 ≠ 0 ∧ two.fwd ≠ some 7)
        ∧ (last.owed.getLsbD 7 = true ∧ last.owed &&& ~~~dieBit 7 = 0 ∧ last.fwd = none ∧ last.sent = false))
    ∧ (let y : BusyLine := { line := 5, req := .evict, die := 0, owed := 0x80 }
       let c : Coherence := { msgs := [m (.ack true)], busy := [y], dir := [e] };
       busyOf c 5 = some y ∧ y.owed.getLsbD 7 = true ∧ y.owed &&& ~~~dieBit 7 = 0 ∧ y.owed = dieBit 7 ∧ y.fwd = none ∧ y.req = .evict ∧ c.waiting = []
         ∧ dirEntry c 5 = some e ∧ ∀ z ∈ c.busy, z.awaits ≠ some 5)
    ∧ (let c : Coherence := { msgs := [m (.ack true)], busy := [b], dir := [e] };
       busyOf c 5 = some b ∧ b.fwd = some 7 ∧ b.req = .rds false ∧ dirEntry c 5 = some e ∧ e.line = 5)
    ∧ (let y := { b with req := .rdx }; y.fwd = some 7 ∧ y.owed = 0 ∧ y.sent = false)
    ∧ (let c : Coherence := { msgs := [m (.wbd false)], dir := [x] }; busyOf c 5 = none ∧ dirEntry c 5 = some x ∧ x.owner = 7 ∧ x.st = .exclusive)
    ∧ (let c : Coherence := { msgs := [m (.wbd false)], dir := [e] }; busyOf c 5 = none ∧ dirEntry c 5 = some e ∧ e.owner = 7 ∧ e.st = .owned)
    ∧ (let own : BusyLine := { line := 5, req := .rdx, die := 7, fwd := some 7 }
       let c : Coherence := { msgs := [m (.wbd false)], dir := [x], busy := [own] }; busyOf c 5 = some own ∧ dirEntry c 5 = some x)
    ∧ (let c : Coherence := { msgs := [m (.wbd true)] }; dirEntry c 5 = none ∧ c.msgs = m (.wbd true) :: [])
    ∧ copyOf {} 7 5 = none := by
  refine ⟨?_, ?_, ?_, ?_, ?_, ?_, ?_, ?_, ?_, ?_, ?_, ?_, ?_, ?_, ?_, ?_⟩ <;> decide +kernel

/-- One byte of line 5 is dirty on die 7. -/
theorem witness_DirectoryRows_dirty :
    let s := { State.reset with caches := { dirty := [{ die := 7, pa := 767, val := 3, writers := [(1, 0)] }] } }
    s.memOk = true ∧ s.caches.dirty ≠ [] ∧ (∀ d ∈ s.caches.dirty, d.die = 7 ∧ lineOf d.pa = 5 ∧ ∀ y ∈ s.caches.dirty, y.die = 7 → y.pa = d.pa → y.val = d.val)
      ∧ ∀ pa, cannotStore s pa = false :=
  ⟨by decide +kernel, by decide +kernel, by decide +kernel, cannotStore_whole rfl rfl⟩

/-! #### Commands, resets, what comes from outside -/

/-- A command with its arguments taken by the page of VF 0, beyond the tables of `device`. -/
def asked (code : BitVec 8) (a0 a1 a2 a3 : Word) : State :=
  { device with vfs := [{ vf := 0, busy := true, cmd := some code, arg0 := a0, arg1 := a1, arg2 := a2, arg3 := a3 }] }

/-- The same, with context 0 held and its warp gone. -/
def still (s : State) : State := { s with contexts := s.contexts.map fun c => { c with held := true }, warp := { s.warp with status := .free } }

/-- A fault of the warp that has the turn beside another it waits on, resolved or cancelled. -/
def waitingFault (a1 : Word) (more : List WarpFault) : State :=
  let s := asked 0x09 77 a1 0 0
  { s with
    faults := [{ id := 77, vf := 0, ctx := 0, waiters := [.warp 1] }]
    warp := { s.warp with status := .faulted ({ id := 77, mask := 1, addr := 0x4000 } :: more) } }

/-- The device with room in its event ring. -/
def ringed (s : State) : State := { s with vfs := s.vfs.map fun p => { p with evtBase := 0x30000 } }

/-- A seal of context 0 at IPA 0x3FFFF000, with nothing saved, performed; then its restore asked for. -/
def sealing : State := still (asked 0x0B 0 0x3FFFF000 64 0)

def restoring : State :=
  match exec (.checkpointSeal 0) sealing with
  | .next t => { t with vfs := (asked 0x0B 0 0x3FFFF000 64 (1 + 1 * 2 ^ 16)).vfs }
  | _ => sealing

theorem witness_VfCommands :
    let has := fun (s : State) (code : Nat) => (taken s 0 code).isSome = true
    let make := asked 0x01 0x13000 (0x3FFF + 511 * 2 ^ 16) 0 0
    let twice := asked 0x01 0x13000 0 0 0
    let restart := { asked 0x07 1 9 0 0 with queues := [{ num := 1, vf := 0, error := true, c := 9 }] }
    let leaf := fun (n : Nat) => { asked 0x0A 0xFE0 0 0 0 with sec := { device.sec with leaf := n } }
    let full := { leaf 0 with mem := [] }
    let one := waitingFault 0 []
    let two := waitingFault 1 [{ id := 78, mask := 2, addr := 0x5000 }]
    (has make 1 ∧ ((taken make 0 1).map (createResult make 0)) = some 0 ∧ freeContext make = some 1)
    ∧ (has twice 1 ∧ ((taken twice 0 1).map (createResult twice 0)) ≠ some 0)
    ∧ (∀ code : Fin 14, code.val ∈ [2, 3, 4, 5, 8] → has (asked (BitVec.ofNat 8 code) 0 0 0x1000 0) code
        ∧ contextResult (asked (BitVec.ofNat 8 code) 0 0 0x1000 0) 0 0 = 0)
    ∧ ((taken (ringed (asked 2 0 0 0 0)) 0 2).map fun p => (p.heldEvents, p.discarded, ringRoom p.evtBase p.evtSize p.evtProd p.evtCons)) = some ([], 0, true)
    ∧ (contextResident (asked 4 0 0 0 0) 0 = true ∧ contextResident (still (asked 4 0 0 0 0)) 0 = false ∧ has (still (asked 4 0 0 0 0)) 4
        ∧ contextResult (still (asked 4 0 0 0 0)) 0 0 = 0)
    ∧ (has (asked 6 1 0 0 0) 6 ∧ queueResult (asked 6 1 0 0 0) 0 1 = 0 ∧ has restart 7 ∧ queueResult restart 0 1 = 0
        ∧ (queueOf restart 1).error = true ∧ (queueOf restart 1).c.toNat ≤ 9)
    ∧ (has one 9 ∧ one.warp.status = .faulted [{ id := 77, mask := 1, addr := 0x4000 }]
        ∧ (one.faults.find? fun f => f.id == 77).map (fun f => (f.vf, f.waiters)) = some (0, [.warp one.warp.id]))
    ∧ (has two 9 ∧ two.warp.status = .faulted [{ id := 77, mask := 1, addr := 0x4000 }, { id := 78, mask := 2, addr := 0x5000 }]
        ∧ (two.faults.find? fun f => f.id == 77).map (fun f => (f.vf, f.waiters)) = some (0, [.warp two.warp.id]))
    ∧ (has (asked 9 77 0 0 0) 9 ∧ faultResult (asked 9 77 0 0 0) 0 77 ≠ 0)
    ∧ (has (leaf (2 ^ 20 - 1)) 10 ∧ spanHeld (leaf (2 ^ 20 - 1)) 0 0xFE0 4128 = false ∧ (readIpa (ipaTouch (leaf (2 ^ 20 - 1)) 0 0xFE0 32) 0 0xFE0 32).isSome = true
        ∧ has (leaf (2 ^ 20)) 10 ∧ has full 10 ∧ readIpa (ipaTouch full 0 0xFE0 32) 0 0xFE0 32 = none ∧ full.hbmStacks = [])
    ∧ (has (asked 12 0 0 0 0) 12 ∧ has (asked 13 0 0 0 0) 13 ∧ hartResult (asked 12 0 0 0 0) 0 0 = 0)
    ∧ (has (asked 3 4096 0 0 0) 3 ∧ contextResult (asked 3 4096 0 0 0) 0 4096 ≠ 0 ∧ has (asked 6 2 0 0 0) 6 ∧ queueResult (asked 6 2 0 0 0) 0 2 ≠ 0
        ∧ hartResult (asked 12 64 0 0 0) 0 64 ≠ 0) := by
  refine ⟨?_, ?_, ?_, ?_, ?_, ?_, ?_, ?_, ?_, ?_, ?_, ?_⟩ <;> decide +kernel

/-- A page that translates takes any 4 KiB. -/
theorem storeIpa_page {s : State} {bs : List Byte} (hx : (xlatIpa s 0 0x1000).1 = identity 0x1000) (hr : reachable s 0x1000 = true) (hm : s.homes = [])
    (hp : isPlyPage s 0x1000 = false) (hn : bs.length ≤ 4096) : (storeIpa s 0 0x1000 bs).isSome = true := by
  have hk : min bs.length (4096 - 0x1000 % 4096) = bs.length := by omega
  have h0 : ∀ f o, ipaRuns s 0 false true f (0x1000 + bs.length) o 0 = some [] := fun f o => by cases f <;> simp [ipaRuns]
  have hi : runsOf s 0 0x1000 bs.length false true = some (if bs.length = 0 then [] else [(0x1000, 0, bs.length)]) := by
    rw [runsOf, ipaRuns]
    split
    · rfl
    · simp only [hk, Nat.sub_self, h0, hx, identity, hr]
      rfl
  have ht : ∀ n, writeBarred s 0x1000 n = false := fun n => by simp [writeBarred, touchesMark, hm, hp]
  simp [storeIpa, hi, ht]

/-- The 4 KiB after the nonce can be written, whatever part of them the report is. -/
theorem witness_VfCommands_report (bs : List Byte) (hn : bs.length ≤ 4096) :
    let s0 := ipaTouch (asked 0x0A 0xFE0 0 0 0) 0 0xFE0 32
    (storeIpa { s0 with sec := { device.sec with leaf := 1 } } 0 0x1000 bs).isSome = true :=
  storeIpa_page (by decide +kernel) (by decide +kernel) (by decide +kernel) (by decide +kernel) hn

theorem witness_VfCommands_seal :
    (taken sealing 0 0x0B).isSome = true ∧ contextResult sealing 0 0 = 0 ∧ field 0x3FFFF000 0 12 = 0 ∧ heldStill sealing 0 = true
    ∧ spanHeld sealing 0 0x3FFFF000 64 = false ∧ sealHeld sealing 0 = false
    ∧ sealAll (sealTouch sealing 0) 0 (sealGroups sealing 0) = some []
    ∧ (storeIpa (sealTouch sealing 0) 0 0x3FFFF000 (sealBytes 1 0 0 0 [])).isSome = true
    ∧ heldStill (asked 0x0B 0 0x3FFFF000 64 0) 0 = false := by decide +kernel

/-- A buffer, or the image of the context's saved warp, on a stack in self-refresh. -/
theorem witness_VfCommands_seal_held :
    let s := asked 0x0B 0 0x3FFFF000 64 0
    let b := { heldBack lifted with vfs := s.vfs }
    (taken b 0 0x0B).isSome = true ∧ sealHeld b 0 = true := by
  refine ⟨by decide +kernel, ?_⟩
  have hd : deviceHeld { heldBack lifted with vfs := (asked 0x0B 0 0x3FFFF000 64 0).vfs } 0 0 0x900000 slotBytes = true :=
    deviceHeld_allHolding (pa := 0x900000) (tr := 0) (r := true) (w := true) (x := true) (w2 := true) rfl (by decide +kernel) (by decide +kernel)
      (by decide +kernel) (by decide)
  simp only [sealHeld, sealAny, Bool.and_eq_true, List.any_eq_true]
  exact ⟨⟨_, List.mem_cons_self, rfl⟩, (none, (heldBack lifted).saved), by decide +kernel, (0, 0x900000, slotBytes), by decide +kernel, hd⟩

theorem witness_VfCommands_restore :
    let s := restoring
    let touched := fun (s : State) => ipaTouch s 0 0x3FFFF000 64
    let a3 : Word := 1 + 1 * 2 ^ 16
    let hd := (readIpa (touched s) 0 0x3FFFF000 64).getD []
    let h := readSealHead hd
    let bad := { s with mem := Memory.write s.mem 0x3FFFF000 0 }
    let hb := readSealHead ((readIpa (touched bad) 0 0x3FFFF000 64).getD [])
    let torn := { s with mem := Memory.write s.mem 0x3FFFF008 0xFF }
    let ht := (readIpa (touched torn) 0 0x3FFFF000 64).getD []
    (taken s 0 0x0B).isSome = true ∧ contextResult s 0 0 = 0 ∧ a3.getLsbD 0 = true ∧ field a3 1 15 = 0 ∧ field a3 26 38 = 0 ∧ field a3 16 10 = 1
    ∧ queueResult s 0 1 = 0 ∧ spanHeld s 0 0x3FFFF000 64 = false ∧ heldStill s 0 = true ∧ (s.saved.any fun y => y.warp.ctx == 0) = false
    ∧ readIpa (touched s) 0 0x3FFFF000 64 = some hd ∧ h.fits = true ∧ 64 ≤ h.total ∧ h.total ≤ 64 ∧ readIpa (touched s) 0 0x3FFFF000 h.total = some hd
    ∧ (sealCrc hd = h.crc ∧ partsEnd hd h.groups 64 = some h.total ∧ h.place = 0 + 0 * 2 ^ 16) ∧ h.gen ≤ ((findContext s 0).map (·.ckpt)).getD 0
    ∧ (enterAll 1 0 hd h.groups (touched s) 64 (((s.sealed.find? fun x => x.ctx == 0 && x.gen == h.gen).map (·.groups)).getD [])).isSome = true
    ∧ hb.fits = false ∧ ((readSealHead ht).fits = true ∧ (readSealHead ht).total = 64 ∧ sealCrc ht ≠ (readSealHead ht).crc)
    ∧ (let older := { s with contexts := s.contexts.map fun c => { c with ckpt := 0 } }; ((findContext older 0).map (·.ckpt)).getD 0 < h.gen) := by
  refine ⟨?_, ?_, ?_, ?_, ?_, ?_, ?_, ?_, ?_, ?_, ?_, ?_, ?_, ?_, ?_, ?_, ?_, ?_, ?_, ?_, ?_⟩ <;> decide +kernel

/-- A command with its arguments taken by the PF's page; VF 63's block as written is `b`. -/
def pfAsked (code : BitVec 8) (a0 a1 : Word) (b : VfBlock) : State :=
  { device with
    configs := device.configs ++ [{ vf := 63, written := b }], caches := { device.caches with dirty := [], tlb := [page 0 0 1] }
    pf := { busy := true, cmd := some code, arg0 := a0, arg1 := a1 } }

theorem witness_PfCommands :
    let b : VfBlock := { enabled := true, queues := [1023], heddleLimit := 1 }
    let beyond := { b with heddleLimit := 2 }
    let taken_ := fun (s : State) (code : Nat) => s.pf.busy = true ∧ s.pf.cmd = some (BitVec.ofNat 8 code)
    let bare := { pfAsked 0x84 0 0 b with vfs := [] }
    let s := pfAsked 0x81 63 0 b
    let off := pfAsked 0x81 63 0 {}
    taken_ s 0x81 ∧ (63 : Word).toNat ≤ 63 ∧ applyRefused s 63 b = false ∧ (vfPage s 63).isNone = true ∧ b.enabled = true
    ∧ applyRefused off 63 {} = false ∧ applyRefused (pfAsked 0x81 63 0 beyond) 63 beyond = true
    ∧ (taken_ (pfAsked 0x82 0x10000 0x6000 b) 0x82 ∧ s.heddles = [] ∧ scrubHeld (pfAsked 0x82 0x10000 0x6000 b) (pfAsked 0x82 0x10000 0x6000 b).pf = false ∧ scrubRange s 0x10000 0x6000 = some 0x10000)
    ∧ scrubRange s (2 ^ 40 - 4096) 4096 = some (2 ^ 40 - 4096)
    ∧ (taken_ (pfAsked 0x83 7 0 b) 0x83 ∧ (7 : Word).toNat ≤ 7 ∧ vfsOf (pfAsked 0x83 7 0 b) 7 = [])
    ∧ (bare.vfs = [] ∧ bare.caches.dirty = [] ∧ bare.sec.records = [] ∧ taken_ bare 0x84) ∧ taken_ (pfAsked 0x85 0 0 b) 0x85
    ∧ ((pageOf { device with contexts := [] } 0).isSome = true ∧ contextsOf { device with contexts := [] } 0 = []) := by
  refine ⟨?_, ?_, ?_, ?_, ?_, ?_, ?_, ?_, ?_, ?_, ?_, ?_, ?_⟩ <;> decide +kernel

/-- A scrub of lines on a stack in self-refresh. -/
theorem witness_PfCommands_held :
    let s := { pfAsked 0x82 0x10000 0x6000 {} with hbmStacks := allHolding }
    s.pf.busy = true ∧ s.pf.cmd = some 0x82 ∧ scrubHeld s s.pf = true := by
  refine ⟨rfl, rfl, ?_⟩
  have hr : scrubRange { pfAsked 0x82 0x10000 0x6000 {} with hbmStacks := allHolding } 0x10000 0x6000 = some 0x10000 := by decide +kernel
  simp only [scrubHeld, Bool.and_eq_true]
  refine ⟨rfl, ?_⟩
  rw [show (pfAsked 0x82 0x10000 0x6000 {}).pf.arg0.toNat = 0x10000 from rfl, show (pfAsked 0x82 0x10000 0x6000 {}).pf.arg1.toNat = 0x6000 from rfl, hr]
  exact runHeld_allHolding rfl (by decide +kernel) (by decide +kernel) (by decide)

/-- Hart 0 of VF 0 runs; package 1 may touch the last 8 bytes of this one's memory. -/
def guest : State :=
  { device with harts := [{ num := 0, running := true }], remoteRanges := [(1, 2 ^ 40 - 8, 8)], pkg := 0 }

theorem witness_OutsideRows :
    let s := guest
    let defined := fun (s : State) (a n : Nat) => ∀ k : Fin 8, k.val < n → isUndef s (a + k) = false
    let bad := { s with poison := [0x3FFFFFFC / 128] }
    let lost := { s with mem := [] }
    let hot := { s with hbmStacks := [{ num := 15, st := .holding }] }
    let stuck := { hot with warp := { hot.warp with stalled := some (.stack 15) } }
    let open_ := { s with warp := { s.warp with region := some { keep := 0, lanes := [], mask := 0 } } }
    Calm s ∧ s.memOk = true ∧ (pageOf s 0).isSome = true
    ∧ (inWindow s 0 0x3FFFFFFC 4 = true ∧ holds s 0 0x3FFFFFFC 4 = false ∧ runsOf s 0 0x3FFFFFFC 4 true false = some [(0x3FFFFFFC, 0, 4)]
        ∧ runPoisoned s 0x3FFFFFFC 4 = false ∧ defined s 0x3FFFFFFC 4 ∧ runsOf s 0 0x3FFFFFFC 4 false true = some [(0x3FFFFFFC, 0, 4)]
        ∧ writeBarred s 0x3FFFFFFC 4 = false)
    ∧ (runsOf bad 0 0x3FFFFFFC 4 true false = some [(0x3FFFFFFC, 0, 4)] ∧ runPoisoned bad 0x3FFFFFFC 4 = true ∧ holds bad 0 0x3FFFFFFC 4 = false)
    ∧ ((pageOf lost 0).isSome = true ∧ inWindow lost 0 0x3FFFFFFC 4 = true ∧ holds lost 0 0x3FFFFFFC 4 = false ∧ runsOf lost 0 0x3FFFFFFC 4 true false = none
        ∧ runsOf lost 0 0x3FFFFFFC 4 false true = none)
    ∧ (pageOf s 1 = none ∧ inWindow s 0 0x3FFFFFFD 4 = false)
    ∧ (∀ w : Bool, let k := if w then 8 else 4; let a := 0x3FFFFFF8
        inWindow s 0 a k = true ∧ a % k = 0 ∧ holds s 0 a k = false ∧ runsOf s 0 a k true true = some [(a, 0, k)] ∧ writeBarred s a k = false)
    ∧ ([AtomOp.add, .exch].all hostCarries) = true
    ∧ (hartVf s 0 = some 0 ∧ (findHart s 0).running = true ∧ (findHart s 0).isGuest = false ∧ 0x3FFFEFFC + 8 ≤ ipaTop ∧ holds s 0 0x3FFFEFFC 8 = false
        ∧ runsOf s 0 0x3FFFEFFC 8 true false = some [(0x3FFFEFFC, 0, 4), (0x3FFFF000, 4, 4)] ∧ runPoisoned s 0x3FFFEFFC 4 = false ∧ runPoisoned s 0x3FFFF000 4 = false
        ∧ defined s 0x3FFFEFFC 4 ∧ defined s 0x3FFFF000 4)
    ∧ (let barred := { s with mem := Memory.writeWord s.mem 0x12000 0xF }
       runsOf s 0 0x3FFFEFFC 8 false false = some [(0x3FFFEFFC, 0, 4), (0x3FFFF000, 4, 4)] ∧ fetchable s 0 0x3FFFEFFC 8 = true
          ∧ runsOf barred 0 0x3FFFEFFC 8 false false = some [(0x3FFFEFFC, 0, 4), (0x3FFFF000, 4, 4)] ∧ fetchable barred 0 0x3FFFEFFC 8 = false
          ∧ hartVf barred 0 = some 0 ∧ holds barred 0 0x3FFFEFFC 8 = false)
    ∧ (hot.heldObj = [] ∧ ∀ w ∈ warps hot, w.status ≠ .leaving)
    ∧ (hartVf lost 0 = some 0 ∧ holds lost 0 0 8 = false ∧ runsOf lost 0 0 8 true false = none ∧ 0x3FFFFFFC % 8 ≠ 0)
    ∧ (s.warp.resident = true ∧ s.warp.active ||| s.warp.parked ≠ 0 ∧ canReplay s.warp = false ∧ canReplay open_.warp = true)
    ∧ ({ s with escalating := some (.queue 0) } : State).escalating = some (.queue 0) ∧ (s.hbmStacks.any fun x => x.num == 15) = false
    ∧ (isHolding hot 15 = true ∧ heldQueues hot 15 = [] ∧ isHolding stuck 15 = true ∧ heldQueues stuck 15 = [(0, 0)])
    ∧ ((2 ^ 48 + 2 ^ 40 - 8) / 2 ^ 48 = 1 ∧ targetOf s (2 ^ 48 + 2 ^ 40 - 8) = .hbm ∧ remoteAllowed s 1 (2 ^ 40 - 8) 8 = true ∧ isHeld s (2 ^ 40 - 8) = false
        ∧ s.heldOutside = [] ∧ runPoisoned s (2 ^ 40 - 8) 8 = false ∧ defined s (2 ^ 40 - 8) 8 ∧ remoteAllowed s 1 (2 ^ 40 - 9) 8 = false) := by
  refine ⟨?_, ?_, ?_, ?_, ?_, ?_, ?_, ?_, ?_, ?_, ?_, ?_, ?_, ?_, ?_, ?_, ?_, ?_⟩ <;> decide +kernel

theorem witness_WalksGrant : ((walkVa device 0 0x3FFFFFFF).1 matches .ok 0x3FFFFFFF 0 true true true true) = true := by decide +kernel

/-! #### Encoding and steps -/

/-- Operands at the ends of their ranges, an opcode that is not assigned, and maintenance mode. -/
theorem witness_DecodeEncode :
    (Instr.spawn .always { a := true, b := true } true 15 (.w 14) (.f 30) (.imm 63)).wellFormed false = true
    ∧ (Instr.unassignedOpcode 0x0CC7FFFFFFFFFFFF).wellFormed false = true ∧ (Instr.nop { neg := true, p := 46 }).wellFormed true = true := by decide +kernel

theorem witness_EncodeDecode :
    decode true 0x000BC00000000000 = .ok (.nop .always)
    ∧ decode false (encode (.spawn .always { a := true, b := true } true 15 (.w 14) (.f 30) (.imm 63)))
        = .ok (.spawn .always { a := true, b := true } true 15 (.w 14) (.f 30) (.imm 63)) := by decide +kernel

/-- A NOP, a word with a reserved type and one with a guard that is no predicate, in the last word of a block. -/
theorem witness_StepRunsDecoded :
    let at_ := fun (v : Word) => { plain with warp := { plain.warp with buf := 0x3C00000000000000 :: List.replicate 14 0 ++ [v], idx := 15 } }
    (at_ 0x000BC00000000000).issues = true ∧ (at_ 0x000BC00000000000).warp.cur = 0x000BC00000000000
    ∧ decode false (at_ 0x000BC00000000000).warp.cur = .ok (.nop .always)
    ∧ (at_ 0x200BC0020000001F).issues = true ∧ decode false (at_ 0x200BC0020000001F).warp.cur = .illop
    ∧ (at_ 0x200FC00200000007).issues = true ∧ decode false (at_ 0x200FC00200000007).warp.cur = .illopnd ∧ plain.warp.region = none := by decide +kernel

theorem witness_StepKeepsMemOk : State.reset.memOk = true ∧ plain.memOk = true ∧ mapped.memOk = true ∧ goesOn (step plain) = true := by decide +kernel

/-- The word placed where the next step finds it is the one that runs. -/
theorem test_withFetchWord : ((match step plain with | .next t => t.warp.idx | _ => 0)) = 1 := by decide +kernel

end Sys2Proof.Tests
end

section
/-!
### A restore may bring cells that are not in canonical form (O60)

`State.memOk` speaks of device memory and of the scratchpads of `State.groups`. A seal leaves each group with the device, scratchpad cells included, in
`State.sealed` (log 109), of which `memOk` says nothing; a restore of the buffer enters that group in `State.groups` as it was kept (`enterGroup`). From
a state whose `sealed` holds a group that lists a byte 0, CHECKPOINT's restore so leaves memory out of the form.
-/

namespace Sys2Proof.Machine

/-! #### The rows on the way -/

/-- A row that the agenda names is what the next step does, where the device has started and nothing comes before it (R204, R391). -/
theorem step_of_agenda_row {s : State} {i : Instr} {rest : List Happening} (hstart : s.sec.started = true) (hchanges : s.changes = [])
    (hlevel : s.escalating = none) (hnext : s.agenda = .row i :: rest) (hrow : ofWarp i = false) : step s = exec i { s with agenda := rest } := by
  simp [step, turn, hstart, hchanges, hlevel, hnext, runAgenda, hrow]

/-- A buffer that passes the checks of its header, its CRC, its place and its generation is restored by entering its groups (R393). -/
theorem restoreSeal_of_enterAll {s t : State} {vf c q size base : Nat} {hd bs : List Byte} (hhd : readIpa s vf base 64 = some hd)
    (hfits : (readSealHead hd).fits = true) (hmin : 64 ≤ (readSealHead hd).total) (hmax : (readSealHead hd).total ≤ size)
    (hbs : readIpa s vf base (readSealHead hd).total = some bs) (hcrc : sealCrc bs = (readSealHead hd).crc)
    (hend : partsEnd bs (readSealHead hd).groups 64 = some (readSealHead hd).total) (hplace : (readSealHead hd).place = c + vf * 2 ^ 16)
    (hgen : (readSealHead hd).gen ≤ ((findContext s c).map (·.ckpt)).getD 0)
    (ht : enterAll q c bs (readSealHead hd).groups s 64
      (((s.sealed.find? fun x => x.ctx == c && x.gen == (readSealHead hd).gen).map (·.groups)).getD []) = some t) :
    restoreSeal s vf c q size base = (0, t) := by
  simp [restoreSeal, hhd, hfits, Nat.not_lt.mpr hmin, Nat.not_lt.mpr hmax, hbs, hcrc, hend, hplace, Nat.not_lt.mpr hgen, ht]

/-- A restore whose arguments pass their checks ends with result 0 and leaves what the buffer's groups leave (R393). -/
theorem exec_checkpointRestore_of_restoreSeal {s t : State} {vf : Nat} {p : VfPage} (hp : taken s vf 0x0B = some p) (hask : p.arg3.getLsbD 0 = true)
    (hspan : spanHeld s vf p.arg1.toNat p.arg2.toNat = false) (hctx : contextResult s vf p.arg0.toNat = 0)
    (hargs : field p.arg3 1 15 = 0 ∧ field p.arg3 26 38 = 0 ∧ field p.arg1 0 12 = 0) (hq : queueResult s vf (field p.arg3 16 10) = 0)
    (hstill : heldStill s p.arg0.toNat = true) (hnone : (s.saved.any fun x => x.warp.ctx == p.arg0.toNat) = false)
    (ht : restoreSeal (ipaTouch s vf p.arg1.toNat p.arg2.toNat) vf p.arg0.toNat (field p.arg3 16 10) p.arg2.toNat p.arg1.toNat = (0, t)) :
    exec (.checkpointRestore vf) s = .next (endCommand t vf 0) := by
  obtain ⟨h1, h26, h0⟩ := hargs
  change execCheckpointRestore vf s = _
  simp only [execCheckpointRestore, perform, onContext, hp, hctx]
  simp [hask, hspan, h1, h26, h0, hq, hstill, hnone, ht]

/-! #### The counterexample -/

/-- A group whose scratchpad lists a byte that reads as an unlisted one does. -/
def strayGroup : Group :=
  { key := 1, ctx := 0, pat := 0, stage := 0, gidx := 0, die := 0, core := 0, nwarps := 0, mem := [(0, unwritten)] }

/-- The buffer of a seal of generation 1 of context 0 of VF 0 (R394): that group, with no scratchpad bytes and no warp. -/
def strayBuffer : List Byte := sealHeader 1 0 0 1 128 0x9853BF5161E213C1 ++ groupHeader (some strayGroup) []

/-- VF 0 has asked for the restore of that buffer, which stands at 0x20000, where stage 2 maps the first GiB to itself. Context 0 is held and empty, its
pattern's park area has a group slot, and the device kept the group when it was sealed. -/
def strayRestore : State :=
  let block : VfBlock := { enabled := true, root := 0x10000, queues := [0] }
  let tables := [(0x10000, 0x11001), (0x11000, 0x12001), (0x12000, 0x1F)].foldl (fun m x => Memory.writeWord m x.1 x.2) []
  { State.reset with
    mem := Memory.writeBytes tables 0x20000 strayBuffer
    patterns := [{ ctx := 0, addr := 0, image := { stages := [] }, ovfBase := 0, parkBase := 0, parkImages := 0, parkGroups := 1, hwBase := 0 }]
    contexts := [{ num := 0, vf := 0, asid := 0, root := 0, quota := 0, held := true, ckpt := 1 }]
    vfs := [{ vf := 0, busy := true, cmd := some 0x0B, arg1 := 0x20000, arg2 := 128, arg3 := 1 }]
    configs := [{ vf := 0, written := block, inForce := block }]
    sealed := [{ ctx := 0, gen := 1, groups := [(some strayGroup, [])] }] }

/-- The same, with the restore as the next happening. -/
def strayAsked : State := { strayRestore with agenda := [.row (.checkpointRestore 0)] }

/-- The group entered again: saved, in slot 0, with the cells that it was kept with. -/
def strayEntered : State := { strayRestore with groups := [{ strayGroup with saved := true }] }

/-- The buffer's CRC is the one that its header names, computed over the 64 bytes of the header and then over those of the group. -/
theorem strayBuffer_crc : sealCrc strayBuffer = 0x9853BF5161E213C1 := by
  let bytes := strayBuffer.take 0x28 ++ leBytes 8 0 ++ strayBuffer.drop 0x30
  have header : (bytes.take 64).foldl crcByte 0 = 0xFE790D93B7E5259C := by decide +kernel
  have group : (bytes.drop 64).foldl crcByte 0xFE790D93B7E5259C = 0x9853BF5161E213C1 := by decide +kernel
  calc sealCrc strayBuffer = (bytes.take 64 ++ bytes.drop 64).foldl crcByte 0 := by rw [List.take_append_drop]; rfl
    _ = 0x9853BF5161E213C1 := by rw [List.foldl_append, header, group]

theorem strayRestore_restoreSeal : restoreSeal strayRestore 0 0 0 128 0x20000 = (0, strayEntered) := by
  have hhd : readIpa strayRestore 0 0x20000 64 = some (strayBuffer.take 64) := by decide +kernel
  have hbs : readIpa strayRestore 0 0x20000 128 = some strayBuffer := by decide +kernel
  have hcrc : (readSealHead (strayBuffer.take 64)).crc = 0x9853BF5161E213C1 := by decide +kernel
  have henter : enterAll 0 0 strayBuffer 1 strayRestore 64 [(some strayGroup, [])] = some strayEntered := by decide +kernel
  exact restoreSeal_of_enterAll (bs := strayBuffer) hhd (by decide +kernel) (by decide +kernel) (by decide +kernel) hbs
    (strayBuffer_crc.trans hcrc.symm) (by decide +kernel) (by decide +kernel) (by decide +kernel) henter

theorem strayAsked_step : step strayAsked = .next (endCommand strayEntered 0 0) := by
  have hp : taken strayRestore 0 0x0B = some { vf := 0, busy := true, cmd := some 0x0B, arg1 := 0x20000, arg2 := 128, arg3 := 1 } := by
    decide +kernel
  have htouch : ipaTouch strayRestore 0 0x20000 128 = strayRestore := by decide +kernel
  calc step strayAsked = exec (.checkpointRestore 0) { strayAsked with agenda := [] } :=
        step_of_agenda_row (by decide +kernel) (by decide +kernel) (by decide +kernel) (by decide +kernel) (by decide)
    _ = exec (.checkpointRestore 0) strayRestore := congrArg (exec (.checkpointRestore 0)) (by decide +kernel)
    _ = .next (endCommand strayEntered 0 0) :=
        exec_checkpointRestore_of_restoreSeal hp (by decide) (by decide +kernel) (by decide +kernel) (by decide) (by decide +kernel) (by decide +kernel)
          (by decide +kernel) ((congrArg (restoreSeal · 0 0 0 128 0x20000) htouch).trans strayRestore_restoreSeal)

theorem strayAsked_memOk : strayAsked.memOk = true := by decide +kernel

theorem strayEntered_not_memOk : (endCommand strayEntered 0 0).memOk = false := by decide +kernel

end Sys2Proof.Machine

open Sys2Proof.Machine

/-- Refutes O60: `strayAsked` is in canonical form, and its step, CHECKPOINT's restore, enters a group whose scratchpad cells are not, since the form says
nothing of the groups that a seal left with the device. -/
theorem not_stepKeepsMemOk : ¬ Obligations.StepKeepsMemOk := by
  intro h
  have hok : (endCommand strayEntered 0 0).memOk = true := h _ _ strayAsked_memOk strayAsked_step
  exact absurd hok (by simp [strayEntered_not_memOk])

end

section
/-!
### What memory reads after a write, and memories that read alike (O32)

Reading one byte after writing one needs the canonical form: where the address written lies before a cell, nothing further on may list it.
-/

namespace Sys2Proof.Machine

/-! #### One byte -/

/-- The first cell of a memory in canonical form, and what the rest of it is. -/
theorem Memory.wfFrom_cons {lo k : Nat} {c : Byte} {t : List Host.Cell} :
    Memory.wfFrom lo ((k, c) :: t) = true ↔ lo ≤ k ∧ c ≠ unwritten ∧ Memory.wfFrom (k + 1) t = true := by
  simp [Memory.wfFrom, and_assoc]

/-- Nothing is listed below the bound. -/
theorem Memory.read_below {a : Nat} : ∀ {m : List Host.Cell} {lo : Nat}, Memory.wfFrom lo m = true → a < lo → Memory.read m a = unwritten
  | [], _, _, _ => rfl
  | (k, c) :: t, lo, h, ha => by
    obtain ⟨hk, -, ht⟩ := Memory.wfFrom_cons.mp h
    rw [Memory.read, if_neg (by omega), Memory.read_below ht (by omega)]

/-- By the place of the address written against the first cell's: before it, at it, or in the rest. -/
theorem Memory.read_write_of_wfFrom (a : Nat) (b : Byte) (x : Nat) : ∀ {m : List Host.Cell} {lo : Nat}, Memory.wfFrom lo m = true →
    Memory.read (Memory.write m a b) x = if a = x then b else Memory.read m x
  | [], _, _ => by
    by_cases hb : b = unwritten <;> simp [Memory.write, Memory.read, hb]
  | (k, c) :: t, lo, h => by
    obtain ⟨-, -, ht⟩ := Memory.wfFrom_cons.mp h
    have below : x ≤ k → Memory.read t x = unwritten := fun hx => Memory.read_below ht (by omega)
    rcases Nat.lt_trichotomy a k with hlt | rfl | hgt
    · by_cases hb : b = unwritten
      · by_cases hx : a = x
        · subst hx
          simp [Memory.write, hlt, hb, Memory.read, below hlt.le, hlt.ne']
        · simp [Memory.write, hlt, hb, hx]
      · simp [Memory.write, hlt, hb, Memory.read]
    · by_cases hb : b = unwritten
      · by_cases hx : a = x
        · subst hx
          simp [Memory.write, hb, below le_rfl]
        · simp [Memory.write, hb, Memory.read, hx]
      · by_cases hx : a = x <;> simp [Memory.write, hb, Memory.read, hx]
    · rw [Memory.write, if_neg (by omega), if_neg (by omega), Memory.read, Memory.read, Memory.read_write_of_wfFrom a b x ht]
      by_cases hx : k = x
      · rw [if_pos hx, if_pos hx, if_neg (by omega)]
      · rw [if_neg hx, if_neg hx]

/-- A read after a write gives the byte written at its address, and what stood before at any other. -/
theorem Memory.read_write {m : List Host.Cell} (h : Memory.wf m = true) (a : Nat) (b : Byte) (x : Nat) :
    Memory.read (Memory.write m a b) x = if a = x then b else Memory.read m x :=
  Memory.read_write_of_wfFrom a b x h

/-! #### Runs of bytes -/

/-- A run written leaves every byte outside it alone. -/
theorem Memory.read_writeBytes_outside : ∀ (bs : List Byte) {m : List Host.Cell} {a x : Nat}, Memory.wf m = true → (x < a ∨ a + bs.length ≤ x) →
    Memory.read (Memory.writeBytes m a bs) x = Memory.read m x
  | [], _, _, _, _, _ => rfl
  | b :: bs, m, a, x, h, hx => by
    rw [List.length_cons] at hx
    rw [Memory.writeBytes, Memory.read_writeBytes_outside bs (Memory.wf_write h a b) (by omega), Memory.read_write h, if_neg (by omega)]

/-- A run written reads back byte by byte. -/
theorem Memory.read_writeBytes_inside : ∀ (bs : List Byte) {m : List Host.Cell} (a k : Nat) (hk : k < bs.length), Memory.wf m = true →
    Memory.read (Memory.writeBytes m a bs) (a + k) = bs[k]
  | b :: bs, m, a, 0, _, h => by
    rw [Memory.writeBytes, Memory.read_writeBytes_outside bs (Memory.wf_write h a b) (by omega), Memory.read_write h]
    simp
  | b :: bs, m, a, k + 1, hk, h => by
    rw [Memory.writeBytes, ← Nat.add_assoc, Nat.add_right_comm, Memory.read_writeBytes_inside bs (a + 1) k (by simpa using hk) (Memory.wf_write h a b)]
    rfl

theorem Memory.getElem_readBytes (m : List Host.Cell) : ∀ (n a k : Nat) (hk : k < (Memory.readBytes m a n).length),
    (Memory.readBytes m a n)[k] = Memory.read m (a + k)
  | n + 1, a, 0, _ => rfl
  | n + 1, a, k + 1, hk => by
    simp only [Memory.readBytes, List.getElem_cons_succ, Memory.getElem_readBytes m n]
    congr 1; omega

theorem Memory.readBytes_writeBytes {m : List Host.Cell} (h : Memory.wf m = true) (a : Nat) (bs : List Byte) :
    Memory.readBytes (Memory.writeBytes m a bs) a bs.length = bs :=
  List.ext_getElem (Memory.length_readBytes _ _ _) fun k _ hk => by
    rw [Memory.getElem_readBytes, Memory.read_writeBytes_inside bs a k hk h]

/-! #### Words -/

theorem getElem_leBytes : ∀ (n v k : Nat) (hk : k < (leBytes n v).length), (leBytes n v)[k] = BitVec.ofNat 8 (v / 2 ^ (8 * k))
  | n + 1, v, 0, _ => by simp [leBytes]
  | n + 1, v, k + 1, hk => by
    have h : 2 ^ (8 * (k + 1)) = 256 * 2 ^ (8 * k) := by rw [Nat.mul_add, Nat.pow_add, Nat.mul_comm]
    simp only [leBytes, List.getElem_cons_succ, getElem_leBytes n, Nat.div_div_eq_div_mul, h]

theorem Memory.readWord_writeWord {m : List Host.Cell} (h : Memory.wf m = true) (a : Nat) (w : Word) :
    Memory.readWord (Memory.writeWord m a w) a = w := by
  have hb := Memory.readBytes_writeBytes h a (wordBytes w)
  rw [length_wordBytes] at hb
  rw [Memory.readWord, Memory.writeWord, hb, leWord_wordBytes]

/-- A word stands in memory with its least significant byte first (R29, R273). -/
theorem Memory.read_writeWord {m : List Host.Cell} (h : Memory.wf m = true) (a : Nat) (w : Word) {k : Nat} (hk : k < 8) :
    Memory.read (Memory.writeWord m a w) (a + k) = BitVec.ofNat 8 (w.toNat / 2 ^ (8 * k)) := by
  rw [Memory.writeWord, Memory.read_writeBytes_inside (wordBytes w) a k (by simpa using hk) h]
  exact getElem_leBytes 8 w.toNat k _

/-! #### Canonical memories are told apart by what they read -/

/-- The first cell's address is the least that reads as something written; the rest is then the same question. -/
theorem Memory.eq_of_read_of_wfFrom : ∀ {m n : List Host.Cell} {lo lo' : Nat}, Memory.wfFrom lo m = true → Memory.wfFrom lo' n = true →
    (∀ a, Memory.read m a = Memory.read n a) → m = n
  | [], [], _, _, _, _, _ => rfl
  | [], (k, c) :: t, _, _, _, hn, h => by
    obtain ⟨-, hc, -⟩ := Memory.wfFrom_cons.mp hn
    exact absurd (by simpa [Memory.read] using (h k).symm) hc
  | (k, c) :: t, [], _, _, hm, _, h => by
    obtain ⟨-, hc, -⟩ := Memory.wfFrom_cons.mp hm
    exact absurd (by simpa [Memory.read] using h k) hc
  | (k, c) :: t, (k', c') :: t', _, _, hm, hn, h => by
    obtain ⟨-, hc, ht⟩ := Memory.wfFrom_cons.mp hm
    obtain ⟨-, hc', ht'⟩ := Memory.wfFrom_cons.mp hn
    have hk : k = k' := by
      rcases Nat.lt_trichotomy k k' with hlt | rfl | hgt
      · exact absurd (by simpa [Memory.read, hlt.ne', Memory.read_below ht' (Nat.lt_succ_of_lt hlt)] using h k) hc
      · rfl
      · exact absurd (by simpa [Memory.read, hgt.ne', Memory.read_below ht (Nat.lt_succ_of_lt hgt)] using (h k').symm) hc'
    subst hk
    have hcc : c = c' := by simpa [Memory.read] using h k
    have hrest : ∀ a, Memory.read t a = Memory.read t' a := fun a => by
      by_cases ha : k = a
      · rw [Memory.read_below ht (by omega), Memory.read_below ht' (by omega)]
      · simpa [Memory.read, ha] using h a
    rw [hcc, Memory.eq_of_read_of_wfFrom ht ht' hrest]

end Sys2Proof.Machine

open Sys2Proof.Machine

/-- Settles O32: runs and words reduce to `Memory.read_write`, byte by byte, and canonical memories are compared cell by cell. -/
theorem memoryReadsWhatWasWritten : Obligations.MemoryReadsWhatWasWritten :=
  ⟨fun _ a _ bs h => ⟨Memory.readBytes_writeBytes h a bs, Memory.read_writeBytes_outside bs h,
      fun w => ⟨Memory.readWord_writeWord h a w, fun _ hk => Memory.read_writeWord h a w hk⟩⟩,
    fun _ a bs h => Memory.wf_writeBytes bs h a, fun _ _ hm hn h => Memory.eq_of_read_of_wfFrom hm hn h⟩

end

section
/-!
### The directory's rows (O50)

Small facts about the protocol's records first; then what the home makes of a request that it serves, an equation for each case of R243; then each row:
`exec` of it as one state of the protocol, and what that state holds.
-/

namespace Sys2Proof.Machine

/-! #### Entries, busy lines, copies -/

theorem dirEntry_setDir (c : Coherence) (e : DirEntry) : dirEntry (setDir c e) e.line = some e := by simp [dirEntry, setDir]

theorem dirEntry_freeDir (c : Coherence) (line : Nat) : dirEntry (freeDir c line) line = none := by simp [dirEntry, freeDir]

theorem dirEntry_line {c : Coherence} {line : Nat} {e : DirEntry} (h : dirEntry c line = some e) : e.line = line := by
  simpa using List.find?_some h

theorem busyOf_setBusy (c : Coherence) (b : BusyLine) : busyOf (setBusy c b) b.line = some b := by simp [busyOf, setBusy]

theorem busyOf_line {c : Coherence} {line : Nat} {b : BusyLine} (h : busyOf c line = some b) : b.line = line := by
  simpa using List.find?_some h

theorem copyOf_setCopy (c : Coherence) (die line : Nat) (st : CopyState) (w : Bool) :
    copyOf (setCopy c die line st w) die line = some { die := die, line := line, st := st, watched := w } := by simp [copyOf, setCopy]

theorem copyOf_dropCopy (c : Coherence) (die line : Nat) : copyOf (dropCopy c die line) die line = none := by
  simp only [copyOf, dropCopy, List.find?_eq_none, List.mem_filter, Bool.not_eq_true', Bool.not_eq_true]
  exact fun x hx => hx.2

theorem l1_dropCopy (c : Coherence) (die line : Nat) : ∀ x ∈ (dropCopy c die line).l1, ¬ (x.die = die ∧ x.line = line ∧ x.bytes = none) := by
  simp only [dropCopy, List.mem_filter]
  rintro x ⟨-, hx⟩ ⟨rfl, rfl, hb⟩
  simp [hb] at hx

theorem stale_tookData (c : Coherence) (line : Nat) : ∀ x ∈ (tookData c line).stale, x.1 ≠ line := by simp [tookData]

/-- The messages of one kind to several dies. -/
def toDies (k : MsgKind) (line : Nat) (dies : BitVec 8) : List Msg :=
  ((List.range 8).filter fun d => dies.getLsbD d).map fun d => { kind := k, line := line, die := d }

theorem sendAll_eq (c : Coherence) (k : MsgKind) (line : Nat) (dies : BitVec 8) :
    sendAll c k line dies = { c with msgs := c.msgs ++ toDies k line dies } := by
  unfold sendAll toDies
  generalize (List.range 8).filter (fun d => dies.getLsbD d) = ds
  induction ds generalizing c with
  | nil => simp
  | cons d ds ih =>
    rw [List.foldl_cons, ih]
    simp [send]

theorem sendAll_zero (c : Coherence) (k : MsgKind) (line : Nat) : sendAll c k line 0#8 = c := by simp [sendAll]

/-! #### A line becomes free -/

/-- No request waits for a line: neither for its turn at it nor for its entry's room. -/
def NoneWaits (c : Coherence) (line : Nat) : Prop := c.waiting = [] ∧ ∀ x ∈ c.busy, x.awaits ≠ some line

theorem endBusy_of_noneWaits {c : Coherence} {line : Nat} (h : NoneWaits c line) :
    endBusy c line = { c with busy := c.busy.filter fun b => b.line != line } := by
  obtain ⟨hw, ha⟩ := h
  have hnone : (c.busy.filter fun b => b.line != line).find? (fun b => b.awaits == some line) = none := by
    simp only [List.find?_eq_none, List.mem_filter, beq_iff_eq]
    exact fun x hx => ha x hx.1
  simp [endBusy, hnone, hw]

theorem busyOf_filter (c : Coherence) (line : Nat) : busyOf { c with busy := c.busy.filter fun b => b.line != line } line = none := by
  simp [busyOf]

/-! #### Requests (R243) -/

/-- A line has an entry, or the directory has room for one. -/
def EntryRoom (c : Coherence) (line : Nat) : Prop := dirEntry c line = none → c.dir.length < dirCapacity

theorem noVictim {c : Coherence} {line : Nat} (h : EntryRoom c line) : (if (dirEntry c line).isNone then victimFor c line else none) = none := by
  split
  · next hn => rw [victimFor, if_pos (h (by simpa using hn))]
  · rfl

/-- A request for a line that is not busy is served, and the line is then busy with it, unless nobody owes an answer to an eviction or a recall. -/
theorem arrive_of_serve {c d : Coherence} {req : Request} {die line : Nat} {b : BusyLine} (hfree : busyOf c line = none)
    (hserve : serve c req die line = setBusy d b) (hline : b.line = line) (hreq : b.req ≠ .evict ∧ b.req ≠ .recall ∨ b.owed ≠ 0#8) :
    arrive c req die line = setBusy d b := by
  subst hline
  have hkept : ((b.req == .evict || b.req == .recall) && b.owed == 0 && b.fwd.isNone) = false := by
    rcases hreq with ⟨h1, h2⟩ | h
    · simp [h1, h2]
    · simp [h]
  simp only [arrive, hfree, hserve, busyOf_setBusy, hkept]
  rfl

theorem serve_rds {c : Coherence} {line : Nat} (die : Nat) (w : Bool) (hroom : EntryRoom c line) :
    serve c (.rds w) die line = serveRds c { line := line, req := .rds w, die := die } w := by simp only [serve, noVictim hroom]

theorem serve_rdx {c : Coherence} {line : Nat} (die : Nat) (hroom : EntryRoom c line) :
    serve c .rdx die line = serveWrite c { line := line, req := .rdx, die := die } false := by
  simp only [serve, noVictim hroom]; rfl

theorem serve_upg {c : Coherence} {line : Nat} (die : Nat) (hroom : EntryRoom c line) :
    serve c .upg die line = serveWrite c { line := line, req := .upg, die := die } true := by
  simp only [serve, noVictim hroom]; rfl

/-- The entry that a write request leaves: its die owns the line. -/
def ownedBy (line die : Nat) : DirEntry := { line := line, st := .exclusive, owner := die, sharers := dieBit die }

theorem serveWrite_new {c : Coherence} {b : BusyLine} (upg : Bool) (h : dirEntry c b.line = none) :
    serveWrite c b upg = supply (setDir c (ownedBy b.line b.die)) { b with req := .rdx } .m true := by
  simp only [serveWrite, h, ownedBy]

/-- Upg of a die whose bit is clear is RdX (R243). -/
theorem serveWrite_upg_lost {c : Coherence} {b : BusyLine} {e : DirEntry} (h : dirEntry c b.line = some e) (hbit : e.sharers.getLsbD b.die = false) :
    serveWrite c { b with req := .upg } true = serveWrite c { b with req := .rdx } false := by
  simp [serveWrite, h, hbit]

/-- The write is an Upg of a die that holds the line, or an RdX of a line that no die owns: no owner has to supply it. -/
def HoldsOrShared (e : DirEntry) (die : Nat) (upg : Bool) : Prop := (upg = false ∧ e.st = .shared) ∨ (upg = true ∧ e.sharers.getLsbD die = true)

theorem serveWrite_alone {c : Coherence} {line die : Nat} {r : Request} {upg : Bool} {e : DirEntry} (h : dirEntry c line = some e)
    (hheld : HoldsOrShared e die upg) (hothers : holders e &&& ~~~dieBit die = 0#8) :
    serveWrite c { line := line, req := r, die := die } upg
      = supply (setDir c (ownedBy line die)) { line := line, req := if upg then .upg else .rdx, die := die } .m (!upg) := by
  rcases hheld with ⟨rfl, hst⟩ | ⟨rfl, hbit⟩
  · simp [serveWrite, h, hst, hothers, sendAll_zero, ownedBy]
  · simp [serveWrite, h, hbit, hothers, sendAll_zero, ownedBy]

theorem serveWrite_others {c : Coherence} {line die : Nat} {r : Request} {upg : Bool} {e : DirEntry} (h : dirEntry c line = some e)
    (hheld : HoldsOrShared e die upg) (hothers : holders e &&& ~~~dieBit die ≠ 0#8) :
    serveWrite c { line := line, req := r, die := die } upg
      = setBusy (sendAll (setDir c (ownedBy line die)) .inv line (holders e &&& ~~~dieBit die))
          { line := line, req := if upg then .upg else .rdx, die := die, owed := holders e &&& ~~~dieBit die } := by
  rcases hheld with ⟨rfl, hst⟩ | ⟨rfl, hbit⟩
  · simp [serveWrite, h, hst, hothers, ownedBy]
  · simp [serveWrite, h, hbit, hothers, ownedBy]

theorem serveWrite_owned {c : Coherence} {line die : Nat} {e : DirEntry} (h : dirEntry c line = some e) (hst : e.st ≠ .shared) :
    serveWrite c { line := line, req := .rdx, die := die } false
      = (let rest := holders e &&& ~~~dieBit die &&& ~~~dieBit e.owner
        setBusy (send (sendAll (setDir c (ownedBy line die)) .inv line rest) (.fwd true (some die)) line e.owner)
          { line := line, req := .rdx, die := die, owed := rest, fwd := some e.owner }) := by
  simp [serveWrite, h, hst, ownedBy]

theorem serveRds_shared {c : Coherence} {line die : Nat} {e : DirEntry} (w : Bool) (h : dirEntry c line = some e) (hst : e.st = .shared) :
    serveRds c { line := line, req := .rds w, die := die } w
      = supply (setDir c { e with sharers := e.sharers ||| dieBit die }) { line := line, req := .rds w, die := die } .s true := by
  simp [serveRds, h, hst]

theorem serveRds_owned {c : Coherence} {line die : Nat} {e : DirEntry} (w : Bool) (h : dirEntry c line = some e) (hst : e.st ≠ .shared) :
    serveRds c { line := line, req := .rds w, die := die } w
      = setBusy (send (setDir c { e with st := .owned, sharers := e.sharers ||| dieBit die }) (.fwd false (some die)) line e.owner)
          { line := line, req := .rds w, die := die, fwd := some e.owner } := by
  cases hs : e.st <;> simp_all [serveRds]

theorem serveRds_new {c : Coherence} {line die : Nat} (h : dirEntry c line = none) :
    serveRds c { line := line, req := .rds false, die := die } false
      = supply (setDir c (ownedBy line die)) { line := line, req := .rds false, die := die } .e true := by
  simp [serveRds, h, ownedBy]

theorem serveRds_new_watched {c : Coherence} {line die : Nat} (h : dirEntry c line = none) :
    serveRds c { line := line, req := .rds true, die := die } true
      = supply (setDir c { line := line, st := .shared, sharers := dieBit die, watched := true }) { line := line, req := .rds true, die := die } .s true := by
  simp [serveRds, h]

/-! #### The rows of requests -/

/-- A row that changes the coherence protocol's part of the state alone, to what p says. -/
def CohStep (s : State) (i : Instr) (p : Coherence → Prop) : Prop := ∃ t, exec i s = .next t ∧ { t with coh := s.coh } = s ∧ p t.coh

theorem CohStep.intro {s : State} {i : Instr} {p : Coherence → Prop} (d : Coherence) (h : exec i s = .next { s with coh := d }) (hp : p d) :
    CohStep s i p := ⟨_, h, rfl, hp⟩

theorem CohStep.of_eq {s : State} {i : Instr} {p : Coherence → Prop} {d d' : Coherence} (h : exec i s = .next { s with coh := d }) (hd : d = d')
    (hp : p d') : CohStep s i p :=
  .intro d h (hd ▸ hp)

theorem CohStep.of_serve {s : State} {i : Instr} {req : Request} {die line : Nat} {d : Coherence} {b : BusyLine} {p : Coherence → Prop}
    (hexec : exec i s = .next { s with coh := arrive s.coh req die line }) (hfree : busyOf s.coh line = none)
    (hserve : serve s.coh req die line = setBusy d b) (hline : b.line = line) (hreq : b.req ≠ .evict ∧ b.req ≠ .recall ∨ b.owed ≠ 0#8)
    (hp : p (setBusy d b)) : CohStep s i p :=
  .of_eq hexec (arrive_of_serve hfree hserve hline hreq) hp

theorem isWatched_of_entry {s : State} {line : Nat} {e : DirEntry} (he : dirEntry s.coh line = some e) : isWatched s line = e.watched := by
  simp [isWatched, he]

theorem exec_rds {s : State} {die line : Nat} (hdie : die < 8) :
    exec (.rds die line) s = .next { s with coh := arrive s.coh (.rds (isWatched s line)) die line } := by
  change execRds die line s = _
  simp [execRds, Nat.not_le.mpr hdie]

theorem exec_rdx {s : State} {die line : Nat} (hdie : die < 8) (hw : isWatched s line = false) :
    exec (.rdx die line) s = .next { s with coh := arrive s.coh .rdx die line } := by
  change execRdx die line s = _
  simp [execRdx, Nat.not_le.mpr hdie, hw]

theorem exec_upg {s : State} {die line : Nat} (hdie : die < 8) (hw : isWatched s line = false) :
    exec (.upg die line) s = .next { s with coh := arrive s.coh .upg die line } := by
  change execUpg die line s = _
  simp [execUpg, Nat.not_le.mpr hdie, hw]

/-- No die beyond the package's eight asks for anything (R1). -/
theorem exec_request_foreign {s : State} {die : Nat} (line : Nat) (hdie : 8 ≤ die) :
    exec (.rds die line) s = .next s ∧ exec (.rdx die line) s = .next s ∧ exec (.upg die line) s = .next s := by
  change execRds die line s = _ ∧ execRdx die line s = _ ∧ execUpg die line s = _
  simp [execRds, execRdx, execUpg, hdie]

/-- A watched line is asked for only to share it (R231). -/
theorem exec_write_watched {s : State} (die : Nat) {line : Nat} (hw : isWatched s line = true) :
    exec (.rdx die line) s = .next s ∧ exec (.upg die line) s = .next s := by
  change execRdx die line s = _ ∧ execUpg die line s = _
  simp [execRdx, execUpg, hw]

theorem EntryRoom.of_entry {c : Coherence} {line : Nat} {e : DirEntry} (he : dirEntry c line = some e) : EntryRoom c line := by
  simp [EntryRoom, he]

section NewLine

variable {s : State} {die line : Nat} (hdie : die < 8) (hfree : busyOf s.coh line = none) (hnone : dirEntry s.coh line = none)
  (hroom : s.coh.dir.length < dirCapacity)

include hdie hfree hnone hroom

theorem rds_new (hw : isWatched s line = false) :
    CohStep s (.rds die line) fun d => d.msgs = s.coh.msgs ++ [{ kind := .data .e true, line := line, die := die }]
      ∧ busyOf d line = some { line := line, req := .rds false, die := die, sent := true } ∧ dirEntry d line = some (ownedBy line die) :=
  .of_serve (hw ▸ exec_rds hdie) hfree ((serve_rds die false fun _ => hroom).trans (serveRds_new hnone)) rfl (by simp)
    ⟨rfl, busyOf_setBusy _ _, dirEntry_setDir _ _⟩

theorem rds_new_watched (hw : isWatched s line = true) :
    CohStep s (.rds die line) fun d => d.msgs = s.coh.msgs ++ [{ kind := .data .s true, line := line, die := die }]
      ∧ busyOf d line = some { line := line, req := .rds true, die := die, sent := true }
      ∧ dirEntry d line = some { line := line, st := .shared, sharers := dieBit die, watched := true } :=
  .of_serve (hw ▸ exec_rds hdie) hfree ((serve_rds die true fun _ => hroom).trans (serveRds_new_watched hnone)) rfl (by simp)
    ⟨rfl, busyOf_setBusy _ _, dirEntry_setDir _ _⟩

theorem write_new {i : Instr} (hi : i = .rdx die line ∨ i = .upg die line) (hw : isWatched s line = false) :
    CohStep s i fun d => d.msgs = s.coh.msgs ++ [{ kind := .data .m true, line := line, die := die }] ∧ dirEntry d line = some (ownedBy line die)
      ∧ busyOf d line = some { line := line, req := .rdx, die := die, sent := true } := by
  rcases hi with rfl | rfl
  · exact .of_serve (exec_rdx hdie hw) hfree ((serve_rdx die fun _ => hroom).trans (serveWrite_new false hnone)) rfl (by simp)
      ⟨rfl, dirEntry_setDir _ _, busyOf_setBusy _ _⟩
  · exact .of_serve (exec_upg hdie hw) hfree ((serve_upg die fun _ => hroom).trans (serveWrite_new true hnone)) rfl (by simp)
      ⟨rfl, dirEntry_setDir _ _, busyOf_setBusy _ _⟩

end NewLine

section KnownLine

variable {s : State} {die line : Nat} {e : DirEntry} (hdie : die < 8) (hfree : busyOf s.coh line = none) (he : dirEntry s.coh line = some e)

include hdie hfree he

theorem rds_shared (hst : e.st = .shared) :
    CohStep s (.rds die line) fun d => d.msgs = s.coh.msgs ++ [{ kind := .data .s true, line := line, die := die }]
      ∧ busyOf d line = some { line := line, req := .rds e.watched, die := die, sent := true }
      ∧ dirEntry d line = some { e with sharers := e.sharers ||| dieBit die } := by
  obtain rfl := dirEntry_line he
  exact .of_serve (isWatched_of_entry he ▸ exec_rds hdie) hfree ((serve_rds die e.watched (.of_entry he)).trans (serveRds_shared e.watched he hst)) rfl
    (by simp) ⟨rfl, busyOf_setBusy _ _, dirEntry_setDir _ { e with sharers := e.sharers ||| dieBit die }⟩

theorem rds_owned (hst : e.st ≠ .shared) :
    CohStep s (.rds die line) fun d => d.msgs = s.coh.msgs ++ [{ kind := .fwd false (some die), line := line, die := e.owner }]
      ∧ busyOf d line = some { line := line, req := .rds e.watched, die := die, fwd := some e.owner }
      ∧ dirEntry d line = some { e with st := .owned, sharers := e.sharers ||| dieBit die } := by
  obtain rfl := dirEntry_line he
  exact .of_serve (isWatched_of_entry he ▸ exec_rds hdie) hfree ((serve_rds die e.watched (.of_entry he)).trans (serveRds_owned e.watched he hst)) rfl
    (by simp) ⟨rfl, busyOf_setBusy _ _, dirEntry_setDir _ { e with st := .owned, sharers := e.sharers ||| dieBit die }⟩

omit hfree in
/-- The request that a write becomes. -/
theorem exec_write (hw : e.watched = false) (upg : Bool) :
    exec (if upg then .upg die line else .rdx die line) s = .next { s with coh := arrive s.coh (if upg then .upg else .rdx) die line } := by
  have hw' : isWatched s line = false := (isWatched_of_entry he).trans hw
  cases upg
  · exact exec_rdx hdie hw'
  · exact exec_upg hdie hw'

omit hdie hfree in
theorem serve_write (upg : Bool) :
    serve s.coh (if upg then .upg else .rdx) die line
      = serveWrite s.coh { line := line, req := if upg then .upg else .rdx, die := die } upg := by
  cases upg
  · exact serve_rdx die (.of_entry he)
  · exact serve_upg die (.of_entry he)

theorem write_alone (hw : e.watched = false) {upg : Bool} (hheld : HoldsOrShared e die upg) (hothers : holders e &&& ~~~dieBit die = 0#8) :
    CohStep s (if upg then .upg die line else .rdx die line) fun d =>
      d.msgs = s.coh.msgs ++ [{ kind := .data .m (!upg), line := line, die := die }] ∧ dirEntry d line = some (ownedBy line die)
        ∧ busyOf d line = some { line := line, req := if upg then .upg else .rdx, die := die, sent := true } :=
  .of_serve (exec_write hdie he hw upg) hfree ((serve_write he upg).trans (serveWrite_alone he hheld hothers)) rfl (by cases upg <;> simp)
    ⟨rfl, dirEntry_setDir _ _, busyOf_setBusy _ _⟩

theorem write_others (hw : e.watched = false) {upg : Bool} (hheld : HoldsOrShared e die upg) (hothers : holders e &&& ~~~dieBit die ≠ 0#8) :
    CohStep s (if upg then .upg die line else .rdx die line) fun d =>
      d.msgs = s.coh.msgs ++ toDies .inv line (holders e &&& ~~~dieBit die) ∧ dirEntry d line = some (ownedBy line die)
        ∧ busyOf d line = some { line := line, req := if upg then .upg else .rdx, die := die, owed := holders e &&& ~~~dieBit die } := by
  refine .of_serve (exec_write hdie he hw upg) hfree ((serve_write he upg).trans (serveWrite_others he hheld hothers)) rfl (.inr hothers) ?_
  rw [sendAll_eq]
  exact ⟨rfl, dirEntry_setDir _ _, busyOf_setBusy _ _⟩

theorem rdx_owned (hw : e.watched = false) (hst : e.st ≠ .shared) :
    CohStep s (.rdx die line) fun d =>
      d.msgs = s.coh.msgs ++ toDies .inv line (holders e &&& ~~~dieBit die &&& ~~~dieBit e.owner)
          ++ [{ kind := .fwd true (some die), line := line, die := e.owner }]
        ∧ dirEntry d line = some (ownedBy line die)
        ∧ busyOf d line = some { line := line, req := .rdx, die := die, owed := holders e &&& ~~~dieBit die &&& ~~~dieBit e.owner, fwd := some e.owner } := by
  refine .of_serve (exec_write hdie he hw false) hfree ((serve_write he false).trans (serveWrite_owned he hst)) rfl (by simp) ?_
  rw [sendAll_eq]
  exact ⟨rfl, dirEntry_setDir _ _, busyOf_setBusy _ _⟩

/-- Upg of a die whose bit is clear is RdX (R243). -/
theorem upg_lost (hw : e.watched = false) (hbit : e.sharers.getLsbD die = false) : exec (.upg die line) s = exec (.rdx die line) s := by
  have hs : serve s.coh .upg die line = serve s.coh .rdx die line := by
    rw [serve_upg die (.of_entry he), serve_rdx die (.of_entry he)]
    exact serveWrite_upg_lost (b := { line := line, req := .rdx, die := die }) he hbit
  have hw' : isWatched s line = false := (isWatched_of_entry he).trans hw
  rw [exec_upg hdie hw', exec_rdx hdie hw', arrive, arrive, if_neg (by simp [hfree]), if_neg (by simp [hfree]), hs]

end KnownLine

/-! #### The rows of requests for a busy line, and of evictions (R244) -/

theorem arrive_busy {c : Coherence} {line : Nat} (req : Request) (die : Nat) (hbusy : (busyOf c line).isSome = true) :
    arrive c req die line = { c with waiting := c.waiting ++ [(line, req, die)] } := by
  simp [arrive, hbusy]

/-- A request for a busy line waits. -/
theorem CohStep.waits {s : State} {i : Instr} {req : Request} {die line : Nat} (hexec : exec i s = .next { s with coh := arrive s.coh req die line })
    (hbusy : (busyOf s.coh line).isSome = true) : CohStep s i fun d => d = { s.coh with waiting := s.coh.waiting ++ [(line, req, die)] } :=
  .of_eq hexec (arrive_busy req die hbusy) rfl

theorem exec_directoryEvict {s : State} {line : Nat} (hfree : busyOf s.coh line = none) :
    exec (.directoryEvict line) s = .next { s with coh := arrive s.coh .evict 0 line } := by
  change execDirectoryEvict line s = _
  simp [execDirectoryEvict, hfree]

theorem exec_directoryEvict_busy {s : State} {line : Nat} (hbusy : (busyOf s.coh line).isSome = true) : exec (.directoryEvict line) s = .next s := by
  change execDirectoryEvict line s = _
  simp [execDirectoryEvict, hbusy]

theorem serve_evict {c : Coherence} {line : Nat} {e : DirEntry} (he : dirEntry c line = some e) :
    serve c .evict 0 line
      = setBusy (sendAll c .binv line (holders e)) { line := line, req := .evict, die := 0, owed := holders e } := by
  simp [serve, startEvict, he]

theorem directoryEvict_held {s : State} {line : Nat} {e : DirEntry} (hfree : busyOf s.coh line = none) (he : dirEntry s.coh line = some e)
    (hheld : holders e ≠ 0#8) :
    CohStep s (.directoryEvict line) fun d => d.msgs = s.coh.msgs ++ toDies .binv line (holders e) ∧ dirEntry d line = some e
      ∧ busyOf d line = some { line := line, req := .evict, die := 0, owed := holders e } := by
  refine .of_serve (exec_directoryEvict hfree) hfree (serve_evict he) rfl (.inr hheld) ?_
  rw [sendAll_eq]
  exact ⟨rfl, he, busyOf_setBusy _ _⟩

/-- What an eviction or a recall that nobody owes an answer to leaves. -/
theorem endBusy_freeDir {c : Coherence} {line : Nat} (hlast : NoneWaits c line) :
    (endBusy (freeDir c line) line).msgs = c.msgs ∧ dirEntry (endBusy (freeDir c line) line) line = none
      ∧ busyOf (endBusy (freeDir c line) line) line = none ∧ (endBusy (freeDir c line) line).stale = c.stale := by
  rw [endBusy_of_noneWaits (c := freeDir c line) hlast]
  exact ⟨rfl, dirEntry_freeDir c line, busyOf_filter (freeDir c line) line, rfl⟩

theorem NoneWaits.setBusy {c : Coherence} {line : Nat} {b : BusyLine} (h : NoneWaits c line) (hb : b.awaits ≠ some line) : NoneWaits (setBusy c b) line := by
  refine ⟨h.1, fun x hx => ?_⟩
  rcases List.mem_cons.mp hx with rfl | hx
  · exact hb
  · exact h.2 x (List.mem_filter.mp hx).1

theorem directoryEvict_alone {s : State} {line : Nat} {e : DirEntry} (hfree : busyOf s.coh line = none) (he : dirEntry s.coh line = some e)
    (hnone : holders e = 0#8) (hlast : NoneWaits s.coh line) :
    CohStep s (.directoryEvict line) fun d => d.msgs = s.coh.msgs ∧ dirEntry d line = none ∧ busyOf d line = none := by
  have hserve := serve_evict he
  rw [hnone, sendAll_zero] at hserve
  have harrive : arrive s.coh .evict 0 line = endBusy (freeDir (setBusy s.coh { line := line, req := .evict, die := 0 }) line) line := by
    have hb : busyOf (setBusy s.coh { line := line, req := .evict, die := 0, owed := 0#8 }) line
        = some { line := line, req := .evict, die := 0, owed := 0#8 } := busyOf_setBusy _ _
    simp [arrive, hfree, hserve, hb]
  obtain ⟨hmsgs, hdir, hbusy, -⟩ := endBusy_freeDir (hlast.setBusy (b := { line := line, req := .evict, die := 0 }) (by simp))
  exact .of_eq (exec_directoryEvict hfree) harrive ⟨hmsgs, hdir, hbusy⟩

/-! #### The rows of messages -/

theorem receiveFirst_head {s : State} {k : MsgKind} {die line : Nat} {rest : List Msg} {p : MsgKind → Bool}
    (h : s.coh.msgs = { kind := k, line := line, die := die } :: rest) (hp : p k = true) :
    receiveFirst s die line p = { s with coh := receive { s.coh with msgs := rest } k die line } := by
  simp [receiveFirst, h, hp]

theorem makeRoom_of_homeRoom {s : State} (die line : Nat) (h : HomeRoom s 1) : makeRoom s die line = s := by
  have hlt : s.coh.copies.length + s.caches.clean.length + s.caches.dirty.length < homeCapacity := h
  simp [makeRoom, hlt]

section Received

variable {s : State} {die line : Nat} {rest : List Msg}

theorem exec_fwd {x : Bool} {r : Option Nat} (h : s.coh.msgs = { kind := .fwd x r, line := line, die := die } :: rest) :
    exec (.fwd die line) s = .next { s with coh := onFwd { s.coh with msgs := rest } die line x r } :=
  congrArg Host.Outcome.next (receiveFirst_head h rfl)

theorem exec_inv (h : s.coh.msgs = { kind := .inv, line := line, die := die } :: rest) :
    exec (.inv die line) s = .next { s with coh := onInv { s.coh with msgs := rest } die line } :=
  congrArg Host.Outcome.next (receiveFirst_head h rfl)

theorem exec_binv (h : s.coh.msgs = { kind := .binv, line := line, die := die } :: rest) :
    exec (.binv die line) s = .next { s with coh := onBinv { s.coh with msgs := rest } die line } :=
  congrArg Host.Outcome.next (receiveFirst_head h rfl)

theorem exec_data {st : CopyState} {full : Bool} (h : s.coh.msgs = { kind := .data st full, line := line, die := die } :: rest) (hroom : HomeRoom s 1) :
    exec (.data die line) s = .next { s with coh := onData { s.coh with msgs := rest } die line st } := by
  change execData die line s = _
  rw [execData, makeRoom_of_homeRoom die line hroom]
  exact congrArg Host.Outcome.next (receiveFirst_head h rfl)

theorem exec_invack {noData : Bool} (h : s.coh.msgs = { kind := .ack noData, line := line, die := die } :: rest) :
    exec (.invack die line) s = .next { s with coh := onAck { s.coh with msgs := rest } die line noData } :=
  congrArg Host.Outcome.next (receiveFirst_head h rfl)

theorem nack_received (h : s.coh.msgs = { kind := .nack, line := line, die := die } :: rest) :
    CohStep s (.invack die line) fun d => d = { s.coh with msgs := rest } :=
  .intro _ (congrArg Host.Outcome.next (receiveFirst_head h rfl)) rfl

theorem exec_wbd {answer : Bool} (h : s.coh.msgs = { kind := .wbd answer, line := line, die := die } :: rest) :
    exec (.wbd die line) s = .next { s with coh := onWbd { s.coh with msgs := rest } die line answer } :=
  congrArg Host.Outcome.next (receiveFirst_head h rfl)

/-! Dies answer. -/

/-- The busy record of a line, updated in place. -/
theorem busyOf_updateWhere {c : Coherence} {b : BusyLine} (f : BusyLine → BusyLine) (hf : ∀ x, (f x).line = x.line)
    (hb : busyOf c line = some b) : busyOf { c with busy := updateWhere (fun x => x.line == line) f c.busy } line = some (f b) := by
  have hline : ((fun x : BusyLine => x.line == line) ∘ fun x => if (x.line == line) = true then f x else x) = fun x => x.line == line := by
    funext x
    by_cases hx : x.line = line <;> simp [hx, hf]
  have hself : (b.line == line) = true := by simp [busyOf_line hb]
  rw [busyOf] at hb ⊢
  rw [updateWhere, List.find?_map, hline, hb, Option.map_some, if_pos hself]

theorem fwd_supplied {x : Bool} {r : Nat} {b : BusyLine} {k : DieCopy} (h : s.coh.msgs = { kind := .fwd x (some r), line := line, die := die } :: rest)
    (hb : busyOf s.coh line = some b) (hk : copyOf s.coh die line = some k) (hst : k.st ≠ .s) :
    CohStep s (.fwd die line) fun d => d.msgs = rest ++ [{ kind := .data (if x then .m else .s) true, line := line, die := r }]
      ∧ copyOf d die line = (if x then none else some { die := die, line := line, st := .o })
      ∧ busyOf d line = some { b with fwd := none, sent := true }
      ∧ (x = true → ∀ y ∈ d.l1, ¬ (y.die = die ∧ y.line = line ∧ y.bytes = none)) := by
  have howns : ownsData (copyOf { s.coh with msgs := rest } die line) = true := by
    rw [show copyOf { s.coh with msgs := rest } die line = some k from hk]
    simp [ownsData, hst]
  refine .intro _ (exec_fwd h) ?_
  cases x
  · simp only [onFwd, howns]
    exact ⟨rfl, copyOf_setCopy _ _ _ _ _, busyOf_updateWhere _ (fun _ => rfl) hb, by simp⟩
  · simp only [onFwd, howns]
    exact ⟨rfl, copyOf_dropCopy _ _ _, busyOf_updateWhere _ (fun _ => rfl) hb, fun _ => l1_dropCopy _ _ _⟩

theorem fwd_lost {x : Bool} {r : Option Nat} (h : s.coh.msgs = { kind := .fwd x r, line := line, die := die } :: rest)
    (hlost : copyOf s.coh die line = none ∨ ∃ k, copyOf s.coh die line = some k ∧ k.st = .s) :
    CohStep s (.fwd die line) fun d => d = { s.coh with msgs := rest ++ [{ kind := .ack true, line := line, die := die }] } := by
  have howns : ownsData (copyOf { s.coh with msgs := rest } die line) = false := by
    rcases hlost with hk | ⟨k, hk, hst⟩
    · rw [show copyOf { s.coh with msgs := rest } die line = none from hk]; rfl
    · rw [show copyOf { s.coh with msgs := rest } die line = some k from hk]; simp [ownsData, hst]
  refine .intro _ (exec_fwd h) ?_
  simp only [onFwd, howns]
  rfl

theorem fwd_recalled {x : Bool} {k : DieCopy} (h : s.coh.msgs = { kind := .fwd x none, line := line, die := die } :: rest)
    (hk : copyOf s.coh die line = some k) (hst : k.st ≠ .s) :
    CohStep s (.fwd die line) fun d => d.msgs = rest ++ [{ kind := .wbd true, line := line, die := die }] ∧ copyOf d die line = none
      ∧ ∀ y ∈ d.l1, ¬ (y.die = die ∧ y.line = line ∧ y.bytes = none) := by
  have howns : ownsData (copyOf { s.coh with msgs := rest } die line) = true := by
    rw [show copyOf { s.coh with msgs := rest } die line = some k from hk]
    simp [ownsData, hst]
  refine .intro _ (exec_fwd h) ?_
  simp only [onFwd, howns]
  exact ⟨rfl, copyOf_dropCopy _ _ _, l1_dropCopy _ _ _⟩

theorem inv_answered (h : s.coh.msgs = { kind := .inv, line := line, die := die } :: rest) :
    CohStep s (.inv die line) fun d => d.msgs = rest ++ [{ kind := .ack (copyOf s.coh die line).isNone, line := line, die := die }]
      ∧ copyOf d die line = none ∧ ∀ y ∈ d.l1, ¬ (y.die = die ∧ y.line = line ∧ y.bytes = none) :=
  .intro _ (exec_inv h) ⟨rfl, copyOf_dropCopy _ _ _, l1_dropCopy _ _ _⟩

/-- What a die answers a BInv with: WbD for a copy in M or O, else InvAck, data-less where it has no copy (R244, log 52). -/
def binvAnswer (copy : Option DieCopy) : MsgKind :=
  match copy with
  | some k => if k.st = .m ∨ k.st = .o then .wbd true else .ack false
  | none => .ack true

theorem onBinv_eq (c : Coherence) (die line : Nat) : onBinv c die line = send (dropCopy c die line) (binvAnswer (copyOf c die line)) line die := by
  unfold onBinv binvAnswer
  cases copyOf c die line with
  | none => rfl
  | some k => simp

theorem binv_answered (h : s.coh.msgs = { kind := .binv, line := line, die := die } :: rest) :
    CohStep s (.binv die line) fun d => copyOf d die line = none ∧ (∀ y ∈ d.l1, ¬ (y.die = die ∧ y.line = line ∧ y.bytes = none))
      ∧ d.msgs = rest ++ [{ kind := binvAnswer (copyOf s.coh die line), line := line, die := die }] :=
  .of_eq (exec_binv h) (onBinv_eq _ die line) ⟨copyOf_dropCopy _ _ _, l1_dropCopy _ _ _, rfl⟩

theorem data_received {st : CopyState} {full : Bool} (h : s.coh.msgs = { kind := .data st full, line := line, die := die } :: rest)
    (hroom : HomeRoom s 1) :
    CohStep s (.data die line) fun d => d.msgs = rest ++ [{ kind := .ack false, line := line, die := die }]
      ∧ copyOf d die line = some { die := die, line := line, st := st, watched := (dirEntry s.coh line).any (·.watched) } := by
  refine .intro _ (exec_data h hroom) ⟨rfl, ?_⟩
  have hw : (((dirEntry s.coh line).map (·.watched)).getD false) = (dirEntry s.coh line).any (·.watched) := by cases dirEntry s.coh line <;> rfl
  rw [← hw]
  exact copyOf_setCopy _ _ _ _ _

/-! The home receives answers. -/

section Acknowledged

variable {b : BusyLine} {noData : Bool} (h : s.coh.msgs = { kind := .ack noData, line := line, die := die } :: rest)
  (hb : busyOf s.coh line = some b)

include h hb

/-- An acknowledgement that is not of a Fwd: an answer that the die owes, or of the Data. -/
theorem exec_invack_owed (howed : b.owed.getLsbD die = true) (hfwd : b.fwd ≠ some die) :
    exec (.invack die line) s = .next { s with coh := advance { s.coh with msgs := rest } { b with owed := b.owed &&& ~~~dieBit die } } := by
  have hb' : busyOf { s.coh with msgs := rest } line = some b := hb
  rw [exec_invack h, onAck, hb']
  simp [howed, hfwd]

theorem exec_invack_lost (hno : noData = true) (hfwd : b.fwd = some die) :
    exec (.invack die line) s = .next { s with coh := ownerLost { s.coh with msgs := rest } b die } := by
  have hb' : busyOf { s.coh with msgs := rest } line = some b := hb
  rw [exec_invack h, onAck, hb']
  simp [hno, hfwd]

theorem invack_ends (howed : b.owed = 0#8) (hfwd : b.fwd = none) (hsent : b.sent = true) (hdie : b.die = die) (hlast : NoneWaits s.coh line)
    (hreq : b.req = .rdx ∨ b.req = .upg ∨ ∃ w, b.req = .rds w) :
    CohStep s (.invack die line) fun d => d.msgs = rest ∧ busyOf d line = none ∧ dirEntry d line = dirEntry s.coh line := by
  have hb' : busyOf { s.coh with msgs := rest } line = some b := hb
  have hcoh : onAck { s.coh with msgs := rest } die line noData
      = { s.coh with msgs := rest, busy := s.coh.busy.filter fun x => x.line != line } := by
    rw [onAck, hb']
    rcases hreq with hr | hr | ⟨w, hr⟩ <;>
      simp [howed, hfwd, hsent, hdie, advance, hr, busyOf_line hb, endBusy_of_noneWaits (c := { s.coh with msgs := rest }) hlast]
  exact .of_eq (exec_invack h) hcoh ⟨rfl, busyOf_filter s.coh line, rfl⟩

theorem invack_counted (howed : b.owed.getLsbD die = true) (hmore : b.owed &&& ~~~dieBit die ≠ 0#8) (hfwd : b.fwd ≠ some die) :
    CohStep s (.invack die line) fun d => d.msgs = rest ∧ busyOf d line = some { b with owed := b.owed &&& ~~~dieBit die } := by
  obtain rfl := busyOf_line hb
  refine .intro _ (exec_invack_owed h hb howed hfwd) ?_
  rw [advance, if_pos (by simp [hmore])]
  exact ⟨rfl, busyOf_setBusy _ { b with owed := b.owed &&& ~~~dieBit die }⟩

theorem invack_supplies (howed : b.owed.getLsbD die = true) (hnone : b.owed &&& ~~~dieBit die = 0#8) (hfwd : b.fwd = none) (hsent : b.sent = false)
    (hreq : b.req = .rdx ∨ b.req = .upg) :
    CohStep s (.invack die line) fun d => d.msgs = rest ++ [{ kind := .data .m (b.req != .upg), line := line, die := b.die }]
      ∧ busyOf d line = some { b with owed := 0#8, sent := true } := by
  obtain rfl := busyOf_line hb
  have hadvance : advance { s.coh with msgs := rest } { b with owed := b.owed &&& ~~~dieBit die }
      = supply { s.coh with msgs := rest } { b with owed := 0#8 } .m (b.req != .upg) := by
    rw [hnone]
    rcases hreq with hr | hr <;> simp [advance, hfwd, hsent, hr]
  have hdone : ({ b with owed := 0#8, sent := true } : BusyLine) = { b with owed := 0#8, sent := true, fwd := none } := by rw [← hfwd]
  refine .of_eq (exec_invack_owed h hb howed (by simp [hfwd])) hadvance ⟨rfl, ?_⟩
  rw [hdone]
  exact busyOf_setBusy _ { b with owed := 0#8, sent := true, fwd := none }

end Acknowledged

/-- No WbD of a line is among messages. -/
def NoWbd (msgs : List Msg) (line : Nat) : Prop := ∀ x ∈ msgs, ¬ (x.line = line ∧ (x.kind = .wbd true ∨ x.kind = .wbd false))

theorem wbdDue_eq_false {c : Coherence} {line : Nat} (h : NoWbd c.msgs line) : wbdDue c line = false := by
  rw [wbdDue, List.any_eq_false]
  intro x hx hdue
  refine h x hx ?_
  cases hk : x.kind with
  | wbd a => exact ⟨by simpa [hk] using hdue, by cases a <;> simp⟩
  | _ => simp [hk] at hdue

/-- The last answer to an eviction frees the entry (R244). -/
theorem advance_evict {c : Coherence} {b : BusyLine} (hreq : b.req = .evict) (howed : b.owed = 0#8) (hfwd : b.fwd = none) (hwbd : NoWbd c.msgs b.line) :
    advance c b = endBusy (freeDir c b.line) b.line := by
  simp [advance, hreq, howed, hfwd, wbdDue_eq_false hwbd]

theorem invack_evicts {b : BusyLine} {noData : Bool} (h : s.coh.msgs = { kind := .ack noData, line := line, die := die } :: rest)
    (hb : busyOf s.coh line = some b) (howed : b.owed.getLsbD die = true) (hnone : b.owed &&& ~~~dieBit die = 0#8) (hfwd : b.fwd = none)
    (hreq : b.req = .evict) (hlast : NoneWaits s.coh line) (hwbd : NoWbd rest line) :
    CohStep s (.invack die line) fun d => d.msgs = rest ∧ busyOf d line = none ∧ dirEntry d line = none := by
  obtain rfl := busyOf_line hb
  have hadvance : advance { s.coh with msgs := rest } { b with owed := b.owed &&& ~~~dieBit die }
      = endBusy (freeDir { s.coh with msgs := rest } b.line) b.line := advance_evict hreq hnone hfwd hwbd
  obtain ⟨hmsgs, hdir, hbusy, -⟩ := endBusy_freeDir (c := { s.coh with msgs := rest }) hlast
  exact .of_eq (exec_invack_owed h hb howed (by simp [hfwd])) hadvance ⟨hmsgs, hbusy, hdir⟩

/-- An owner that has lost its line: its own WbD, which may still be on its way, counts as come. -/
theorem filter_wbd_eq (msgs : List Msg) (line die : Nat) :
    (msgs.filter fun m => !(m.line == line && m.die == die && m.kind == .wbd false))
      = msgs.filter fun x => x != { kind := .wbd false, line := line, die := die } := by
  refine List.filter_congr fun x _ => ?_
  rw [Bool.eq_iff_iff]
  cases x
  simp only [Bool.not_eq_true', Bool.and_eq_false_iff, beq_eq_false_iff_ne, bne_iff_ne, ne_eq, Msg.mk.injEq]
  tauto

theorem ownerLost_rds {c : Coherence} {b : BusyLine} {e : DirEntry} {w : Bool} {owner : Nat} (hreq : b.req = .rds w) (he : dirEntry c b.line = some e) :
    ownerLost c b owner
      = supply (setDir (tookData { c with msgs := c.msgs.filter fun x => x != { kind := .wbd false, line := b.line, die := owner } } b.line)
          { e with st := .shared, sharers := (e.sharers &&& ~~~dieBit owner) ||| dieBit b.die }) b .s true := by
  have he' : ∀ msgs, dirEntry (tookData { c with msgs := msgs } b.line) b.line = some e := fun _ => he
  simp only [ownerLost, hreq, he', filter_wbd_eq]

theorem ownerLost_rdx {c : Coherence} {b : BusyLine} {owner : Nat} (hreq : b.req = .rdx) (howed : b.owed = 0#8) (hsent : b.sent = false) :
    ownerLost c b owner
      = supply (tookData { c with msgs := c.msgs.filter fun x => x != { kind := .wbd false, line := b.line, die := owner } } b.line)
          { b with fwd := none } .m true := by
  have hfull : (Request.rdx != .upg) = true := rfl
  simp only [ownerLost, hreq, filter_wbd_eq]
  simp [advance, howed, hsent, hfull]

theorem invack_lost_rds {b : BusyLine} {noData w : Bool} {e : DirEntry} (h : s.coh.msgs = { kind := .ack noData, line := line, die := die } :: rest)
    (hb : busyOf s.coh line = some b) (hno : noData = true) (hfwd : b.fwd = some die) (hreq : b.req = .rds w) (he : dirEntry s.coh line = some e) :
    CohStep s (.invack die line) fun d => busyOf d line = some { b with fwd := none, sent := true }
      ∧ d.msgs = (rest.filter fun x => x != { kind := .wbd false, line := line, die := die }) ++ [{ kind := .data .s true, line := line, die := b.die }]
      ∧ dirEntry d line = some { e with st := .shared, sharers := (e.sharers &&& ~~~dieBit die) ||| dieBit b.die }
      ∧ ∀ x ∈ d.stale, x.1 ≠ line := by
  obtain rfl := busyOf_line hb
  have hlost := ownerLost_rds (c := { s.coh with msgs := rest }) (owner := die) hreq he
  refine .of_eq (exec_invack_lost h hb hno hfwd) hlost ⟨busyOf_setBusy _ { b with sent := true, fwd := none }, rfl, ?_, stale_tookData _ _⟩
  rw [← dirEntry_line he]
  exact dirEntry_setDir _ { e with st := .shared, sharers := (e.sharers &&& ~~~dieBit die) ||| dieBit b.die }

theorem invack_lost_rdx {b : BusyLine} {noData : Bool} (h : s.coh.msgs = { kind := .ack noData, line := line, die := die } :: rest)
    (hb : busyOf s.coh line = some b) (hno : noData = true) (hfwd : b.fwd = some die) (hreq : b.req = .rdx) (howed : b.owed = 0#8) (hsent : b.sent = false) :
    CohStep s (.invack die line) fun d => busyOf d line = some { b with fwd := none, sent := true }
      ∧ d.msgs = (rest.filter fun x => x != { kind := .wbd false, line := line, die := die }) ++ [{ kind := .data .m true, line := line, die := b.die }]
      ∧ ∀ x ∈ d.stale, x.1 ≠ line := by
  obtain rfl := busyOf_line hb
  have hlost := ownerLost_rdx (c := { s.coh with msgs := rest }) (owner := die) hreq howed hsent
  exact .of_eq (exec_invack_lost h hb hno hfwd) hlost ⟨busyOf_setBusy _ { b with sent := true, fwd := none }, rfl, stale_tookData _ _⟩

end Received

/-! The home receives write-backs. -/

section WrittenBack

variable {s : State} {die line : Nat} {rest : List Msg} {answer : Bool} {e : DirEntry}
  (h : s.coh.msgs = { kind := .wbd answer, line := line, die := die } :: rest)

include h

theorem wbd_nack (hnone : dirEntry s.coh line = none) :
    CohStep s (.wbd die line) fun d => d = { s.coh with msgs := rest ++ [{ kind := .nack, line := line, die := die }] } := by
  have hnone' : dirEntry { s.coh with msgs := rest } line = none := hnone
  refine .intro _ (exec_wbd h) ?_
  rw [onWbd, hnone']
  rfl

variable (he : dirEntry s.coh line = some e)

include he

theorem wbd_exclusive (hfree : busyOf s.coh line = none) (howner : e.owner = die) (hst : e.st = .exclusive) :
    CohStep s (.wbd die line) fun d => d.msgs = rest ∧ (∀ x ∈ d.stale, x.1 ≠ line) ∧ dirEntry d line = none := by
  have hwritten : onWbd { s.coh with msgs := rest } die line answer = freeDir (tookData { s.coh with msgs := rest } line) e.line := by
    have he' : dirEntry { s.coh with msgs := rest } line = some e := he
    have hfree' : busyOf (tookData { s.coh with msgs := rest } line) line = none := hfree
    simp [onWbd, he', hfree', writtenBack, howner, hst]
  refine .of_eq (exec_wbd h) hwritten ⟨rfl, stale_tookData _ _, ?_⟩
  obtain rfl := dirEntry_line he
  exact dirEntry_freeDir _ _

theorem wbd_owned (hfree : busyOf s.coh line = none) (howner : e.owner = die) (hst : e.st = .owned) :
    CohStep s (.wbd die line) fun d => d.msgs = rest ∧ (∀ x ∈ d.stale, x.1 ≠ line)
      ∧ dirEntry d line = some { e with st := .shared, sharers := e.sharers &&& ~~~dieBit die } := by
  have hwritten : onWbd { s.coh with msgs := rest } die line answer
      = setDir (tookData { s.coh with msgs := rest } line) { e with st := .shared, sharers := e.sharers &&& ~~~dieBit die } := by
    have he' : dirEntry { s.coh with msgs := rest } line = some e := he
    have hfree' : busyOf (tookData { s.coh with msgs := rest } line) line = none := hfree
    simp [onWbd, he', hfree', writtenBack, howner, hst]
  refine .of_eq (exec_wbd h) hwritten ⟨rfl, stale_tookData _ _, ?_⟩
  obtain rfl := dirEntry_line he
  exact dirEntry_setDir _ { e with st := .shared, sharers := e.sharers &&& ~~~dieBit die }

variable {b : BusyLine} (hb : busyOf s.coh line = some b)

include hb

/-- A WbD that a die sent before its own write request leaves the entry as that request made it. -/
theorem wbd_before_own_write (hreq : b.req = .rdx ∨ b.req = .upg) (hdie : b.die = die) :
    CohStep s (.wbd die line) fun d => d.msgs = rest ∧ (∀ x ∈ d.stale, x.1 ≠ line) ∧ dirEntry d line = some e ∧ busyOf d line = some b := by
  have htook : onWbd { s.coh with msgs := rest } die line answer = tookData { s.coh with msgs := rest } line := by
    have he' : dirEntry { s.coh with msgs := rest } line = some e := he
    have hb' : busyOf (tookData { s.coh with msgs := rest } line) line = some b := hb
    rcases hreq with hr | hr <;> simp [onWbd, he', hb', hr, hdie]
  exact .of_eq (exec_wbd h) htook ⟨rfl, stale_tookData _ _, he, hb⟩

theorem wbd_evicts (hreq : b.req = .evict) (hans : answer = true) (howed : b.owed = dieBit die) (hfwd : b.fwd = none) (hlast : NoneWaits s.coh line)
    (hwbd : NoWbd rest line) :
    CohStep s (.wbd die line) fun d => d.msgs = rest ∧ (∀ x ∈ d.stale, x.1 ≠ line) ∧ dirEntry d line = none ∧ busyOf d line = none := by
  obtain rfl := busyOf_line hb
  have hfreed : onWbd { s.coh with msgs := rest } die b.line answer = endBusy (freeDir (tookData { s.coh with msgs := rest } b.line) b.line) b.line := by
    have he' : dirEntry { s.coh with msgs := rest } b.line = some e := he
    have hb' : busyOf (tookData { s.coh with msgs := rest } b.line) b.line = some b := hb
    have hnone : b.owed &&& ~~~dieBit die = 0#8 := howed ▸ BitVec.and_not_self _
    simp only [onWbd, he', hb', hreq, hans, if_true]
    exact advance_evict (c := tookData { s.coh with msgs := rest } b.line) (b := { b with req := .evict, owed := b.owed &&& ~~~dieBit die }) rfl hnone hfwd
      hwbd
  obtain ⟨hmsgs, hdir, hbusy, hstale⟩ := endBusy_freeDir (c := tookData { s.coh with msgs := rest } b.line) hlast
  exact .of_eq (exec_wbd h) hfreed ⟨hmsgs, hstale ▸ stale_tookData _ _, hdir, hbusy⟩

end WrittenBack

/-! #### Evictions from a die, write-backs of self-invalidating bytes (R240) -/

theorem cacheEvict_held {s : State} {die line : Nat} {k : DieCopy} (hk : copyOf s.coh die line = some k) :
    CohStep s (.cacheEvict die line) fun d => copyOf d die line = none ∧ (∀ x ∈ d.l1, ¬ (x.die = die ∧ x.line = line ∧ x.bytes = none))
      ∧ d.msgs = s.coh.msgs ++ if k.st = .m ∨ k.st = .o then [{ kind := .wbd false, line := line, die := die }] else [] := by
  have hexec : exec (.cacheEvict die line) s = .next { s with
      coh := if (k.st == .m || k.st == .o) = true then send (dropCopy s.coh die line) (.wbd false) line die else dropCopy s.coh die line } := by
    change execCacheEvict die line s = _
    simp only [execCacheEvict, hk]
  refine .intro _ hexec ?_
  by_cases hst : k.st = .m ∨ k.st = .o
  · rw [if_pos (by simpa using hst), if_pos hst]
    exact ⟨copyOf_dropCopy _ _ _, l1_dropCopy _ _ _, rfl⟩
  · rw [if_neg (by simpa using hst), if_neg hst, List.append_nil]
    exact ⟨copyOf_dropCopy _ _ _, l1_dropCopy _ _ _, rfl⟩

theorem exec_cacheEvict_absent {s : State} {die line : Nat} (hnone : copyOf s.coh die line = none) : exec (.cacheEvict die line) s = .next s := by
  change execCacheEvict die line s = _
  simp only [execCacheEvict, hnone]

/-- One dirty byte goes home, or poisons its line where it cannot reach it. -/
def putHome (s : State) (x : DirtyByte) : State :=
  if cannotStore s x.pa then poisonLine s x.pa else noteHeld { s with mem := Memory.write s.mem x.pa x.val } x.pa 1

@[simp] theorem putHome_caches (s : State) (x : DirtyByte) : (putHome s x).caches = s.caches := by
  unfold putHome noteHeld
  repeat' split
  all_goals rfl

theorem putHome_mem (s : State) (x : DirtyByte) :
    (putHome s x).mem = if cannotStore s x.pa then s.mem else Memory.write s.mem x.pa x.val := by
  unfold putHome noteHeld
  repeat' split
  all_goals rfl

@[simp] theorem putHome_cannotStore (s : State) (x : DirtyByte) (pa : Nat) : cannotStore (putHome s x) pa = cannotStore s pa := by
  unfold putHome noteHeld
  repeat' split
  all_goals rfl

section PutHome

variable (s : State)

/-- Dirty bytes written home, the last of the list first. -/
abbrev putAll (l : List DirtyByte) : State := l.foldr (fun x s => putHome s x) s

theorem putAll_caches (l : List DirtyByte) : (putAll s l).caches = s.caches := by
  induction l with
  | nil => rfl
  | cons x l ih => exact (putHome_caches _ x).trans ih

theorem putAll_cannotStore (l : List DirtyByte) (pa : Nat) : cannotStore (putAll s l) pa = cannotStore s pa := by
  induction l with
  | nil => rfl
  | cons x l ih => exact (putHome_cannotStore _ x pa).trans ih

theorem putAll_mem_cons (x : DirtyByte) (l : List DirtyByte) :
    (putAll s (x :: l)).mem = if cannotStore s x.pa then (putAll s l).mem else Memory.write (putAll s l).mem x.pa x.val := by
  rw [← putAll_cannotStore s l x.pa]
  exact putHome_mem _ x

variable {s} (hwf : Memory.wf s.mem = true)

include hwf

theorem wf_putAll (l : List DirtyByte) : Memory.wf (putAll s l).mem = true := by
  induction l with
  | nil => exact hwf
  | cons x l ih =>
    rw [putAll_mem_cons]
    split
    · exact ih
    · exact Memory.wf_write ih _ _

theorem read_putAll_outside {a : Nat} (l : List DirtyByte) (ha : ∀ x ∈ l, x.pa ≠ a) : Memory.read (putAll s l).mem a = Memory.read s.mem a := by
  induction l with
  | nil => rfl
  | cons x l ih =>
    have ih := ih fun y hy => ha y (List.mem_cons_of_mem _ hy)
    rw [putAll_mem_cons]
    split
    · exact ih
    · rw [Memory.read_write (wf_putAll hwf l), if_neg (ha x List.mem_cons_self), ih]

theorem read_putAll_inside {x : DirtyByte} (hx : cannotStore s x.pa = false) (l : List DirtyByte) (hmem : x ∈ l)
    (hsame : ∀ y ∈ l, y.pa = x.pa → y.val = x.val) : Memory.read (putAll s l).mem x.pa = x.val := by
  induction l with
  | nil => cases hmem
  | cons y l ih =>
    rw [putAll_mem_cons]
    by_cases hy : y.pa = x.pa
    · rw [hy, hx, if_neg (by simp), Memory.read_write (wf_putAll hwf l), if_pos rfl, hsame y List.mem_cons_self hy]
    · have hl : x ∈ l := (List.mem_cons.mp hmem).resolve_left fun hxy => hy (hxy ▸ rfl)
      have ih := ih hl fun z hz => hsame z (List.mem_cons_of_mem _ hz)
      split
      · exact ih
      · rw [Memory.read_write (wf_putAll hwf l), if_neg hy, ih]

end PutHome

/-- The caches once the dirty bytes that satisfy p are written back. -/
def cachesAfter (s : State) (p : Nat → Nat → Bool) : State :=
  { s with caches := { s.caches with
    dirty := s.caches.dirty.filter fun d => !p d.die (lineOf d.pa)
    clean := (s.caches.dirty.filter fun d => p d.die (lineOf d.pa)).foldr (fun d cs => updateClean cs d.die d.pa d.val) s.caches.clean } }

theorem writeBack_eq (s : State) (p : Nat → Nat → Bool) :
    writeBack s p = putAll (cachesAfter s p) (s.caches.dirty.filter fun d => p d.die (lineOf d.pa)) := rfl

theorem selfInvalidatingWriteBack_home (s : State) (die line : Nat) :
    ∃ t, exec (.selfInvalidatingWriteBack die line) s = .next t
      ∧ t.caches.dirty = s.caches.dirty.filter (fun x => !(x.die == die && lineOf x.pa == line))
      ∧ (s.memOk = true →
          (∀ x ∈ s.caches.dirty, x.die = die → lineOf x.pa = line → cannotStore s x.pa = false →
            (∀ y ∈ s.caches.dirty, y.die = die → y.pa = x.pa → y.val = x.val) → Memory.read t.mem x.pa = x.val)
          ∧ ∀ a, (∀ x ∈ s.caches.dirty, x.die = die → lineOf x.pa = line → x.pa ≠ a) → Memory.read t.mem a = Memory.read s.mem a) := by
  let p : Nat → Nat → Bool := fun d l => d == die && l == line
  have hout : ∀ x, x ∈ s.caches.dirty.filter (fun d => p d.die (lineOf d.pa)) ↔ x ∈ s.caches.dirty ∧ x.die = die ∧ lineOf x.pa = line := fun x => by
    simp [p]
  refine ⟨writeBack s p, rfl, ?_, fun hok => ?_⟩
  · rw [writeBack_eq, putAll_caches]
    rfl
  · have hwf : Memory.wf (cachesAfter s p).mem = true := (Bool.and_eq_true_iff.mp hok).1
    rw [writeBack_eq]
    refine ⟨fun x hx hdie hline hreach hsame => ?_, fun a ha => ?_⟩
    · refine read_putAll_inside hwf hreach _ ((hout x).mpr ⟨hx, hdie, hline⟩) fun y hy => ?_
      obtain ⟨hy, hydie, -⟩ := (hout y).mp hy
      exact hsame y hy hydie
    · refine read_putAll_outside hwf _ fun x hx => ?_
      obtain ⟨hx, hdie, hline⟩ := (hout x).mp hx
      exact ha x hx hdie hline

end Sys2Proof.Machine

open Sys2Proof Sys2Proof.Machine

/-- Settles O50: each row is `exec` of one request (`CohStep.of_serve`) or of the message at the head of the list (`receiveFirst_head`), and what it
leaves is read off the state that the home or the die makes of it. -/
theorem directoryRows : Obligations.DirectoryRows := by
  intro s die line rest c m toAll coh bit alone room last noL1
  refine ⟨fun hdie hfree hnone hroom => ?new, fun e hdie hfree he => ?known, exec_write_watched die, exec_request_foreign line, fun hdie hbusy => ?busy,
    fun x r b h hb _ _ => ⟨fun k hk hst => fwd_supplied h hb hk hst, fwd_lost h⟩, fun k x h hk hst => fwd_recalled h hk hst, inv_answered,
    binv_answered, fun st b h hroom => data_received h hroom, fun b noData h hb => ?ack, nack_received,
    fun e a h he _ => ?wbd, fun a h hnone => wbd_nack h hnone, fun k hk => cacheEvict_held hk, exec_cacheEvict_absent,
    selfInvalidatingWriteBack_home s die line⟩
  case new =>
    exact ⟨rds_new hdie hfree hnone hroom, rds_new_watched hdie hfree hnone hroom, fun _ hi hw => write_new hdie hfree hnone hroom hi hw⟩
  case known =>
    intro busyRds others more wants _
    have rdx : e.st = .shared → HoldsOrShared e die false := fun hst => .inl ⟨rfl, hst⟩
    have upg : e.sharers.getLsbD die = true → HoldsOrShared e die true := fun hbit => .inr ⟨rfl, hbit⟩
    exact ⟨rds_shared hdie hfree he, rds_owned hdie hfree he,
      fun hw hst => ⟨write_alone hdie hfree he hw (rdx hst), write_others hdie hfree he hw (rdx hst)⟩, rdx_owned hdie hfree he,
      fun hw hbit => ⟨write_alone hdie hfree he hw (upg hbit), write_others hdie hfree he hw (upg hbit)⟩, upg_lost hdie hfree he,
      directoryEvict_held hfree he, directoryEvict_alone hfree he⟩
  case busy =>
    exact ⟨CohStep.waits (exec_rds hdie) hbusy, fun hw => ⟨CohStep.waits (exec_rdx hdie hw) hbusy, CohStep.waits (exec_upg hdie hw) hbusy⟩,
      exec_directoryEvict_busy hbusy⟩
  case ack =>
    exact ⟨invack_ends h hb, invack_counted h hb, invack_supplies h hb, invack_evicts h hb,
      fun _ _ hno hfwd hreq he _ => invack_lost_rds h hb hno hfwd hreq he, invack_lost_rdx h hb⟩
  case wbd =>
    exact ⟨fun hfree howner => ⟨wbd_exclusive h he hfree howner, wbd_owned h he hfree howner⟩, fun _ hb => wbd_before_own_write h he hb,
      fun _ hb => wbd_evicts h he hb⟩

end

section
/-!
### What the device's accesses for itself leave (R226, R340)

A walk, a touch and a write change memory at the bytes written, and of the rest only what caches hold and which units are powered.
-/

namespace Sys2Proof.Machine

/-! #### Powering a home, walking, touching a line -/

theorem wakeDie_eq (s : State) (die : Nat) : ∃ g, wakeDie s die = { s with gated := g } := by
  unfold wakeDie
  split
  · exact ⟨_, rfl⟩
  · unfold wakeUnit
    split <;> exact ⟨_, rfl⟩

theorem wakeHome_eq (s : State) (pa : Nat) : ∃ g, wakeHome s pa = { s with gated := g } := by
  unfold wakeHome
  split
  · exact wakeDie_eq s _
  · exact ⟨_, rfl⟩

theorem foldl_wakeHome_eq (l : List Nat) (s : State) : ∃ g, l.foldl wakeHome s = { s with gated := g } := by
  induction l generalizing s with
  | nil => exact ⟨_, rfl⟩
  | cons pa l ih =>
    obtain ⟨g, hg⟩ := wakeHome_eq s pa
    obtain ⟨g', hg'⟩ := ih { s with gated := g }
    exact ⟨g', by rw [List.foldl_cons, hg, hg']⟩

theorem wakeWalk_eq (s : State) (die : Nat) (core : Option Nat) (ctx va : Nat) : ∃ g, wakeWalk s die core ctx va = { s with gated := g } := by
  unfold wakeWalk
  split
  · exact ⟨_, rfl⟩
  · split
    · exact ⟨_, rfl⟩
    · exact foldl_wakeHome_eq _ s

theorem fillTlb_eq (s : State) (die : Nat) (core : Option Nat) (ctx va : Nat) :
    ∃ l, fillTlb s die core ctx va = { s with caches := { s.caches with tlb := l } } := by
  unfold fillTlb
  repeat' split
  all_goals exact ⟨_, rfl⟩

theorem walked_eq (s : State) (die : Nat) (core : Option Nat) (ctx va : Nat) :
    ∃ g l, walked s die core ctx va = { s with gated := g, caches := { s.caches with tlb := l } } := by
  obtain ⟨g, hg⟩ := wakeWalk_eq s die core ctx va
  obtain ⟨l, hl⟩ := fillTlb_eq { s with gated := g } die core ctx va
  exact ⟨g, l, by rw [walked, hg, hl]⟩

theorem wakeArrays_eq (s : State) (pa : Nat) : ∃ r, wakeArrays s pa = { s with retained := r } := by
  unfold wakeArrays
  split <;> exact ⟨_, rfl⟩

theorem noteTreatment_eq (s : State) (treat pa : Nat) : ∃ u, noteTreatment s treat pa = { s with caches := { s.caches with undef := u } } := by
  unfold noteTreatment
  split <;> exact ⟨_, rfl⟩

/-- What a touch leaves: R234's note, and the powering of R226. -/
theorem touchLine_noted (s : State) (treat pa : Nat) :
    ∃ g r, touchLine s treat pa = noteTreatment { s with gated := g, retained := r } treat pa := by
  obtain ⟨g, hg⟩ := wakeHome_eq s pa
  obtain ⟨r, hr⟩ := wakeArrays_eq { s with gated := g } pa
  exact ⟨g, r, by rw [touchLine, hg, hr]⟩

theorem touchLine_eq (s : State) (treat pa : Nat) :
    ∃ g r u, touchLine s treat pa = { s with gated := g, retained := r, caches := { s.caches with undef := u } } := by
  obtain ⟨g, r, h⟩ := touchLine_noted s treat pa
  obtain ⟨u, hu⟩ := noteTreatment_eq { s with gated := g, retained := r } treat pa
  exact ⟨g, r, u, h.trans hu⟩

theorem touchLine_of_not_heldOtherwise {s : State} {treat pa : Nat} (h : heldOtherwise s treat (lineOf pa) = false) :
    ∃ g r, touchLine s treat pa = { s with gated := g, retained := r } := by
  obtain ⟨g, r, ht⟩ := touchLine_noted s treat pa
  have h' : heldOtherwise { s with gated := g, retained := r } treat (lineOf pa) = false := h
  exact ⟨g, r, by rw [ht, noteTreatment, h']; rfl⟩

theorem loosen_of_defined {s : State} {pa : Nat} (h : isUndef s pa = false) : loosen s pa = s := by simp [loosen, h]

/-! #### A walk reads nothing that power changes -/

theorem walk2_gated (s : State) (g : List PowerUnit) (part ipa : Nat) (lv table : Nat) :
    walk2 { s with gated := g } part ipa lv table = walk2 s part ipa lv table := by
  induction lv generalizing table with
  | zero =>
    unfold walk2
    rfl
  | succ k ih =>
    unfold walk2
    simp only [ih]
    rfl

theorem xlatIpa_gated (s : State) (g : List PowerUnit) (vf ipa : Nat) : xlatIpa { s with gated := g } vf ipa = xlatIpa s vf ipa := by
  unfold xlatIpa
  rw [walk2_gated]
  rfl

theorem walk1_gated (s : State) (g : List PowerUnit) (vf va : Nat) (lv table : Nat) :
    walk1 { s with gated := g } vf va lv table = walk1 s vf va lv table := by
  induction lv generalizing table with
  | zero =>
    unfold walk1
    simp only [xlatIpa_gated]
    rfl
  | succ k ih =>
    unfold walk1
    simp only [xlatIpa_gated, ih]
    rfl

theorem walkVa_gated (s : State) (g : List PowerUnit) (ctx va : Nat) : walkVa { s with gated := g } ctx va = walkVa s ctx va := by
  unfold walkVa
  simp only [walk1_gated]
  rfl

/-! #### The device's writes -/

theorem takeFreeBytes_eq (n : Nat) (s : State) : ∃ bs, takeFreeBytes s n = (bs, { s with freeCtr := s.freeCtr + n }) ∧ bs.length = n := by
  induction n generalizing s with
  | zero => exact ⟨[], rfl, rfl⟩
  | succ n ih =>
    obtain ⟨bs, hbs, hlen⟩ := ih (takeFreeByte s).2
    refine ⟨(takeFreeByte s).1 :: bs, ?_, by simp [hlen]⟩
    rw [takeFreeBytes]
    simp only [hbs]
    simp [takeFreeByte, Nat.add_assoc, Nat.add_comm 1]

/-- Memory has become m; apart from it only caches, poison, groups' loose writes and the power of units may have changed. -/
def MemBecomes (m : List Host.Cell) (s t : State) : Prop :=
  { t with groups := s.groups, coh := s.coh, caches := s.caches, poison := s.poison, gated := s.gated, retained := s.retained } = { s with mem := m }

section MemBecomes

variable {m m' : List Host.Cell} {s t u : State}

theorem MemBecomes.trans (h : MemBecomes m s t) (h' : MemBecomes m' t u) : MemBecomes m' s u := by
  have hu := congrArg (fun x : State => { x with
    groups := s.groups, coh := s.coh, caches := s.caches, poison := s.poison, gated := s.gated, retained := s.retained }) h'
  have ht := congrArg (fun x : State => { x with mem := m' }) h
  exact hu.trans ht

theorem MemBecomes.mem (h : MemBecomes m s t) : t.mem = m := by have e := congrArg State.mem h; exact e
theorem MemBecomes.warp (h : MemBecomes m s t) : t.warp = s.warp := by have e := congrArg State.warp h; exact e
theorem MemBecomes.others (h : MemBecomes m s t) : t.others = s.others := by have e := congrArg State.others h; exact e
theorem MemBecomes.hbmStacks (h : MemBecomes m s t) : t.hbmStacks = s.hbmStacks := by have e := congrArg State.hbmStacks h; exact e
theorem MemBecomes.ports (h : MemBecomes m s t) : t.ports = s.ports := by have e := congrArg State.ports h; exact e
theorem MemBecomes.heddles (h : MemBecomes m s t) : t.heddles = s.heddles := by have e := congrArg State.heddles h; exact e

end MemBecomes

theorem walked_memBecomes (s : State) (die : Nat) (core : Option Nat) (ctx va : Nat) : MemBecomes s.mem s (walked s die core ctx va) := by
  obtain ⟨g, l, h⟩ := walked_eq s die core ctx va
  rw [h]
  rfl

theorem overwritten_memBecomes (s : State) (p : Place) : MemBecomes s.mem s (overwritten s p) := by
  unfold overwritten mapLoose
  split <;> rfl

theorem poisonAfter_memBecomes (s : State) (pa n : Nat) : MemBecomes s.mem s (poisonAfter s pa n) := by
  unfold poisonAfter
  split <;> rfl

theorem tryHeddles_of_none {s : State} (h : s.heddles = []) (change : State → List Nat → State) (g pa : Nat) (v : Word) :
    tryHeddles change g s pa v = s := by simp [tryHeddles, h]

/-- With no heddle a change triggers nothing. -/
theorem changed_of_none {s : State} (h : s.heddles = []) (g : Nat) (pas : List Nat) : changed g s pas = s :=
  List.foldl_fixed' (fun c => tryHeddles_of_none h _ g c.1 c.2) _

theorem storeHome_device (pa : Nat) (bs : List Byte) (s : State) : storeHome s {} pa bs = { s with mem := Memory.writeBytes s.mem pa bs } := by
  induction bs generalizing s pa with
  | nil => rfl
  | cons b bs ih => exact ih (pa + 1) { s with mem := Memory.write s.mem pa b }

/-- Nothing stands between the device's writes and memory: no stack and no port is out of service, no heddle watches. -/
structure Unhindered (s : State) : Prop where
  hbmStacks : s.hbmStacks = []
  ports : s.ports = []
  heddles : s.heddles = []

theorem Unhindered.of_still {s : State} (h : Still s) : Unhindered s := by
  obtain ⟨-, -, -, -, -, hstacks, hports, hheddles, -, -⟩ := h
  exact ⟨hstacks, hports, hheddles⟩

theorem Unhindered.memBecomes {s t : State} {m : List Host.Cell} (h : Unhindered s) (ht : MemBecomes m s t) : Unhindered t :=
  ⟨ht.hbmStacks.trans h.hbmStacks, ht.ports.trans h.ports, ht.heddles.trans h.heddles⟩

theorem Unhindered.isHeld {s : State} (h : Unhindered s) (pa : Nat) : isHeld s pa = false := by simp [Machine.isHeld, stackState, h.hbmStacks]

theorem Unhindered.runHeld {s : State} (h : Unhindered s) (pa n : Nat) : runHeld s pa n = false := by simp [Machine.runHeld, h.isHeld]

theorem Unhindered.cannotStore {s : State} (h : Unhindered s) (pa : Nat) : cannotStore s pa = false := by
  simp [Machine.cannotStore, stackState, portLost, h.hbmStacks, h.ports]

/-- A write that the device makes at the home for itself, under any treatment. -/
theorem performWrite_device {s : State} (h : Unhindered s) (treat pa : Nat) (bs : List Byte) :
    MemBecomes (Memory.writeBytes s.mem pa bs) s (performWrite s {} .home treat pa 0 bs) := by
  obtain ⟨g, r, u, htouch⟩ := touchLine_eq s treat pa
  have hready : MemBecomes s.mem s (overwritten (poisonAfter (touchLine s treat pa) pa bs.length) { space := .global, at_ := pa, bytes := bs.length }) := by
    have htouched : MemBecomes s.mem s (touchLine s treat pa) := by rw [htouch]; rfl
    have hpoison := poisonAfter_memBecomes (touchLine s treat pa) pa bs.length
    have hover := overwritten_memBecomes (poisonAfter (touchLine s treat pa) pa bs.length) { space := .global, at_ := pa, bytes := bs.length }
    rw [hpoison.mem, htouched.mem] at hover
    exact (htouched.trans hpoison).trans hover
  have hstored (t : State) (ht : MemBecomes s.mem s t) (c : Coherence) :
      MemBecomes (Memory.writeBytes s.mem pa bs) s { t with coh := c, mem := Memory.writeBytes t.mem pa bs } := by
    rw [ht.mem]
    exact ht.trans (m' := Memory.writeBytes s.mem pa bs) rfl
  unfold performWrite
  simp only [h.cannotStore pa, Bool.false_eq_true, if_false, beq_self_eq_true, if_true]
  generalize overwritten (poisonAfter (touchLine s treat pa) pa bs.length) { space := .global, at_ := pa, bytes := bs.length } = t at hready ⊢
  split
  · rw [storeHome_device]
    exact hstored t hready t.coh
  · rw [changed_of_none (s := { t with coh := dirRecall t.coh (lineOf pa), mem := Memory.writeBytes t.mem pa bs }) (hready.heddles.trans h.heddles)]
    exact hstored t hready _
  · exact hstored t hready _
  · exact hstored t hready t.coh

/-! #### Faults of the device's own translations -/

theorem wakeHome_warp (s : State) (pa : Nat) : (wakeHome s pa).warp = s.warp := by
  obtain ⟨g, hg⟩ := wakeHome_eq s pa
  rw [hg]

theorem noteHeld_warp (s : State) (pa n : Nat) : (noteHeld s pa n).warp = s.warp := by
  unfold noteHeld
  split <;> rfl

theorem devicePut_warp (s : State) (pa : Nat) (bs : List Byte) : (devicePut s pa bs).warp = s.warp := by
  unfold devicePut
  split
  · rfl
  · exact (noteHeld_warp _ _ _).trans <| (poisonAfter_memBecomes _ _ _).warp.trans <| (overwritten_memBecomes _ _).warp.trans (wakeHome_warp s pa)

theorem wakeIpa_warp (s : State) (vf ipa : Nat) : (wakeIpa s vf ipa).warp = s.warp := by
  unfold wakeIpa
  split
  · rfl
  · obtain ⟨g, hg⟩ := foldl_wakeHome_eq (pathIpa s vf ipa) s
    rw [hg]

theorem recallRun_warp (s : State) (pa n : Nat) : (recallRun s pa n).warp = s.warp := by
  unfold recallRun
  split <;> rfl

theorem writeIpa_warp (s : State) (vf ipa : Nat) (ws : List Word) : (writeIpa s vf ipa ws).warp = s.warp := by
  unfold writeIpa
  dsimp only
  split
  · split
    · exact (devicePut_warp _ _ _).trans ((recallRun_warp _ _ _).trans (wakeIpa_warp s vf ipa))
    · exact wakeIpa_warp s vf ipa
  · exact wakeIpa_warp s vf ipa

theorem postFault_warp (s : State) (v : Nat) (ws : List Word) : (postFault s v ws).warp = s.warp := by
  unfold postFault ringFault
  repeat' split
  all_goals simp [writeIpa_warp]

/-- A fault that parks its access leaves the warps alone, and lists who waits (R341). -/
theorem parkFault_spec (s : State) (vf ctx die : Nat) (k : AccKind) (st lv a e : Nat) (who : Waiter) :
    (parkFault s vf ctx die k st lv a e who).2.warp = s.warp
      ∧ ∃ f ∈ (parkFault s vf ctx die k st lv a e who).2.faults, f.id = (parkFault s vf ctx die k st lv a e who).1 ∧ f.ctx = ctx ∧ f.waiters = [who] :=
  ⟨postFault_warp _ _ _, _, List.mem_cons_self, rfl, rfl, rfl⟩

end Sys2Proof.Machine
end

section
/-!
### Around the instructions (O45)
-/

namespace Sys2Proof.Machine

/-! #### Fetching a block (R31, R36, R339) -/

section Fetch

variable {s : State} {e : Enter}

theorem exec_clauseFetch_hit {c : CodeLine} (hphase : s.warp.phase = .fetch e) (hhit : s.caches.code.find? (isCodeOf s.warp) = some c) :
    exec .clauseFetch s = .next { s with warp := { s.warp with buf := c.words, phase := .check e } } := by
  change execClauseFetch s = _
  simp only [execClauseFetch, hphase, hhit, Warp.took]

/-- The block is not in the fetch path. -/
abbrev Missed (s : State) (e : Enter) : Prop := s.warp.phase = .fetch e ∧ s.caches.code.find? (isCodeOf s.warp) = none

theorem exec_clauseFetch_miss (h : Missed s e) : exec .clauseFetch s = .next (fetchMiss s e) := by
  obtain ⟨hphase, hmiss⟩ := h
  change execClauseFetch s = _
  simp only [execClauseFetch, hphase, hmiss]

theorem clauseTrap_of_noRegion (h : s.warp.region = none) (t : Trap) : clauseTrap s t = takeTrap s t s.warp.base s.warp.base := by
  simp [clauseTrap, trapWaits, h]

theorem exec_clauseFetch_page (hregion : s.warp.region = none) (h : Missed s e) (hfate : fetchFate s s.warp = .page) :
    exec .clauseFetch s = .next (takeTrap s { code := 0x06, tmask := s.warp.active, tinfo := s.warp.base } s.warp.base s.warp.base) := by
  rw [exec_clauseFetch_miss h, fetchMiss, hfate]
  exact congrArg _ (clauseTrap_of_noRegion hregion _)

theorem exec_clauseFetch_access (hregion : s.warp.region = none) (h : Missed s e) (hfate : fetchFate s s.warp = .range ∨ fetchFate s s.warp = .refused) :
    exec .clauseFetch s = .next (takeTrap s { code := 0x05, tmask := s.warp.active, tinfo := s.warp.base } s.warp.base s.warp.base) := by
  rw [exec_clauseFetch_miss h, fetchMiss]
  rcases hfate with hfate | hfate <;> rw [hfate] <;> exact congrArg _ (clauseTrap_of_noRegion hregion _)

theorem exec_clauseFetch_fine {pa treat : Nat} {zero : Bool} (h : Missed s e) (hfate : fetchFate s s.warp = .fine (.glob pa treat zero)) :
    exec .clauseFetch s = .next (fetchFrom s e pa treat zero) := by
  rw [exec_clauseFetch_miss h, fetchMiss, hfate]

/-! Where the fetch leads. -/

variable {pa treat : Nat} {r pw ex w2 : Bool}

theorem fetchFate_outside (h : outOfRange s.warp.base.toNat 128 = true) : fetchFate s s.warp = .range := by simp [fetchFate, h]

/-- What refuses a fetch at a place where its page may be executed: no route, an area of the device, the end of a warp's spool (R19, R190, R354). -/
def FetchBarred (s : State) (pa : Nat) : Prop :=
  reachable s pa = false ∨ inDeviceArea s s.warp.ctx s.warp.base.toNat 128 = true
    ∨ ∃ o, hwOffset s s.warp.ctx s.warp.base.toNat = some o ∧ o.2 < o.1 + 128

/-- The block lies in the reserved part of a hardware area (R19). -/
def inReserved (s : State) : Bool := (hwOffset s s.warp.ctx s.warp.base.toNat).any fun o => decide (0x1400 ≤ o.1 ∧ o.1 < 0x2000)

theorem placeFate_barred (h : FetchBarred s pa) : placeFate s s.warp.ctx s.warp.base 128 .load false pa treat = .refused := by
  unfold placeFate
  rcases h with hreach | harea | ⟨o, hoff, hend⟩
  · simp [hreach]
  · simp [harea]
  · simp [hoff, hend]

theorem placeFate_free (h : ¬ FetchBarred s pa) : placeFate s s.warp.ctx s.warp.base 128 .load false pa treat = .fine (.glob pa treat (inReserved s)) := by
  simp only [FetchBarred, not_or, Bool.not_eq_false, Bool.not_eq_true, not_exists, not_and, not_lt] at h
  obtain ⟨hreach, harea, hend⟩ := h
  unfold placeFate inReserved
  cases hoff : hwOffset s s.warp.ctx s.warp.base.toNat with
  | none => simp [Use.accepted, hreach, harea]
  | some o => simp [Use.accepted, hreach, harea, hend o hoff, Bool.decide_and]

section Translated

variable (hrange : outOfRange s.warp.base.toNat 128 = false)
  (hx : translate s s.warp.die (some s.warp.core) s.warp.ctx s.warp.base.toNat = .ok pa treat r pw ex w2)

include hrange in
theorem fetchFate_page (hx : translate s s.warp.die (some s.warp.core) s.warp.ctx s.warp.base.toNat = .page) : fetchFate s s.warp = .page := by
  rw [fetchFate, if_neg (by simp [hrange]), hx]
  rfl

include hrange in
theorem fetchFate_access (hx : translate s s.warp.die (some s.warp.core) s.warp.ctx s.warp.base.toNat = .access) : fetchFate s s.warp = .refused := by
  rw [fetchFate, if_neg (by simp [hrange]), hx]
  rfl

include hrange hx

theorem fetchFate_refused (h : ex = false ∨ 3 ≤ treat ∨ FetchBarred s pa) : fetchFate s s.warp = .refused := by
  rw [fetchFate, if_neg (by simp [hrange]), hx]
  dsimp only
  by_cases hpage : ex = false ∨ 3 ≤ treat
  · rw [if_pos (by simpa using hpage)]
  · have hbarred : FetchBarred s pa := (h.resolve_left fun hx => hpage (.inl hx)).resolve_left fun ht => hpage (.inr ht)
    rw [if_neg (by simpa using hpage), placeFate_barred hbarred]

theorem fetchFate_fine (hex : ex = true) (htreat : treat < 3) (h : ¬ FetchBarred s pa) : fetchFate s s.warp = .fine (.glob pa treat (inReserved s)) := by
  rw [fetchFate, if_neg (by simp [hrange]), hx]
  dsimp only
  rw [if_neg (by simp [hex, htreat]), placeFate_free h]

end Translated

/-! What is fetched. -/

theorem bytesBy_eq_map (f : Nat → Byte) (n a : Nat) : bytesBy f a n = (List.range n).map fun b => f (a + b) := by
  induction n generalizing a with
  | zero => rfl
  | succ n ih =>
    rw [bytesBy, ih, List.range_succ_eq_map, List.map_cons, List.map_map]
    simp [Function.comp_def, Nat.add_assoc, Nat.add_comm 1]

theorem readBytes_eq_bytesBy (m : List Host.Cell) (n a : Nat) : Memory.readBytes m a n = bytesBy (Memory.read m) a n := by
  induction n generalizing a with
  | zero => rfl
  | succ n ih => rw [Memory.readBytes, bytesBy, ih]

/-- A byte of a block as its fetch finds it: 0 in the reserved part of a hardware area, of a self-invalidating page the die's own (R19, log 177). -/
def fetchedByte (s : State) (die : Nat) (zero : Bool) (treat a : Nat) : Byte :=
  if zero then 0 else if treat = 1 then codeByte s die a else Memory.read s.mem a

/-- The sixteen words of a block at a physical address. -/
def fetchedWords (s : State) (die : Nat) (zero : Bool) (treat pa : Nat) : List Word :=
  (List.range 16).map fun k => leWord ((List.range 8).map fun b => fetchedByte s die zero treat (pa + 8 * k + b))

theorem fetchedWords_eq (s : State) (die : Nat) (zero : Bool) (treat pa : Nat) :
    (if zero then List.replicate 16 0 else blockWords s die treat pa) = fetchedWords s die zero treat pa := by
  cases zero with
  | true =>
    have hzero (k : Nat) : leWord ((List.range 8).map fun b => fetchedByte s die true treat (pa + 8 * k + b)) = 0 := rfl
    simp only [fetchedWords, hzero, if_true]
    decide
  | false =>
    rw [if_neg Bool.false_ne_true]
    refine List.map_congr_left fun k _ => ?_
    by_cases htreat : treat = 1 <;> simp [fetchedByte, htreat, Memory.readWord, readBytes_eq_bytesBy, bytesBy_eq_map]

/-- A fetch that meets nothing in its way takes the block into the warp and into the core's fetch path (R36). -/
theorem fetchFrom_clear (zero : Bool) (h : Clear s treat pa) :
    ∃ g r l, fetchFrom s e pa treat zero = { s with
      warp := { s.warp with buf := fetchedWords s s.warp.die zero treat pa, phase := .check e }, gated := g, retained := r
      caches := { s.caches with tlb := l, code := { die := s.warp.die, core := s.warp.core, ctx := s.warp.ctx, va := s.warp.base, pa := pa
                                                    words := fetchedWords s s.warp.die zero treat pa } :: s.caches.code } } := by
  obtain ⟨hpoison, -, hheld, hundef, hother⟩ := h
  obtain ⟨g, l, hwalk⟩ := walked_eq s s.warp.die (some s.warp.core) s.warp.ctx s.warp.base.toNat
  obtain ⟨g', r, htouch⟩ := touchLine_of_not_heldOtherwise (s := { s with gated := g, caches := { s.caches with tlb := l } }) hother
  refine ⟨g', r, l, ?_⟩
  have hloosen : loosen (touchLine (walked s s.warp.die (some s.warp.core) s.warp.ctx s.warp.base.toNat) treat pa) pa
      = { s with gated := g', caches := { s.caches with tlb := l }, retained := r } := by
    rw [hwalk, htouch]
    exact loosen_of_defined hundef
  rw [← fetchedWords_eq, fetchFrom, hheld, hpoison]
  simp only [Bool.false_eq_true, if_false, hloosen]
  rfl

end Fetch

/-! #### A block's check and start (R30 to R33, R44, R47) -/

section Start

variable {s : State} {e : Enter}

theorem exec_clauseStart_bad {code : Nat} (hregion : s.warp.region = none) (hphase : s.warp.phase = .check e) (hbad : reachedBad s.warp e = some code) :
    exec .clauseStart s = .next (takeTrap s { code := code, tmask := s.warp.active, tinfo := s.warp.header } s.warp.base s.warp.base) := by
  change execClauseStart s = _
  simp only [execClauseStart, hphase, hbad, clauseTrap_of_noRegion hregion]

theorem reachedBad_of_sewn (hseam : seamMissing s.warp e = false) : reachedBad s.warp e = clauseBad s.warp.buf := by
  rw [reachedBad, hseam]; rfl

/-- The innermost split has come to its seam, and the block there does not begin with SEAM. -/
theorem seamMissing_of_split {w : Warp} {p : Pleat} (hh : w.h = false) (hdepth : w.frameDepth ≠ 0) (hp : w.pleats.head? = some p) (hkind : p.kind = .split)
    (hseam : p.seam = w.base) (hword : (w.buf.getD 1 0).toNat / 2 ^ 54 ≠ 0x003) : seamMissing w .start = true := by
  have hnot : isSeam (w.buf.getD 1 0) = false := by simpa [isSeam] using hword
  have hin : w.innermost = some p := by rw [Warp.innermost, if_neg hdepth, hp]
  simp only [seamMissing, hnot, hh, hin, hkind, hseam]
  simp

theorem mapLoose_eq (s : State) (f : LooseWrite → LooseWrite) :
    ∃ gs, mapLoose s f = { s with groups := gs } ∧ gs.map (fun g => { g with loose := [] }) = s.plainGroups := by
  unfold mapLoose
  split
  · exact ⟨s.groups, rfl, rfl⟩
  · exact ⟨_, rfl, by simp [State.plainGroups]⟩

variable (hphase : s.warp.phase = .check .start) (hgood : reachedBad s.warp .start = none)
include hphase hgood

theorem exec_clauseStart_waits (hpegs : s.warp.pegs &&& Header.waitMask s.warp.header ≠ 0) :
    exec .clauseStart s = .next { s with warp := { s.warp with stalled := some (.pegs (s.warp.pegs &&& Header.waitMask s.warp.header)) } } := by
  change execClauseStart s = _
  simp only [execClauseStart, hphase, hgood, Enter.tests, Bool.true_and, bne_iff_ne, if_pos hpegs]

theorem exec_clauseStart_begins (hpegs : s.warp.pegs &&& Header.waitMask s.warp.header = 0) :
    ∃ gs, exec .clauseStart s = .next { s with warp := s.warp.begin_ .start, groups := gs } ∧ gs.map (fun g => { g with loose := [] }) = s.plainGroups := by
  have hexec : exec .clauseStart s
      = .next { (if Header.waitMask s.warp.header != 0 then seePegs s s.warp (Header.waitMask s.warp.header) else s) with warp := s.warp.begin_ .start } := by
    change execClauseStart s = _
    simp only [execClauseStart, hphase, hgood, Enter.tests, Bool.true_and, bne_iff_ne, if_neg (not_not.mpr hpegs)]
  rw [hexec]
  split
  · obtain ⟨gs, hsee, hplain⟩ := mapLoose_eq s _
    exact ⟨gs, by rw [seePegs, seeWrites, hsee], hplain⟩
  · exact ⟨s.groups, rfl, rfl⟩

end Start

theorem Warp.begin_start (w : Warp) : w.begin_ .start = { w with idx := 1, phase := .issue, sig := if w.h then w.sig else w.base } := by
  cases hh : w.h <;> simp [Warp.begin_, hh]

/-! #### Reports (R14, R20, R183, R306, R340) -/

section Reports

variable {s : State}

/-- A running warp does not leave. -/
theorem leaveIfQuiet_of_running {t : State} {id : Nat} (hid : t.warp.id = id) (hrun : t.warp.status = .running) : leaveIfQuiet t id = t := by
  simp [leaveIfQuiet, findWarp, hid, hrun]

theorem exec_pendingFill (hrun : s.warp.status = .running) (op : Nat) :
    exec (.pendingFill s.warp.id op) s = .next { s with warp := { s.warp with
      lanes := s.warp.lanes.map fun y => { y with weft := y.weft.map fun v => if v.pend = some op then { v with pend := none } else v } } } := by
  change execPendingFill s.warp.id op s = _
  have hfill : updateWarp s s.warp.id (fun w => w.fillOp op) = { s with warp := s.warp.fillOp op } := if_pos rfl
  rw [execPendingFill, hfill, leaveIfQuiet_of_running (id := s.warp.id) (t := { s with warp := s.warp.fillOp op }) rfl hrun]
  simp [Warp.fillOp, Slot.fill]

theorem exec_pegClear (hrun : s.warp.status = .running) (op : Nat) :
    exec (.pegClear s.warp.id op) s = .next { s with warp := { s.warp with ops := s.warp.ops.filter fun o => !(o.id == op && o.done) } } := by
  change execPegClear s.warp.id op s = _
  have hclear : updateWarp s s.warp.id (fun w => w.clearOp op) = { s with warp := s.warp.clearOp op } := if_pos rfl
  rw [execPegClear, hclear, leaveIfQuiet_of_running (id := s.warp.id) (t := { s with warp := s.warp.clearOp op }) rfl hrun]
  rfl

theorem exec_watchdogStall (hregion : s.warp.region = none) (hphase : s.warp.phase = .issue) (hlimit : 2 ^ s.warp.wdog.toNat ≤ s.warp.wcount)
    (hh : s.warp.h = false) :
    exec .watchdogStall s = .next (takeTrap s { code := 0x0F, tmask := s.warp.parked, tinfo := stallInfo s.warp } (s.warp.wordAddr s.warp.idx)
      (s.warp.nextAddr (wordLits s.warp.cur))) := by
  have hstall : execWatchdogStall s = settle s (wordLits s.warp.cur) (.trap s { code := Cause.stall, tmask := s.warp.parked, tinfo := stallInfo s.warp }) := by
    simp [execWatchdogStall, hphase, hlimit, hh, Warp.overLimit]
  have hwaits : trapWaits s = false := by simp [trapWaits, hregion]
  change execWatchdogStall s = _
  rw [hstall, settle, hwaits]
  rfl

theorem exec_copyFailReport {r : Report} {rs : List Report} (hregion : s.warp.region = none) (hreports : s.warp.reports = r :: rs)
    (hphase : s.warp.phase = .issue) (hh : s.warp.h = false) (hhere : r.here = false) :
    exec .copyFailReport s = .next (takeTrap { s with warp := { s.warp with reports := rs } }
      { code := r.code.toNat, tmask := r.mask, tinfo := r.addr } (s.warp.wordAddr s.warp.idx) (s.warp.wordAddr s.warp.idx)) := by
  change execCopyFailReport s = _
  simp [execCopyFailReport, hreports, Warp.reportDue, hh, trapWaits, hregion, hphase, hhere]

end Reports

/-! #### Translations kept (R340) -/

/-- A TLB with room keeps what it has. -/
theorem newestTlb_of_room (die : Nat) (core : Option Nat) (l : List TlbEntry) (n : Nat) (h : (l.filter fun e => e.die == die && e.core == core).length ≤ n) :
    newestTlb die core n l = l := by
  induction l generalizing n with
  | nil => cases n <;> rfl
  | cons e l ih =>
    by_cases he : (e.die == die && e.core == core) = true
    · rw [List.filter_cons, if_pos he] at h
      cases n with
      | zero => simp at h
      | succ n => rw [newestTlb, if_pos he, ih n (by simpa using h)]
    · rw [List.filter_cons, if_neg he] at h
      cases n <;> rw [newestTlb, if_neg he, ih _ h]

/-- The entry of a walk's translation in a die's TLB. -/
def dieEntry (die ctx va : Nat) (pa treat : Nat) (r pw x w2 : Bool) (lg : Nat) : TlbEntry :=
  { die := die, core := none, ctx := ctx, va := word (va / 2 ^ lg * 2 ^ lg), lg := lg, pa := pa / 2 ^ lg * 2 ^ lg, treat := BitVec.ofNat 3 treat
    r := r, w := pw, x := x, w2 := w2 }

theorem exec_pageWalk {s : State} {die ctx pa treat lg : Nat} {va : Word} {k : AccKind} {r pw x w2 : Bool}
    (hnone : s.caches.tlb.any (tlbCovers die none ctx va.toNat) = false)
    (hroom : (s.caches.tlb.filter fun e => e.die == die && e.core == none).length < 32768) (hwalk : walkVa s ctx va.toNat = (.ok pa treat r pw x w2, lg)) :
    ∃ g, exec (.pageWalk die ctx va k) s
      = .next { s with gated := g, caches := { s.caches with tlb := dieEntry die ctx va.toNat pa treat r pw x w2 lg :: s.caches.tlb } } := by
  obtain ⟨g, hg⟩ := wakeWalk_eq s die none ctx va.toNat
  have hfind : tlbFind { s with gated := g } die none ctx va.toNat = none := by
    rw [List.any_eq_false] at hnone
    simpa [tlbFind] using hnone
  have hentry : walkedEntry { s with gated := g } die none ctx va.toNat = some (dieEntry die ctx va.toNat pa treat r pw x w2 lg) := by
    rw [walkedEntry, walkVa_gated, hwalk]
    rfl
  have hkept : newestTlb die none 32768 (dieEntry die ctx va.toNat pa treat r pw x w2 lg :: s.caches.tlb)
      = dieEntry die ctx va.toNat pa treat r pw x w2 lg :: s.caches.tlb := by
    refine newestTlb_of_room _ _ _ _ ?_
    rw [List.filter_cons_of_pos (by simp [dieEntry])]
    exact hroom
  refine ⟨g, ?_⟩
  change execPageWalk die ctx va k s = _
  simp only [execPageWalk, walked, hg, fillTlb, hfind, hentry, Option.isNone_none, if_true]
  exact congrArg (fun l => Host.Outcome.next { s with gated := g, caches := { s.caches with tlb := l } }) hkept

/-! #### Entries that move out (R17, R19) -/

section Spool

variable {s : State}

theorem step_of_hasTurn (h : s.hasTurn = true) : step s = runWarp s := by
  simp only [State.hasTurn, Bool.and_eq_true, List.isEmpty_iff, Option.isNone_iff_eq_none, Bool.not_eq_true'] at h
  obtain ⟨⟨⟨⟨⟨⟨hstart, hchanges⟩, hlevel⟩, hagenda⟩, hrun⟩, hstall⟩, hyield⟩ := h
  simp [step, turn, hstart, hchanges, hlevel, hagenda, runFocus, hrun, hyield, hstall]

/-- The place of the oldest entry on chip, in the warp's hardware area. -/
def oldestPlace (w : Warp) : Nat := w.spill.toNat + (0x800 + 64 * w.pleatsOut)

theorem spoolMove_pleat {w : Warp} (fmax : Nat) (h : 16 < w.pleats.length - w.pleatsOut) :
    w.spoolMove fmax = { out := true, off := 0x800 + 64 * w.pleatsOut, size := 64, pleatsOut := w.pleatsOut + 1, callsOut := w.callsOut } :=
  if_pos h

/-- An entry that stands at a multiple of its size lies in one line. -/
theorem linePieces_entry {a : Nat} (h : a % 64 = 0) : linePieces a 64 = [(a, 64)] := by
  have hcount : (a % 128 + 64 + 127) / 128 = 1 := by omega
  have hlo : max a (a / 128 * 128 + 128 * 0) = a := by omega
  have hhi : min (a + 64) (a / 128 * 128 + 128 * (0 + 1)) - a = 64 := by omega
  simp only [linePieces, hcount]
  simp only [OfNat.ofNat_ne_zero, if_false, List.range_one, List.map_cons, List.map_nil, hlo, hhi]

variable (hturn : s.hasTurn = true) (hreplay : s.warp.replay = false) (hreport : s.warp.reportDue = false)
  (hdue : 16 < s.warp.pleats.length - s.warp.pleatsOut)

include hturn hreplay hreport hdue in
theorem step_spools : step s = .next (spool s) := by
  have hspool : s.warp.spoolDue = true := by simp [Warp.spoolDue, Warp.chipPleats, hdue]
  rw [step_of_hasTurn hturn]
  simp [runWarp, hreplay, hreport, hspool]

variable (hpage : s.warp.spill.toNat % 4096 = 0)

include hdue hpage

theorem spool_ok {pa treat : Nat} {r pw ex w2 : Bool}
    (hx : translate s s.warp.die (some s.warp.core) s.warp.ctx (oldestPlace s.warp) = .ok pa treat r pw ex w2) (hheld : isHeld s pa = false) :
    spool s = let t := spillLine s.warp s (oldestPlace s.warp, 64)
      { t with warp := { t.warp with pleatsOut := s.warp.pleatsOut + 1, callsOut := s.warp.callsOut } } := by
  have hpieces : linePieces (s.warp.spill.toNat + (0x800 + 64 * s.warp.pleatsOut)) 64 = [(oldestPlace s.warp, 64)] := linePieces_entry (by omega)
  simp [spool, spoolMove_pleat _ hdue, hpieces, hx, hheld]

theorem spool_fault {st lv ad en : Nat} (hx : translate s s.warp.die (some s.warp.core) s.warp.ctx (oldestPlace s.warp) = .fault st lv ad en) :
    ∃ (t : State) (id : Nat), spool s = { t with warp := { s.warp with status := .faulted [{ id := id, mask := s.warp.active, addr := word (oldestPlace s.warp) }] } }
      ∧ ∃ f ∈ t.faults, f.id = id ∧ f.ctx = s.warp.ctx ∧ f.waiters = [.warp s.warp.id] := by
  have hpieces : linePieces (s.warp.spill.toNat + (0x800 + 64 * s.warp.pleatsOut)) 64 = [(oldestPlace s.warp, 64)] := linePieces_entry (by omega)
  obtain ⟨g, hg⟩ := wakeWalk_eq s s.warp.die (some s.warp.core) s.warp.ctx (oldestPlace s.warp)
  obtain ⟨hwarp, hlisted⟩ := parkFault_spec { s with gated := g } (vfOfContext s s.warp.ctx) s.warp.ctx s.warp.die .write st lv ad en (.warp s.warp.id)
  refine ⟨_, _, ?_, hlisted⟩
  have hspool : spool s = let p := parkFault { s with gated := g } (vfOfContext s s.warp.ctx) s.warp.ctx s.warp.die .write st lv ad en (.warp s.warp.id)
      { p.2 with warp := { p.2.warp with status := .faulted [{ id := p.1, mask := s.warp.active, addr := word (oldestPlace s.warp) }] } } := by
    simp only [spool, spoolMove_pleat _ hdue, hpieces, List.findSome?_cons, hx, hg, if_true]
    rfl
  rw [hspool]
  simp only [hwarp]

end Spool

/-- A spilled entry's bytes stand at its place, or nothing is written; the warps are as they were. -/
theorem spillLine_spec {s : State} (hfree : Unhindered s) (hwf : Memory.wf s.mem = true) {w : Warp} {x : Nat × Nat} {pa treat : Nat} {r pw ex : Bool}
    (hx : translate s w.die (some w.core) w.ctx x.1 = .ok pa treat r pw ex true) :
    (spillLine w s x).warp = s.warp ∧ (spillLine w s x).others = s.others
      ∧ ∀ a, a < pa ∨ pa + x.2 ≤ a → Memory.read (spillLine w s x).mem a = Memory.read s.mem a := by
  have hwalk := walked_memBecomes s w.die (some w.core) w.ctx x.1
  rw [spillLine, hx]
  dsimp only
  split
  · exact ⟨hwalk.warp, hwalk.others, fun a _ => by rw [hwalk.mem]⟩
  · obtain ⟨bs, hbs, hlen⟩ := takeFreeBytes_eq x.2 (walked s w.die (some w.core) w.ctx x.1)
    have hfree' : Unhindered { walked s w.die (some w.core) w.ctx x.1 with freeCtr := (walked s w.die (some w.core) w.ctx x.1).freeCtr + x.2 } := by
      obtain ⟨hstacks, hports, hheddles⟩ := hfree.memBecomes hwalk
      exact ⟨hstacks, hports, hheddles⟩
    have hwrite := performWrite_device hfree' treat pa bs
    rw [hbs]
    refine ⟨hwrite.warp.trans hwalk.warp, hwrite.others.trans hwalk.others, fun a ha => ?_⟩
    rw [hwrite.mem, ← hwalk.mem]
    exact Memory.read_writeBytes_outside bs (by rw [hwalk.mem]; exact hwf) (by rwa [hlen])

end Sys2Proof.Machine

open Sys2Proof Sys2Proof.Machine

/-- Settles O45: each clause is one equation for `exec`, or for `step`, of the row or of the fetch, the check or the spool that it speaks of. -/
theorem aroundInstructions : Obligations.AroundInstructions := by
  refine ⟨fun s e hregion => ?fetch, fun s hrun hregion => ?reports, fun s hturn hreplay hreport hdue hpage => ?spools⟩
  case fetch =>
    refine ⟨fun c => exec_clauseFetch_hit, fun pa tr r pw w2 h hrange hx htr hreach harea hclear hend => ?memory,
      fun h hrange hx => exec_clauseFetch_page hregion h (fetchFate_page hrange hx),
      fun h hwhy => exec_clauseFetch_access hregion h ?refused, fun hphase hsewn hgood => ?begins,
      fun code hphase hsewn hbad => exec_clauseStart_bad hregion hphase ((reachedBad_of_sewn hsewn).trans hbad),
      fun p hphase hh hdepth hp hkind hseam hword => exec_clauseStart_bad hregion hphase
        (if_pos (seamMissing_of_split hh hdepth hp hkind hseam hword))⟩
    case memory =>
      have hfree : ¬ FetchBarred s pa := by
        rintro (hnot | harea' | ⟨o, hoff, hout⟩)
        · simp [hreach] at hnot
        · simp [harea] at harea'
        · exact absurd (hend o hoff) (Nat.not_le.mpr hout)
      obtain ⟨g, r, l, hfetch⟩ := fetchFrom_clear (e := e) (inReserved s) hclear
      refine ⟨_, (exec_clauseFetch_fine h (fetchFate_fine hrange hx rfl htr hfree)).trans (congrArg _ hfetch), ?_, rfl, ?_⟩
      · rfl
      · rfl
    case refused =>
      cases hrange : outOfRange s.warp.base.toNat 128 with
      | true => exact .inl (fetchFate_outside hrange)
      | false =>
        refine .inr ?_
        rcases hwhy with hout | hx | ⟨pa, tr, r, pw, ex, w2, hx, hwhy⟩
        · simp [hrange] at hout
        · exact fetchFate_access hrange hx
        · refine fetchFate_refused hrange hx ?_
          rcases hwhy with hex | htreat | hreach | hend
          · exact .inl hex
          · exact .inr (.inl htreat)
          · exact .inr (.inr (.inl hreach))
          · exact .inr (.inr (.inr (.inr hend)))
    case begins =>
      have hgood' := (reachedBad_of_sewn hsewn).trans hgood
      refine ⟨fun hpegs => ?_, fun hpegs => ⟨_, exec_clauseStart_waits hphase hgood' hpegs, rfl, rfl⟩⟩
      obtain ⟨gs, hexec, hplain⟩ := exec_clauseStart_begins hphase hgood' hpegs
      exact ⟨_, hexec, Warp.begin_start s.warp, rfl, hplain⟩
  case reports =>
    refine ⟨exec_pendingFill hrun, exec_pegClear hrun, exec_watchdogStall hregion, fun r rs => exec_copyFailReport hregion, ?_⟩
    intro die ctx va k pa tr r pw x w2 lg hnone hroom hwalk
    obtain ⟨g, hexec⟩ := exec_pageWalk (k := k) hnone hroom hwalk
    exact ⟨_, hexec, rfl, rfl, _, rfl, rfl, rfl, rfl, rfl, rfl, rfl, rfl, rfl, rfl⟩
  case spools =>
    refine ⟨fun pa tr r pw ex hstill hok hx => ?_, fun st lv ad en hx => ?_⟩
    · have hfree := Unhindered.of_still hstill
      have hwf : Memory.wf s.mem = true := (Bool.and_eq_true_iff.mp hok).1
      obtain ⟨hwarp, hothers, hmem⟩ := spillLine_spec (x := (oldestPlace s.warp, 64)) hfree hwf hx
      refine ⟨_, (step_spools hturn hreplay hreport hdue).trans (congrArg _ (spool_ok hdue hpage hx (hfree.isHeld pa))), ?_, hothers, hmem⟩
      simp only [hwarp]
    · obtain ⟨t, id, hspool, hlisted⟩ := spool_fault hdue hpage hx
      exact ⟨_, id, (step_spools hturn hreplay hreport hdue).trans (congrArg _ hspool), rfl, rfl, rfl, hlisted⟩
end

section
/-!
### Keyed lists, bobbins, segments (R190, R191)

A bobbin or a segment is found by its key and set by it; a record that enters a bobbin changes that bobbin alone.
-/

namespace Sys2Proof.Machine

/-! #### The element of a list with a key -/

section Keyed

variable {α : Type} {p q : α → Bool} {f : α → α}

theorem find?_updateWhere (l : List α) (hf : ∀ x, p x = true → p (f x) = true) : (updateWhere p f l).find? p = (l.find? p).map f := by
  induction l with
  | nil => rfl
  | cons x l ih =>
    change ((if p x then f x else x) :: updateWhere p f l).find? p = _
    cases hx : p x with
    | true => simp [hx, hf x hx]
    | false => simp [hx, ih]

theorem find?_updateWhere_other (l : List α) (hq : ∀ x, p x = true → q x = false ∧ q (f x) = false) : (updateWhere p f l).find? q = l.find? q := by
  induction l with
  | nil => rfl
  | cons x l ih =>
    change ((if p x then f x else x) :: updateWhere p f l).find? q = _
    cases hx : p x with
    | true =>
      obtain ⟨hold, hnew⟩ := hq x hx
      simp [hold, hnew, ih]
    | false => simp [List.find?_cons, ih]

/-- The element with a key replaced, or entered where there is none. -/
def upsert (p : α → Bool) (x : α) (l : List α) : List α := if l.any p then updateWhere p (fun _ => x) l else l ++ [x]

theorem find?_upsert {x : α} (l : List α) (hx : p x = true) : (upsert p x l).find? p = some x := by
  unfold upsert
  split
  · next hany =>
    obtain ⟨y, hy⟩ := Option.isSome_iff_exists.mp (List.find?_isSome.mpr (List.any_eq_true.mp hany))
    rw [find?_updateWhere l fun _ _ => hx, hy]
    rfl
  · next hany =>
    have hnone : l.find? p = none := List.find?_eq_none.mpr fun y hy hpy => hany (List.any_eq_true.mpr ⟨y, hy, hpy⟩)
    rw [List.find?_append, hnone]
    simp [hx]

theorem find?_upsert_other {x : α} (l : List α) (hx : q x = false) (hpq : ∀ y, p y = true → q y = false) : (upsert p x l).find? q = l.find? q := by
  unfold upsert
  split
  · exact find?_updateWhere_other l fun y hy => ⟨hpq y hy, hx⟩
  · simp [List.find?_append, hx]

end Keyed

/-! #### Bobbins -/

section Bobbins

variable {s : State} {ctx : Nat} {pat : Word} {st : BitVec 4} {die core : Nat} {b : Bobbin}

theorem isBobbin_iff : isBobbin ctx pat st die core b = true ↔ b.ctx = ctx ∧ b.pat = pat ∧ b.stage = st ∧ b.die = die ∧ b.core = core := by
  simp [isBobbin, and_assoc]

theorem isBobbin_self (b : Bobbin) : isBobbin b.ctx b.pat b.stage b.die b.core b = true := isBobbin_iff.mpr ⟨rfl, rfl, rfl, rfl, rfl⟩

theorem isBobbin_findBobbin (s : State) (ctx : Nat) (pat : Word) (st : BitVec 4) (die core : Nat) :
    isBobbin ctx pat st die core (findBobbin s ctx pat st die core) = true := by
  unfold findBobbin
  cases h : s.bobbins.find? (isBobbin ctx pat st die core) with
  | none => exact isBobbin_iff.mpr ⟨rfl, rfl, rfl, rfl, rfl⟩
  | some b => exact List.find?_some h

theorem findBobbin_congr {t : State} (h : t.bobbins = s.bobbins) (ctx : Nat) (pat : Word) (st : BitVec 4) (die core : Nat) :
    findBobbin t ctx pat st die core = findBobbin s ctx pat st die core := by rw [findBobbin, findBobbin, h]

theorem setBobbin_eq (s : State) (b : Bobbin) : setBobbin s b = { s with bobbins := upsert (isBobbin b.ctx b.pat b.stage b.die b.core) b s.bobbins } := by
  unfold setBobbin upsert
  split <;> rfl

theorem findBobbin_setBobbin (s : State) (h : isBobbin ctx pat st die core b = true) : findBobbin (setBobbin s b) ctx pat st die core = b := by
  obtain ⟨rfl, rfl, rfl, rfl, rfl⟩ := isBobbin_iff.mp h
  rw [setBobbin_eq, findBobbin, find?_upsert _ (isBobbin_self b)]
  rfl

theorem findBobbin_setBobbin_other (s : State) (ctx : Nat) (pat : Word) (st : BitVec 4) (die : Nat) (h : b.core ≠ core) :
    findBobbin (setBobbin s b) ctx pat st die core = findBobbin s ctx pat st die core := by
  have hother (y : Bobbin) (hy : y.core = b.core) : isBobbin ctx pat st die core y = false := by simp [isBobbin, hy, h]
  have hfind := find?_upsert_other (p := isBobbin b.ctx b.pat b.stage b.die b.core) (x := b) s.bobbins (hother b rfl) fun y hy => by
    obtain ⟨-, -, -, -, hcore⟩ := isBobbin_iff.mp hy
    exact hother y hcore
  rw [setBobbin_eq, findBobbin, findBobbin, hfind]

end Bobbins

/-! #### Segments -/

theorem isSegment_iff {ctx : Nat} {pat : Word} {st : BitVec 4} {die : Nat} {g : Segment} :
    isSegment ctx pat st die g = true ↔ g.ctx = ctx ∧ g.pat = pat ∧ g.stage = st ∧ g.die = die := by simp [isSegment, and_assoc]

theorem isSegment_findSegment (s : State) (ctx : Nat) (pat : Word) (st : BitVec 4) (die : Nat) :
    isSegment ctx pat st die (findSegment s ctx pat st die) = true := by
  unfold findSegment
  cases h : s.segments.find? (isSegment ctx pat st die) with
  | none => exact isSegment_iff.mpr ⟨rfl, rfl, rfl, rfl⟩
  | some g => exact List.find?_some h

theorem setSegment_eq (s : State) (g : Segment) : setSegment s g = { s with segments := upsert (isSegment g.ctx g.pat g.stage g.die) g s.segments } := by
  unfold setSegment upsert
  split <;> rfl

theorem findSegment_setSegment (s : State) {ctx : Nat} {pat : Word} {st : BitVec 4} {die : Nat} {g : Segment} (h : isSegment ctx pat st die g = true) :
    findSegment (setSegment s g) ctx pat st die = g := by
  obtain ⟨rfl, rfl, rfl, rfl⟩ := isSegment_iff.mp h
  rw [setSegment_eq, findSegment, find?_upsert _ h]
  rfl

/-! #### Units wake -/

theorem wakeUnit_eq (s : State) (u : PowerUnit) : ∃ g c r, wakeUnit s u = { s with gated := g, cores := c, retained := r } := by
  unfold wakeUnit
  split
  · exact ⟨_, _, _, rfl⟩
  · cases u <;> exact ⟨_, _, _, rfl⟩

theorem wakeCore_eq (s : State) (die core : Nat) : ∃ g c r, wakeCore s die core = { s with gated := g, cores := c, retained := r } := by
  unfold wakeCore
  split
  · exact ⟨_, _, _, rfl⟩
  · obtain ⟨g, hdie⟩ := wakeDie_eq s die
    obtain ⟨g₁, c₁, r₁, hisland⟩ := wakeUnit_eq { s with gated := g } (.island die (islandOf core))
    obtain ⟨g₂, c₂, r₂, hcore⟩ := wakeUnit_eq { s with gated := g₁, cores := c₁, retained := r₁ } (.core die core)
    exact ⟨g₂, c₂, r₂, by rw [hdie, hisland, hcore]⟩

theorem wakeFor_eq (s : State) (die core part : Nat) : ∃ g c r, wakeFor s die core part = { s with gated := g, cores := c, retained := r } := by
  unfold wakeFor
  split
  · exact ⟨_, _, _, rfl⟩
  · obtain ⟨g, c, r, hcore⟩ := wakeCore_eq s die core
    obtain ⟨g₁, c₁, r₁, hpart⟩ := wakeUnit_eq { s with gated := g, cores := c, retained := r } (.part die core part)
    exact ⟨g₁, c₁, r₁, by rw [hcore, hpart]⟩

/-! #### A record enters a bobbin (R191, R226) -/

theorem enterRecord_eq (s : State) (d : StageDecl) (b : Bobbin) (r : Record) :
    ∃ g c w, enterRecord s d b r = { setBobbin s (enterBobbin d b r) with gated := g, cores := c, retained := w } := wakeCore_eq _ _ _

theorem enterRecord_bobbins (s : State) (d : StageDecl) (b : Bobbin) (r : Record) :
    (enterRecord s d b r).bobbins = (setBobbin s (enterBobbin d b r)).bobbins := by
  obtain ⟨g, c, w, henter⟩ := enterRecord_eq s d b r
  rw [henter]

theorem findBobbin_enterRecord (s : State) {ctx : Nat} {pat : Word} {st : BitVec 4} {die core : Nat} {b : Bobbin}
    (h : isBobbin ctx pat st die core b = true) (d : StageDecl) (r : Record) :
    (findBobbin (enterRecord s d b r) ctx pat st die core).recs = b.recs ++ [r] := by
  have hkey : isBobbin ctx pat st die core (enterBobbin d b r) = true := h
  rw [findBobbin_congr (enterRecord_bobbins s d b r), findBobbin_setBobbin s hkey]
  rfl

theorem findBobbin_enterRecord_other (s : State) {core : Nat} {b : Bobbin} (h : b.core ≠ core) (d : StageDecl) (r : Record) (ctx : Nat) (pat : Word)
    (st : BitVec 4) (die : Nat) : findBobbin (enterRecord s d b r) ctx pat st die core = findBobbin s ctx pat st die core := by
  rw [findBobbin_congr (enterRecord_bobbins s d b r)]
  exact findBobbin_setBobbin_other s ctx pat st die h

theorem enterRecord_mem (s : State) (d : StageDecl) (b : Bobbin) (r : Record) : (enterRecord s d b r).mem = s.mem := by
  obtain ⟨g, c, w, henter⟩ := enterRecord_eq s d b r
  rw [henter, setBobbin_eq]

theorem enterRecord_segments (s : State) (d : StageDecl) (b : Bobbin) (r : Record) : (enterRecord s d b r).segments = s.segments := by
  obtain ⟨g, c, w, henter⟩ := enterRecord_eq s d b r
  rw [henter, setBobbin_eq]

theorem enterRecord_launches (s : State) (d : StageDecl) (b : Bobbin) (r : Record) : (enterRecord s d b r).launches = s.launches := by
  obtain ⟨g, c, w, henter⟩ := enterRecord_eq s d b r
  rw [henter, setBobbin_eq]

end Sys2Proof.Machine
end

section
/-!
### Records on their way to warps (O47)
-/

namespace Sys2Proof.Machine

/-! #### Segments and timers (R191, R192, R205) -/

/-- The device has read at an address: memory's undefined lines, caches and the power of units apart, all is as it was. -/
def Touched (s t : State) : Prop :=
  { t with mem := s.mem, caches := s.caches, gated := s.gated, retained := s.retained, freeCtr := s.freeCtr } = s

section Touched

variable {s t u : State}

theorem Touched.trans (h : Touched s t) (h' : Touched t u) : Touched s u := by
  have hu := congrArg (fun x : State => { x with mem := s.mem, caches := s.caches, gated := s.gated, retained := s.retained, freeCtr := s.freeCtr }) h'
  exact hu.trans h

theorem Touched.foldl {α : Type} {f : State → α → State} (hf : ∀ s x, Touched s (f s x)) (l : List α) (s : State) : Touched s (l.foldl f s) := by
  induction l generalizing s with
  | nil => rfl
  | cons x l ih => exact (hf s x).trans (ih (f s x))

theorem Touched.bobbins (h : Touched s t) : t.bobbins = s.bobbins := by have e := congrArg State.bobbins h; exact e

end Touched

theorem touchLine_touched (s : State) (treat pa : Nat) : Touched s (touchLine s treat pa) := by
  obtain ⟨g, r, u, h⟩ := touchLine_eq s treat pa
  rw [h]
  rfl

theorem loosen_touched (s : State) (pa : Nat) : Touched s (loosen s pa) := by
  unfold loosen
  split
  · obtain ⟨bs, hbs, -⟩ := takeFreeBytes_eq 128 s
    rw [hbs]
    rfl
  · rfl

theorem touchRun_touched (s : State) (treat pa n : Nat) : Touched s (touchRun s treat pa n) := by
  unfold touchRun
  split
  · rfl
  · exact Touched.foldl (fun s l => touchLine_touched s treat (128 * l)) _ s

theorem loosenRun_touched (s : State) (pa n : Nat) : Touched s (loosenRun s pa n) := by
  unfold loosenRun
  split
  · rfl
  · exact Touched.foldl (fun s l => loosen_touched s (128 * l)) _ s

theorem walked_touched (s : State) (die : Nat) (core : Option Nat) (ctx va : Nat) : Touched s (walked s die core ctx va) := by
  obtain ⟨g, l, h⟩ := walked_eq s die core ctx va
  rw [h]
  rfl

theorem deviceTouch_touched (s : State) (die ctx va n : Nat) : Touched s (deviceTouch s die ctx va n) := by
  refine Touched.foldl (fun s r => ?_) _ s
  have hwalk := walked_touched s die none ctx r.1
  dsimp only [deviceXlat]
  split
  · next heq =>
    obtain ⟨-, rfl⟩ := Prod.mk.inj heq
    split
    · exact hwalk.trans ((touchRun_touched _ _ _ _).trans (loosenRun_touched _ _ _))
    · exact hwalk
  · next heq =>
    obtain ⟨-, rfl⟩ := Prod.mk.inj heq
    exact hwalk

section Overflow

variable {s : State} {ctx stage die : Nat} {pat : Word} {e : SegEntry} {es : List SegEntry} {p : Pattern} {d : StageDecl}
  (hentries : (findSegment s ctx pat (BitVec.ofNat 4 stage) die).entries = e :: es) (hp : findPattern s ctx pat = some p)
  (hd : declOf s ctx pat (BitVec.ofNat 4 stage) = some d)

/-- The cores to whose bobbins a record of a segment may go: the one that has others of its heddle, else any (R191, R205). -/
def bobbinCores (s : State) (ctx : Nat) (pat : Word) (st : BitVec 4) (die : Nat) (heddle : Option Nat) : List Nat :=
  match heddleCore s ctx pat st die heddle with
  | some k => [k]
  | none => List.range 96

theorem bobbinCores_find {st : BitVec 4} {heddle : Option Nat} {c : Nat}
    (hcore : match heddleCore s ctx pat st die heddle with
      | some k => k = c ∧ bobbinRoom d (findBobbin s ctx pat st die c) = true
      | none => ((List.range 96).find? fun k => bobbinRoom d (findBobbin s ctx pat st die k)) = some c) :
    ((bobbinCores s ctx pat st die heddle).find? fun k => bobbinRoom d (findBobbin s ctx pat st die k)) = some c := by
  unfold bobbinCores
  cases hk : heddleCore s ctx pat st die heddle with
  | none =>
    rw [hk] at hcore
    exact hcore
  | some k =>
    rw [hk] at hcore
    obtain ⟨rfl, hroom⟩ := hcore
    exact List.find?_cons_of_pos hroom

include hentries hp hd

theorem exec_overflowToBobbin_held (hheld : contextHeld s ctx = true) : exec (.overflowToBobbin ctx pat stage die) s = .next s := by
  change execOverflowToBobbin ctx pat stage die s = _
  unfold execOverflowToBobbin
  extract_lets st g
  rw [show g.entries = e :: es from hentries, hp, show declOf s ctx pat st = some d from hd]
  simp -zeta only [hheld, if_true]

/-- The state in which a segment's oldest record has been read and has left it. -/
def oldestLeft (s : State) (ctx : Nat) (pat : Word) (st : BitVec 4) (die : Nat) (e : SegEntry) (es : List SegEntry) : State :=
  setSegment (deviceTouch s die ctx e.va.toNat 64) { findSegment s ctx pat st die with entries := es }

/-- The segment's oldest record is read and leaves it, for the bobbin that may take it. -/
theorem exec_overflowToBobbin_read {c : Nat} {bs : List Byte} (hheld : contextHeld s ctx = false) (hpoison : devicePoisoned s die ctx e.va.toNat 64 = false)
    (hstack : deviceHeld s die ctx e.va.toNat 64 = false) (hread : deviceRead (deviceTouch s die ctx e.va.toNat 64) die ctx e.va.toNat 64 = some bs)
    (hfind : ((bobbinCores s ctx pat (BitVec.ofNat 4 stage) die (e.heddle.map (·.1))).find? fun k =>
      bobbinRoom d (findBobbin s ctx pat (BitVec.ofNat 4 stage) die k)) = some c) :
    exec (.overflowToBobbin ctx pat stage die) s = .next (
      let t := oldestLeft s ctx pat (BitVec.ofNat 4 stage) die e es
      if recordBad ((stageDecl p (segRecord e bs).stage).isSome) (segRecord e bs) then flushQueue t e.queue 6 0 false 0
      else enterRecord t d (findBobbin t ctx pat (BitVec.ofNat 4 stage) die c) (segRecord e bs)) := by
  change execOverflowToBobbin ctx pat stage die s = _
  unfold execOverflowToBobbin
  unfold bobbinCores at hfind
  -- What a read finds is left open from here: nothing below depends on how it is computed.
  generalize deviceRead = read at hread ⊢
  simp only [hentries, hp, hd, hheld, hpoison, hstack, Bool.false_eq_true, if_false, hread]
  split
  · next hnone => cases hnone.symm.trans hfind
  · next k hk =>
    cases hk.symm.trans hfind
    rfl

end Overflow

/-- A record that has left its segment for a bobbin. -/
theorem enterRecord_setSegment {s t : State} {ctx die c : Nat} {pat : Word} {st : BitVec 4} (htouch : Touched s t) (d : StageDecl) (es : List SegEntry)
    (r : Record) :
    let u := setSegment t { findSegment s ctx pat st die with entries := es }
    let v := enterRecord u d (findBobbin u ctx pat st die c) r
    (findSegment v ctx pat st die).entries = es ∧ v.mem = t.mem
      ∧ (findBobbin v ctx pat st die c).recs = (findBobbin s ctx pat st die c).recs ++ [r] := by
  intro u v
  have hkey : isSegment ctx pat st die { findSegment s ctx pat st die with entries := es } = true := isSegment_findSegment s ctx pat st die
  have hbobbins : u.bobbins = s.bobbins := by
    rw [show u = _ from setSegment_eq _ _]
    exact htouch.bobbins
  refine ⟨?_, ?_, ?_⟩
  · have hseg : findSegment v ctx pat st die = findSegment u ctx pat st die := by rw [findSegment, findSegment, enterRecord_segments]
    rw [hseg, show findSegment u ctx pat st die = _ from findSegment_setSegment t hkey]
  · rw [enterRecord_mem, show u = _ from setSegment_eq _ _]
  · rw [findBobbin_enterRecord u (isBobbin_findBobbin u ctx pat st die c), findBobbin_congr hbobbins]

theorem exec_gatherTimerExpire {s : State} {ctx stage die core : Nat} {pat : Word} (hrecs : (findBobbin s ctx pat (BitVec.ofNat 4 stage) die core).recs ≠ [])
    (hon : s.gated.contains (.core die core) = false) :
    exec (.gatherTimerExpire ctx pat stage die core) s
      = .next (setBobbin s { findBobbin s ctx pat (BitVec.ofNat 4 stage) die core with expired := true }) := by
  change execGatherTimerExpire ctx pat stage die core s = _
  have hrecs' : (findBobbin s ctx pat (BitVec.ofNat 4 stage) die core).recs.isEmpty = false := by simpa using hrecs
  simp only [execGatherTimerExpire, hrecs', hon, Bool.or_self, Bool.false_eq_true, if_false]

end Sys2Proof.Machine
end

section
/-!
### Launches into slots (O47)

A launch takes slots that are free, so `freeSlots` loses the one a warp comes to and no other; a group's warps are seated by induction on how many are left.
-/

namespace Sys2Proof.Machine

/-! #### Free slots (R10, R219) -/

/-- A warp that holds a slot of a core holds this one. -/
def holdsSlot (die core : Nat) (x : Nat × Nat) (w : Warp) : Bool := w.resident && w.die == die && w.core == core && (w.part == x.1 && w.slot == x.2)

theorem freeSlots_eq (s : State) (die core : Nat) : freeSlots s die core =
    if 8 ≤ die || 96 ≤ core then []
    else ((List.range 4).flatMap fun p => (List.range 16).map fun k => (p, k)).filter fun x => !(warps s).any (holdsSlot die core x) := by
  simp only [freeSlots, coreWarps, List.any_filter]
  rfl

theorem nodup_freeSlots (s : State) (die core : Nat) : (freeSlots s die core).Nodup := by
  rw [freeSlots_eq]
  split
  · exact List.nodup_nil
  · have hall : (List.range 4 ×ˢ List.range 16).Nodup := List.nodup_range.product List.nodup_range
    exact hall.filter _

theorem part_lt_of_mem_freeSlots {s : State} {die core : Nat} {x : Nat × Nat} (h : x ∈ freeSlots s die core) : x.1 < 4 := by
  rw [freeSlots_eq] at h
  split at h
  · simp at h
  · obtain ⟨p, hp, hx⟩ := List.mem_flatMap.mp (List.mem_filter.mp h).1
    obtain ⟨k, -, rfl⟩ := List.mem_map.mp hx
    exact List.mem_range.mp hp

/-- Some partition has the most free slots of all four, and where a slot is free it has one. -/
theorem pickSlot_of_ne_nil {free : List (Nat × Nat)} (hne : free ≠ []) (hpart : ∀ x ∈ free, x.1 < 4) : ∃ x ∈ free, pickSlot free = some x := by
  obtain ⟨x, hx⟩ := List.exists_mem_of_ne_nil free hne
  let best := (List.range 4).foldl (fun b p => if freeIn free p > freeIn free b then p else b) 0
  have hmost : ∀ p < 4, freeIn free p ≤ freeIn free best := by
    intro p hp
    simp only [best, show List.range 4 = [0, 1, 2, 3] from rfl, List.foldl_cons, List.foldl_nil]
    split_ifs <;> interval_cases p <;> omega
  have hsome : 0 < freeIn free best :=
    Nat.lt_of_lt_of_le (List.length_pos_of_mem (List.mem_filter.mpr ⟨hx, beq_self_eq_true x.1⟩)) (hmost x.1 (hpart x hx))
  obtain ⟨y, hy⟩ := List.exists_mem_of_length_pos hsome
  have hfound : (free.find? fun x => x.1 == best).isSome = true := List.find?_isSome.mpr ⟨y, List.mem_filter.mp hy⟩
  obtain ⟨z, hz⟩ := Option.isSome_iff_exists.mp hfound
  exact ⟨z, List.mem_of_find?_eq_some hz, hz⟩

/-! #### A warp takes a slot -/

theorem seatWarp_eq (s : State) (w : Warp) : ∃ g c r, seatWarp s w = addWarp { s with gated := g, cores := c, retained := r } w := by
  obtain ⟨g, c, r, h⟩ := wakeFor_eq s w.die w.core w.part
  exact ⟨g, c, r, by rw [seatWarp, h]⟩

/-- The warps once one more has taken a slot: it stands where the focus stands for none, else last. -/
theorem warps_seatWarp (s : State) (w : Warp) :
    warps (seatWarp s w) = if s.warp.status = .free then w :: s.others else warps s ++ [w] := by
  obtain ⟨g, c, r, h⟩ := seatWarp_eq s w
  rw [h, addWarp]
  split <;> rfl

theorem mem_warps_seatWarp (s : State) (w : Warp) : w ∈ warps (seatWarp s w) := by
  rw [warps_seatWarp]
  split <;> simp

theorem mem_warps_seatWarp_of_mem {s : State} {v : Warp} (w : Warp) (hv : v ∈ warps s) (hres : v.resident = true) : v ∈ warps (seatWarp s w) := by
  rw [warps_seatWarp]
  split
  · next hfree =>
    rcases List.mem_cons.mp hv with rfl | hv
    · simp [Warp.resident, hfree] at hres
    · exact List.mem_cons_of_mem _ hv
  · exact List.mem_append_left _ hv

theorem any_warps_seatWarp (s : State) (w : Warp) {g : Warp → Bool} (hg : ∀ v : Warp, v.status = .free → g v = false) :
    (warps (seatWarp s w)).any g = ((warps s).any g || g w) := by
  rw [warps_seatWarp]
  split
  · next hfree => simp [warps, hg s.warp hfree, Bool.or_comm]
  · simp

theorem freeSlots_seatWarp (s : State) (w : Warp) (die core : Nat) :
    freeSlots (seatWarp s w) die core = (freeSlots s die core).filter fun x => !holdsSlot die core x w := by
  have hany (x : Nat × Nat) : (warps (seatWarp s w)).any (holdsSlot die core x) = ((warps s).any (holdsSlot die core x) || holdsSlot die core x w) :=
    any_warps_seatWarp s w fun v hv => by simp [holdsSlot, Warp.resident, hv]
  rw [freeSlots_eq, freeSlots_eq]
  split
  · rfl
  · simp only [hany, List.filter_filter, Bool.not_or, Bool.and_comm]

/-- One slot fewer is free on the core that a warp came to. -/
theorem length_freeSlots_seatWarp {s : State} {w : Warp} (hres : w.resident = true) (hmem : (w.part, w.slot) ∈ freeSlots s w.die w.core) (core : Nat) :
    (freeSlots (seatWarp s w) w.die core).length + (if w.core = core then 1 else 0) = (freeSlots s w.die core).length := by
  rw [freeSlots_seatWarp]
  split
  · next hcore =>
    subst hcore
    have hfilter : (freeSlots s w.die w.core).filter (fun x => !holdsSlot w.die w.core x w) = (freeSlots s w.die w.core).erase (w.part, w.slot) := by
      rw [(nodup_freeSlots s w.die w.core).erase_eq_filter]
      refine List.filter_congr fun x _ => ?_
      rw [Bool.eq_iff_iff]
      simp only [holdsSlot, hres, beq_self_eq_true, Bool.true_and, Bool.not_eq_true', bne_iff_ne, ne_eq, ← Bool.not_eq_true, Bool.and_eq_true, beq_iff_eq]
      rw [Prod.ext_iff, eq_comm, eq_comm (a := x.2)]
    have hpos := List.length_pos_of_mem hmem
    rw [hfilter, List.length_erase_of_mem hmem]
    omega
  · next hcore => simp [holdsSlot, hcore]

theorem seatWarp_groups (s : State) (w : Warp) : (seatWarp s w).groups = s.groups := by
  obtain ⟨g, c, r, h⟩ := seatWarp_eq s w
  rw [h, addWarp]
  split <;> rfl

theorem seatWarp_bobbins (s : State) (w : Warp) : (seatWarp s w).bobbins = s.bobbins := by
  obtain ⟨g, c, r, h⟩ := seatWarp_eq s w
  rw [h, addWarp]
  split <;> rfl

theorem seatWarp_mem (s : State) (w : Warp) : (seatWarp s w).mem = s.mem := by
  obtain ⟨g, c, r, h⟩ := seatWarp_eq s w
  rw [h, addWarp]
  split <;> rfl

/-! #### The warps of a group (R219) -/

section Seating

variable (p : Pattern) (d : StageDecl) (key die : Nat) (cores : List Nat) (r : Record) (first : Nat × Nat)

/-- The core of a group's i-th warp. -/
def coreAt (i : Nat) : Nat := cores.getD (i % cores.length) 0

/-- A group's i-th warp as it is made: on its core, every lane with the group's record. -/
structure IsMember (i : Nat) (w : Warp) : Prop where
  group : w.group = some key
  index : w.index = i
  die : w.die = die
  status : w.status = .creating
  core : w.core = coreAt cores i
  recs : w.recs = List.replicate 32 (some r)

/-- The warps i to i + n − 1 of a group have taken slots, and no other warp has lost its own. -/
structure Seats (i n : Nat) (s t : State) : Prop where
  kept : ∀ w ∈ warps s, w.resident = true → w ∈ warps t
  made : ∀ k, i ≤ k → k < i + n → ∃ w ∈ warps t, IsMember key die cores r k w
  groups : t.groups = s.groups
  bobbins : t.bobbins = s.bobbins
  mem : t.mem = s.mem

/-- Of the warps i to i + n − 1, how many go to a core. -/
def dueOn (c i n : Nat) : Nat := (List.range' i n).countP fun k => coreAt cores k == c

theorem dueOn_succ (c i n : Nat) : dueOn cores c i (n + 1) = dueOn cores c (i + 1) n + if coreAt cores i = c then 1 else 0 := by
  rw [dueOn, List.range'_succ, List.countP_cons]
  simp [dueOn]

theorem coreAt_mem (hne : cores ≠ []) (i : Nat) : coreAt cores i ∈ cores := by
  have hlt : i % cores.length < cores.length := Nat.mod_lt _ (List.length_pos_of_ne_nil hne)
  rw [coreAt, List.getD_eq_getElem _ _ hlt]
  exact List.getElem_mem hlt

/-- A group's i-th warp, made in a slot of its core. -/
def member (s : State) (i : Nat) (x : Nat × Nat) : Warp :=
  { (newWarp s p d die (coreAt cores i) x.1 x.2 (List.replicate 32 (some r))).1 with group := some key, index := i }

theorem isMember_member (s : State) (i : Nat) (x : Nat × Nat) : IsMember key die cores r i (member p d key die cores r s i x) :=
  ⟨rfl, rfl, rfl, rfl, rfl, rfl⟩

/-- Its core has a slot for it: the one the launch names for the first warp, else the one that `pickSlot` finds. -/
theorem exists_slot_of_free {s : State} {i : Nat} (hfree : 0 < (freeSlots s die (coreAt cores i)).length) :
    ∃ x ∈ freeSlots s die (coreAt cores i),
      (if i = 0 && (freeSlots s die (coreAt cores i)).contains first then some first else pickSlot (freeSlots s die (coreAt cores i))) = some x := by
  split
  · next hfirst => exact ⟨first, by simpa using (Bool.and_eq_true_iff.mp hfirst).2, rfl⟩
  · exact pickSlot_of_ne_nil (List.ne_nil_of_length_pos hfree) fun x hx => part_lt_of_mem_freeSlots hx

theorem seatGroup_succ {s : State} {i : Nat} {x : Nat × Nat} (n : Nat)
    (hx : (if i = 0 && (freeSlots s die (coreAt cores i)).contains first then some first else pickSlot (freeSlots s die (coreAt cores i))) = some x) :
    seatGroup p d key die cores r first (n + 1) i s
      = seatGroup p d key die cores r first n (i + 1) (seatWarp { s with nextId := s.nextId + 1 } (member p d key die cores r s i x)) := by
  unfold coreAt at hx
  rw [seatGroup]
  simp only [hx]
  rfl

/-- Where every core has slots for the warps that are due on it, all take theirs. -/
theorem seatGroup_seats (hne : cores ≠ []) (n : Nat) : ∀ (i : Nat) (s : State), (∀ c ∈ cores, dueOn cores c i n ≤ (freeSlots s die c).length) →
    Seats key die cores r i n s (seatGroup p d key die cores r first n i s) := by
  induction n with
  | zero => exact fun i s _ => ⟨fun w hw _ => hw, fun k hik hki => absurd hki (Nat.not_lt.mpr hik), rfl, rfl, rfl⟩
  | succ n ih =>
    intro i s hroom
    have hhere := hroom _ (coreAt_mem cores hne i)
    rw [dueOn_succ, if_pos rfl] at hhere
    obtain ⟨x, hmem, hx⟩ := exists_slot_of_free die cores first (Nat.lt_of_lt_of_le (Nat.succ_pos _) hhere)
    let w := member p d key die cores r s i x
    let t := seatWarp { s with nextId := s.nextId + 1 } w
    have hroom' : ∀ c ∈ cores, dueOn cores c (i + 1) n ≤ (freeSlots t die c).length := by
      intro c hc
      have hlen : (freeSlots t die c).length + (if coreAt cores i = c then 1 else 0) = (freeSlots s die c).length :=
        length_freeSlots_seatWarp (s := { s with nextId := s.nextId + 1 }) (w := w) rfl hmem c
      have hdue := hroom c hc
      rw [dueOn_succ, ← hlen] at hdue
      exact Nat.le_of_add_le_add_right hdue
    obtain ⟨hkept, hmade, hgroups, hbobbins, hmem'⟩ := ih (i + 1) t hroom'
    rw [seatGroup_succ p d key die cores r first n hx]
    refine ⟨fun v hv hres => hkept v (mem_warps_seatWarp_of_mem w hv hres) hres, fun k hik hki => ?_, hgroups.trans (seatWarp_groups _ w),
      hbobbins.trans (seatWarp_bobbins _ w), hmem'.trans (seatWarp_mem _ w)⟩
    rcases Nat.eq_or_lt_of_le hik with rfl | hlt
    · exact ⟨w, hkept w (mem_warps_seatWarp _ w) rfl, isMember_member p d key die cores r s _ x⟩
    · exact hmade k hlt (by omega)

end Seating

/-! #### Launches from bobbins (R192, R219) -/

theorem noteReady_eq (s : State) : ∃ n q c, noteReady s = { s with now := n, queues := q, configs := c } := ⟨_, _, _, rfl⟩

theorem refuseQuad_eq (old s : State) (die quad : Nat) : ∃ c, refuseQuad old s die quad = { s with coh := c } := by
  unfold refuseQuad
  split <;> exact ⟨_, rfl⟩

theorem trimL1_eq (s : State) (die : Nat) (cores : List Nat) : ∃ c, trimL1 s die cores = { s with coh := c } := by
  unfold trimL1
  induction cores generalizing s with
  | nil => exact ⟨_, rfl⟩
  | cons c cores ih => exact ih _

section Launch

variable {s : State} {ctx stage die core part slot : Nat} {pat : Word} {p : Pattern} {d : StageDecl}
  (hp : findPattern s ctx pat = some p) (hd : declOf s ctx pat (BitVec.ofNat 4 stage) = some d)
  (hmay : mayLaunch s p d (findBobbin s ctx pat (BitVec.ofNat 4 stage) die core) = true) (hslot : (freeSlots s die core).contains (part, slot) = true)

include hp hd hmay hslot in
theorem exec_bobbinLaunch : exec (.bobbinLaunch ctx pat stage die core part slot) s
    = .next (launchBobbin s p d (findBobbin s ctx pat (BitVec.ofNat 4 stage) die core) part slot) := by
  change execBobbinLaunch ctx pat stage die core part slot s = _
  simp only [execBobbinLaunch, hp, hd, hmay, hslot, Bool.and_self, if_true]

end Launch

/-- What a thread stage's launch leaves: one warp with the bobbin's oldest records, which the bobbin no longer has. -/
theorem launchThreads_spec {s : State} {ctx die core : Nat} {pat : Word} {st : BitVec 4} {b : Bobbin} (hb : isBobbin ctx pat st die core b = true)
    (p : Pattern) (d : StageDecl) (part slot : Nat) :
    let n := min d.gather b.recs.length
    ∃ w ∈ warps (launchThreads s p d b part slot), w.id = s.nextId ∧ w.status = .creating ∧ w.die = die ∧ w.core = core ∧ w.part = part ∧ w.slot = slot
      ∧ w.recs = (List.range 32).map (fun l => (b.recs.take n)[l]?)
      ∧ (findBobbin (launchThreads s p d b part slot) ctx pat st die core).recs = b.recs.drop n ∧ (launchThreads s p d b part slot).mem = s.mem := by
  intro n
  obtain ⟨-, -, -, hdie, hcore⟩ := isBobbin_iff.mp hb
  let w := (newWarp s p d b.die b.core part slot (laneRecords (b.recs.take n))).1
  let t := setBobbin { s with nextId := s.nextId + 1 } (b.gave d n)
  have hlaunch : launchThreads s p d b part slot = seatWarp t w := rfl
  have hgave : isBobbin ctx pat st die core (b.gave d n) = true := hb
  rw [hlaunch]
  refine ⟨w, mem_warps_seatWarp t w, rfl, rfl, hdie, hcore, rfl, rfl, rfl, ?_, ?_⟩
  · rw [findBobbin_congr (seatWarp_bobbins t w), findBobbin_setBobbin _ hgave]
    rfl
  · rw [seatWarp_mem, show t = _ from setBobbin_eq _ _]

theorem coreAt_quad (core i : Nat) : coreAt ((List.range 4).map fun j => core / 4 * 4 + j) i = core / 4 * 4 + i % 4 := by
  have hlt : i % 4 < 4 := Nat.mod_lt _ (by decide)
  simp [coreAt, hlt]

/-- The cores of a launch's group have a slot for each warp that is due there. -/
theorem dueOn_le_of_groupFits {s : State} {die core : Nat} {p : Pattern} {d : StageDecl} {most : Nat} (hgroup : d.isGroup = true)
    (hfits : groupFits s die core p d most = true) :
    ∀ c ∈ coresOf (decide (64 < d.size)) core, dueOn (coresOf (decide (64 < d.size)) core) c 0 d.size ≤ (freeSlots s die c).length := by
  intro c hc
  have hslots : slotsOn d c ≤ (freeSlots s die c).length := by
    have hall := List.all_eq_true.mp (Bool.and_eq_true_iff.mp hfits).2 c hc
    simp only [Bool.and_eq_true, decide_eq_true_eq] at hall
    exact hall.1.1
  refine Nat.le_trans ?_ hslots
  by_cases hwide : 64 < d.size
  · rw [decide_eq_true hwide, coresOf, if_pos rfl] at hc ⊢
    obtain ⟨j, hj, rfl⟩ := List.mem_map.mp hc
    have hj4 : j < 4 := List.mem_range.mp hj
    have hquad : inQuad (core / 4 * 4 + j) = j := by unfold inQuad; omega
    rw [slotsOn, if_pos hgroup, if_pos hwide, hquad, dueOn, shareOf, ← List.countP_eq_length_filter, ← List.range_eq_range']
    refine List.countP_mono_left fun i _ hi => ?_
    have hi' := beq_iff_eq.mp hi
    rw [coreAt_quad] at hi'
    exact beq_iff_eq.mpr (Nat.add_left_cancel hi')
  · rw [slotsOn, if_pos hgroup, if_neg hwide]
    exact List.countP_le_length.trans (by simp)

/-- The state in which a group's warps take their slots: its oldest record has left the bobbin, the group stands. -/
def groupStands (s : State) (d : StageDecl) (b : Bobbin) (g : Group) (c : Coherence) : State :=
  { setBobbin s (b.gave d 1) with nextId := s.nextId + 1, now := s.now + 1, groups := s.groups ++ [g], coh := c }

theorem trimL1_refuseQuad (old s : State) (die quad : Nat) (cores : List Nat) :
    trimL1 (refuseQuad old s die quad) die cores = { s with coh := (trimL1 (refuseQuad old s die quad) die cores).coh } := by
  obtain ⟨c, hrefuse⟩ := refuseQuad_eq old s die quad
  obtain ⟨c', htrim⟩ := trimL1_eq { s with coh := c } die cores
  rw [hrefuse, htrim]

theorem launchGroup_eq {s : State} {b : Bobbin} {r : Record} {rs : List Record} (hrecs : b.recs = r :: rs) (p : Pattern) (d : StageDecl) (part slot : Nat) :
    ∃ g c, launchGroup s p d b part slot = noteReady (seatGroup p d s.nextId b.die (coresOf (decide (64 < d.size)) b.core) r (part, slot) d.size 0
          (groupStands s d b g c))
      ∧ g.key = s.nextId ∧ g.nwarps = d.size ∧ g.scratch = d.scratch ∧ g.mem = [] ∧ g.marks = [] ∧ g.gidx = r.gidx := by
  unfold launchGroup groupStands
  rw [hrecs]
  dsimp only [fresh]
  rw [trimL1_refuseQuad]
  simp only [tick, setBobbin_eq]
  exact ⟨_, _, rfl, rfl, rfl, rfl, rfl, rfl, rfl⟩

theorem freeSlots_groupStands (s : State) (d : StageDecl) (b : Bobbin) (g : Group) (c : Coherence) (die core : Nat) :
    freeSlots (groupStands s d b g c) die core = freeSlots s die core := by
  rw [groupStands, setBobbin_eq]
  rfl

theorem groupFits_of_mayLaunch {s : State} {p : Pattern} {d : StageDecl} {b : Bobbin} (hgroup : d.isGroup = true) (h : mayLaunch s p d b = true) :
    groupFits s b.die b.core p d (b.most s) = true := by
  have hfits := (Bool.and_eq_true_iff.mp h).2
  rwa [if_pos hgroup] at hfits

/-- What a group stage's launch leaves: the group of the bobbin's oldest record, with all its warps in slots. -/
theorem launchGroup_spec {s : State} {ctx die core : Nat} {pat : Word} {st : BitVec 4} {b : Bobbin} (hb : isBobbin ctx pat st die core b = true)
    {p : Pattern} {d : StageDecl} {r : Record} {rs : List Record} (part slot : Nat) (hgroup : d.isGroup = true) (hmay : mayLaunch s p d b = true)
    (hrecs : b.recs = r :: rs) :
    ∃ g, (findBobbin (launchGroup s p d b part slot) ctx pat st die core).recs = rs ∧ (launchGroup s p d b part slot).mem = s.mem
      ∧ (launchGroup s p d b part slot).groups = s.groups ++ [g]
      ∧ g.key = s.nextId ∧ g.nwarps = d.size ∧ g.scratch = d.scratch ∧ g.mem = [] ∧ g.marks = [] ∧ g.gidx = r.gidx
      ∧ ∀ i, i < d.size → ∃ w ∈ warps (launchGroup s p d b part slot), IsMember s.nextId die (coresOf (decide (64 < d.size)) core) r i w := by
  obtain ⟨-, -, -, hdie, hcore⟩ := isBobbin_iff.mp hb
  obtain ⟨g, c, hlaunch, hkey, hsize, hscratch, hobjs, hmarks, hgidx⟩ := launchGroup_eq hrecs p d part slot
  have hcores : coresOf (decide (64 < d.size)) b.core ≠ [] := by
    unfold coresOf
    split <;> simp
  have hfits := groupFits_of_mayLaunch hgroup hmay
  obtain ⟨-, hmade, hgroups, hbobbins, hmem⟩ := seatGroup_seats p d s.nextId b.die (coresOf (decide (64 < d.size)) b.core) r (part, slot) hcores d.size 0
    (groupStands s d b g c) fun k hk => by
      rw [freeSlots_groupStands]
      exact dueOn_le_of_groupFits hgroup hfits k hk
  generalize hseat : seatGroup p d s.nextId b.die (coresOf (decide (64 < d.size)) b.core) r (part, slot) d.size 0 (groupStands s d b g c) = t at *
  obtain ⟨n, q, f, hnote⟩ := noteReady_eq t
  have hgave : isBobbin ctx pat st die core (b.gave d 1) = true := hb
  rw [hlaunch, hnote]
  subst hdie hcore
  have hbobbins' : { t with now := n, queues := q, configs := f }.bobbins = (setBobbin s (b.gave d 1)).bobbins := hbobbins
  refine ⟨g, ?_, hmem.trans ?_, hgroups, hkey, hsize, hscratch, hobjs, hmarks, hgidx, fun i hi => ?_⟩
  · rw [findBobbin_congr hbobbins', findBobbin_setBobbin s hgave, Bobbin.gave, hrecs]
    rfl
  · rw [groupStands, setBobbin_eq]
  · exact hmade i (Nat.zero_le i) (by omega)

theorem coreAt_coresOf (size core i : Nat) : coreAt (coresOf (decide (64 < size)) core) i = if 64 < size then core / 4 * 4 + i % 4 else core := by
  by_cases hwide : 64 < size
  · rw [decide_eq_true hwide, coresOf, if_pos rfl, if_pos hwide, coreAt_quad]
  · rw [decide_eq_false hwide, coresOf, if_neg Bool.false_ne_true, if_neg hwide, coreAt, List.length_singleton, Nat.mod_one]
    rfl

end Sys2Proof.Machine
end

section
/-!
### Slot assignment (O47, R220)
-/

namespace Sys2Proof.Machine

/-! #### Sorted lists -/

section Sorted

variable {α : Type} {le : α → α → Bool}

theorem insertBy_eq_orderedInsert (le : α → α → Bool) (x : α) (l : List α) : insertBy le x l = l.orderedInsert (fun a b => le a b = true) x := by
  induction l with
  | nil => rfl
  | cons y ys ih => rw [insertBy, List.orderedInsert_cons, ih]

theorem mem_insertBy {x y : α} {l : List α} : y ∈ insertBy le x l ↔ y = x ∨ y ∈ l := by rw [insertBy_eq_orderedInsert, List.mem_orderedInsert]

theorem mem_sortBy {x : α} {l : List α} : x ∈ sortBy le l ↔ x ∈ l := by
  induction l with
  | nil => rfl
  | cons y ys ih =>
    rw [List.mem_cons, ← ih]
    exact mem_insertBy

/-- An order puts elements with more of a measure first. -/
def PutsFirst (le : α → α → Bool) (key : α → Nat) (x y : α) : Prop := (le x y = true → key y ≤ key x) ∧ (le x y = false → key x ≤ key y)

theorem pairwise_insertBy {key : α → Nat} {x : α} {l : List α} (hl : l.Pairwise fun a b => key b ≤ key a) (hx : ∀ y ∈ l, PutsFirst le key x y) :
    (insertBy le x l).Pairwise fun a b => key b ≤ key a := by
  induction l with
  | nil => exact List.pairwise_singleton _ x
  | cons y ys ih =>
    obtain ⟨hy, hys⟩ := List.pairwise_cons.mp hl
    obtain ⟨hbefore, hafter⟩ := hx y List.mem_cons_self
    rw [insertBy]
    split
    · next h =>
      refine List.pairwise_cons.mpr ⟨fun z hz => ?_, hl⟩
      rcases List.mem_cons.mp hz with rfl | hz
      · exact hbefore h
      · exact (hy z hz).trans (hbefore h)
    · next h =>
      refine List.pairwise_cons.mpr ⟨fun z hz => ?_, ih hys fun z hz => hx z (List.mem_cons_of_mem y hz)⟩
      rcases mem_insertBy.mp hz with rfl | hz
      · exact hafter (Bool.eq_false_iff.mpr h)
      · exact hy z hz

theorem pairwise_sortBy {key : α → Nat} {l : List α} (h : ∀ x ∈ l, ∀ y ∈ l, PutsFirst le key x y) : (sortBy le l).Pairwise fun a b => key b ≤ key a := by
  induction l with
  | nil => exact List.Pairwise.nil
  | cons x xs ih =>
    refine pairwise_insertBy (ih fun y hy z hz => h y (List.mem_cons_of_mem x hy) z (List.mem_cons_of_mem x hz)) fun y hy => ?_
    exact h x List.mem_cons_self y (List.mem_cons_of_mem x (mem_sortBy.mp hy))

end Sorted

/-! #### Candidates and the slot (R220) -/

theorem Candidate.before_putsFirst {a b : Candidate} (h : a.pressed = b.pressed) : PutsFirst Candidate.before (·.d.prio) a b := by
  unfold PutsFirst Candidate.before
  simp only [h, bne_self_eq_false, Bool.false_eq_true, if_false]
  by_cases hprio : a.d.prio = b.d.prio
  · exact ⟨fun _ => hprio.ge, fun _ => hprio.le⟩
  · simp only [bne_iff_ne, ne_eq, hprio, not_false_eq_true, if_true, decide_eq_true_eq, decide_eq_false_iff_not]
    omega

theorem pressed_of_mem_candidates {s : State} {die core : Nat} {c : Candidate} (h : c ∈ candidates s die core []) : c.pressed = false := by
  obtain ⟨p, -, hp⟩ := List.mem_flatMap.mp (mem_sortBy.mp h)
  obtain ⟨d, -, hd⟩ := List.mem_filterMap.mp hp
  obtain ⟨-, hc⟩ := Option.ite_none_right_eq_some.mp hd
  cases hc
  rfl

/-- Where no SPAWN was refused, the first candidate has the highest priority. -/
theorem candidates_prio {s : State} {die core : Nat} {c : Candidate} {cs : List Candidate} (h : candidates s die core [] = c :: cs) :
    ∀ c' ∈ cs, c'.d.prio ≤ c.d.prio := by
  have hsorted : (candidates s die core []).Pairwise fun a b => b.d.prio ≤ a.d.prio := pairwise_sortBy fun x hx y hy =>
    Candidate.before_putsFirst ((pressed_of_mem_candidates (mem_sortBy.mpr hx)).trans (pressed_of_mem_candidates (mem_sortBy.mpr hy)).symm)
  rw [h] at hsorted
  exact (List.pairwise_cons.mp hsorted).1

theorem exec_slotAssign {s : State} {die : Nat} (core : Nat) (h : refusedStages s die = []) : exec (.slotAssign die core) s = .next (assignSlot s die core []) := by
  change execSlotAssign die core s = _
  rw [execSlotAssign]
  split
  · next hnone =>
    rw [Bool.and_eq_true, List.isEmpty_iff, List.isEmpty_iff] at hnone
    rw [assignSlot, hnone.1, hnone.2]
  · simp only [h, List.length_nil, takeFreeBytes, List.zip_nil_left, List.filterMap_nil]

section Assign

variable {s : State} {die core part slot : Nat} {c : Candidate} {cs : List Candidate} {x : SavedWarp} {y : Nat × Nat} {xs : List (SavedWarp × (Nat × Nat))}

theorem assignSlot_launch (hslot : pickSlot (freeSlots s die core) = some (part, slot)) (hcand : candidates s die core [] = c :: cs)
    (hrest : ∀ x ∈ (restorable s die core).head?, prioOf s x.1.warp < c.d.prio) : assignSlot s die core [] = launchBobbin s c.p c.d c.b part slot := by
  rw [assignSlot, hcand, hslot]
  cases h : restorable s die core with
  | nil => rfl
  | cons x xs =>
    rw [h] at hrest
    exact if_neg (Nat.not_le.mpr (hrest x rfl))

theorem assignSlot_restore (hrest : restorable s die core = (x, y) :: xs) (hcand : ∀ c ∈ (candidates s die core []).head?, c.d.prio ≤ prioOf s x.warp) :
    assignSlot s die core [] = restore s x die core y.1 y.2 := by
  rw [assignSlot, hrest]
  cases h : candidates s die core [] with
  | nil => rfl
  | cons c cs =>
    rw [h] at hcand
    exact if_pos (hcand c rfl)

theorem assignSlot_none (hrest : restorable s die core = []) (hcand : candidates s die core [] = []) : assignSlot s die core [] = s := by
  rw [assignSlot, hrest, hcand]

end Assign

end Sys2Proof.Machine
end

section
/-!
### The creation of a warp (O47, R28)
-/

namespace Sys2Proof.Machine

/-! #### Several runs of bytes written -/

/-- Memory with runs of bytes written, one after another. -/
def writeRuns (m : List Host.Cell) (xs : List (Nat × List Byte)) : List Host.Cell := xs.foldl (fun m x => Memory.writeBytes m x.1 x.2) m

theorem readBytes_congr {m m' : List Host.Cell} {a n : Nat} (h : ∀ k < n, Memory.read m' (a + k) = Memory.read m (a + k)) :
    Memory.readBytes m' a n = Memory.readBytes m a n := by
  refine List.ext_getElem (by simp) fun k hk _ => ?_
  rw [Memory.getElem_readBytes, Memory.getElem_readBytes, h k (by simpa using hk)]

theorem readBytes_writeRuns_below {m : List Host.Cell} {a n : Nat} {xs : List (Nat × List Byte)} (h : Memory.wf m = true) (hxs : ∀ x ∈ xs, a + n ≤ x.1) :
    Memory.readBytes (writeRuns m xs) a n = Memory.readBytes m a n := by
  induction xs generalizing m with
  | nil => rfl
  | cons x xs ih =>
    have hrest : Memory.readBytes (writeRuns (Memory.writeBytes m x.1 x.2) xs) a n = _ :=
      ih (Memory.wf_writeBytes x.2 h x.1) fun y hy => hxs y (List.mem_cons_of_mem x hy)
    have hx := hxs x List.mem_cons_self
    exact hrest.trans (readBytes_congr fun k hk => Memory.read_writeBytes_outside x.2 h (.inl (by omega)))

/-- Runs that follow one another in memory are all read back. -/
theorem readBytes_writeRuns {m : List Host.Cell} {xs : List (Nat × List Byte)} (h : Memory.wf m = true)
    (hxs : xs.Pairwise fun x y => x.1 + x.2.length ≤ y.1) : ∀ x ∈ xs, Memory.readBytes (writeRuns m xs) x.1 x.2.length = x.2 := by
  induction xs generalizing m with
  | nil => exact fun x hx => absurd hx List.not_mem_nil
  | cons y ys ih =>
    obtain ⟨hy, hys⟩ := List.pairwise_cons.mp hxs
    have hwf := Memory.wf_writeBytes y.2 h y.1
    intro x hx
    rcases List.mem_cons.mp hx with rfl | hx
    · exact (readBytes_writeRuns_below hwf hy).trans (Memory.readBytes_writeBytes h x.1 x.2)
    · exact ih hwf hys x hx

/-! #### The copies of a warp's records -/

theorem length_recordBytes (r : Record) : (recordBytes r).length = 64 := by simp [recordBytes, recordWords]

theorem recordCopies_pairwise (w : Warp) (pa : Nat) : (recordCopies w pa).Pairwise fun x y => x.1 + x.2.length ≤ y.1 := by
  refine List.Pairwise.filterMap _ (fun i j hij x hx y hy => ?_) (List.pairwise_lt_range (n := 32))
  obtain ⟨r, -, rfl⟩ := Option.map_eq_some_iff.mp hx
  obtain ⟨r', -, rfl⟩ := Option.map_eq_some_iff.mp hy
  simp only [length_recordBytes]
  omega

theorem mem_recordCopies {w : Warp} {l : Nat} {r : Record} (hlen : w.recs.length = 32) (hl : w.recs[l]? = some (some r)) (pa : Nat) :
    (pa + 64 * l, recordBytes r) ∈ recordCopies w pa := by
  have hlt : l < 32 := hlen ▸ (List.getElem?_eq_some_iff.mp hl).1
  refine List.mem_filterMap.mpr ⟨l, List.mem_range.mpr hlt, ?_⟩
  rw [List.getD_eq_getElem?_getD, hl]
  rfl

theorem foldl_copyRecord (treat : Nat) (xs : List (Nat × List Byte)) {s : State} (h : Unhindered s) :
    MemBecomes (writeRuns s.mem xs) s (xs.foldl (copyRecord treat) s) := by
  induction xs generalizing s with
  | nil => rfl
  | cons x xs ih =>
    have hx : MemBecomes (Memory.writeBytes s.mem x.1 x.2) s (copyRecord treat s x) := performWrite_device h treat x.1 x.2
    have hxs := ih (h.memBecomes hx)
    rw [hx.mem] at hxs
    exact hx.trans hxs

/-! #### A warp starts -/

theorem findWarp_focus (s : State) : findWarp s s.warp.id = some s.warp := if_pos rfl

theorem updateWarp_focus (s : State) (f : Warp → Warp) : updateWarp s s.warp.id f = { s with warp := f s.warp } := if_pos rfl

/-- A warp as it starts, its lanes seeded from its records (R28). -/
def started (w : Warp) : Warp :=
  let m := maskOf fun l => (w.recs.getD l none).isSome
  { w with status := .running, lanes := w.recs.map (seedLane w.frame), active := m, gone := ~~~m, phase := .fetch .start }

theorem startWarp_focus (s : State) : startWarp s s.warp.id = acquireAt { s with warp := started s.warp } .pkg s.warp.die s.warp.core := by
  rw [startWarp, findWarp_focus]
  simp only [updateWarp_focus]
  rfl

theorem started_lane {w : Warp} {l : Nat} {r : Record} (hl : w.recs[l]? = some (some r)) :
    (started w).lanes[l]? = some { weft := ([r.p0, r.p1, r.p2, r.p3].map fun v => { val := v }) ++ List.replicate 12 {}
                                   pocket := List.replicate w.frame 0 } := by
  rw [started, List.getElem?_map, hl]
  rfl

/-! #### What a creation comes to -/

section Creation

variable {s : State} (hcreating : s.warp.status = .creating)
include hcreating

theorem exec_warpCreate_ok {pa tr : Nat} {r pw x : Bool} (h : Still s)
    (hx : translate s s.warp.die none s.warp.ctx s.warp.spill.toNat = .ok pa tr r pw x true) (htr : tr ≤ 3) (hreach : reachable s pa = true)
    (hmark : touchesMark s pa 2048 = false) :
    exec (.warpCreate s.warp.id) s
      = .next (startWarp ((recordCopies s.warp pa).foldl (copyRecord tr) (walked s s.warp.die none s.warp.ctx s.warp.spill.toNat)) s.warp.id) := by
  have hrun := ((Unhindered.of_still h).memBecomes (walked_memBecomes s s.warp.die none s.warp.ctx s.warp.spill.toNat)).runHeld pa 2048
  obtain ⟨g, l, hwalk⟩ := walked_eq s s.warp.die none s.warp.ctx s.warp.spill.toNat
  have hreach' : reachable (walked s s.warp.die none s.warp.ctx s.warp.spill.toNat) pa = true := by rw [hwalk]; exact hreach
  have hmark' : touchesMark (walked s s.warp.die none s.warp.ctx s.warp.spill.toNat) pa 2048 = false := by rw [hwalk]; exact hmark
  have htr4 : (tr == 4) = false := beq_eq_false_iff_ne.mpr (by omega)
  change execWarpCreate s.warp.id s = _
  rw [execWarpCreate, findWarp_focus]
  simp only [hcreating, bne_self_eq_false, Bool.false_eq_true, if_false, deviceXlat, if_true, hx, hreach', hmark', htr4, hrun, Bool.not_true, Bool.or_self]

theorem exec_warpCreate_fault {stg lv ad e : Nat} (hx : translate s s.warp.die none s.warp.ctx s.warp.spill.toNat = .fault stg lv ad e) :
    ∃ t id, exec (.warpCreate s.warp.id) s = .next t ∧ t.warp = { s.warp with status := .held id }
      ∧ ∃ f ∈ t.faults, f.id = id ∧ f.ctx = s.warp.ctx ∧ f.waiters = [.creation s.warp.id] := by
  let u := walked s s.warp.die none s.warp.ctx s.warp.spill.toNat
  let parked := parkFault u (vfOfContext u s.warp.ctx) s.warp.ctx s.warp.die .recordCopy stg lv ad e (.creation s.warp.id)
  obtain ⟨hwarp, hfault⟩ := parkFault_spec u (vfOfContext u s.warp.ctx) s.warp.ctx s.warp.die .recordCopy stg lv ad e (.creation s.warp.id)
  have hfocus : parked.2.warp = s.warp := hwarp.trans (walked_memBecomes s _ _ _ _).warp
  have hexec : exec (.warpCreate s.warp.id) s = .next (updateWarp parked.2 s.warp.id fun w => { w with status := .held parked.1 }) := by
    change execWarpCreate s.warp.id s = _
    rw [execWarpCreate, findWarp_focus]
    simp only [hcreating, bne_self_eq_false, Bool.false_eq_true, if_false, deviceXlat, if_true, hx]
    rfl
  refine ⟨_, parked.1, hexec, ?_⟩
  rw [← hfocus, updateWarp_focus]
  exact ⟨rfl, hfocus ▸ hfault⟩

theorem exec_warpCreate_unmapped
    (hx : translate s s.warp.die none s.warp.ctx s.warp.spill.toNat = .page ∨ translate s s.warp.die none s.warp.ctx s.warp.spill.toNat = .access) :
    exec (.warpCreate s.warp.id) s = .next (createFail (walked s s.warp.die none s.warp.ctx s.warp.spill.toNat) s.warp) := by
  change execWarpCreate s.warp.id s = _
  rw [execWarpCreate, findWarp_focus]
  rcases hx with hx | hx <;>
    simp only [hcreating, bne_self_eq_false, Bool.false_eq_true, if_false, deviceXlat, if_true, hx]

theorem exec_warpCreate_refused {pa tr : Nat} {r pw x w2 : Bool} (hx : translate s s.warp.die none s.warp.ctx s.warp.spill.toNat = .ok pa tr r pw x w2)
    (hno : w2 = false ∨ tr = 4 ∨ reachable s pa = false ∨ touchesMark s pa 2048 = true) :
    exec (.warpCreate s.warp.id) s = .next (createFail (walked s s.warp.die none s.warp.ctx s.warp.spill.toNat) s.warp) := by
  obtain ⟨g, l, hwalk⟩ := walked_eq s s.warp.die none s.warp.ctx s.warp.spill.toNat
  have hrefused : (!w2 || tr == 4 || !reachable (walked s s.warp.die none s.warp.ctx s.warp.spill.toNat) pa
      || touchesMark (walked s s.warp.die none s.warp.ctx s.warp.spill.toNat) pa 2048) = true := by
    rw [hwalk]
    change (!w2 || tr == 4 || !reachable s pa || touchesMark s pa 2048) = true
    rcases hno with h | h | h | h <;> simp [h]
  change execWarpCreate s.warp.id s = _
  rw [execWarpCreate, findWarp_focus]
  simp only [hcreating, bne_self_eq_false, Bool.false_eq_true, if_false, deviceXlat, if_true, hx, hrefused]

/-- A creation that may go there: every record stands where its lane's is written, and every lane has it. -/
theorem warpCreate_copies {pa tr : Nat} {r pw x : Bool} (h : Still s) (hmem : s.memOk = true) (hlen : s.warp.recs.length = 32)
    (hx : translate s s.warp.die none s.warp.ctx s.warp.spill.toNat = .ok pa tr r pw x true) (htr : tr ≤ 3) (hreach : reachable s pa = true)
    (hmark : touchesMark s pa 2048 = false) :
    ∃ t, exec (.warpCreate s.warp.id) s = .next t ∧ t.others = s.others ∧ t.warp = started s.warp
      ∧ ∀ l r, s.warp.recs[l]? = some (some r) → Memory.readBytes t.mem (pa + 64 * l) 64 = recordBytes r := by
  have hwalk := walked_memBecomes s s.warp.die none s.warp.ctx s.warp.spill.toNat
  have hcopied := foldl_copyRecord tr (recordCopies s.warp pa) ((Unhindered.of_still h).memBecomes hwalk)
  have hwf : Memory.wf s.mem = true := (Bool.and_eq_true_iff.mp hmem).1
  rw [hwalk.mem] at hcopied
  have hall := hwalk.trans hcopied
  refine ⟨_, exec_warpCreate_ok hcreating h hx htr hreach hmark, ?_⟩
  generalize (recordCopies s.warp pa).foldl (copyRecord tr) (walked s s.warp.die none s.warp.ctx s.warp.spill.toNat) = t at hall ⊢
  rw [← hall.warp, startWarp_focus]
  refine ⟨hall.others, rfl, fun l r hl => ?_⟩
  have hread := readBytes_writeRuns hwf (recordCopies_pairwise s.warp pa) _ (mem_recordCopies hlen (hall.warp ▸ hl) pa)
  rw [length_recordBytes] at hread
  exact (congrArg (fun m => Memory.readBytes m (pa + 64 * l) 64) hall.mem).trans hread

end Creation

end Sys2Proof.Machine
end

section
/-!
### Distributors (O47, R217 to R219)
-/

namespace Sys2Proof.Machine

/-! #### A launch's shares -/

/-- The share of a die in a launch under way. -/
def shareIn (s : State) (key die : Nat) : Option Distributor := (findLaunch s key).bind fun l => l.dists.find? fun x => x.die == die

theorem key_of_findLaunch {s : State} {key : Nat} {l : Launch} (h : findLaunch s key = some l) : l.key = key := by
  have hkey := List.find?_some h
  exact beq_iff_eq.mp hkey

theorem die_of_find {dists : List Distributor} {die : Nat} {x : Distributor} (h : (dists.find? fun x => x.die == die) = some x) : x.die = die := by
  have hdie := List.find?_some h
  exact beq_iff_eq.mp hdie

theorem find?_setDist (l : Launch) {d : Distributor} {die : Nat} (h : d.die = die) :
    ((setDist l d).dists.find? fun x => x.die == die) = (l.dists.find? fun x => x.die == die).map fun _ => d := by
  subst h
  exact find?_updateWhere l.dists fun x _ => beq_self_eq_true d.die

theorem find?_setDist_other (l : Launch) {d : Distributor} {die : Nat} (h : d.die ≠ die) :
    ((setDist l d).dists.find? fun x => x.die == die) = l.dists.find? fun x => x.die == die := by
  refine find?_updateWhere_other l.dists fun x hx => ?_
  rw [beq_iff_eq.mp hx]
  exact ⟨beq_eq_false_iff_ne.mpr h, beq_eq_false_iff_ne.mpr h⟩

theorem findLaunch_updateLaunch {s : State} {k : Nat} {l : Launch} {f : Launch → Launch} (h : findLaunch s k = some l) (hf : ∀ l, (f l).key = l.key) :
    findLaunch (updateLaunch s k f) k = some (f l) := by
  have hfind : findLaunch (updateLaunch s k f) k = (findLaunch s k).map f := find?_updateWhere s.launches fun l hl => by rwa [hf l]
  rw [hfind, h]
  rfl

theorem findLaunch_congr {s t : State} (h : t.launches = s.launches) (k : Nat) : findLaunch t k = findLaunch s k := by rw [findLaunch, findLaunch, h]

section Shares

variable {s : State} {key die : Nat} {l : Launch} {d : StageDecl} {x : Distributor} (hl : findLaunch s key = some l)
  (hx : (l.dists.find? fun x => x.die == die) = some x)

include hl hx

/-- A die's next index is made in a core's bobbin: the record it becomes waits there last, and the share has one index fewer. -/
theorem makeGroup_spec (d : StageDecl) (core : Nat) (hlt : x.lo < x.hi) :
    let t := makeGroup s l d die core
    (findBobbin t l.ctx l.pat 0 die core).recs = (findBobbin s l.ctx l.pat 0 die core).recs ++ [groupRecord l x.lo]
      ∧ shareIn t key die = some { x with lo := x.lo + 1 } ∧ t.mem = s.mem := by
  intro t
  have hkey : l.key = key := key_of_findLaunch hl
  have hdie : x.die = die := die_of_find hx
  let u := updateLaunch s key fun l => setDist l { x with lo := x.lo + 1 }
  let b := findBobbin u l.ctx l.pat 0 die core
  have hmade : t = noteReady (enterRecord u d b (groupRecord l x.lo)) := by
    change makeGroup s l d die core = _
    rw [makeGroup, hx, Option.bind_some, Distributor.take, if_pos hlt, hkey]
  obtain ⟨n, q, c, hnote⟩ := noteReady_eq (enterRecord u d b (groupRecord l x.lo))
  have hlaunches : t.launches = u.launches := by
    rw [hmade, hnote]
    exact enterRecord_launches u d b _
  refine ⟨?_, ?_, ?_⟩
  · rw [hmade, hnote]
    exact findBobbin_enterRecord u (isBobbin_findBobbin u l.ctx l.pat 0 die core) d (groupRecord l x.lo)
  · have hfound : findLaunch u key = some (setDist l { x with lo := x.lo + 1 }) := findLaunch_updateLaunch hl fun _ => rfl
    rw [shareIn, findLaunch_congr hlaunches, hfound, Option.bind_some, find?_setDist l (d := { x with lo := x.lo + 1 }) hdie, hx]
    rfl
  · rw [hmade, hnote]
    exact enterRecord_mem u d b _

theorem steal_spec {v : Distributor} {vs : List Distributor} (hleft : x.left l.groups = 0) (hdone : x.done = false) (hvictim : victimOrder l die = v :: vs)
    (hblocks : v.blocks ≠ 0) :
    let k := v.first + v.step * (v.blocks - 1)
    ∃ t, exec (.steal key die) s = .next t ∧ shareIn t key die = some { x with lo := 8 * k, hi := min l.groups (8 * k + 8) }
      ∧ shareIn t key v.die = some { v with blocks := v.blocks - 1 } := by
  intro k
  have hdie : x.die = die := die_of_find hx
  obtain ⟨hv, hvdie⟩ : v ∈ l.dists ∧ v.die ≠ die := by
    have hmem : v ∈ victimOrder l die := hvictim ▸ List.mem_cons_self
    simpa using List.mem_filter.mp (mem_sortBy.mp hmem)
  obtain ⟨y, hy⟩ := Option.isSome_iff_exists.mp (List.find?_isSome (p := fun y : Distributor => y.die == v.die).mpr ⟨v, hv, beq_self_eq_true v.die⟩)
  let x' : Distributor := { x with lo := 8 * k, hi := min l.groups (8 * k + 8) }
  let v' : Distributor := { v with blocks := v.blocks - 1 }
  have hgive : Distributor.give l.groups v = some ((8 * k, min l.groups (8 * k + 8)), v') := by rw [Distributor.give, if_pos hblocks]
  have hexec : exec (.steal key die) s = .next (updateLaunch s key fun l => setDist (setDist l v') x') := by
    have hgo : (x.left l.groups != 0 || x.done) = false := by rw [hleft, hdone]; rfl
    change execSteal key die s = _
    simp only [execSteal, hl, hx, hgo, Bool.false_eq_true, if_false, hvictim, List.findSome?_cons, hgive]
    rfl
  have hlaunch : findLaunch (updateLaunch s key fun l => setDist (setDist l v') x') key = some (setDist (setDist l v') x') :=
    findLaunch_updateLaunch hl fun _ => rfl
  refine ⟨_, hexec, ?_, ?_⟩
  · rw [shareIn, hlaunch, Option.bind_some, find?_setDist (setDist l v') (d := x') hdie, find?_setDist_other l (d := v') hvdie, hx]
    rfl
  · have hother : x'.die ≠ v.die := fun h => hvdie (h.symm.trans hdie)
    rw [shareIn, hlaunch, Option.bind_some, find?_setDist_other _ hother, find?_setDist l (d := v') rfl, hy]
    rfl

end Shares

/-! #### The rows of group records -/

section GroupRecords

variable {s : State} {key die core : Nat} {l : Launch} {d : StageDecl} (hl : findLaunch s key = some l) (hd : declOf s l.ctx l.pat 0 = some d)

include hl hd

theorem exec_groupRecordMake (hempty : emptiest s l d die = some core) : exec (.groupRecordMake key die) s = .next (makeGroup s l d die core) := by
  change execGroupRecordMake key die s = _
  simp only [execGroupRecordMake, hl, hd, hempty]

variable (hroom : (findBobbin s l.ctx l.pat 0 die core).recs.length < 2) (hcore : (groupCores d).contains core = true)
  (hheld : contextHeld s l.ctx = false)

include hroom hcore hheld

theorem exec_bobbinTake_make (hnone : donor s l die core = none) : exec (.bobbinTake key die core) s = .next (makeGroup s l d die core) := by
  change execBobbinTake key die core s = _
  simp only [execBobbinTake, hl, hd, decide_eq_false (Nat.not_le.mpr hroom), hcore, hheld, Bool.not_true, Bool.or_self, Bool.false_eq_true, if_false, hnone]

/-- A record taken from another core of the quad is that bobbin's last. -/
theorem bobbinTake_spec {c : Nat} {r : Record} (hdonor : donor s l die core = some c)
    (hlast : (findBobbin s l.ctx l.pat 0 die c).recs.getLast? = some r) :
    ∃ t, exec (.bobbinTake key die core) s = .next t
      ∧ (findBobbin t l.ctx l.pat 0 die core).recs = (findBobbin s l.ctx l.pat 0 die core).recs ++ [r]
      ∧ (findBobbin t l.ctx l.pat 0 die c).recs = (findBobbin s l.ctx l.pat 0 die c).recs.dropLast ∧ t.mem = s.mem := by
  let b := findBobbin s l.ctx l.pat 0 die core
  let v := findBobbin s l.ctx l.pat 0 die c
  let u := setBobbin s { v with recs := v.recs.dropLast }
  have hexec : exec (.bobbinTake key die core) s = .next (enterRecord u d b r) := by
    change execBobbinTake key die core s = _
    simp only [execBobbinTake, hl, hd, decide_eq_false (Nat.not_le.mpr hroom), hcore, hheld, Bool.not_true, Bool.or_self, Bool.false_eq_true, if_false,
      hdonor, hlast]
    rfl
  have hother : b.core ≠ c := by
    obtain ⟨-, -, -, -, hb⟩ := isBobbin_iff.mp (isBobbin_findBobbin s l.ctx l.pat 0 die core)
    have hc := List.find?_some hdonor
    simp only [Bool.and_eq_true, bne_iff_ne] at hc
    exact fun h => hc.1 (h.symm.trans hb)
  have hv : isBobbin l.ctx l.pat 0 die c { v with recs := v.recs.dropLast } = true := isBobbin_findBobbin s l.ctx l.pat 0 die c
  refine ⟨_, hexec, findBobbin_enterRecord u (isBobbin_findBobbin s l.ctx l.pat 0 die core) d r, ?_, ?_⟩
  · rw [findBobbin_enterRecord_other u hother, findBobbin_setBobbin s hv]
  · rw [enterRecord_mem, show u = _ from setBobbin_eq _ _]

end GroupRecords

end Sys2Proof.Machine
end

section
/-! ### Settled: from records to warps (O47) -/

open Sys2Proof Sys2Proof.Machine

/-- Settles O47: each row is its device function's case under the clause's premises, and what it leaves is read off by the rules of the bobbin, the
segment, the slots and the shares. -/
theorem launchRows : Obligations.LaunchRows := by
  intro s die core part slot ctx stage key pat st b
  have hb : isBobbin ctx pat st die core b = true := isBobbin_findBobbin s ctx pat st die core
  refine ⟨fun e es p d c bs hentries hp hd => ⟨exec_overflowToBobbin_held hentries hp hd, ?_⟩, fun hrecs hon => ?_, fun p d hp hd hmay hslot => ?_,
    fun hrefused => ?_, ?_, fun l d x c hl hd hx hlt => ?_, fun l x v vs hl hx hleft hdone hvictim hblocks => ?_⟩
  case refine_1 =>
    intro s1 hheld hpoison hstack hread hcore r
    have hexec := exec_overflowToBobbin_read hentries hp hd hheld hpoison hstack hread (bobbinCores_find hcore)
    refine ⟨fun hgood => ?_, fun hbad => ?_⟩
    · rw [if_neg (Bool.eq_false_iff.mp hgood)] at hexec
      exact ⟨_, hexec, enterRecord_setSegment (deviceTouch_touched s die ctx e.va.toNat 64) d es r⟩
    · rwa [if_pos hbad] at hexec
  case refine_2 =>
    refine ⟨_, exec_gatherTimerExpire hrecs hon, findBobbin_setBobbin s (b := { b with expired := true }) hb, ?_⟩
    rw [setBobbin_eq]
  case refine_3 =>
    have hexec := exec_bobbinLaunch hp hd hmay hslot
    refine ⟨fun hthread => ?_, fun r rs hgroup hrecs => ?_⟩
    · rw [launchBobbin, if_neg (Bool.eq_false_iff.mp hthread)] at hexec
      obtain ⟨w, hw⟩ := launchThreads_spec hb p d part slot
      exact ⟨_, w, hexec, hw⟩
    · rw [launchBobbin, if_pos hgroup] at hexec
      obtain ⟨g, hleft, hmem, hgroups, hkey, hsize, hscratch, hobjs, hmarks, hgidx, hmembers⟩ := launchGroup_spec hb part slot hgroup hmay hrecs
      refine ⟨_, g, hexec, hleft, hmem, hgroups, hkey, hsize, hscratch, hobjs, hmarks, hgidx, fun i hi => ?_⟩
      obtain ⟨w, hw, hmember⟩ := hmembers i hi
      exact ⟨w, hw, hmember.group, hmember.index, hmember.die, hmember.status, hmember.core.trans (coreAt_coresOf d.size core i), hmember.recs⟩
  case refine_4 =>
    have hexec := exec_slotAssign core hrefused
    refine ⟨fun hrest hcand => ?_, fun c cs hcand => ⟨candidates_prio hcand, fun hslot hrest => ?_, fun x y xs hrest => ⟨fun hprio => ?_, fun hprio hslot => ?_⟩⟩,
      fun x y xs hrest hcand => ?_⟩
    · rw [hexec, assignSlot_none hrest hcand]
    · rw [hexec, assignSlot_launch hslot hcand (by simp [hrest])]
    · rw [hexec, assignSlot_restore hrest (by simp [hcand, hprio])]
    · rw [hexec, assignSlot_launch hslot hcand (by simp [hrest, hprio])]
    · rw [hexec, assignSlot_restore hrest (by simp [hcand])]
  case refine_5 =>
    rintro rfl hcreating
    refine ⟨fun pa tr r pw x h hmem hlen hx htr hreach hmark => ?_, fun lv ad e stg hx => exec_warpCreate_fault hcreating hx,
      exec_warpCreate_unmapped hcreating, fun pa tr r pw x w2 hx hno => exec_warpCreate_refused hcreating hx hno⟩
    obtain ⟨t, hexec, hothers, hwarp, hread⟩ := warpCreate_copies hcreating h hmem hlen hx htr hreach hmark
    refine ⟨t, hexec, hothers, by rw [hwarp]; rfl, fun l r hl => ⟨hread l r hl, ?_⟩⟩
    rw [hwarp]
    exact started_lane hl
  case refine_6 =>
    intro at_ share g made
    have hmade := makeGroup_spec hl hx d core hlt
    refine ⟨fun hempty => ⟨_, exec_groupRecordMake hl hd hempty, hmade⟩, fun hroom hcore hheld => ⟨fun hnone => ?_, fun r hdonor hlast => ?_⟩⟩
    · exact ⟨_, exec_bobbinTake_make hl hd hroom hcore hheld hnone, hmade⟩
    · exact bobbinTake_spec hl hd hroom hcore hheld hdonor hlast
  case refine_7 => exact steal_spec hl hx hleft hdone hvictim hblocks

end

section
/-!
### Encoding (O55, O56)

The decoder reads a word's fields part by part: F's digits, U, the guard, and what its entry uses of [45:13]. Each part reads as a value exactly where
it holds the value's code,
  so that the fields read as an instruction exactly where they are the instruction's fields (`reads`). Both obligations follow.
-/

namespace Sys2Proof

/-! #### Codes and the values they stand for (R40, R41, R59 to R61, R66 to R73) -/

theorem Ty.ofCode_eq_some {n : Nat} {v : Ty} : Ty.ofCode n = some v ↔ n = v.code :=
  ⟨by fun_cases Ty.ofCode n <;> rintro ⟨⟩ <;> rfl, by rintro rfl; cases v <;> rfl⟩

theorem Rnd.ofCode_eq_some {n : Nat} {v : Rnd} : Rnd.ofCode n = some v ↔ n = v.code :=
  ⟨by fun_cases Rnd.ofCode n <;> rintro ⟨⟩ <;> rfl, by rintro rfl; cases v <;> rfl⟩

theorem Scope.ofCode_eq_some {n : Nat} {v : Scope} : Scope.ofCode n = some v ↔ n = v.code :=
  ⟨by fun_cases Scope.ofCode n <;> rintro ⟨⟩ <;> rfl, by rintro rfl; cases v <;> rfl⟩

theorem Order.ofCode_eq_some {n : Nat} {v : Order} : Order.ofCode n = some v ↔ n = v.code :=
  ⟨by fun_cases Order.ofCode n <;> rintro ⟨⟩ <;> rfl, by rintro rfl; cases v <;> rfl⟩

theorem FenceOrder.ofCode_eq_some {n : Nat} {v : FenceOrder} : FenceOrder.ofCode n = some v ↔ n = v.code :=
  ⟨by fun_cases FenceOrder.ofCode n <;> rintro ⟨⟩ <;> rfl, by rintro rfl; cases v <;> rfl⟩

theorem Cond.ofCode_eq_some {n : Nat} {v : Cond} : Cond.ofCode n = some v ↔ n = v.code :=
  ⟨by fun_cases Cond.ofCode n <;> rintro ⟨⟩ <;> rfl, by rintro rfl; cases v <;> rfl⟩

theorem VoteMode.ofCode_eq_some {n : Nat} {v : VoteMode} : VoteMode.ofCode n = some v ↔ n = v.code :=
  ⟨by fun_cases VoteMode.ofCode n <;> rintro ⟨⟩ <;> rfl, by rintro rfl; cases v <;> rfl⟩

theorem ShflMode.ofCode_eq_some {n : Nat} {v : ShflMode} : ShflMode.ofCode n = some v ↔ n = v.code :=
  ⟨by fun_cases ShflMode.ofCode n <;> rintro ⟨⟩ <;> rfl, by rintro rfl; cases v <;> rfl⟩

theorem RedOp.ofCode_eq_some {n : Nat} {v : RedOp} : RedOp.ofCode n = some v ↔ n = v.code :=
  ⟨by fun_cases RedOp.ofCode n <;> rintro ⟨⟩ <;> rfl, by rintro rfl; cases v <;> rfl⟩

theorem Size.ofCode_eq_some {n : Nat} {v : Size} : Size.ofCode n = some v ↔ n = v.code :=
  ⟨by fun_cases Size.ofCode n <;> rintro ⟨⟩ <;> rfl, by rintro rfl; cases v <;> rfl⟩

theorem Hint.ofCode_eq_some {n : Nat} {v : Hint} : Hint.ofCode n = some v ↔ n = v.code :=
  ⟨by fun_cases Hint.ofCode n <;> rintro ⟨⟩ <;> rfl, by rintro rfl; cases v <;> rfl⟩

theorem PrefLevel.ofCode_eq_some {n : Nat} {v : PrefLevel} : PrefLevel.ofCode n = some v ↔ n = v.code :=
  ⟨by fun_cases PrefLevel.ofCode n <;> rintro ⟨⟩ <;> rfl, by rintro rfl; cases v <;> rfl⟩

theorem CctlOp.ofCode_eq_some {n : Nat} {v : CctlOp} : CctlOp.ofCode n = some v ↔ n = v.code :=
  ⟨by fun_cases CctlOp.ofCode n <;> rintro ⟨⟩ <;> rfl, by rintro rfl; cases v <;> rfl⟩

theorem AtomOp.ofCode_eq_some {n : Nat} {v : AtomOp} : AtomOp.ofCode n = some v ↔ n = v.code :=
  ⟨by fun_cases AtomOp.ofCode n <;> rintro ⟨⟩ <;> rfl, by rintro rfl; cases v <;> rfl⟩

theorem AtomWidth.ofCode_eq_some {n : Nat} {v : AtomWidth} : AtomWidth.ofCode n = some v ↔ n = v.code :=
  ⟨by fun_cases AtomWidth.ofCode n <;> rintro ⟨⟩ <;> rfl, by rintro rfl; cases v <;> rfl⟩

theorem CopyDir.ofCode_eq_some {n : Nat} {v : CopyDir} : CopyDir.ofCode n = some v ↔ n = v.code :=
  ⟨by fun_cases CopyDir.ofCode n <;> rintro ⟨⟩ <;> rfl, by rintro rfl; cases v <;> rfl⟩

theorem TileMode.ofCode_eq_some {n : Nat} {v : TileMode} : TileMode.ofCode n = some v ↔ n = v.code :=
  ⟨by fun_cases TileMode.ofCode n <;> rintro ⟨⟩ <;> rfl, by rintro rfl; cases v <;> rfl⟩

theorem PlaneFmt.ofCode_eq_some {n : Nat} {v : PlaneFmt} : PlaneFmt.ofCode n = some v ↔ n = v.code :=
  ⟨by fun_cases PlaneFmt.ofCode n <;> rintro ⟨⟩ <;> rfl, by rintro rfl; cases v <;> rfl⟩

theorem DrainConv.ofCode_eq_some {n : Nat} {v : DrainConv} : DrainConv.ofCode n = some v ↔ n = v.code :=
  ⟨by fun_cases DrainConv.ofCode n <;> rintro ⟨⟩ <;> rfl, by rintro rfl; cases v <;> rfl⟩

theorem DrainAct.ofCode_eq_some {n : Nat} {v : DrainAct} : DrainAct.ofCode n = some v ↔ n = v.code :=
  ⟨by fun_cases DrainAct.ofCode n <;> rintro ⟨⟩ <;> rfl, by rintro rfl; cases v <;> rfl⟩

theorem srcOf_code (v : Src) : srcOf v.code = v := by
  cases v with
  | w k => revert k; decide
  | f k => revert k; decide
  | x k => revert k; decide
  | imm k => revert k; decide
  | _ => rfl

theorem code_srcOf {n : Nat} (hn : n < 128) (h63 : n ≠ 63) : (srcOf n).code = n := by
  have h : ∀ k : Fin 128, k.val ≠ 63 → (srcOf k.val).code = k.val := by decide
  exact h ⟨n, hn⟩ h63

theorem Src.code_ne (v : Src) : v.code ≠ 63 := by
  cases v <;> simp only [Src.code] <;> omega

/-- A specifier that is not 63 reads as the operand whose code it is, and 63 is no operand's code (R40). -/
theorem Src.code_eq_iff {n : Nat} (hn : n < 128) {v : Src} : v.code = n ↔ n ≠ 63 ∧ srcOf n = v := by
  constructor
  · rintro rfl
    exact ⟨v.code_ne, srcOf_code v⟩
  · rintro ⟨h63, rfl⟩
    exact code_srcOf hn h63

/-- A modifier field reads as the modifier whose code it is (R41). -/
theorem Mod.code_eq_iff {n : Nat} (hn : n < 64) {v : Mod} : v.code = n ↔ modOf n = v := by
  constructor
  · rintro rfl
    obtain ⟨n, a, h, s⟩ := v
    revert n a h s
    decide
  · rintro rfl
    have h : ∀ k : Fin 64, (modOf k.val).code = k.val := by decide
    exact h ⟨n, hn⟩

theorem bit64_eq_iff {n : Nat} (h : n < 2) {b : Bool} : bit64 n = b ↔ n = b2n b := by
  have : n = 0 ∨ n = 1 := by omega
  rcases this with rfl | rfl <;> cases b <;> decide

theorem bit_eq_iff {x : Fields} {k : Nat} {b : Bool} : bit x k = b ↔ fb x k 1 = b2n b :=
  bit64_eq_iff (Nat.mod_lt _ (by decide))

theorem finOfNat_eq_iff {k n : Nat} [NeZero k] {v : Fin k} : Fin.ofNat k n = v ↔ n % k = v.val := Fin.ext_iff

theorem bitVecOfNat_eq_iff {k n : Nat} {v : BitVec k} : BitVec.ofNat k n = v ↔ n % 2 ^ k = v.toNat := by
  rw [BitVec.toNat_eq, BitVec.toNat_ofNat]

theorem guard_eq_iff {x : Fields} (hx : x.fits = true) {g : Guard} : guard x = g ↔ x.neg = b2n g.neg ∧ x.gp = g.p.val := by
  obtain ⟨-, -, hneg, hgp, -⟩ := (Laws.fits_iff x).mp hx
  rw [guard, Guard.mk.injEq, bit64_eq_iff hneg, finOfNat_eq_iff, Nat.mod_eq_of_lt hgp]

theorem pegSel_eq_iff {x : Fields} {p : PegSel} : pegSel x = p ↔ fb x 11 2 = p.code := by
  have := Laws.b2n_lt p.a
  have := Laws.b2n_lt p.b
  rw [pegSel, PegSel.mk.injEq, bit_eq_iff, bit_eq_iff]
  simp only [fb, PegSel.code]
  omega

theorem spaceOfBit_eq_iff {x : Fields} {k : Nat} {sp : Space} : Space.ofBit (bit x k) = sp ↔ fb x k 1 = sp.code := by
  rw [← (bit_eq_iff (x := x) (k := k)).mp rfl |>.symm]
  cases bit x k <;> cases sp <;> decide

/-- The scope field reads as the scope whose code it is, and 7 is no scope's code (R61). -/
theorem scope_eq_iff {x : Fields} {sc : Scope} : fb x 8 3 ≠ 7 ∧ scope x = sc ↔ fb x 8 3 = sc.code := by
  have h : ∀ k : Fin 8, k.val ≠ 7 ∧ (Scope.ofCode k.val).getD .thread = sc ↔ k.val = sc.code := by
    cases sc <;> decide
  exact h ⟨fb x 8 3, Nat.mod_lt _ (by decide)⟩

theorem fcmpTy_eq_some {n : Nat} {t : Ty} : fcmpTy n = some t ↔ t.isWide = true ∧ n + 16 = t.code := by
  constructor
  · intro h
    unfold fcmpTy at h
    split at h <;> cases h <;> decide
  · rintro ⟨hw, hn⟩
    cases t <;> cases hw <;> (obtain rfl := Nat.add_right_cancel hn; rfl)

theorem base_eq_baseU (op : Nat) (g : Guard) : base op g = baseU op false g := rfl

/-! #### The word's parts -/

/-- The opcode, the bit U, the guard and F of a word (R37). -/
def Fields.Heads (x : Fields) (op : Nat) (u : Bool) (g : Guard) (n : Nat) : Prop := x.op = op ∧ x.f = n ∧ x.u = b2n u ∧ guard x = g

theorem Fields.u_lt {x : Fields} (hx : x.fits = true) : x.u < 2 := by
  obtain ⟨-, hu, -⟩ := (Laws.fits_iff x).mp hx
  exact hu

theorem Fields.f_lt {x : Fields} (hx : x.fits = true) : x.f < 8192 := by
  obtain ⟨-, -, -, -, -, -, -, -, -, hf⟩ := (Laws.fits_iff x).mp hx
  exact hf

theorem Fields.heads_iff {x : Fields} {op n : Nat} {u : Bool} {g : Guard} : x.Heads op u g n ↔ x.Heads op u g x.f ∧ x.f = n := by
  simp only [Fields.Heads]
  grind

section Shapes

variable {x : Fields} {op n : Nat} {u : Bool} {g : Guard} (hx : x.fits = true)
include hx

theorem Fields.eq_iff {a b c ma mb : Nat} : (⟨op, b2n u, b2n g.neg, g.p.val, a, b, c, ma, mb, n⟩ : Fields) = x ↔
    x.Heads op u g n ∧ a = x.a ∧ b = x.b ∧ c = x.c ∧ ma = x.ma ∧ mb = x.mb := by
  rw [Fields.Heads, guard_eq_iff hx]
  cases x
  simp only [Fields.mk.injEq]
  constructor <;> (intro h; simp_all)

theorem withMid_eq_iff {m : Nat} (hm : m < 2 ^ 33) : withF ((baseU op u g).withMid m) n = x ↔ x.Heads op u g n ∧ x.mid = m := by
  obtain ⟨-, -, -, -, ha, hb, hc, hma, hmb, -⟩ := (Laws.fits_iff x).mp hx
  simp only [withF, Fields.withMid, baseU, base, Fields.eq_iff hx, Fields.mid]
  refine and_congr_right' ?_
  omega

theorem withNone_eq_iff {mt : Bool} : withF (baseU op u g) n = x ↔ x.Heads op u g n ∧ Use.none.ok mt x = true ∧ True := by
  rw [show withF (baseU op u g) n = withF ((baseU op u g).withMid 0) n from rfl, withMid_eq_iff hx (by decide), Use.ok, beq_iff_eq, and_true]

theorem mid_lt : x.mid < 2 ^ 33 := by
  obtain ⟨-, -, -, -, ha, hb, hc, hma, hmb, -⟩ := (Laws.fits_iff x).mp hx
  rw [Fields.mid]
  omega

theorem withOffset_eq_iff {mt : Bool} {o : BitVec 33} : withF (withOffset (baseU op u g) o) n = x ↔
    x.Heads op u g n ∧ Use.offset.ok mt x = true ∧ offset x = o := by
  rw [withOffset, withMid_eq_iff hx o.isLt, offset, bitVecOfNat_eq_iff, Nat.mod_eq_of_lt (mid_lt hx), Use.ok, eq_self, true_and]

theorem withSeam_eq_iff {mt : Bool} {d : SeamDecl} : withSeam (baseU op u g) d = x ↔
    x.Heads op u g x.f ∧ Use.seam.ok mt x = true ∧ seamDecl x = d := by
  have hm := mid_lt hx
  have hf := Fields.f_lt hx
  obtain ⟨d0, d1, k, s0, s1, s2, s3, s4, s5, s6, s7⟩ := d
  refine (withMid_eq_iff hx (by dsimp only; omega)).trans ?_
  rw [Fields.heads_iff, and_assoc]
  refine and_congr_right' ?_
  simp only [Use.ok, seamDecl, beq_iff_eq, SeamDecl.mk.injEq, finOfNat_eq_iff]
  generalize x.mid = m at *
  generalize x.f = f at *
  constructor
  · rintro ⟨rfl, rfl⟩
    refine ⟨?_, ?_, ?_, ?_, ?_, ?_, ?_, ?_, ?_, ?_, ?_, ?_⟩ <;> omega
  · rintro ⟨hz, h0, h1, hk, h2, h3, h4, h5, h6, h7, h8, h9⟩
    have hlow : m % 4 = s5.val / 4 := by clear * - h7 hf; omega
    refine ⟨?_, ?_⟩
    · clear * - hz h7 h8 h9 hf; omega
    · clear h7 h8 h9 hz hf
      omega

theorem withConform_eq_iff {mt : Bool} {c : ConformSel} : withF (withConform (baseU op u g) c) n = x ↔
    x.Heads op u g n ∧ Use.conform.ok mt x = true ∧ conformSel x = c := by
  have hm := mid_lt hx
  have ha : x.a < 64 ↔ x.mid < 2 ^ 32 := by
    obtain ⟨-, -, -, -, ha, hb, hc, hma, hmb, -⟩ := (Laws.fits_iff x).mp hx
    rw [Fields.mid]
    omega
  obtain ⟨c0, c1, c2, c3, c4, c5, c6, c7⟩ := c
  refine (withMid_eq_iff hx (by dsimp only; omega)).trans (and_congr_right' ?_)
  simp only [Use.ok, decide_eq_true_eq, ha, conformSel, ConformSel.mk.injEq, finOfNat_eq_iff]
  generalize x.mid = m at *
  constructor
  · rintro rfl
    refine ⟨?_, ?_, ?_, ?_, ?_, ?_, ?_, ?_, ?_⟩ <;> omega
  · rintro ⟨hz, h0, h1, h2, h3, h4, h5, h6, h7⟩
    omega

theorem withPlop_eq_iff {mt : Bool} {pa pb pc : Fin 128} {pd : Fin 64} : withF (withPlop (baseU op u g) pa pb pc pd) n = x ↔
    x.Heads op u g n ∧ Use.plop.ok mt x = true ∧ Fin.ofNat 128 x.a = pa ∧ Fin.ofNat 128 x.b = pb ∧ Fin.ofNat 128 x.c = pc ∧
      Fin.ofNat 64 x.ma = pd := by
  obtain ⟨-, -, -, -, ha, hb, hc, hma, hmb, -⟩ := (Laws.fits_iff x).mp hx
  simp only [withF, withPlop, baseU, base, Fields.eq_iff hx, Use.ok, beq_iff_eq, finOfNat_eq_iff]
  refine and_congr_right' ?_
  omega

theorem withA_eq_iff {mt : Bool} {a : Src} : withF (withA (baseU op u g) a) n = x ↔
    x.Heads op u g n ∧ Use.a.ok mt x = true ∧ srcA x = a := by
  obtain ⟨-, -, -, -, ha, -⟩ := (Laws.fits_iff x).mp hx
  simp only [withF, withA, baseU, base, Fields.eq_iff hx, Src.code_eq_iff ha, Use.ok, srcA, Bool.and_eq_true, bne_iff_ne]
  grind

theorem withAB_eq_iff {mt : Bool} {a b : Src} : withF (withB (withA (baseU op u g) a) b) n = x ↔
    x.Heads op u g n ∧ Use.ab.ok mt x = true ∧ srcA x = a ∧ srcB x = b := by
  obtain ⟨-, -, -, -, ha, hb, -⟩ := (Laws.fits_iff x).mp hx
  simp only [withF, withB, withA, baseU, base, Fields.eq_iff hx, Src.code_eq_iff ha, Src.code_eq_iff hb, Use.ok, srcA, srcB, Bool.and_eq_true,
    bne_iff_ne]
  grind

theorem withABC_eq_iff {mt : Bool} {a b c : Src} : withF (withC (withB (withA (baseU op u g) a) b) c) n = x ↔
    x.Heads op u g n ∧ Use.abc.ok mt x = true ∧ srcA x = a ∧ srcB x = b ∧ srcC x = c := by
  obtain ⟨-, -, -, -, ha, hb, hc, -⟩ := (Laws.fits_iff x).mp hx
  simp only [withF, withC, withB, withA, baseU, base, Fields.eq_iff hx, Src.code_eq_iff ha, Src.code_eq_iff hb, Src.code_eq_iff hc, Use.ok, srcA,
    srcB, srcC, Bool.and_eq_true, bne_iff_ne]
  grind

/-! Sources with modifiers: in normal service each source has its own, in maintenance mode source A has a permutation and source B none (R41, R42). -/

variable {mt : Bool} {p q : Accepts} {t v : Ty} {a : OpA} {b : OpB}

omit hx in
theorem OpA.ok_mode (ha : a.ok mt p t = true) :
    (mt = false ∧ ∃ src m, a = ⟨src, .std m⟩) ∨ (mt = true ∧ ∃ src cls s d, a = ⟨src, .perm cls s d⟩) := by
  obtain ⟨src, m | ⟨cls, s, d⟩⟩ := a <;> simp_all [OpA.ok]

omit hx in
theorem OpB.m_of_ok (hb : b.ok true q v = true) : b.m = {} := by
  simp only [OpB.ok, Bool.and_eq_true] at hb
  simpa using hb.2

theorem perm_eq_iff {cls : Fin 4} {s : Fin 8} {d : Fin 32} : cls.val * 16 + s.val * 2 + d.val / 16 = x.ma ∧ d.val % 16 * 4 = x.mb ↔
    x.mb % 4 = 0 ∧ Fin.ofNat 4 (x.ma / 16) = cls ∧ Fin.ofNat 8 (x.ma / 2) = s ∧ Fin.ofNat 32 (x.ma % 2 * 16 + x.mb / 4) = d := by
  obtain ⟨-, -, -, -, -, -, -, hma, hmb, -⟩ := (Laws.fits_iff x).mp hx
  simp only [finOfNat_eq_iff]
  omega

theorem withOpA_eq_iff (ha : a.ok mt p t = true) : withF (withOpA (baseU op u g) a) n = x ↔
    x.Heads op u g n ∧ Use.oA.ok mt x = true ∧ opA mt x = a := by
  obtain ⟨-, -, -, -, hxa, -, -, hma, -⟩ := (Laws.fits_iff x).mp hx
  rcases OpA.ok_mode ha with ⟨rfl, src, m, rfl⟩ | ⟨rfl, src, cls, s, d, rfl⟩
  · simp only [withF, withOpA, baseU, base, Fields.eq_iff hx, Src.code_eq_iff hxa, Mod.code_eq_iff hma, Use.ok, opA, srcA, Bool.and_eq_true,
      bne_iff_ne, beq_iff_eq, OpA.mk.injEq]
    grind
  · simp only [withF, withOpA, baseU, base, Fields.eq_iff hx, Src.code_eq_iff hxa, perm_eq_iff hx, Use.ok, opA, srcA, Bool.and_eq_true,
      bne_iff_ne, beq_iff_eq, OpA.mk.injEq]
    grind

theorem withOpAB_eq_iff (hab : a.ok mt p t = true ∧ b.ok mt q v = true) : withF (withOpB (withOpA (baseU op u g) a) b) n = x ↔
    x.Heads op u g n ∧ Use.oAB.ok mt x = true ∧ opA mt x = a ∧ opB mt x = b := by
  obtain ⟨-, -, -, -, hxa, hxb, -, hma, hmb, -⟩ := (Laws.fits_iff x).mp hx
  obtain ⟨srcb, mb⟩ := b
  rcases OpA.ok_mode hab.1 with ⟨rfl, src, m, rfl⟩ | ⟨rfl, src, cls, s, d, rfl⟩
  · simp only [withF, withOpA, withOpB, baseU, base, Fields.eq_iff hx, Src.code_eq_iff hxa, Src.code_eq_iff hxb, Mod.code_eq_iff hma,
      Nat.zero_add, Mod.code_eq_iff hmb, Use.ok, opA, opB, srcA, srcB, Bool.and_eq_true, bne_iff_ne, beq_iff_eq, OpA.mk.injEq, OpB.mk.injEq]
    grind
  · obtain rfl : mb = {} := OpB.m_of_ok hab.2
    simp only [withF, withOpA, withOpB, baseU, base, Fields.eq_iff hx, Src.code_eq_iff hxa, Src.code_eq_iff hxb, show Mod.code {} = 0 from rfl,
      Nat.add_zero, perm_eq_iff hx, Use.ok, opA, opB, srcA, srcB, Bool.and_eq_true, bne_iff_ne, beq_iff_eq, OpA.mk.injEq, OpB.mk.injEq]
    grind

theorem withOpABC_eq_iff (hab : a.ok mt p t = true ∧ b.ok mt q v = true) {c : Src} :
    withF (withC (withOpB (withOpA (baseU op u g) a) b) c) n = x ↔
      x.Heads op u g n ∧ Use.oABC.ok mt x = true ∧ opA mt x = a ∧ opB mt x = b ∧ srcC x = c := by
  obtain ⟨-, -, -, -, hxa, hxb, hxc, hma, hmb, -⟩ := (Laws.fits_iff x).mp hx
  obtain ⟨srcb, mb⟩ := b
  rcases OpA.ok_mode hab.1 with ⟨rfl, src, m, rfl⟩ | ⟨rfl, src, cls, s, d, rfl⟩
  · simp only [withF, withC, withOpA, withOpB, baseU, base, Fields.eq_iff hx, Src.code_eq_iff hxa, Src.code_eq_iff hxb, Src.code_eq_iff hxc,
      Mod.code_eq_iff hma, Nat.zero_add, Mod.code_eq_iff hmb, Use.ok, opA, opB, srcA, srcB, srcC, Bool.and_eq_true, bne_iff_ne, OpA.mk.injEq,
      OpB.mk.injEq]
    grind
  · obtain rfl : mb = {} := OpB.m_of_ok hab.2
    simp only [withF, withC, withOpA, withOpB, baseU, base, Fields.eq_iff hx, Src.code_eq_iff hxa, Src.code_eq_iff hxb, Src.code_eq_iff hxc,
      show Mod.code {} = 0 from rfl, Nat.add_zero, perm_eq_iff hx, Use.ok, opA, opB, srcA, srcB, srcC, Bool.and_eq_true, bne_iff_ne, OpA.mk.injEq,
      OpB.mk.injEq]
    grind

end Shapes

/-! #### Layers keep the opcode -/

section Op
variable (x : Fields) (op n : Nat) (u : Bool) (g : Guard)

@[simp] theorem baseU_op : (baseU op u g).op = op := rfl
@[simp] theorem withF_op : (withF x n).op = x.op := rfl
@[simp] theorem withOffset_op (o : BitVec 33) : (withOffset x o).op = x.op := rfl

/-- SEAM's declaration fills [45:13] and F, whatever it is. -/
theorem withSeam_layers (d : SeamDecl) : ∃ m n, withSeam x d = withF (x.withMid m) n := ⟨_, _, rfl⟩

theorem withConform_layers (c : ConformSel) : ∃ m, withConform x c = x.withMid m := ⟨_, rfl⟩

@[simp] theorem withSeam_op (d : SeamDecl) : (withSeam x d).op = x.op := by
  obtain ⟨m, n, h⟩ := withSeam_layers x d
  rw [h]
  rfl

@[simp] theorem withConform_op (c : ConformSel) : (withConform x c).op = x.op := by
  obtain ⟨m, h⟩ := withConform_layers x c
  rw [h]
  rfl

@[simp] theorem withPlop_op (pa pb pc pd) : (withPlop x pa pb pc pd).op = x.op := rfl
@[simp] theorem withA_op (a : Src) : (withA x a).op = x.op := rfl
@[simp] theorem withB_op (b : Src) : (withB x b).op = x.op := rfl
@[simp] theorem withC_op (c : Src) : (withC x c).op = x.op := rfl
@[simp] theorem withOpB_op (b : OpB) : (withOpB x b).op = x.op := rfl
@[simp] theorem withOpA_op (a : OpA) : (withOpA x a).op = x.op := by unfold withOpA; split <;> rfl
@[simp] theorem withOpA_f (a : OpA) : (withOpA x a).f = x.f := by unfold withOpA; split <;> rfl

theorem withF_zero {x : Fields} (h : x.f = 0) : withF x 0 = x := by
  cases x
  cases h
  rfl

end Op

theorem ty_code_of_isWide {t : Ty} (h : t.isWide = true) : 16 ≤ t.code ∧ t.code < 20 := by
  revert h
  cases t <;> decide

/-! #### The layouts of F -/

section F

variable {x : Fields} (hf : x.f < 8192)
include hf

theorem f_eq_zero : x.f = 0 ↔ zf x 0 13 = true := by
  simp only [zf, beq_iff_eq, fb]
  omega

theorem f_eq_arm {so : BitVec 13} : x.f = so.toNat ↔ BitVec.ofNat 13 x.f = so := by
  have := so.isLt
  simp only [bitVecOfNat_eq_iff]
  omega

theorem f_eq_count {k : Fin 16} : x.f = k.val ↔ zf x 4 9 = true ∧ Fin.ofNat 16 (fb x 0 4) = k := by
  simp only [zf, beq_iff_eq, fb, finOfNat_eq_iff]
  omega

theorem f_eq_frame_count {fr : Fin 64} {n : Fin 16} : x.f = fr.val * 16 + n.val ↔ zf x 10 3 = true ∧ Fin.ofNat 64 (fb x 4 6) = fr ∧
    Fin.ofNat 16 (fb x 0 4) = n := by
  simp only [zf, beq_iff_eq, fb, finOfNat_eq_iff]
  omega

theorem f_eq_slot {slot : Fin 32} : x.f = slot.val ↔ zf x 5 8 = true ∧ Fin.ofNat 32 (fb x 0 5) = slot := by
  simp only [zf, beq_iff_eq, fb, finOfNat_eq_iff]
  omega

theorem f_eq_sat_elem_ty {sat : Bool} {idx : Fin 16} {t : Ty} : x.f = b2n sat * 512 + idx.val * 32 + t.code ↔ zf x 10 3 = true ∧
    Ty.ofCode (fb x 0 5) = some t ∧ bit x 9 = sat ∧ Fin.ofNat 16 (fb x 5 4) = idx := by
  have := Laws.b2n_lt sat; have := Laws.ty_code_lt t
  simp only [zf, beq_iff_eq, fb, Ty.ofCode_eq_some, bit_eq_iff, finOfNat_eq_iff]
  omega

theorem f_eq_elem_ty {idx : Fin 16} {t : Ty} : x.f = idx.val * 32 + t.code ↔ zf x 9 4 = true ∧ Ty.ofCode (fb x 0 5) = some t ∧
    Fin.ofNat 16 (fb x 5 4) = idx := by
  have := Laws.ty_code_lt t
  simp only [zf, beq_iff_eq, fb, Ty.ofCode_eq_some, finOfNat_eq_iff]
  omega

theorem f_eq_sat_ty {sat : Bool} {t : Ty} : x.f = b2n sat * 32 + t.code ↔ zf x 6 7 = true ∧ Ty.ofCode (fb x 0 5) = some t ∧ bit x 5 = sat := by
  have := Laws.b2n_lt sat; have := Laws.ty_code_lt t
  simp only [zf, beq_iff_eq, fb, Ty.ofCode_eq_some, bit_eq_iff]
  omega

theorem f_eq_carry_ty {p : Fin 64} {t : Ty} : x.f = p.val * 64 + t.code ↔ zf x 12 1 = true ∧ zf x 5 1 = true ∧ Ty.ofCode (fb x 0 5) = some t ∧
    Fin.ofNat 64 (fb x 6 6) = p := by
  have := p.isLt; have := Laws.ty_code_lt t
  simp only [zf, beq_iff_eq, fb, Ty.ofCode_eq_some, finOfNat_eq_iff]
  omega

theorem f_eq_ty {t : Ty} : x.f = t.code ↔ zf x 5 8 = true ∧ Ty.ofCode (fb x 0 5) = some t := by
  have := Laws.ty_code_lt t
  simp only [zf, beq_iff_eq, fb, Ty.ofCode_eq_some]
  omega

theorem f_eq_isat {t2 : Ty} {t : Ty} : x.f = t2.code * 64 + t.code ↔ zf x 11 2 = true ∧ zf x 5 1 = true ∧ Ty.ofCode (fb x 0 5) = some t ∧
    Ty.ofCode (fb x 6 5) = some t2 := by
  have := Laws.ty_code_lt t2; have := Laws.ty_code_lt t
  simp only [zf, beq_iff_eq, fb, Ty.ofCode_eq_some]
  omega

theorem f_eq_table_ty {tab : BitVec 8} {t : Ty} : x.f = tab.toNat * 32 + t.code ↔ Ty.ofCode (fb x 0 5) = some t ∧
    BitVec.ofNat 8 (fb x 5 8) = tab := by
  have := tab.isLt; have := Laws.ty_code_lt t
  simp only [fb, Ty.ofCode_eq_some, bitVecOfNat_eq_iff]
  omega

theorem f_eq_icmp {p : Fin 64} {cd : Cond} {t : Ty} (ht : t.code < 8) : x.f = p.val * 128 + cd.code * 16 + t.code ↔ zf x 3 1 = true ∧
    Ty.ofCode (fb x 0 3) = some t ∧ Cond.ofCode (fb x 4 3) = some cd ∧ Fin.ofNat 64 (fb x 7 6) = p := by
  have := p.isLt; have := Laws.cond_code_lt cd; have := Laws.ty_code_lt t
  simp only [zf, beq_iff_eq, fb, Cond.ofCode_eq_some, Ty.ofCode_eq_some, finOfNat_eq_iff]
  omega

theorem f_eq_fcmp {p : Fin 64} {cd : Cond} {t : Ty} (ht : t.isWide = true) : x.f = p.val * 128 + cd.code * 16 + (t.code - 16) ↔ zf x 3 1 = true ∧
    fcmpTy (fb x 0 3) = some t ∧ Cond.ofCode (fb x 4 3) = some cd ∧ Fin.ofNat 64 (fb x 7 6) = p := by
  have := p.isLt; have := Laws.cond_code_lt cd; have := Laws.ty_code_lt t; have := ty_code_of_isWide ht
  simp only [zf, beq_iff_eq, fb, Cond.ofCode_eq_some, fcmpTy_eq_some, ht, true_and, finOfNat_eq_iff]
  omega

theorem f_eq_pred {p : Fin 64} : x.f = p.val * 128 ↔ zf x 0 7 = true ∧ Fin.ofNat 64 (fb x 7 6) = p := by
  have := p.isLt
  simp only [zf, beq_iff_eq, fb, finOfNat_eq_iff]
  omega

theorem f_eq_byte {tab : BitVec 8} : x.f = tab.toNat ↔ zf x 8 5 = true ∧ BitVec.ofNat 8 (fb x 0 8) = tab := by
  have := tab.isLt
  simp only [zf, beq_iff_eq, fb, bitVecOfNat_eq_iff]
  omega

theorem f_eq_rnd_ty {r : Rnd} {t : Ty} : x.f = r.code * 32 + t.code ↔ zf x 8 5 = true ∧ Ty.ofCode (fb x 0 5) = some t ∧
    Rnd.ofCode (fb x 5 3) = some r := by
  have := Laws.rnd_code_lt r; have := Laws.ty_code_lt t
  simp only [zf, beq_iff_eq, fb, Rnd.ofCode_eq_some, Ty.ofCode_eq_some]
  omega

theorem f_eq_rnd_ty_ty {r : Rnd} {t2 : Ty} {t : Ty} : x.f = r.code * 1024 + t2.code * 32 + t.code ↔ Ty.ofCode (fb x 0 5) = some t ∧
    Ty.ofCode (fb x 5 5) = some t2 ∧ Rnd.ofCode (fb x 10 3) = some r := by
  have := Laws.rnd_code_lt r; have := Laws.ty_code_lt t2; have := Laws.ty_code_lt t
  simp only [fb, Rnd.ofCode_eq_some, Ty.ofCode_eq_some]
  omega

theorem f_eq_ty_ty {t2 : Ty} {t : Ty} : x.f = t2.code * 32 + t.code ↔ zf x 10 3 = true ∧ Ty.ofCode (fb x 0 5) = some t ∧
    Ty.ofCode (fb x 5 5) = some t2 := by
  have := Laws.ty_code_lt t2; have := Laws.ty_code_lt t
  simp only [zf, beq_iff_eq, fb, Ty.ofCode_eq_some]
  omega

theorem f_eq_vote {p : Fin 64} {m : VoteMode} : x.f = p.val * 128 + m.code ↔ zf x 2 5 = true ∧ VoteMode.ofCode (fb x 0 2) = some m ∧
    Fin.ofNat 64 (fb x 7 6) = p := by
  have := p.isLt; have := Laws.voteMode_code_lt m
  simp only [zf, beq_iff_eq, fb, VoteMode.ofCode_eq_some, finOfNat_eq_iff]
  omega

theorem f_eq_shfl {p : Fin 64} {m : ShflMode} : x.f = p.val * 128 + m.code ↔ zf x 2 5 = true ∧ ShflMode.ofCode (fb x 0 2) = some m ∧
    Fin.ofNat 64 (fb x 7 6) = p := by
  have := p.isLt; have := Laws.shflMode_code_lt m
  simp only [zf, beq_iff_eq, fb, ShflMode.ofCode_eq_some, finOfNat_eq_iff]
  omega

theorem f_eq_wred {r : Rnd} {ro : RedOp} {t : Ty} : x.f = r.code * 256 + ro.code * 32 + t.code ↔ zf x 11 2 = true ∧
    Ty.ofCode (fb x 0 5) = some t ∧ Rnd.ofCode (fb x 8 3) = some r ∧ RedOp.ofCode (fb x 5 3) = some ro := by
  have := Laws.rnd_code_lt r; have := Laws.redOp_code_lt ro; have := Laws.ty_code_lt t
  simp only [zf, beq_iff_eq, fb, RedOp.ofCode_eq_some, Rnd.ofCode_eq_some, Ty.ofCode_eq_some]
  omega

theorem f_eq_wscan {ex : Bool} {r : Rnd} {ro : RedOp} {t : Ty} : x.f = b2n ex * 2048 + r.code * 256 + ro.code * 32 + t.code ↔ zf x 12 1 = true ∧
    Ty.ofCode (fb x 0 5) = some t ∧ Rnd.ofCode (fb x 8 3) = some r ∧ RedOp.ofCode (fb x 5 3) = some ro ∧ bit x 11 = ex := by
  have := Laws.b2n_lt ex; have := Laws.rnd_code_lt r; have := Laws.redOp_code_lt ro; have := Laws.ty_code_lt t
  simp only [zf, beq_iff_eq, fb, RedOp.ofCode_eq_some, Rnd.ofCode_eq_some, Ty.ofCode_eq_some, bit_eq_iff]
  omega

theorem f_eq_ld {peg : PegSel} {sc : Scope} {o : Order} {h : Hint} {sx : Bool} {sz : Size} :
    x.f = peg.code * 2048 + sc.code * 256 + o.code * 64 + h.code * 16 + b2n sx * 8 + sz.code ↔ (fb x 8 3 ≠ 7 ∧ scope x = sc) ∧
    Order.ofCode (fb x 6 2) = some o ∧ Hint.ofCode (fb x 4 2) = some h ∧ Size.ofCode (fb x 0 3) = some sz ∧ pegSel x = peg ∧ bit x 3 = sx := by
  have := Laws.peg_code_lt peg; have := Laws.scope_code_lt sc; have := Laws.order_code_lt o; have := Laws.hint_code_lt h; have := Laws.b2n_lt sx
  have := Laws.size_code_lt sz
  rw [scope_eq_iff]
  simp only [fb, Hint.ofCode_eq_some, Order.ofCode_eq_some, Size.ofCode_eq_some, bit_eq_iff, pegSel_eq_iff]
  omega

theorem f_eq_st {peg : PegSel} {sc : Scope} {o : Order} {h : Hint} {sz : Size} :
    x.f = peg.code * 2048 + sc.code * 256 + o.code * 64 + h.code * 16 + sz.code ↔ (fb x 8 3 ≠ 7 ∧ scope x = sc) ∧ zf x 3 1 = true ∧
    Order.ofCode (fb x 6 2) = some o ∧ Hint.ofCode (fb x 4 2) = some h ∧ Size.ofCode (fb x 0 3) = some sz ∧ pegSel x = peg := by
  have := Laws.peg_code_lt peg; have := Laws.scope_code_lt sc; have := Laws.order_code_lt o; have := Laws.hint_code_lt h
  have := Laws.size_code_lt sz
  rw [scope_eq_iff]
  simp only [zf, beq_iff_eq, fb, Hint.ofCode_eq_some, Order.ofCode_eq_some, Size.ofCode_eq_some, pegSel_eq_iff]
  omega

theorem f_eq_lds {peg : PegSel} {sc : Scope} {o : Order} {sx : Bool} {sz : Size} :
    x.f = peg.code * 2048 + sc.code * 256 + o.code * 64 + b2n sx * 8 + sz.code ↔ (fb x 8 3 ≠ 7 ∧ scope x = sc) ∧ zf x 4 2 = true ∧
    Order.ofCode (fb x 6 2) = some o ∧ Size.ofCode (fb x 0 3) = some sz ∧ pegSel x = peg ∧ bit x 3 = sx := by
  have := Laws.peg_code_lt peg; have := Laws.scope_code_lt sc; have := Laws.order_code_lt o; have := Laws.b2n_lt sx
  have := Laws.size_code_lt sz
  rw [scope_eq_iff]
  simp only [zf, beq_iff_eq, fb, Order.ofCode_eq_some, Size.ofCode_eq_some, bit_eq_iff, pegSel_eq_iff]
  omega

theorem f_eq_sts {peg : PegSel} {sc : Scope} {o : Order} {sz : Size} :
    x.f = peg.code * 2048 + sc.code * 256 + o.code * 64 + sz.code ↔ (fb x 8 3 ≠ 7 ∧ scope x = sc) ∧ zf x 3 3 = true ∧
    Order.ofCode (fb x 6 2) = some o ∧ Size.ofCode (fb x 0 3) = some sz ∧ pegSel x = peg := by
  have := Laws.peg_code_lt peg; have := Laws.scope_code_lt sc; have := Laws.order_code_lt o; have := Laws.size_code_lt sz
  rw [scope_eq_iff]
  simp only [zf, beq_iff_eq, fb, Order.ofCode_eq_some, Size.ofCode_eq_some, pegSel_eq_iff]
  omega

theorem f_eq_ldp {peg : PegSel} {sx : Bool} {sz : Size} : x.f = peg.code * 2048 + b2n sx * 8 + sz.code ↔ zf x 4 7 = true ∧
    Size.ofCode (fb x 0 3) = some sz ∧ pegSel x = peg ∧ bit x 3 = sx := by
  have := Laws.peg_code_lt peg; have := Laws.b2n_lt sx; have := Laws.size_code_lt sz
  simp only [zf, beq_iff_eq, fb, Size.ofCode_eq_some, bit_eq_iff, pegSel_eq_iff]
  omega

theorem f_eq_stp {peg : PegSel} {sz : Size} : x.f = peg.code * 2048 + sz.code ↔ zf x 3 8 = true ∧ Size.ofCode (fb x 0 3) = some sz ∧
    pegSel x = peg := by
  have := Laws.peg_code_lt peg; have := Laws.size_code_lt sz
  simp only [zf, beq_iff_eq, fb, Size.ofCode_eq_some, pegSel_eq_iff]
  omega

theorem f_eq_pref {lv : PrefLevel} : x.f = lv.code * 16 ↔ zf x 6 7 = true ∧ zf x 0 4 = true ∧ PrefLevel.ofCode (fb x 4 2) = some lv := by
  have := Laws.prefLevel_code_lt lv
  simp only [zf, beq_iff_eq, fb, PrefLevel.ofCode_eq_some]
  omega

theorem f_eq_fence {peg : PegSel} {sc : Scope} {fo : FenceOrder} : x.f = peg.code * 2048 + sc.code * 256 + fo.code * 64 ↔ (fb x 8 3 ≠ 7 ∧
    scope x = sc) ∧ zf x 0 6 = true ∧ FenceOrder.ofCode (fb x 6 2) = some fo ∧ pegSel x = peg := by
  have := Laws.peg_code_lt peg; have := Laws.scope_code_lt sc; have := Laws.fenceOrder_code_lt fo
  rw [scope_eq_iff]
  simp only [zf, beq_iff_eq, fb, FenceOrder.ofCode_eq_some, pegSel_eq_iff]
  omega

theorem f_eq_cctl {peg : PegSel} {co : CctlOp} : x.f = peg.code * 2048 + co.code ↔ zf x 3 8 = true ∧ CctlOp.ofCode (fb x 0 3) = some co ∧
    pegSel x = peg := by
  have := Laws.peg_code_lt peg; have := Laws.cctlOp_code_lt co
  simp only [zf, beq_iff_eq, fb, CctlOp.ofCode_eq_some, pegSel_eq_iff]
  omega

theorem f_eq_atom {peg : PegSel} {sc : Scope} {o : Order} {ao : AtomOp} {w : AtomWidth} :
    x.f = peg.code * 2048 + sc.code * 256 + o.code * 64 + ao.code * 4 + w.code ↔ (fb x 8 3 ≠ 7 ∧ scope x = sc) ∧ Order.ofCode (fb x 6 2) = some o ∧
    AtomOp.ofCode (fb x 2 4) = some ao ∧ AtomWidth.ofCode (fb x 0 2) = some w ∧ pegSel x = peg := by
  have := Laws.peg_code_lt peg; have := Laws.scope_code_lt sc; have := Laws.order_code_lt o; have := Laws.atomOp_code_lt ao
  have := Laws.atomWidth_code_lt w
  rw [scope_eq_iff]
  simp only [fb, AtomOp.ofCode_eq_some, AtomWidth.ofCode_eq_some, Order.ofCode_eq_some, pegSel_eq_iff]
  omega

theorem f_eq_acas {peg : PegSel} {sc : Scope} {o : Order} {w : AtomWidth} :
    x.f = peg.code * 2048 + sc.code * 256 + o.code * 64 + w.code ↔ (fb x 8 3 ≠ 7 ∧ scope x = sc) ∧ zf x 2 4 = true ∧
    Order.ofCode (fb x 6 2) = some o ∧ AtomWidth.ofCode (fb x 0 2) = some w ∧ pegSel x = peg := by
  have := Laws.peg_code_lt peg; have := Laws.scope_code_lt sc; have := Laws.order_code_lt o; have := Laws.atomWidth_code_lt w
  rw [scope_eq_iff]
  simp only [zf, beq_iff_eq, fb, AtomWidth.ofCode_eq_some, Order.ofCode_eq_some, pegSel_eq_iff]
  omega

theorem f_eq_ply {peg : PegSel} {sc : Scope} {o : Order} : x.f = peg.code * 2048 + sc.code * 256 + o.code * 64 ↔ (fb x 8 3 ≠ 7 ∧ scope x = sc) ∧
    zf x 0 6 = true ∧ Order.ofCode (fb x 6 2) = some o ∧ pegSel x = peg := by
  have := Laws.peg_code_lt peg; have := Laws.scope_code_lt sc; have := Laws.order_code_lt o
  rw [scope_eq_iff]
  simp only [zf, beq_iff_eq, fb, Order.ofCode_eq_some, pegSel_eq_iff]
  omega

theorem f_eq_peg_space {peg : PegSel} {sp : Space} : x.f = peg.code * 2048 + sp.code ↔ zf x 1 10 = true ∧ pegSel x = peg ∧
    Space.ofBit (bit x 0) = sp := by
  have := Laws.peg_code_lt peg; have := Laws.space_code_lt sp
  simp only [zf, beq_iff_eq, fb, spaceOfBit_eq_iff, pegSel_eq_iff]
  omega

theorem f_eq_space {sp : Space} : x.f = sp.code ↔ zf x 1 12 = true ∧ Space.ofBit (bit x 0) = sp := by
  have := Laws.space_code_lt sp
  simp only [zf, beq_iff_eq, fb, spaceOfBit_eq_iff]
  omega

theorem f_eq_copy {peg : PegSel} {dir : CopyDir} {sp : Space} {td : Bool} :
    x.f = peg.code * 2048 + dir.code * 512 + sp.code * 256 + b2n td * 128 ↔ zf x 0 7 = true ∧ CopyDir.ofCode (fb x 9 2) = some dir ∧
    pegSel x = peg ∧ Space.ofBit (bit x 8) = sp ∧ bit x 7 = td := by
  have := Laws.peg_code_lt peg; have := Laws.copyDir_code_lt dir; have := Laws.space_code_lt sp; have := Laws.b2n_lt td
  simp only [zf, beq_iff_eq, fb, CopyDir.ofCode_eq_some, bit_eq_iff, spaceOfBit_eq_iff, pegSel_eq_iff]
  omega

theorem f_eq_copyg {peg : PegSel} {sp : Space} : x.f = peg.code * 2048 + sp.code * 256 ↔ zf x 9 2 = true ∧ zf x 0 8 = true ∧ pegSel x = peg ∧
    Space.ofBit (bit x 8) = sp := by
  have := Laws.peg_code_lt peg; have := Laws.space_code_lt sp
  simp only [zf, beq_iff_eq, fb, spaceOfBit_eq_iff, pegSel_eq_iff]
  omega

theorem f_eq_mzero {m : TileMode} {tile : Fin 4} : x.f = m.code * 4 + tile.val ↔ zf x 4 9 = true ∧ TileMode.ofCode (fb x 2 2) = some m ∧
    Fin.ofNat 4 (fb x 0 2) = tile := by
  have := Laws.tileMode_code_lt m
  simp only [zf, beq_iff_eq, fb, TileMode.ofCode_eq_some, finOfNat_eq_iff]
  omega

theorem f_eq_mlds {peg : PegSel} {fm : PlaneFmt} : x.f = peg.code * 2048 + fm.code ↔ zf x 5 6 = true ∧ PlaneFmt.ofCode (fb x 0 5) = some fm ∧
    pegSel x = peg := by
  have := Laws.peg_code_lt peg; have := Laws.planeFmt_code_lt fm
  simp only [zf, beq_iff_eq, fb, PlaneFmt.ofCode_eq_some, pegSel_eq_iff]
  omega

theorem f_eq_mstream {peg : PegSel} {m1 : Fin 128} {tile : Fin 4} : x.f = peg.code * 2048 + m1.val * 16 + tile.val ↔ zf x 2 2 = true ∧
    pegSel x = peg ∧ Fin.ofNat 128 (fb x 4 7) = m1 ∧ Fin.ofNat 4 (fb x 0 2) = tile := by
  have := Laws.peg_code_lt peg
  simp only [zf, beq_iff_eq, fb, finOfNat_eq_iff, pegSel_eq_iff]
  omega

theorem f_eq_mdrain {peg : PegSel} {cv : DrainConv} {ac : DrainAct} {gl : Bool} {bias : Bool} {tile : Fin 4} :
    x.f = peg.code * 2048 + cv.code * 256 + ac.code * 64 + b2n gl * 32 + b2n bias * 16 + tile.val ↔ zf x 2 2 = true ∧
    DrainConv.ofCode (fb x 8 3) = some cv ∧ DrainAct.ofCode (fb x 6 2) = some ac ∧ pegSel x = peg ∧ bit x 5 = gl ∧ bit x 4 = bias ∧
    Fin.ofNat 4 (fb x 0 2) = tile := by
  have := Laws.peg_code_lt peg; have := Laws.drainConv_code_lt cv; have := Laws.drainAct_code_lt ac; have := Laws.b2n_lt gl
  have := Laws.b2n_lt bias
  simp only [zf, beq_iff_eq, fb, DrainAct.ofCode_eq_some, DrainConv.ofCode_eq_some, bit_eq_iff, finOfNat_eq_iff, pegSel_eq_iff]
  omega

theorem f_eq_mstat {clr : Bool} {tile : Fin 4} : x.f = b2n clr * 4 + tile.val ↔ zf x 3 10 = true ∧ bit x 2 = clr ∧
    Fin.ofNat 4 (fb x 0 2) = tile := by
  have := Laws.b2n_lt clr
  simp only [zf, beq_iff_eq, fb, bit_eq_iff, finOfNat_eq_iff]
  omega

theorem f_eq_spawn {peg : PegSel} {j : Bool} {stage : Fin 16} : x.f = peg.code * 2048 + b2n j * 16 + stage.val ↔ zf x 5 6 = true ∧
    pegSel x = peg ∧ bit x 4 = j ∧ Fin.ofNat 16 (fb x 0 4) = stage := by
  have := Laws.peg_code_lt peg; have := Laws.b2n_lt j
  simp only [zf, beq_iff_eq, fb, bit_eq_iff, finOfNat_eq_iff, pegSel_eq_iff]
  omega

theorem f_eq_watch {peg : PegSel} {lg : Fin 32} {stage : Fin 16} : x.f = peg.code * 2048 + lg.val * 16 + stage.val ↔ zf x 9 2 = true ∧
    pegSel x = peg ∧ Fin.ofNat 32 (fb x 4 5) = lg ∧ Fin.ofNat 16 (fb x 0 4) = stage := by
  have := Laws.peg_code_lt peg
  simp only [zf, beq_iff_eq, fb, finOfNat_eq_iff, pegSel_eq_iff]
  omega

theorem f_eq_peg {peg : PegSel} : x.f = peg.code * 2048 ↔ zf x 0 11 = true ∧ pegSel x = peg := by
  have := Laws.peg_code_lt peg
  simp only [zf, beq_iff_eq, fb, pegSel_eq_iff]
  omega

theorem f_eq_number {num : BitVec 12} : x.f = num.toNat ↔ zf x 12 1 = true ∧ BitVec.ofNat 12 (fb x 0 12) = num := by
  have := num.isLt
  simp only [zf, beq_iff_eq, fb, bitVecOfNat_eq_iff]
  omega

theorem f_eq_region {keep : Fin 32} : x.f = keep.val ↔ zf x 6 7 = true ∧ bit x 5 = false ∧ Fin.ofNat 32 (fb x 0 5) = keep := by
  simp only [zf, beq_iff_eq, fb, bit_eq_iff, finOfNat_eq_iff, show b2n false = 0 from rfl]
  omega

theorem f_eq_close : x.f = 32 ↔ zf x 6 7 = true ∧ bit x 5 = true ∧ fb x 0 5 = 0 := by
  simp only [zf, beq_iff_eq, fb, bit_eq_iff, show b2n true = 1 from rfl]
  omega

end F

/-! #### Reading and writing one word -/

theorem req_eq_some {c : Bool} {o : Option Instr} {i : Instr} : req c o = some i ↔ c = true ∧ o = some i := by
  cases c <;> simp [req]

theorem bit64_eq_false_iff {n : Nat} (h : n < 2) : bit64 n = false ↔ n = 0 := bit64_eq_iff h

/-- The fields x are read as the instruction i exactly where they are the fields of i. -/
def Reads (mt : Bool) (x : Fields) (i : Instr) : Prop := (build mt x = some i ∧ restOk mt x = true) ↔ encodeFields i = x

section Shapes

variable {mt : Bool} {x : Fields} {i : Instr} {op n : Nat} {u : Bool} {g : Guard} {r : Bool}

theorem restOk_plain {k : Use} (h : (useOf op, hasScope op, op != 0x380) = (k, false, true)) (hop : x.op = op) :
    restOk mt x = (k.ok mt x && true) := by
  simp only [Prod.mk.injEq] at h
  simp [restOk, hop, h]

/-- A region's close carries no count (R75). -/
theorem restOk_region (hop : x.op = 0x380) : restOk mt x = (Use.none.ok mt x && (!bit x 5 || fb x 0 5 == 0)) := by
  simp [restOk, hop, show useOf 0x380 = .none from rfl, show hasScope 0x380 = false from rfl]

theorem restOk_scope {k : Use} (h : (useOf op, hasScope op, op != 0x380) = (k, true, true)) (hop : x.op = op) :
    restOk mt x = (k.ok mt x && fb x 8 3 != 7) := by
  simp only [Prod.mk.injEq] at h
  simp [restOk, hop, h]

/-- What an instruction's fields leave to check, where their shape is known: that its opcode's entry reads the remaining parts. -/
theorem reads_of (hx : x.fits = true) (hop : (encodeFields i).op = x.op) {k : Use} {P : Prop} {y : Fields}
    (hshape : y = x ↔ x.Heads op u g n ∧ k.ok mt x = true ∧ P) (henc : encodeFields i = y) (hy : y.op = op)
    (hrest : x.op = op → restOk mt x = (k.ok mt x && r))
    (hread : x.op = op → ((build mt x = some i ∧ r = true) ↔ bit64 x.u = u ∧ guard x = g ∧ x.f = n ∧ P)) : Reads mt x i := by
  have hx' : x.op = op := by rw [← hop, henc, hy]
  have hu := Fields.u_lt hx
  rw [Reads, henc, hshape, hrest hx', Bool.and_eq_true, and_left_comm, hread hx', Fields.Heads, bit64_eq_iff hu]
  simp only [hx', true_and, and_assoc, and_left_comm]

end Shapes

/-- The group of an instruction's opcode (R55); 15 for what has none of its own. -/
def Instr.group : Instr → Nat
  | .nop .. | .exit .. | .yield .. | .bra .. | .brl .. | .brc .. | .seam .. | .mark .. | .ret .. | .conform .. | .brx .. | .call .. | .callx .. => 0
  | .pick .. | .save .. | .pack .. | .unpack .. => 1
  | .iadd .. | .isub .. | .imul .. | .imad .. | .idot4 .. | .idot2 .. | .iadc .. | .isbb .. | .imulh .. | .imin .. | .imax .. | .iabsd ..
  | .iclamp .. | .lea .. | .imadw .. | .isat .. => 2
  | .and .. | .or .. | .xor .. | .shl .. | .shr .. | .sar .. | .rol .. | .bfx .. | .funnel .. | .bfi .. | .permb .. | .popc .. | .clz .. | .ctz ..
  | .brev .. | .lop3 .. => 3
  | .icmp .. | .fcmp .. | .sel .. | .itst .. | .plop .. | .pset .. | .ptov .. | .vtop .. => 4
  | .fadd .. | .fsub .. | .fmul .. | .fscale .. | .fdiv .. | .ffma .. | .fdot2 .. | .frnd .. | .fsqrt .. | .fmin .. | .fmax .. | .fclass .. => 5
  | .frcp .. | .frsq .. | .fex2 .. | .flg2 .. | .fsin .. | .fcos .. | .ftanh .. => 6
  | .cvt .. | .qscale .. | .qcvt .. | .dqcvt .. | .resenc .. | .resdec .. => 7
  | .vote .. | .shfl .. | .wred .. | .wscan .. | .matchLanes .. | .bcast .. | .active .. => 8
  | .ld .. | .st .. | .lds .. | .sts .. | .ldp .. | .stp .. | .pref .. | .fence .. | .cctl .. => 9
  | .atom .. | .red .. | .atoms .. | .acas .. | .acass .. | .ldv .. | .stv .. | .recon .. => 10
  | .binit .. | .barrive .. | .bexpect .. | .bwait .. | .btest .. | .bdrop .. | .copy .. | .copym .. | .copyg .. => 11
  | .mzero .. | .mlds .. | .mswap .. | .mstream .. | .mdrain .. | .mstat .. => 12
  | .spawn .. | .watch .. | .unwatch .. | .bobq .. => 13
  | .chksig .. | .csrr .. | .csrw .. | .trap .. | .tret .. | .clock .. | .bkpt .. | .iregion .. | .iregionClose .. => 14
  | _ => 15

section Groups

variable {x : Fields} (hx : x.fits = true) {mt : Bool} {i : Instr} (hw : i.wellFormed mt = true) (hop : (encodeFields i).op = x.op)
include hx hw hop

theorem reads_control (hg : i.group = 0) : Reads mt x i := by
  have hu := Fields.u_lt hx
  have hf := Fields.f_lt hx
  cases i with
  | nop g | exit g | yield g =>
    refine reads_of hx hop (withNone_eq_iff hx) (u := false) (n := 0) rfl rfl (restOk_plain rfl) fun hop => ?_
    simp only [build, buildControl, hop, Nat.reduceDiv, Nat.reduceMod, f_eq_zero hf]
    grind only [req_eq_some, Option.bind_eq_some_iff, bit64_eq_false_iff hu]
  | bra g o | brl g o =>
    refine reads_of hx hop (withOffset_eq_iff hx) (u := false) (n := 0) rfl rfl (restOk_plain rfl) fun hop => ?_
    simp only [build, buildControl, hop, Nat.reduceDiv, Nat.reduceMod, f_eq_zero hf]
    grind only [req_eq_some, Option.bind_eq_some_iff, bit64_eq_false_iff hu]
  | brc g o so =>
    refine reads_of hx hop (withOffset_eq_iff hx) (u := false) rfl rfl (restOk_plain rfl) fun hop => ?_
    simp only [build, buildControl, hop, Nat.reduceDiv, Nat.reduceMod, f_eq_arm hf]
    grind only [req_eq_some, Option.bind_eq_some_iff, bit64_eq_false_iff hu]
  | seam g d =>
    refine reads_of hx hop (withSeam_eq_iff hx) (u := false) rfl (withSeam_op _ _) (restOk_plain rfl) fun hop => ?_
    simp only [build, buildControl, hop, Nat.reduceDiv, Nat.reduceMod]
    grind only [req_eq_some, Option.bind_eq_some_iff, bit64_eq_false_iff hu]
  | mark g k | ret g k =>
    refine reads_of hx hop (withNone_eq_iff hx) (u := false) rfl rfl (restOk_plain rfl) fun hop => ?_
    simp only [build, buildControl, hop, Nat.reduceDiv, Nat.reduceMod, f_eq_count hf]
    grind only [req_eq_some, Option.bind_eq_some_iff, bit64_eq_false_iff hu]
  | conform g k c =>
    refine reads_of hx hop (withConform_eq_iff hx) (u := false) rfl ((withF_op _ _).trans (withConform_op _ _)) (restOk_plain rfl) fun hop => ?_
    simp only [build, buildControl, hop, Nat.reduceDiv, Nat.reduceMod, f_eq_count hf]
    grind only [req_eq_some, Option.bind_eq_some_iff, bit64_eq_false_iff hu]
  | brx g a =>
    refine reads_of hx hop (withA_eq_iff hx) (u := false) (n := 0) rfl rfl (restOk_plain rfl) fun hop => ?_
    simp only [build, buildControl, hop, Nat.reduceDiv, Nat.reduceMod, f_eq_zero hf]
    grind only [req_eq_some, Option.bind_eq_some_iff, bit64_eq_false_iff hu]
  | call g o fr n =>
    refine reads_of hx hop (withOffset_eq_iff hx) (u := false) rfl rfl (restOk_plain rfl) fun hop => ?_
    simp only [build, buildControl, hop, Nat.reduceDiv, Nat.reduceMod, f_eq_frame_count hf]
    grind only [req_eq_some, Option.bind_eq_some_iff, bit64_eq_false_iff hu]
  | callx g a fr n =>
    refine reads_of hx hop (withA_eq_iff hx) (u := false) rfl rfl (restOk_plain rfl) fun hop => ?_
    simp only [build, buildControl, hop, Nat.reduceDiv, Nat.reduceMod, f_eq_frame_count hf]
    grind only [req_eq_some, Option.bind_eq_some_iff, bit64_eq_false_iff hu]
  | _ => cases hg

theorem reads_weft (hg : i.group = 1) : Reads mt x i := by
  have hu := Fields.u_lt hx
  have hf := Fields.f_lt hx
  have hopnd := Laws.FieldsFit.opnd hw
  cases i with
  | pick g u a =>
    refine reads_of hx hop (withOpA_eq_iff hx (Bool.and_elim_right hopnd)) (withF_zero (withOpA_f _ _)).symm (withOpA_op _ _)
      (restOk_plain rfl) fun hop => ?_
    simp only [build, buildWeft, hop, Nat.reduceDiv, Nat.reduceMod, f_eq_zero hf]
    grind only [req_eq_some, Option.bind_eq_some_iff, bit64_eq_false_iff hu]
  | save g a slot =>
    refine reads_of hx hop (withOpA_eq_iff hx (Bool.and_elim_right hopnd)) (u := false) rfl (withOpA_op _ _) (restOk_plain rfl) fun hop => ?_
    simp only [build, buildWeft, hop, Nat.reduceDiv, Nat.reduceMod, f_eq_slot hf]
    grind only [req_eq_some, Option.bind_eq_some_iff, bit64_eq_false_iff hu]
  | pack g sat idx t a b =>
    refine reads_of hx hop (withOpAB_eq_iff hx (Laws.FieldsFit.lastTwo hopnd)) (u := false) rfl (withOpA_op _ _) (restOk_plain rfl) fun hop => ?_
    simp only [build, buildWeft, hop, Nat.reduceDiv, Nat.reduceMod, f_eq_sat_elem_ty hf]
    grind only [req_eq_some, Option.bind_eq_some_iff, bit64_eq_false_iff hu]
  | unpack g idx t a =>
    refine reads_of hx hop (withOpA_eq_iff hx (Bool.and_elim_right hopnd)) (u := false) rfl (withOpA_op _ _) (restOk_plain rfl) fun hop => ?_
    simp only [build, buildWeft, hop, Nat.reduceDiv, Nat.reduceMod, f_eq_elem_ty hf]
    grind only [req_eq_some, Option.bind_eq_some_iff, bit64_eq_false_iff hu]
  | _ => cases hg

theorem reads_integer (hg : i.group = 2) : Reads mt x i := by
  have hu := Fields.u_lt hx
  have hf := Fields.f_lt hx
  have hopnd := Laws.FieldsFit.opnd hw
  cases i with
  | iadd g u sat t a b | isub g u sat t a b | imul g u sat t a b =>
    refine reads_of hx hop (withOpAB_eq_iff hx (Laws.FieldsFit.lastTwo hopnd)) rfl (withOpA_op _ _) (restOk_plain rfl) fun hop => ?_
    simp only [build, buildInteger, hop, Nat.reduceDiv, Nat.reduceMod, f_eq_sat_ty hf]
    grind only [req_eq_some, Option.bind_eq_some_iff, bit64_eq_false_iff hu]
  | imad g u sat t a b c | idot4 g u sat t a b c | idot2 g u sat t a b c =>
    refine reads_of hx hop (withOpABC_eq_iff hx (Laws.FieldsFit.lastTwo hopnd)) rfl (withOpA_op _ _) (restOk_plain rfl) fun hop => ?_
    simp only [build, buildInteger, hop, Nat.reduceDiv, Nat.reduceMod, f_eq_sat_ty hf]
    grind only [req_eq_some, Option.bind_eq_some_iff, bit64_eq_false_iff hu]
  | iadc g t p a b | isbb g t p a b =>
    refine reads_of hx hop (withOpAB_eq_iff hx (Laws.FieldsFit.lastTwo hopnd)) (u := false) rfl (withOpA_op _ _) (restOk_plain rfl) fun hop => ?_
    simp only [build, buildInteger, hop, Nat.reduceDiv, Nat.reduceMod, f_eq_carry_ty hf]
    grind only [req_eq_some, Option.bind_eq_some_iff, bit64_eq_false_iff hu]
  | imulh g u t a b | imin g u t a b | imax g u t a b | iabsd g u t a b =>
    refine reads_of hx hop (withOpAB_eq_iff hx (Laws.FieldsFit.lastTwo hopnd)) rfl (withOpA_op _ _) (restOk_plain rfl) fun hop => ?_
    simp only [build, buildInteger, hop, Nat.reduceDiv, Nat.reduceMod, f_eq_ty hf]
    grind only [req_eq_some, Option.bind_eq_some_iff, bit64_eq_false_iff hu]
  | iclamp g u t a b c | lea g u t a b c =>
    refine reads_of hx hop (withOpABC_eq_iff hx (Laws.FieldsFit.lastTwo hopnd)) rfl (withOpA_op _ _) (restOk_plain rfl) fun hop => ?_
    simp only [build, buildInteger, hop, Nat.reduceDiv, Nat.reduceMod, f_eq_ty hf]
    grind only [req_eq_some, Option.bind_eq_some_iff, bit64_eq_false_iff hu]
  | imadw g u t a b c =>
    refine reads_of hx hop (withOpABC_eq_iff hx (Laws.FieldsFit.lastTwoOfThree hopnd)) rfl (withOpA_op _ _) (restOk_plain rfl) fun hop => ?_
    simp only [build, buildInteger, hop, Nat.reduceDiv, Nat.reduceMod, f_eq_ty hf]
    grind only [req_eq_some, Option.bind_eq_some_iff, bit64_eq_false_iff hu]
  | isat g u t t2 a =>
    refine reads_of hx hop (withOpA_eq_iff hx (Bool.and_elim_right hopnd)) rfl (withOpA_op _ _) (restOk_plain rfl) fun hop => ?_
    simp only [build, buildInteger, hop, Nat.reduceDiv, Nat.reduceMod, f_eq_isat hf]
    grind only [req_eq_some, Option.bind_eq_some_iff, bit64_eq_false_iff hu]
  | _ => cases hg

theorem reads_logic (hg : i.group = 3) : Reads mt x i := by
  have hu := Fields.u_lt hx
  have hf := Fields.f_lt hx
  have hopnd := Laws.FieldsFit.opnd hw
  cases i with
  | and g u t a b | or g u t a b | xor g u t a b | shl g u t a b | shr g u t a b | sar g u t a b | rol g u t a b | bfx g u t a b =>
    refine reads_of hx hop (withOpAB_eq_iff hx (Laws.FieldsFit.lastTwo hopnd)) rfl (withOpA_op _ _) (restOk_plain rfl) fun hop => ?_
    simp only [build, buildLogic, hop, Nat.reduceDiv, Nat.reduceMod, f_eq_ty hf]
    grind only [req_eq_some, Option.bind_eq_some_iff, bit64_eq_false_iff hu]
  | funnel g u t a b c | bfi g u t a b c | permb g u t a b c =>
    refine reads_of hx hop (withOpABC_eq_iff hx (Laws.FieldsFit.lastTwo hopnd)) rfl (withOpA_op _ _) (restOk_plain rfl) fun hop => ?_
    simp only [build, buildLogic, hop, Nat.reduceDiv, Nat.reduceMod, f_eq_ty hf]
    grind only [req_eq_some, Option.bind_eq_some_iff, bit64_eq_false_iff hu]
  | popc g u t a | clz g u t a | ctz g u t a | brev g u t a =>
    refine reads_of hx hop (withOpA_eq_iff hx (Bool.and_elim_right hopnd)) rfl (withOpA_op _ _) (restOk_plain rfl) fun hop => ?_
    simp only [build, buildLogic, hop, Nat.reduceDiv, Nat.reduceMod, f_eq_ty hf]
    grind only [req_eq_some, Option.bind_eq_some_iff, bit64_eq_false_iff hu]
  | lop3 g u t tab a b c =>
    refine reads_of hx hop (withOpABC_eq_iff hx (Laws.FieldsFit.lastTwo hopnd)) rfl (withOpA_op _ _) (restOk_plain rfl) fun hop => ?_
    simp only [build, buildLogic, hop, Nat.reduceDiv, Nat.reduceMod, f_eq_table_ty hf]
    grind only [req_eq_some, Option.bind_eq_some_iff, bit64_eq_false_iff hu]
  | _ => cases hg

theorem reads_compare (hg : i.group = 4) : Reads mt x i := by
  have hu := Fields.u_lt hx
  have hf := Fields.f_lt hx
  have hopnd := Laws.FieldsFit.opnd hw
  cases i with
  | icmp g t cd p a b =>
    refine reads_of hx hop (withOpAB_eq_iff hx (Laws.FieldsFit.lastTwo hopnd)) (u := false) rfl (withOpA_op _ _) (restOk_plain rfl) fun hop => ?_
    simp only [build, buildCompare, hop, Nat.reduceDiv, Nat.reduceMod, f_eq_icmp hf (Laws.FieldsFit.int_code_lt (Laws.FieldsFit.op hw))]
    grind only [req_eq_some, Option.bind_eq_some_iff, bit64_eq_false_iff hu]
  | fcmp g t cd p a b =>
    refine reads_of hx hop (withOpAB_eq_iff hx (Laws.FieldsFit.lastTwo hopnd)) (u := false) rfl (withOpA_op _ _) (restOk_plain rfl) fun hop => ?_
    simp only [build, buildCompare, hop, Nat.reduceDiv, Nat.reduceMod, f_eq_fcmp hf (Laws.FieldsFit.op hw)]
    grind only [req_eq_some, Option.bind_eq_some_iff, bit64_eq_false_iff hu]
  | sel g u p a b =>
    refine reads_of hx hop (withOpAB_eq_iff hx (Laws.FieldsFit.lastTwo hopnd)) rfl (withOpA_op _ _) (restOk_plain rfl) fun hop => ?_
    simp only [build, buildCompare, hop, Nat.reduceDiv, Nat.reduceMod, f_eq_pred hf]
    grind only [req_eq_some, Option.bind_eq_some_iff, bit64_eq_false_iff hu]
  | itst g p a b =>
    refine reads_of hx hop (withOpAB_eq_iff hx (Laws.FieldsFit.lastTwo hopnd)) (u := false) rfl (withOpA_op _ _) (restOk_plain rfl) fun hop => ?_
    simp only [build, buildCompare, hop, Nat.reduceDiv, Nat.reduceMod, f_eq_pred hf]
    grind only [req_eq_some, Option.bind_eq_some_iff, bit64_eq_false_iff hu]
  | plop g tab pa pb pc pd =>
    refine reads_of hx hop (withPlop_eq_iff hx) (u := false) rfl rfl (restOk_plain rfl) fun hop => ?_
    simp only [build, buildCompare, hop, Nat.reduceDiv, Nat.reduceMod, f_eq_byte hf]
    grind only [req_eq_some, Option.bind_eq_some_iff, bit64_eq_false_iff hu]
  | pset g p a =>
    refine reads_of hx hop (withOpA_eq_iff hx (Bool.and_elim_right hopnd)) (u := false) rfl (withOpA_op _ _) (restOk_plain rfl) fun hop => ?_
    simp only [build, buildCompare, hop, Nat.reduceDiv, Nat.reduceMod, f_eq_pred hf]
    grind only [req_eq_some, Option.bind_eq_some_iff, bit64_eq_false_iff hu]
  | ptov g =>
    refine reads_of hx hop (withNone_eq_iff hx) (u := false) (n := 0) rfl rfl (restOk_plain rfl) fun hop => ?_
    simp only [build, buildCompare, hop, Nat.reduceDiv, Nat.reduceMod, f_eq_zero hf]
    grind only [req_eq_some, Option.bind_eq_some_iff, bit64_eq_false_iff hu]
  | vtop g a b =>
    refine reads_of hx hop (withOpAB_eq_iff hx (Laws.FieldsFit.lastTwo hopnd)) (u := false) (withF_zero (withOpA_f _ _)).symm (withOpA_op _ _)
      (restOk_plain rfl) fun hop => ?_
    simp only [build, buildCompare, hop, Nat.reduceDiv, Nat.reduceMod, f_eq_zero hf]
    grind only [req_eq_some, Option.bind_eq_some_iff, bit64_eq_false_iff hu]
  | _ => cases hg

theorem reads_float (hg : i.group = 5) : Reads mt x i := by
  have hu := Fields.u_lt hx
  have hf := Fields.f_lt hx
  have hopnd := Laws.FieldsFit.opnd hw
  cases i with
  | fadd g u t r a b | fsub g u t r a b | fmul g u t r a b | fscale g u t r a b | fdiv g u t r a b =>
    refine reads_of hx hop (withOpAB_eq_iff hx (Laws.FieldsFit.lastTwo hopnd)) rfl (withOpA_op _ _) (restOk_plain rfl) fun hop => ?_
    simp only [build, buildFloat, hop, Nat.reduceDiv, Nat.reduceMod, f_eq_rnd_ty hf]
    grind only [req_eq_some, Option.bind_eq_some_iff, bit64_eq_false_iff hu]
  | ffma g u t r a b c | fdot2 g u t r a b c =>
    refine reads_of hx hop (withOpABC_eq_iff hx (Laws.FieldsFit.lastTwo hopnd)) rfl (withOpA_op _ _) (restOk_plain rfl) fun hop => ?_
    simp only [build, buildFloat, hop, Nat.reduceDiv, Nat.reduceMod, f_eq_rnd_ty hf]
    grind only [req_eq_some, Option.bind_eq_some_iff, bit64_eq_false_iff hu]
  | frnd g u t r a | fsqrt g u t r a =>
    refine reads_of hx hop (withOpA_eq_iff hx (Bool.and_elim_right hopnd)) rfl (withOpA_op _ _) (restOk_plain rfl) fun hop => ?_
    simp only [build, buildFloat, hop, Nat.reduceDiv, Nat.reduceMod, f_eq_rnd_ty hf]
    grind only [req_eq_some, Option.bind_eq_some_iff, bit64_eq_false_iff hu]
  | fmin g u t a b | fmax g u t a b =>
    refine reads_of hx hop (withOpAB_eq_iff hx (Laws.FieldsFit.lastTwo hopnd)) rfl (withOpA_op _ _) (restOk_plain rfl) fun hop => ?_
    simp only [build, buildFloat, hop, Nat.reduceDiv, Nat.reduceMod, f_eq_ty hf]
    grind only [req_eq_some, Option.bind_eq_some_iff, bit64_eq_false_iff hu]
  | fclass g u t a =>
    refine reads_of hx hop (withOpA_eq_iff hx (Bool.and_elim_right hopnd)) rfl (withOpA_op _ _) (restOk_plain rfl) fun hop => ?_
    simp only [build, buildFloat, hop, Nat.reduceDiv, Nat.reduceMod, f_eq_ty hf]
    grind only [req_eq_some, Option.bind_eq_some_iff, bit64_eq_false_iff hu]
  | _ => cases hg

theorem reads_quick (hg : i.group = 6) : Reads mt x i := by
  have hu := Fields.u_lt hx
  have hopnd := Laws.FieldsFit.opnd hw
  cases i with
  | frcp g u a | frsq g u a | fex2 g u a | flg2 g u a | fsin g u a | fcos g u a | ftanh g u a =>
    refine reads_of hx hop (withOpA_eq_iff hx (Bool.and_elim_right hopnd)) rfl (withOpA_op _ _) (restOk_plain rfl) fun hop => ?_
    simp only [build, buildQuick, hop, Nat.reduceDiv, Nat.reduceMod]
    grind only [req_eq_some, Option.bind_eq_some_iff, bit64_eq_false_iff hu]
  | _ => cases hg

theorem reads_conversion (hg : i.group = 7) : Reads mt x i := by
  have hu := Fields.u_lt hx
  have hf := Fields.f_lt hx
  have hopnd := Laws.FieldsFit.opnd hw
  cases i with
  | cvt g u r t2 t a =>
    refine reads_of hx hop (withOpA_eq_iff hx (Bool.and_elim_right hopnd)) rfl (withOpA_op _ _) (restOk_plain rfl) fun hop => ?_
    simp only [build, buildConversion, hop, Nat.reduceDiv, Nat.reduceMod, f_eq_rnd_ty_ty hf]
    grind only [req_eq_some, Option.bind_eq_some_iff, bit64_eq_false_iff hu]
  | qscale g t2 t a =>
    refine reads_of hx hop (withOpA_eq_iff hx (Bool.and_elim_right hopnd)) (u := false) rfl (withOpA_op _ _) (restOk_plain rfl) fun hop => ?_
    simp only [build, buildConversion, hop, Nat.reduceDiv, Nat.reduceMod, f_eq_ty_ty hf]
    grind only [req_eq_some, Option.bind_eq_some_iff, bit64_eq_false_iff hu]
  | qcvt g t2 t a b | dqcvt g t2 t a b =>
    refine reads_of hx hop (withOpAB_eq_iff hx (Laws.FieldsFit.lastTwo hopnd)) (u := false) rfl (withOpA_op _ _) (restOk_plain rfl) fun hop => ?_
    simp only [build, buildConversion, hop, Nat.reduceDiv, Nat.reduceMod, f_eq_ty_ty hf]
    grind only [req_eq_some, Option.bind_eq_some_iff, bit64_eq_false_iff hu]
  | resenc g u t a | resdec g u t a =>
    refine reads_of hx hop (withOpA_eq_iff hx (Bool.and_elim_right hopnd)) rfl (withOpA_op _ _) (restOk_plain rfl) fun hop => ?_
    simp only [build, buildConversion, hop, Nat.reduceDiv, Nat.reduceMod, f_eq_ty hf]
    grind only [req_eq_some, Option.bind_eq_some_iff, bit64_eq_false_iff hu]
  | _ => cases hg

theorem reads_warpWide (hg : i.group = 8) : Reads mt x i := by
  have hu := Fields.u_lt hx
  have hf := Fields.f_lt hx
  cases i with
  | vote g m p a =>
    refine reads_of hx hop (withA_eq_iff hx) (u := false) rfl rfl (restOk_plain rfl) fun hop => ?_
    simp only [build, buildWarpWide, hop, Nat.reduceDiv, Nat.reduceMod, f_eq_vote hf]
    grind only [req_eq_some, Option.bind_eq_some_iff, bit64_eq_false_iff hu]
  | shfl g m p a b =>
    refine reads_of hx hop (withAB_eq_iff hx) (u := false) rfl rfl (restOk_plain rfl) fun hop => ?_
    simp only [build, buildWarpWide, hop, Nat.reduceDiv, Nat.reduceMod, f_eq_shfl hf]
    grind only [req_eq_some, Option.bind_eq_some_iff, bit64_eq_false_iff hu]
  | wred g ro t r a =>
    refine reads_of hx hop (withA_eq_iff hx) (u := false) rfl rfl (restOk_plain rfl) fun hop => ?_
    simp only [build, buildWarpWide, hop, Nat.reduceDiv, Nat.reduceMod, f_eq_wred hf]
    grind only [req_eq_some, Option.bind_eq_some_iff, bit64_eq_false_iff hu]
  | wscan g ex ro t r a =>
    refine reads_of hx hop (withA_eq_iff hx) (u := false) rfl rfl (restOk_plain rfl) fun hop => ?_
    simp only [build, buildWarpWide, hop, Nat.reduceDiv, Nat.reduceMod, f_eq_wscan hf]
    grind only [req_eq_some, Option.bind_eq_some_iff, bit64_eq_false_iff hu]
  | matchLanes g t a =>
    refine reads_of hx hop (withA_eq_iff hx) (u := false) rfl rfl (restOk_plain rfl) fun hop => ?_
    simp only [build, buildWarpWide, hop, Nat.reduceDiv, Nat.reduceMod, f_eq_ty hf]
    grind only [req_eq_some, Option.bind_eq_some_iff, bit64_eq_false_iff hu]
  | bcast g p a b =>
    refine reads_of hx hop (withAB_eq_iff hx) (u := false) rfl rfl (restOk_plain rfl) fun hop => ?_
    simp only [build, buildWarpWide, hop, Nat.reduceDiv, Nat.reduceMod, f_eq_pred hf]
    grind only [req_eq_some, Option.bind_eq_some_iff, bit64_eq_false_iff hu]
  | active g =>
    refine reads_of hx hop (withNone_eq_iff hx) (u := false) (n := 0) rfl rfl (restOk_plain rfl) fun hop => ?_
    simp only [build, buildWarpWide, hop, Nat.reduceDiv, Nat.reduceMod, f_eq_zero hf]
    grind only [req_eq_some, Option.bind_eq_some_iff, bit64_eq_false_iff hu]
  | _ => cases hg

theorem reads_memory (hg : i.group = 9) : Reads mt x i := by
  have hu := Fields.u_lt hx
  have hf := Fields.f_lt hx
  cases i with
  | ld g peg sc o h sx sz a =>
    refine reads_of hx hop (withA_eq_iff hx) (u := false) rfl rfl (restOk_scope rfl) fun hop => ?_
    simp only [build, buildMemory, hop, Nat.reduceDiv, Nat.reduceMod, f_eq_ld hf]
    grind only [req_eq_some, Option.bind_eq_some_iff, bit64_eq_false_iff hu]
  | st g peg sc o h sz a b =>
    refine reads_of hx hop (withAB_eq_iff hx) (u := false) rfl rfl (restOk_scope rfl) fun hop => ?_
    simp only [build, buildMemory, hop, Nat.reduceDiv, Nat.reduceMod, f_eq_st hf]
    grind only [req_eq_some, Option.bind_eq_some_iff, bit64_eq_false_iff hu]
  | lds g peg sc o sx sz a =>
    refine reads_of hx hop (withA_eq_iff hx) (u := false) rfl rfl (restOk_scope rfl) fun hop => ?_
    simp only [build, buildMemory, hop, Nat.reduceDiv, Nat.reduceMod, f_eq_lds hf]
    grind only [req_eq_some, Option.bind_eq_some_iff, bit64_eq_false_iff hu]
  | sts g peg sc o sz a b =>
    refine reads_of hx hop (withAB_eq_iff hx) (u := false) rfl rfl (restOk_scope rfl) fun hop => ?_
    simp only [build, buildMemory, hop, Nat.reduceDiv, Nat.reduceMod, f_eq_sts hf]
    grind only [req_eq_some, Option.bind_eq_some_iff, bit64_eq_false_iff hu]
  | ldp g peg sx sz a =>
    refine reads_of hx hop (withA_eq_iff hx) (u := false) rfl rfl (restOk_plain rfl) fun hop => ?_
    simp only [build, buildMemory, hop, Nat.reduceDiv, Nat.reduceMod, f_eq_ldp hf]
    grind only [req_eq_some, Option.bind_eq_some_iff, bit64_eq_false_iff hu]
  | stp g peg sz a b =>
    refine reads_of hx hop (withAB_eq_iff hx) (u := false) rfl rfl (restOk_plain rfl) fun hop => ?_
    simp only [build, buildMemory, hop, Nat.reduceDiv, Nat.reduceMod, f_eq_stp hf]
    grind only [req_eq_some, Option.bind_eq_some_iff, bit64_eq_false_iff hu]
  | pref g lv a =>
    refine reads_of hx hop (withA_eq_iff hx) (u := false) rfl rfl (restOk_plain rfl) fun hop => ?_
    simp only [build, buildMemory, hop, Nat.reduceDiv, Nat.reduceMod, f_eq_pref hf]
    grind only [req_eq_some, Option.bind_eq_some_iff, bit64_eq_false_iff hu]
  | fence g peg sc fo =>
    refine reads_of hx hop (withNone_eq_iff hx) (u := false) rfl rfl (restOk_scope rfl) fun hop => ?_
    simp only [build, buildMemory, hop, Nat.reduceDiv, Nat.reduceMod, f_eq_fence hf]
    grind only [req_eq_some, Option.bind_eq_some_iff, bit64_eq_false_iff hu]
  | cctl g peg co a =>
    refine reads_of hx hop (withA_eq_iff hx) (u := false) rfl rfl (restOk_plain rfl) fun hop => ?_
    simp only [build, buildMemory, hop, Nat.reduceDiv, Nat.reduceMod, f_eq_cctl hf]
    grind only [req_eq_some, Option.bind_eq_some_iff, bit64_eq_false_iff hu]
  | _ => cases hg

theorem reads_atomic (hg : i.group = 10) : Reads mt x i := by
  have hu := Fields.u_lt hx
  have hf := Fields.f_lt hx
  cases i with
  | atom g peg sc o ao w a b | red g peg sc o ao w a b | atoms g peg sc o ao w a b =>
    refine reads_of hx hop (withAB_eq_iff hx) (u := false) rfl rfl (restOk_scope rfl) fun hop => ?_
    simp only [build, buildAtomic, hop, Nat.reduceDiv, Nat.reduceMod, f_eq_atom hf]
    grind only [req_eq_some, Option.bind_eq_some_iff, bit64_eq_false_iff hu]
  | acas g peg sc o w a b c | acass g peg sc o w a b c =>
    refine reads_of hx hop (withABC_eq_iff hx) (u := false) rfl rfl (restOk_scope rfl) fun hop => ?_
    simp only [build, buildAtomic, hop, Nat.reduceDiv, Nat.reduceMod, f_eq_acas hf]
    grind only [req_eq_some, Option.bind_eq_some_iff, bit64_eq_false_iff hu]
  | ldv g peg sc o a b =>
    refine reads_of hx hop (withAB_eq_iff hx) (u := false) rfl rfl (restOk_scope rfl) fun hop => ?_
    simp only [build, buildAtomic, hop, Nat.reduceDiv, Nat.reduceMod, f_eq_ply hf]
    grind only [req_eq_some, Option.bind_eq_some_iff, bit64_eq_false_iff hu]
  | stv g peg sc o a b c | recon g peg sc o a b c =>
    refine reads_of hx hop (withABC_eq_iff hx) (u := false) rfl rfl (restOk_scope rfl) fun hop => ?_
    simp only [build, buildAtomic, hop, Nat.reduceDiv, Nat.reduceMod, f_eq_ply hf]
    grind only [req_eq_some, Option.bind_eq_some_iff, bit64_eq_false_iff hu]
  | _ => cases hg

theorem reads_barrier (hg : i.group = 11) : Reads mt x i := by
  have hu := Fields.u_lt hx
  have hf := Fields.f_lt hx
  cases i with
  | binit g peg sp a b c =>
    refine reads_of hx hop (withABC_eq_iff hx) (u := false) rfl rfl (restOk_plain rfl) fun hop => ?_
    simp only [build, buildBarrier, hop, Nat.reduceDiv, Nat.reduceMod, f_eq_peg_space hf]
    grind only [req_eq_some, Option.bind_eq_some_iff, bit64_eq_false_iff hu]
  | barrive g peg sp a b | bexpect g peg sp a b =>
    refine reads_of hx hop (withAB_eq_iff hx) (u := false) rfl rfl (restOk_plain rfl) fun hop => ?_
    simp only [build, buildBarrier, hop, Nat.reduceDiv, Nat.reduceMod, f_eq_peg_space hf]
    grind only [req_eq_some, Option.bind_eq_some_iff, bit64_eq_false_iff hu]
  | bwait g sp a b | btest g sp a b =>
    refine reads_of hx hop (withAB_eq_iff hx) (u := false) rfl rfl (restOk_plain rfl) fun hop => ?_
    simp only [build, buildBarrier, hop, Nat.reduceDiv, Nat.reduceMod, f_eq_space hf]
    grind only [req_eq_some, Option.bind_eq_some_iff, bit64_eq_false_iff hu]
  | bdrop g peg sp a =>
    refine reads_of hx hop (withA_eq_iff hx) (u := false) rfl rfl (restOk_plain rfl) fun hop => ?_
    simp only [build, buildBarrier, hop, Nat.reduceDiv, Nat.reduceMod, f_eq_peg_space hf]
    grind only [req_eq_some, Option.bind_eq_some_iff, bit64_eq_false_iff hu]
  | copy g peg dir sp td a b c | copym g peg dir sp td a b c =>
    refine reads_of hx hop (withABC_eq_iff hx) (u := false) rfl rfl (restOk_plain rfl) fun hop => ?_
    simp only [build, buildBarrier, hop, Nat.reduceDiv, Nat.reduceMod, f_eq_copy hf]
    grind only [req_eq_some, Option.bind_eq_some_iff, bit64_eq_false_iff hu]
  | copyg g peg sp a b c =>
    refine reads_of hx hop (withABC_eq_iff hx) (u := false) rfl rfl (restOk_plain rfl) fun hop => ?_
    simp only [build, buildBarrier, hop, Nat.reduceDiv, Nat.reduceMod, f_eq_copyg hf]
    grind only [req_eq_some, Option.bind_eq_some_iff, bit64_eq_false_iff hu]
  | _ => cases hg

theorem reads_matrix (hg : i.group = 12) : Reads mt x i := by
  have hu := Fields.u_lt hx
  have hf := Fields.f_lt hx
  cases i with
  | mzero g m tile =>
    refine reads_of hx hop (withNone_eq_iff hx) (u := false) rfl rfl (restOk_plain rfl) fun hop => ?_
    simp only [build, buildMatrix, hop, Nat.reduceDiv, Nat.reduceMod, f_eq_mzero hf]
    grind only [req_eq_some, Option.bind_eq_some_iff, bit64_eq_false_iff hu]
  | mlds g peg fm a b =>
    refine reads_of hx hop (withAB_eq_iff hx) (u := false) rfl rfl (restOk_plain rfl) fun hop => ?_
    simp only [build, buildMatrix, hop, Nat.reduceDiv, Nat.reduceMod, f_eq_mlds hf]
    grind only [req_eq_some, Option.bind_eq_some_iff, bit64_eq_false_iff hu]
  | mswap g =>
    refine reads_of hx hop (withNone_eq_iff hx) (u := false) (n := 0) rfl rfl (restOk_plain rfl) fun hop => ?_
    simp only [build, buildMatrix, hop, Nat.reduceDiv, Nat.reduceMod, f_eq_zero hf]
    grind only [req_eq_some, Option.bind_eq_some_iff, bit64_eq_false_iff hu]
  | mstream g peg m1 tile a b c =>
    refine reads_of hx hop (withABC_eq_iff hx) (u := false) rfl rfl (restOk_plain rfl) fun hop => ?_
    simp only [build, buildMatrix, hop, Nat.reduceDiv, Nat.reduceMod, f_eq_mstream hf]
    grind only [req_eq_some, Option.bind_eq_some_iff, bit64_eq_false_iff hu]
  | mdrain g peg cv ac gl bias tile a b c =>
    refine reads_of hx hop (withABC_eq_iff hx) (u := false) rfl rfl (restOk_plain rfl) fun hop => ?_
    simp only [build, buildMatrix, hop, Nat.reduceDiv, Nat.reduceMod, f_eq_mdrain hf]
    grind only [req_eq_some, Option.bind_eq_some_iff, bit64_eq_false_iff hu]
  | mstat g clr tile =>
    refine reads_of hx hop (withNone_eq_iff hx) (u := false) rfl rfl (restOk_plain rfl) fun hop => ?_
    simp only [build, buildMatrix, hop, Nat.reduceDiv, Nat.reduceMod, f_eq_mstat hf]
    grind only [req_eq_some, Option.bind_eq_some_iff, bit64_eq_false_iff hu]
  | _ => cases hg

theorem reads_spawn (hg : i.group = 13) : Reads mt x i := by
  have hu := Fields.u_lt hx
  have hf := Fields.f_lt hx
  cases i with
  | spawn g peg j stage a b c =>
    refine reads_of hx hop (withABC_eq_iff hx) (u := false) rfl rfl (restOk_plain rfl) fun hop => ?_
    simp only [build, buildSpawn, hop, Nat.reduceDiv, Nat.reduceMod, f_eq_spawn hf]
    grind only [req_eq_some, Option.bind_eq_some_iff, bit64_eq_false_iff hu]
  | watch g peg lg stage a =>
    refine reads_of hx hop (withA_eq_iff hx) (u := false) rfl rfl (restOk_plain rfl) fun hop => ?_
    simp only [build, buildSpawn, hop, Nat.reduceDiv, Nat.reduceMod, f_eq_watch hf]
    grind only [req_eq_some, Option.bind_eq_some_iff, bit64_eq_false_iff hu]
  | unwatch g peg a =>
    refine reads_of hx hop (withA_eq_iff hx) (u := false) rfl rfl (restOk_plain rfl) fun hop => ?_
    simp only [build, buildSpawn, hop, Nat.reduceDiv, Nat.reduceMod, f_eq_peg hf]
    grind only [req_eq_some, Option.bind_eq_some_iff, bit64_eq_false_iff hu]
  | bobq g stage =>
    refine reads_of hx hop (withNone_eq_iff hx) (u := false) rfl rfl (restOk_plain rfl) fun hop => ?_
    simp only [build, buildSpawn, hop, Nat.reduceDiv, Nat.reduceMod, f_eq_count hf]
    grind only [req_eq_some, Option.bind_eq_some_iff, bit64_eq_false_iff hu]
  | _ => cases hg

theorem reads_system (hg : i.group = 14) : Reads mt x i := by
  have hu := Fields.u_lt hx
  have hf := Fields.f_lt hx
  cases i with
  | chksig g a =>
    refine reads_of hx hop (withA_eq_iff hx) (u := false) (n := 0) rfl rfl (restOk_plain rfl) fun hop => ?_
    simp only [build, buildSystem, hop, Nat.reduceDiv, Nat.reduceMod, f_eq_zero hf]
    grind only [req_eq_some, Option.bind_eq_some_iff, bit64_eq_false_iff hu]
  | csrr g u num =>
    refine reads_of hx hop (withNone_eq_iff hx) rfl rfl (restOk_plain rfl) fun hop => ?_
    simp only [build, buildSystem, hop, Nat.reduceDiv, Nat.reduceMod, f_eq_number hf]
    grind only [req_eq_some, Option.bind_eq_some_iff, bit64_eq_false_iff hu]
  | csrw g num a =>
    refine reads_of hx hop (withA_eq_iff hx) (u := false) rfl rfl (restOk_plain rfl) fun hop => ?_
    simp only [build, buildSystem, hop, Nat.reduceDiv, Nat.reduceMod, f_eq_number hf]
    grind only [req_eq_some, Option.bind_eq_some_iff, bit64_eq_false_iff hu]
  | trap g cc a =>
    refine reads_of hx hop (withA_eq_iff hx) (u := false) rfl rfl (restOk_plain rfl) fun hop => ?_
    simp only [build, buildSystem, hop, Nat.reduceDiv, Nat.reduceMod, f_eq_byte hf]
    grind only [req_eq_some, Option.bind_eq_some_iff, bit64_eq_false_iff hu]
  | tret g =>
    refine reads_of hx hop (withNone_eq_iff hx) (u := false) (n := 0) rfl rfl (restOk_plain rfl) fun hop => ?_
    simp only [build, buildSystem, hop, Nat.reduceDiv, Nat.reduceMod, f_eq_zero hf]
    grind only [req_eq_some, Option.bind_eq_some_iff, bit64_eq_false_iff hu]
  | clock g u =>
    refine reads_of hx hop (withNone_eq_iff hx) (n := 0) rfl rfl (restOk_plain rfl) fun hop => ?_
    simp only [build, buildSystem, hop, Nat.reduceDiv, Nat.reduceMod, f_eq_zero hf]
    grind only [req_eq_some, Option.bind_eq_some_iff, bit64_eq_false_iff hu]
  | bkpt g cc =>
    refine reads_of hx hop (withNone_eq_iff hx) (u := false) rfl rfl (restOk_plain rfl) fun hop => ?_
    simp only [build, buildSystem, hop, Nat.reduceDiv, Nat.reduceMod, f_eq_byte hf]
    grind only [req_eq_some, Option.bind_eq_some_iff, bit64_eq_false_iff hu]
  | iregion g keep =>
    refine reads_of hx hop (withNone_eq_iff hx) (u := false) rfl rfl restOk_region fun hop => ?_
    simp only [build, buildSystem, hop, Nat.reduceDiv, Nat.reduceMod, f_eq_region hf]
    grind only [req_eq_some, Option.bind_eq_some_iff, bit64_eq_false_iff hu]
  | iregionClose g =>
    refine reads_of hx hop (withNone_eq_iff hx) (u := false) (n := 32) rfl rfl restOk_region fun hop => ?_
    simp only [build, buildSystem, hop, Nat.reduceDiv, Nat.reduceMod, f_eq_close hf]
    grind only [req_eq_some, Option.bind_eq_some_iff, bit64_eq_false_iff hu]
  | _ => cases hg

end Groups

/-! #### The opcode of what is read -/

/-- What is read, if anything, is an instruction of this opcode, an assigned one. -/
def Yields (op : Nat) (o : Option Instr) : Prop := ∀ i, o = some i → opcodeAssigned op = true ∧ i.group < 15 ∧ (encodeFields i).op = op

section Yields

variable {op : Nat}

theorem yields_none : Yields op none := fun _ h => nomatch h

theorem yields_some {i : Instr} : Yields op (some i) ↔ opcodeAssigned op = true ∧ i.group < 15 ∧ (encodeFields i).op = op := by
  simp [Yields]

theorem yields_req {c : Bool} {o : Option Instr} : Yields op (req c o) ↔ (c = true → Yields op o) := by
  simp only [Yields, req_eq_some]
  grind

theorem yields_bind {α : Type} {o : Option α} {f : α → Option Instr} : Yields op (o.bind f) ↔ ∀ a, o = some a → Yields op (f a) := by
  simp only [Yields, Option.bind_eq_some_iff]
  exact ⟨fun h a ha i hi => h i ⟨a, ha, hi⟩, fun h i ⟨a, ha, hi⟩ => h a ha i hi⟩

theorem yields_ite {c : Prop} [Decidable c] {o o' : Option Instr} (h : Yields op o) (h' : Yields op o') : Yields op (if c then o else o') := by
  split <;> assumption

variable {mt : Bool} {x : Fields}

theorem build_yields : Yields x.op (build mt x) := by
  have hop : x.op = x.op / 64 * 64 + x.op % 64 := by omega
  rw [hop]
  unfold build
  generalize x.op / 64 = k
  split
  case h_16 => exact yields_none
  all_goals
    simp only [buildControl, buildWeft, buildInteger, buildLogic, buildCompare, buildFloat, buildQuick, buildConversion, buildWarpWide, buildMemory,
      buildAtomic, buildBarrier, buildMatrix, buildSpawn, buildSystem]
    generalize x.op % 64 = j
    split <;> simp [yields_req, yields_bind, yields_some, yields_none, yields_ite, opcodeAssigned, Instr.group, encodeFields, base_eq_baseU]

end Yields

/-! #### Every instruction -/

/-- The fields of every well-formed instruction lie within their widths (R37). -/
theorem encodeFields_fits (i : Instr) : Laws.FieldsFit.Statement i := by
  cases i with
  | nop => apply Laws.FieldsFit.nop | bra => apply Laws.FieldsFit.bra | brc => apply Laws.FieldsFit.brc
  | seam => apply Laws.FieldsFit.seam | mark => apply Laws.FieldsFit.mark | conform => apply Laws.FieldsFit.conform
  | brl => apply Laws.FieldsFit.brl | brx => apply Laws.FieldsFit.brx | call => apply Laws.FieldsFit.call
  | callx => apply Laws.FieldsFit.callx | ret => apply Laws.FieldsFit.ret | exit => apply Laws.FieldsFit.exit
  | yield => apply Laws.FieldsFit.yield | pick => apply Laws.FieldsFit.pick | save => apply Laws.FieldsFit.save
  | pack => apply Laws.FieldsFit.pack | unpack => apply Laws.FieldsFit.unpack | iadd => apply Laws.FieldsFit.iadd
  | isub => apply Laws.FieldsFit.isub | iadc => apply Laws.FieldsFit.iadc | isbb => apply Laws.FieldsFit.isbb
  | imul => apply Laws.FieldsFit.imul | imulh => apply Laws.FieldsFit.imulh | imad => apply Laws.FieldsFit.imad
  | imadw => apply Laws.FieldsFit.imadw | imin => apply Laws.FieldsFit.imin | imax => apply Laws.FieldsFit.imax
  | iabsd => apply Laws.FieldsFit.iabsd | iclamp => apply Laws.FieldsFit.iclamp | lea => apply Laws.FieldsFit.lea
  | isat => apply Laws.FieldsFit.isat | idot4 => apply Laws.FieldsFit.idot4 | idot2 => apply Laws.FieldsFit.idot2
  | and => apply Laws.FieldsFit.and | or => apply Laws.FieldsFit.or | xor => apply Laws.FieldsFit.xor
  | lop3 => apply Laws.FieldsFit.lop3 | shl => apply Laws.FieldsFit.shl | shr => apply Laws.FieldsFit.shr
  | sar => apply Laws.FieldsFit.sar | rol => apply Laws.FieldsFit.rol | funnel => apply Laws.FieldsFit.funnel
  | popc => apply Laws.FieldsFit.popc | clz => apply Laws.FieldsFit.clz | ctz => apply Laws.FieldsFit.ctz
  | brev => apply Laws.FieldsFit.brev | bfx => apply Laws.FieldsFit.bfx | bfi => apply Laws.FieldsFit.bfi
  | permb => apply Laws.FieldsFit.permb | icmp => apply Laws.FieldsFit.icmp | fcmp => apply Laws.FieldsFit.fcmp
  | sel => apply Laws.FieldsFit.sel | plop => apply Laws.FieldsFit.plop | pset => apply Laws.FieldsFit.pset
  | ptov => apply Laws.FieldsFit.ptov | vtop => apply Laws.FieldsFit.vtop | itst => apply Laws.FieldsFit.itst
  | fadd => apply Laws.FieldsFit.fadd | fsub => apply Laws.FieldsFit.fsub | fmul => apply Laws.FieldsFit.fmul
  | ffma => apply Laws.FieldsFit.ffma | fmin => apply Laws.FieldsFit.fmin | fmax => apply Laws.FieldsFit.fmax
  | frnd => apply Laws.FieldsFit.frnd | fscale => apply Laws.FieldsFit.fscale | fclass => apply Laws.FieldsFit.fclass
  | fdot2 => apply Laws.FieldsFit.fdot2 | fsqrt => apply Laws.FieldsFit.fsqrt | fdiv => apply Laws.FieldsFit.fdiv
  | frcp => apply Laws.FieldsFit.frcp | frsq => apply Laws.FieldsFit.frsq | fex2 => apply Laws.FieldsFit.fex2
  | flg2 => apply Laws.FieldsFit.flg2 | fsin => apply Laws.FieldsFit.fsin | fcos => apply Laws.FieldsFit.fcos
  | ftanh => apply Laws.FieldsFit.ftanh | cvt => apply Laws.FieldsFit.cvt | qscale => apply Laws.FieldsFit.qscale
  | qcvt => apply Laws.FieldsFit.qcvt | dqcvt => apply Laws.FieldsFit.dqcvt | resenc => apply Laws.FieldsFit.resenc
  | resdec => apply Laws.FieldsFit.resdec | vote => apply Laws.FieldsFit.vote | shfl => apply Laws.FieldsFit.shfl
  | wred => apply Laws.FieldsFit.wred | wscan => apply Laws.FieldsFit.wscan | matchLanes => apply Laws.FieldsFit.matchLanes
  | bcast => apply Laws.FieldsFit.bcast | active => apply Laws.FieldsFit.active | ld => apply Laws.FieldsFit.ld
  | st => apply Laws.FieldsFit.st | lds => apply Laws.FieldsFit.lds | sts => apply Laws.FieldsFit.sts
  | ldp => apply Laws.FieldsFit.ldp | stp => apply Laws.FieldsFit.stp | pref => apply Laws.FieldsFit.pref
  | fence => apply Laws.FieldsFit.fence | cctl => apply Laws.FieldsFit.cctl | atom => apply Laws.FieldsFit.atom
  | acas => apply Laws.FieldsFit.acas | red => apply Laws.FieldsFit.red | atoms => apply Laws.FieldsFit.atoms
  | acass => apply Laws.FieldsFit.acass | ldv => apply Laws.FieldsFit.ldv | stv => apply Laws.FieldsFit.stv
  | recon => apply Laws.FieldsFit.recon | binit => apply Laws.FieldsFit.binit | barrive => apply Laws.FieldsFit.barrive
  | bexpect => apply Laws.FieldsFit.bexpect | bwait => apply Laws.FieldsFit.bwait | btest => apply Laws.FieldsFit.btest
  | bdrop => apply Laws.FieldsFit.bdrop | copy => apply Laws.FieldsFit.copy | copym => apply Laws.FieldsFit.copym
  | copyg => apply Laws.FieldsFit.copyg | mzero => apply Laws.FieldsFit.mzero | mlds => apply Laws.FieldsFit.mlds
  | mswap => apply Laws.FieldsFit.mswap | mstream => apply Laws.FieldsFit.mstream | mdrain => apply Laws.FieldsFit.mdrain
  | mstat => apply Laws.FieldsFit.mstat | spawn => apply Laws.FieldsFit.spawn | watch => apply Laws.FieldsFit.watch
  | unwatch => apply Laws.FieldsFit.unwatch | bobq => apply Laws.FieldsFit.bobq | iregion => apply Laws.FieldsFit.iregion
  | iregionClose => apply Laws.FieldsFit.iregionClose | chksig => apply Laws.FieldsFit.chksig | csrr => apply Laws.FieldsFit.csrr
  | csrw => apply Laws.FieldsFit.csrw | trap => apply Laws.FieldsFit.trap | tret => apply Laws.FieldsFit.tret
  | clock => apply Laws.FieldsFit.clock | bkpt => apply Laws.FieldsFit.bkpt
  | unassignedOpcode => apply Laws.FieldsFit.unassignedOpcode
  | _ => exact fun _ _ => rfl

theorem hasWord_eq {i : Instr} (hi : ∀ w, i ≠ .unassignedOpcode w) : i.hasWord = decide (i.group < 15) := by
  cases i with
  | unassignedOpcode w => exact absurd rfl (hi w)
  | _ => rfl

theorem reads {x : Fields} (hx : x.fits = true) {mt : Bool} {i : Instr} (hw : i.wellFormed mt = true) (hop : (encodeFields i).op = x.op)
    (hg : i.group < 15) : Reads mt x i := by
  match h : i.group, hg with
  | 0, _ => exact reads_control hx hw hop h
  | 1, _ => exact reads_weft hx hw hop h
  | 2, _ => exact reads_integer hx hw hop h
  | 3, _ => exact reads_logic hx hw hop h
  | 4, _ => exact reads_compare hx hw hop h
  | 5, _ => exact reads_float hx hw hop h
  | 6, _ => exact reads_quick hx hw hop h
  | 7, _ => exact reads_conversion hx hw hop h
  | 8, _ => exact reads_warpWide hx hw hop h
  | 9, _ => exact reads_memory hx hw hop h
  | 10, _ => exact reads_atomic hx hw hop h
  | 11, _ => exact reads_barrier hx hw hop h
  | 12, _ => exact reads_matrix hx hw hop h
  | 13, _ => exact reads_spawn hx hw hop h
  | 14, _ => exact reads_system hx hw hop h

theorem decodeFields_eq_ok {mt : Bool} {x : Fields} {i : Instr} :
    decodeFields mt x = .ok i ↔ build mt x = some i ∧ i.opOk = true ∧ restOk mt x = true ∧ i.opndOk mt = true := by
  unfold decodeFields
  cases build mt x with
  | none => simp
  | some j =>
    simp only [Option.some.injEq]
    grind

theorem unassigned_of_wellFormed {mt : Bool} {w : Word} (hw : (Instr.unassignedOpcode w).wellFormed mt = true) :
    opcodeAssigned (Fields.ofWord w).op = false :=
  (Bool.not_eq_true' _).mp (Laws.FieldsFit.op hw)

theorem decode_encode {mt : Bool} {i : Instr} (hw : i.wellFormed mt = true) : decode mt (encode i) = .ok i := by
  have hx : (encodeFields i).fits = true := encodeFields_fits i mt hw
  rw [decode, encode, Laws.ofWord_toWord hx]
  by_cases hi : ∃ w, i = .unassignedOpcode w
  · obtain ⟨w, rfl⟩ := hi
    simp [encodeFields, unassigned_of_wellFormed hw, Laws.toWord_ofWord]
  · have hword := hasWord_eq (not_exists.mp hi)
    have hw' := hw
    simp only [Instr.wellFormed, Bool.and_eq_true, hword, decide_eq_true_eq] at hw'
    obtain ⟨⟨hg, hopOk⟩, hopnd⟩ := hw'
    obtain ⟨hbuild, hrest⟩ := (reads hx hw rfl hg).mpr rfl
    obtain ⟨hassigned, -, -⟩ := build_yields i hbuild
    rw [if_pos hassigned, decodeFields_eq_ok]
    exact ⟨hbuild, hopOk, hrest, hopnd⟩

theorem encode_of_decode {mt : Bool} {w : Word} {i : Instr} (h : decode mt w = .ok i) : encode i = w ∧ i.wellFormed mt = true := by
  unfold decode at h
  dsimp only at h
  split at h
  case isTrue hassigned =>
    obtain ⟨hbuild, hopOk, hrest, hopnd⟩ := decodeFields_eq_ok.mp h
    obtain ⟨-, hg, hop⟩ := build_yields i hbuild
    have hne : ∀ v, i ≠ .unassignedOpcode v := by rintro v rfl; exact absurd hg (Nat.lt_irrefl 15)
    have hw : i.wellFormed mt = true := by
      simp [Instr.wellFormed, hasWord_eq hne, hg, hopOk, hopnd]
    have hx := (reads (Laws.ofWord_fits w) hw hop hg).mp ⟨hbuild, hrest⟩
    exact ⟨by rw [encode, hx, Laws.toWord_ofWord], hw⟩
  case isFalse hassigned =>
    cases h
    refine ⟨Laws.toWord_ofWord w, ?_⟩
    simpa [Instr.wellFormed, Instr.hasWord, Instr.opOk, Instr.opndOk, Fields.ofWord] using hassigned

end Sys2Proof

open Sys2Proof

/-- Settles O55: the fields of the word are the instruction's own, which read as the instruction. -/
theorem decodeEncode : Obligations.DecodeEncode := by
  unfold Obligations.DecodeEncode
  exact fun _ _ hw => decode_encode hw

/-- Settles O56: the fields of the word read as the instruction, hence are its own. -/
theorem encodeDecode : Obligations.EncodeDecode := by
  unfold Obligations.EncodeDecode
  exact fun _ _ _ h => encode_of_decode h

end
section
/-!
### Words written out (O57)
-/

open Sys2Proof

/-- Settles O57: each word is decoded field by field. -/
theorem decodeWords : Obligations.DecodeWords := by
  unfold Obligations.DecodeWords
  refine ⟨?_, ?_, ?_, ?_, ?_, ?_, ?_, ?_, ?_, ?_, ?_, ?_, ?_, ?_⟩ <;> decide +kernel

end

section
/-!
### The decoded word runs (O58)
-/

namespace Sys2Proof.Machine

variable {s : State}

/-- Where nothing stands before the focus's next word, that word is what happens. -/
theorem step_of_issues (h : s.issues = true) : step s = runWord s := by
  simp only [State.issues, State.hasTurn, Bool.and_eq_true, Bool.not_eq_true', decide_eq_true_eq, Option.isNone_iff_eq_none, List.isEmpty_iff] at h
  obtain ⟨⟨⟨⟨⟨⟨⟨⟨⟨⟨⟨hstarted, hchanges⟩, hlevel⟩, hagenda⟩, hrunnable⟩, hstall⟩, hyield⟩, hreplay⟩, hreport⟩, hspool⟩, hphase⟩, hlimit⟩ := h
  simp [step, turn, runFocus, runWarp, hstarted, hchanges, hlevel, hagenda, hrunnable, hstall, hyield, hreplay, hreport, hspool, hphase, hlimit]

theorem trapWaits_of_noRegion (h : s.warp.region = none) : trapWaits s = false := by simp [trapWaits, h]

theorem settle_trap (h : trapWaits s = false) (n : Nat) (t : Trap) :
    settle s n (.trap s t) = .next (takeTrap s t (s.warp.wordAddr s.warp.idx) (s.warp.nextAddr n)) := by
  simp only [settle, h, Bool.false_eq_true, if_false]

end Sys2Proof.Machine

open Sys2Proof Sys2Proof.Machine

/-- Settles O58: `step` comes to `runWord`, which runs what the decoder answers. -/
theorem stepRunsDecoded : Obligations.StepRunsDecoded := by
  unfold Obligations.StepRunsDecoded
  intro s hissues
  rw [step_of_issues hissues]
  refine ⟨fun i hi => by simp only [runWord, hi], fun hregion code hcode => ?_⟩
  rw [← settle_trap (trapWaits_of_noRegion hregion)]
  rcases hcode with ⟨hword, rfl⟩ | ⟨hword, rfl⟩ <;> simp only [runWord, hword] <;> rfl

end

section
/-!
### Traps that an instruction raises (O25)
-/

namespace Sys2Proof.Machine

section Raised

variable {s : State} {i : Instr} {body : Issue → State → End}

/-- An instruction that meets a trap before it has any effect. -/
theorem trapsWith_of_body (hx : exec i s = issue i s body) (hr : Ready i s) (hw : trapWaits s = false) {t : Trap}
    (hbody : body (s.issue i) { s with warp := s.warp.counted } = .trap { s with warp := s.warp.counted } t) : TrapsWith s i t := by
  have hback : ({ s with warp := { s.warp.counted with wcount := s.warp.wcount } } : State) = s := by rw [Warp.counted_eq]
  simp only [TrapsWith, hx, issue_of_ready hr, hbody, settle, hw, Bool.false_eq_true, if_false, hback]

/-- An instruction without effect goes on to the next word. -/
theorem laneEffect_of_body (hx : exec i s = issue i s body) (hr : Ready i s)
    (hbody : body (s.issue i) { s with warp := s.warp.counted } = .ok { s with warp := s.warp.counted }) :
    ∃ t, exec i s = .next t ∧ LaneEffect i 0 (fun _ y => y) (fun _ => 0) s t := by
  obtain ⟨hlanes, hux, hflags, hmoves, hrest, hframe⟩ := retiredWith_spec s (litCount i) s.warp.lanes s.warp.ux s.warp.fpflags
  refine ⟨_, ?_, ⟨by rw [hlanes], fun l y hy => by rw [hlanes, hy, ite_self]⟩, hux, ?_, hmoves, hrest, hframe⟩
  · rw [hx, issue_of_ready hr, hbody, settle, retiredWith, Warp.counted_eq]
  · rw [hflags, show flagsOf 0 (fun _ => 0) = 0 from rfl]
    simp [word]

theorem exec_unassignedOpcode (v : Word) (s : State) : exec (.unassignedOpcode v) s = issue (.unassignedOpcode v) s fun x s =>
    .trap s { code := Cause.illop, tmask := x.w.active, tinfo := v } := rfl

theorem exec_trap (g : Guard) (c : BitVec 8) (a : Src) (s : State) : exec (.trap g c a) s = issue (.trap g c a) s fun x s =>
    match lowest (acting x.w g) with
    | none => .ok s
    | some l => .trap s { code := c.toNat, sw := true, tmask := acting x.w g, tinfo := srcA x a l } := rfl

theorem exec_bkpt (g : Guard) (c : BitVec 8) (s : State) : exec (.bkpt g c) s = issue (.bkpt g c) s fun x s =>
    if acting x.w g == 0 then .ok s else trapWith s Cause.bkpt (acting x.w g) (word c.toNat) := rfl

@[simp] theorem issue_w (i : Instr) (s : State) : (s.issue i).w = s.warp := rfl

theorem lowest_zero : lowest 0 = none := by decide

theorem takeTrap_of_handler (h : s.warp.h = true) (t : Trap) (tpc tnext : Word) :
    takeTrap s t tpc tnext = failWarp { s with warp := s.warp.fillAll.report_ t tpc tnext } t := by
  simp [takeTrap, h]

end Raised

end Sys2Proof.Machine

open Sys2Proof Sys2Proof.Machine

/-- Settles O25: each meaning is a trap met before any effect, or, with no acting lane, no effect. -/
theorem raisedTraps : Obligations.RaisedTraps := by
  unfold Obligations.RaisedTraps
  intro s g c a v hw
  refine ⟨fun hr => trapsWith_of_body (exec_unassignedOpcode v s) hr hw rfl, fun l hr hl => ?_, fun hr hm => ?_, ?_,
    fun hh t tpc tnext => takeTrap_of_handler hh t tpc tnext⟩
  · exact trapsWith_of_body (exec_trap g c a s) hr hw (by simp only [issue_w, hl])
  · exact trapsWith_of_body (exec_bkpt g c s) hr hw (by simpa [trapWith, Cause.bkpt] using hm)
  · rintro i (rfl | rfl) hr hm
    · exact laneEffect_of_body (exec_trap g c a s) hr (by simp only [issue_w, hm, lowest_zero])
    · exact laneEffect_of_body (exec_bkpt g c s) hr (by simp [hm])

end

section
/-!
### CSRW (O28)
-/

namespace Sys2Proof.Machine

/-! #### A warp that retires (R32, R384) -/

section Retired

variable {s : State} {w : Warp} {n : Nat}

theorem Warp.retire_eq (w : Warp) (n : Nat) : w.retire n = { w with
    sig := if w.h then w.sig else foldWord w.sig w.cur, base := (w.retire n).base, idx := (w.retire n).idx, phase := (w.retire n).phase
    yielded := (w.retire n).yielded } := by
  simp only [Warp.retire, Warp.advance, Warp.goTo]
  split <;> split <;> rfl

theorem placeOn_retire (hbase : w.base = s.warp.base) (hidx : w.idx = s.warp.idx) (hbuf : w.buf = s.warp.buf) (hphase : w.phase = s.warp.phase) :
    PlaceOn n s { s with warp := w.retire n } := by
  simp only [PlaceOn, Warp.retire, Warp.advance, Warp.header, Warp.nextBlock, Warp.goTo]
  cases w.h <;> simp only [Bool.false_eq_true, if_false, if_true, hbase, hidx, hbuf, hphase] <;> split <;> simp [word]

end Retired

/-! #### Registers and values (R369) -/

theorem field_high_eq_zero {v : Word} {lo k : Nat} (h : lo + k = 64) : field v lo k = 0 ↔ v.toNat < 2 ^ lo := by
  have hv : v.toNat / 2 ^ lo < 2 ^ k := Nat.div_lt_of_lt_mul (by rw [← Nat.pow_add, h]; exact v.isLt)
  rw [field, Nat.mod_eq_of_lt hv, Nat.div_eq_zero_iff_lt (Nat.two_pow_pos lo)]

section Values

variable {v : Word}

theorem crLegal_fpmode : crLegal 0x010 v = true ↔ v.toNat < 2 ^ 14 ∧ field v 3 5 = 0 ∧ 1 ≤ field v 0 3 ∧ field v 0 3 ≤ 4 := by
  simp only [crLegal, Bool.and_eq_true, beq_iff_eq, decide_eq_true_eq, field_high_eq_zero (show 14 + 50 = 64 from rfl), and_assoc]

theorem crLegal_fpflags : crLegal 0x011 v = true ↔ v.toNat < 64 := by
  simp only [crLegal, beq_iff_eq, field_high_eq_zero (show 6 + 58 = 64 from rfl), Nat.reducePow]

theorem crLegal_wdog : crLegal 0x012 v = true ↔ 20 ≤ v.toNat ∧ v.toNat ≤ 32 := by
  simp only [crLegal, Bool.and_eq_true, decide_eq_true_eq]

theorem crLegal_mode : crLegal 0x013 v = true ↔ v.toNat < 4 := by
  simp only [crLegal, beq_iff_eq, field_high_eq_zero (show 2 + 62 = 64 from rfl), Nat.reducePow]

theorem crLegal_tpc : crLegal 0x021 v = true ↔ v.toNat < 2 ^ 57 ∧ field v 0 3 = 0 := by
  simp only [crLegal, Bool.and_eq_true, beq_iff_eq, field_high_eq_zero (show 57 + 7 = 64 from rfl)]

theorem crLegal_hret : crLegal 0x025 v = true ↔ v.toNat ≤ 2 := by
  simp only [crLegal, decide_eq_true_eq]

end Values

/-- The registers below 0x00A are read only (R369). -/
theorem cr_below_ten (w : Warp) (h : Bool) {k : Nat} (hk : k < 10) : (readCr w 0 k).isNone = false ∧ crPriv h k = true := by
  interval_cases k <;> cases h <;> exact ⟨rfl, rfl⟩

theorem writeCr_place (w : Warp) (k : Nat) (v : Word) : (writeCr w k v).h = w.h ∧ (writeCr w k v).sig = w.sig ∧ (writeCr w k v).base = w.base
    ∧ (writeCr w k v).idx = w.idx ∧ (writeCr w k v).buf = w.buf ∧ (writeCr w k v).phase = w.phase := by
  unfold writeCr
  split <;> exact ⟨rfl, rfl, rfl, rfl, rfl, rfl⟩

/-! #### The instruction (R371) -/

section Written

variable {s : State} {g : Guard} {n : BitVec 12} {a : Src} {l : Nat}

theorem exec_csrw (g : Guard) (n : BitVec 12) (a : Src) (s : State) : exec (.csrw g n a) s = issue (.csrw g n a) s fun x s =>
    if (readCr x.w 0 n.toNat).isNone then .trap s (illOpnd x)
    else
      match lowest (acting x.w g) with
      | none => .ok s
      | some l =>
        if crPriv x.w.h n.toNat then trapWith s Cause.priv (acting x.w g) (word n.toNat)
        else if !crLegal n.toNat (srcA x a l) then trapWith s Cause.illopnd (acting x.w g) x.w.cur
        else if n.toNat == 0x013 && (srcA x a l).getLsbD 0 && !x.w.signed then trapWith s Cause.priv (acting x.w g) (word n.toNat)
        else .ok { s with warp := writeCr s.warp n.toNat (srcA x a l) } := rfl

variable (hr : Ready (.csrw g n a) s) (hread : (readCr s.warp 0 n.toNat).isNone = false)
include hr hread

theorem csrw_idle (hm : acting s.warp g = 0) :
    ∃ t, exec (.csrw g n a) s = .next t ∧ LaneEffect (.csrw g n a) 0 (fun _ y => y) (fun _ => 0) s t :=
  laneEffect_of_body (exec_csrw g n a s) hr (by simp only [issue_w, hread, Bool.false_eq_true, if_false, hm, lowest_zero])

variable (hl : lowest (acting s.warp g) = some l)
include hl

/-- What is written where every check passes. -/
theorem csrw_writes {w : Warp} (hpriv : crPriv s.warp.h n.toNat = false) (hlegal : crLegal n.toNat (srcA (s.issue (.csrw g n a)) a l) = true)
    (hsigned : n.toNat = 0x013 → (srcA (s.issue (.csrw g n a)) a l).getLsbD 0 = true → s.warp.signed = true)
    (hw : writeCr { s.warp with wcount := s.warp.counted.wcount } n.toNat (srcA (s.issue (.csrw g n a)) a l) = w) :
    ∃ t, exec (.csrw g n a) s = .next t ∧ RestSame s t ∧ PlaceOn (litCount (.csrw g n a)) s t
      ∧ t.warp = { w with sig := if s.warp.h then s.warp.sig else foldWord s.warp.sig s.warp.cur
                          base := t.warp.base, idx := t.warp.idx, phase := t.warp.phase, yielded := t.warp.yielded } := by
  obtain ⟨hh, hsig, hbase, hidx, hbuf, hphase⟩ := writeCr_place { s.warp with wcount := s.warp.counted.wcount } n.toNat (srcA (s.issue (.csrw g n a)) a l)
  rw [hw] at hh hsig hbase hidx hbuf hphase
  refine ⟨{ s with warp := w.retire (litCount (.csrw g n a)) }, ?_, rfl, placeOn_retire hbase hidx hbuf hphase, ?_⟩
  · have hmt : (n.toNat == 0x013 && (srcA (s.issue (.csrw g n a)) a l).getLsbD 0 && !s.warp.signed) = false := by
      by_contra hne
      simp only [Bool.not_eq_false, Bool.and_eq_true, beq_iff_eq, Bool.not_eq_true'] at hne
      obtain ⟨⟨hn, hv⟩, hno⟩ := hne
      rw [hsigned hn hv] at hno
      cases hno
    rw [exec_csrw, issue_of_ready hr]
    simp only [issue_w, hread, hl, hpriv, hlegal, hmt, Bool.false_eq_true, if_false, Bool.not_true, settle]
    rw [Warp.counted_eq, hw]
  · refine (Warp.retire_eq w _).trans ?_
    rw [hh, hsig, Warp.cur, hidx, hbuf, Warp.cur]

theorem csrw_priv (hwait : trapWaits s = false) (hpriv : crPriv s.warp.h n.toNat = true) :
    TrapsWith s (.csrw g n a) { code := 0x13, tmask := acting s.warp g, tinfo := word n.toNat } :=
  trapsWith_of_body (exec_csrw g n a s) hr hwait (by simp only [issue_w, hread, hl, hpriv, Bool.false_eq_true, if_false, if_true, trapWith, Cause.priv])

theorem csrw_illegal (hwait : trapWaits s = false) (hpriv : crPriv s.warp.h n.toNat = false)
    (hlegal : crLegal n.toNat (srcA (s.issue (.csrw g n a)) a l) = false) :
    TrapsWith s (.csrw g n a) { code := 0x02, tmask := acting s.warp g, tinfo := s.warp.cur } :=
  trapsWith_of_body (exec_csrw g n a s) hr hwait
    (by simp only [issue_w, hread, hl, hpriv, hlegal, Bool.false_eq_true, if_false, if_true, Bool.not_false, trapWith, Cause.illopnd])

theorem csrw_unsigned (hwait : trapWaits s = false) (hpriv : crPriv s.warp.h n.toNat = false)
    (hlegal : crLegal n.toNat (srcA (s.issue (.csrw g n a)) a l) = true)
    (hsets : (n.toNat == 0x013 && (srcA (s.issue (.csrw g n a)) a l).getLsbD 0 && !s.warp.signed) = true) :
    TrapsWith s (.csrw g n a) { code := 0x13, tmask := acting s.warp g, tinfo := word n.toNat } :=
  trapsWith_of_body (exec_csrw g n a s) hr hwait
    (by simp only [issue_w, hread, hl, hpriv, hlegal, hsets, Bool.false_eq_true, if_false, if_true, Bool.not_true, trapWith, Cause.priv])

end Written

end Sys2Proof.Machine

open Sys2Proof Sys2Proof.Machine

/-- Settles O28: the register's number decides the mode's check and the value's, and these decide between the write and its traps. -/
theorem controlRegisterWrite : Obligations.ControlRegisterWrite := by
  unfold Obligations.ControlRegisterWrite
  intro s g n a l hr v writes w
  refine ⟨fun hl => ⟨?_, ?_, ?_, ?_, ?_, ?_⟩, fun hm hread => ?_, fun hregion hl => ?_⟩
  · rintro rfl hsize hzero hlow hhigh
    exact csrw_writes hr rfl hl rfl (crLegal_fpmode.mpr ⟨hsize, hzero, hlow, hhigh⟩) (fun h => absurd h (by decide)) rfl
  · rintro rfl hsize
    exact csrw_writes hr rfl hl rfl (crLegal_fpflags.mpr hsize) (fun h => absurd h (by decide)) rfl
  · rintro rfl hlow hhigh
    exact csrw_writes hr rfl hl rfl (crLegal_wdog.mpr ⟨hlow, hhigh⟩) (fun h => absurd h (by decide)) rfl
  · rintro rfl hsize hsigned
    exact csrw_writes hr rfl hl rfl (crLegal_mode.mpr hsize) (fun _ => hsigned) rfl
  · rintro rfl hh hsize haligned
    exact csrw_writes hr rfl hl (by rw [hh]; rfl) (crLegal_tpc.mpr ⟨hsize, haligned⟩) (fun h => absurd h (by decide)) rfl
  · rintro rfl hh hsize
    exact csrw_writes hr rfl hl (by rw [hh]; rfl) (crLegal_hret.mpr hsize) (fun h => absurd h (by decide)) rfl
  · exact csrw_idle hr (by simpa using hread) hm
  · have hwait := trapWaits_of_noRegion hregion
    refine ⟨?_, ?_, ?_, ?_, ?_, ?_⟩
    · rintro (hn | rfl | rfl | rfl | rfl | rfl | rfl | ⟨hh, rfl | rfl⟩)
      · obtain ⟨hread, hpriv⟩ := cr_below_ten s.warp s.warp.h hn
        exact csrw_priv hr hread hl hwait hpriv
      iterate 6 exact csrw_priv hr rfl hl hwait (by simp [crPriv])
      iterate 2 exact csrw_priv hr rfl hl hwait (by simp [crPriv, hh])
    · rintro rfl hv hsigned
      have hone : srcA (s.issue (.csrw g 0x013 a)) a l = 1 := hv
      exact csrw_unsigned hr rfl hl hwait rfl (by rw [hone]; rfl) (by rw [hone, hsigned]; rfl)
    · rintro rfl hv
      refine csrw_illegal hr rfl hl hwait rfl (Bool.eq_false_iff.mpr fun h => ?_)
      have := (crLegal_fpmode (v := v)).mp h
      omega
    · rintro rfl hv
      exact csrw_illegal hr rfl hl hwait rfl (Bool.eq_false_iff.mpr fun h => absurd ((crLegal_fpflags (v := v)).mp h) (by omega))
    · rintro rfl hv
      exact csrw_illegal hr rfl hl hwait rfl (Bool.eq_false_iff.mpr fun h => absurd ((crLegal_wdog (v := v)).mp h) (by omega))
    · rintro rfl hv
      exact csrw_illegal hr rfl hl hwait rfl (Bool.eq_false_iff.mpr fun h => absurd ((crLegal_mode (v := v)).mp h) (by omega))

end

section
/-!
### Compares and predicates (O8)

Each instruction is `lanewise` with predicates written or one value pushed. What remains is arithmetic: the conditions, and FCMP's order as the order of
the real numbers, whose difference the model forms in units of the smaller exponent.
-/

namespace Sys2Proof.Machine

/-! #### Exact sums and the order of values (R84, R115) -/

section Values

variable (na nb : Bool) (ma mb : Nat) (ea eb : ℤ)

theorem signedM_not (m : Nat) (n : Bool) : signedM (!n) m = -signedM n m := by cases n <;> simp [signedM]

/-- A whole number of units of a smaller exponent. -/
theorem natPow_mul_zpow {e q : ℤ} (h : q ≤ e) : ((2 ^ (e - q).toNat : Nat) : ℝ) * (2 : ℝ) ^ q = (2 : ℝ) ^ e := by
  rw [Nat.cast_pow, Nat.cast_ofNat, ← zpow_natCast, Int.toNat_of_nonneg (sub_nonneg.mpr h), ← zpow_add₀ two_ne_zero, sub_add_cancel]

theorem exactSum_real : ((exactSum na ma ea nb mb eb).1 : ℝ) * (2 : ℝ) ^ (exactSum na ma ea nb mb eb).2
    = (signedM na ma : ℝ) * (2 : ℝ) ^ ea + (signedM nb mb : ℝ) * (2 : ℝ) ^ eb := by
  have hunit : (exactSum na ma ea nb mb eb).2 = min ea eb := by simp only [exactSum, min_def]; split <;> split <;> omega
  have hsum : (exactSum na ma ea nb mb eb).1
      = signedM na ma * (2 ^ (ea - min ea eb).toNat : Nat) + signedM nb mb * (2 ^ (eb - min ea eb).toNat : Nat) := by rw [← hunit]; rfl
  rw [hunit, hsum, Int.cast_add, Int.cast_mul, Int.cast_mul, Int.cast_natCast, Int.cast_natCast, add_mul, mul_assoc, mul_assoc,
    natPow_mul_zpow (min_le_left ea eb), natPow_mul_zpow (min_le_right ea eb)]

theorem compareF_fin : compareF (.fin na ma ea) (.fin nb mb eb) = (exactSum na ma ea (!nb) mb eb).1.sign := by
  simp only [compareF]
  split
  · next hneg => exact (Int.sign_eq_neg_one_of_neg hneg).symm
  · split
    · next hzero => rw [beq_iff_eq.mp hzero, Int.sign_zero]
    · next hneg hzero => exact (Int.sign_eq_one_of_pos (lt_of_le_of_ne (not_lt.mp hneg) fun h => hzero (by simp [← h]))).symm

/-- The comparison of finite values is that of the real numbers that they are, so −0 equals +0. -/
theorem compareF_fin_real :
    let x := (signedM na ma : ℝ) * (2 : ℝ) ^ ea
    let y := (signedM nb mb : ℝ) * (2 : ℝ) ^ eb
    let o := compareF (.fin na ma ea) (.fin nb mb eb)
    (o < 0 ↔ x < y) ∧ (o = 0 ↔ x = y) ∧ (o > 0 ↔ x > y) := by
  intro x y o
  have hsum := exactSum_real na (!nb) ma mb ea eb
  have ho : o = (exactSum na ma ea (!nb) mb eb).1.sign := compareF_fin na nb ma mb ea eb
  rw [signedM_not, Int.cast_neg, neg_mul, ← sub_eq_add_neg] at hsum
  generalize exactSum na ma ea (!nb) mb eb = r at hsum ho
  have hunit : (0 : ℝ) < (2 : ℝ) ^ r.2 := zpow_pos two_pos r.2
  rw [ho]
  refine ⟨?_, ?_, ?_⟩
  · rw [Int.sign_neg_iff, ← sub_neg (a := x), ← hsum, ← neg_pos (a := _ * _), ← neg_mul, mul_pos_iff_of_pos_right hunit, neg_pos, Int.cast_lt_zero]
  · rw [Int.sign_eq_zero_iff_zero, ← sub_eq_zero (a := x), ← hsum, mul_eq_zero_iff_right hunit.ne', Int.cast_eq_zero]
  · rw [gt_iff_lt, Int.sign_pos_iff, gt_iff_lt, ← sub_pos (a := x), ← hsum, mul_pos_iff_of_pos_right hunit, Int.cast_pos]

/-- Infinities stand at the ends of the order. -/
theorem compareF_inf_fin : let A := FVal.fin na ma ea
    compareF (.inf true) A < 0 ∧ compareF A (.inf true) > 0 ∧ compareF (.inf false) A > 0 ∧ compareF A (.inf false) < 0 := by
  simp [compareF]

end Values

/-! #### Conditions (R66, R115) -/

theorem sub_beq_zero (x y : Int) : (x - y == 0) = (x == y) := by rw [Bool.eq_iff_iff, beq_iff_eq, beq_iff_eq, sub_eq_zero]

theorem Cond.isOrder_iff {c : Cond} : Cond.isOrder c = true ↔ c = .lt ∨ c = .le ∨ c = .gt ∨ c = .ge := by cases c <;> simp [Cond.isOrder]

/-- When FCMP raises INV, by what its operands are. -/
theorem fcmpFlags_eq {c : Cond} {sa sb nan : Bool} :
    flagIf (sa || sb || (nan && Cond.isOrder c)) Flag.inv
      = if sa ∨ sb ∨ (nan ∧ (c = .lt ∨ c = .le ∨ c = .gt ∨ c = .ge)) then Flag.inv else 0 := by
  simp only [flagIf, Bool.or_eq_true, Bool.and_eq_true, Cond.isOrder_iff, or_assoc]

/-! #### The predicate file as a word (R15, R117) -/

theorem packElems_pred (y : Lane) {n : Nat} (h : n ≤ 47) : packElems 1 (fun k => b2w (y.pred k)) n = y.preds.toNat % 2 ^ n := by
  induction n with
  | zero => simp [packElems, Nat.mod_one]
  | succ n ih =>
    have hbit : b2w (y.pred n) % 2 ^ 1 = y.preds.toNat / 2 ^ n % 2 := by
      rw [← Nat.toNat_testBit, show y.pred n = y.preds.toNat.testBit n by simp [Lane.pred, show n ≠ 47 by omega, BitVec.getLsbD]]
      cases y.preds.toNat.testBit n <;> rfl
    rw [packElems, ih (by omega), hbit, one_mul, Nat.mod_pow_succ, Nat.mul_comm]

theorem predWord_eq (y : Lane) : predWord y = word (packElems 1 (fun k => b2w (y.pred k)) 48) := by
  rw [packElems, packElems_pred y le_rfl]
  simp [predWord, Lane.pred, b2w]

/-! #### Instructions that write predicates -/

section Writes

variable {s : State} {i : Instr} {g : Guard} {f : Issue → Nat → LaneOut} {fl : Nat → Flags}

theorem changesLanes_of_preds {ps : Nat → List (Nat × Bool)} (hx : exec i s = issue i s (lanewise false g f))
    (hf : ∀ l, f (s.issue i) l = { preds := ps l, flags := fl l }) : ChangesLanes s i g (fun l y => y.setPreds (ps l)) fl :=
  changesLanes_of_lanewise hx (fun l => by rw [hf]) fun l y => by rw [hf]; rfl

/-- The same with one predicate. -/
theorem changesLanes_of_pred {p : Nat} {v : Nat → Bool} (hx : exec i s = issue i s (lanewise false g f))
    (hf : ∀ l, f (s.issue i) l = { preds := [(p, v l)], flags := fl l }) : ChangesLanes s i g (fun l y => y.setPred p (v l)) fl :=
  changesLanes_of_preds hx hf

end Writes

end Sys2Proof.Machine

open Sys2Proof Sys2Proof.Machine

/-- Settles O8: each instruction by its lane function, ICMP by the sign of the difference, and FCMP's order by the sign of the exact difference of the
two real numbers. -/
theorem comparesAndPredicates : Obligations.ComparesAndPredicates := by
  unfold Obligations.ComparesAndPredicates
  refine ⟨fun s g u t c p tab pa pb pc a b => ⟨fun hun hord => ?_, ?_, ?_, ?_, ?_, ?_, ?_⟩, fun s g t c p a b => ?_,
    fun na nb ma mb ea eb => ?_, by decide, by decide, by decide⟩
  · refine changesLanes_of_pred (f := icmpLane t c p a b) rfl fun l => ?_
    cases c with
    | eq => simp only [icmpLane, Cond.holds, sub_beq_zero]
    | ne => simp only [icmpLane, Cond.holds, bne, sub_beq_zero]
    | lt => simp only [icmpLane, Cond.holds, sub_neg]
    | le => simp only [icmpLane, Cond.holds, sub_nonpos]
    | gt => simp only [icmpLane, Cond.holds, gt_iff_lt, sub_pos]
    | ge => simp only [icmpLane, Cond.holds, ge_iff_le, sub_nonneg]
    | un => exact absurd rfl hun
    | ord => exact absurd rfl hord
  · exact pushes_of_lanewise (f := selLane p a b) rfl fun _ => rfl
  · exact changesLanes_of_pred (f := psetLane p a) rfl fun _ => rfl
  · exact changesLanes_of_pred (f := itstLane p a b) rfl fun _ => rfl
  · exact changesLanes_of_pred (f := plopLane tab pa pb pc p) rfl fun _ => rfl
  · exact pushes_of_lanewise (f := fun x l => { push := [predWord (x.w.lane l)] }) rfl fun l => by rw [predWord_eq]; rfl
  · exact changesLanes_of_preds (f := vtopLane a b) rfl fun _ => rfl
  · refine changesLanes_of_pred (f := fcmpLane t c p a b) rfl fun l => ?_
    rw [← fcmpFlags_eq]
    dsimp only [fcmpLane]
    cases ((formatOf t).value (valA (s.issue (.fcmp g t c p a b)) .float t a l).toNat).isNan
        || ((formatOf t).value (valB (s.issue (.fcmp g t c p a b)) .float t b l).toNat).isNan with
    | true => cases c <;> rfl
    | false => cases c <;> rfl
  · obtain ⟨hlt, heq, hgt⟩ := compareF_fin_real na nb ma mb ea eb
    exact ⟨hlt, heq, hgt, compareF_inf_fin na ma ea⟩

end

section
/-!
### Integer arithmetic (O2)
-/

open Sys2Proof Sys2Proof.Machine

/-- Settles O2: each instruction is `lanewise` with its exact result, which `intOut` wraps or clamps. -/
theorem integerArithmetic : Obligations.IntegerArithmetic := by
  unfold Obligations.IntegerArithmetic
  intro s g u sat t a b c
  exact ⟨pushes_of_lanewise (f := int2Lane (· + ·) sat t a b) rfl fun _ => rfl,
    pushes_of_lanewise (f := int2Lane (· - ·) sat t a b) rfl fun _ => rfl,
    pushes_of_lanewise (f := int2Lane min false t a b) rfl fun _ => rfl,
    pushes_of_lanewise (f := int2Lane max false t a b) rfl fun _ => rfl,
    pushes_of_lanewise (f := int3Lane (fun x lo hi => min (max x lo) hi) false t a b c) rfl fun _ => rfl,
    pushes_of_lanewise (f := int2Lane (· * ·) sat t a b) rfl fun _ => rfl,
    pushes_of_lanewise (f := int3Lane (fun p q r => p * q + r) sat t a b c) rfl fun _ => rfl,
    pushes_of_lanewise (f := int2Lane (mulHigh t) false t a b) rfl fun _ => rfl⟩

end

section
/-!
### Shifts (O6)
-/

namespace Sys2Proof.Machine

theorem shiftLeft_eq (w n c : Nat) : shiftLeft w n c = n * 2 ^ c % 2 ^ w := by
  unfold shiftLeft
  split
  · next h => rw [Nat.mod_eq_zero_of_dvd (Dvd.dvd.mul_left (Nat.pow_dvd_pow 2 h) n)]
  · rfl

theorem shiftRight_eq {w n : Nat} (hn : n < 2 ^ w) (c : Nat) : shiftRight w n c = n / 2 ^ c := by
  unfold shiftRight
  split
  · next h => rw [Nat.div_eq_of_lt (hn.trans_le (Nat.pow_le_pow_right two_pos h))]
  · rfl

/-- Bits packed one by one. -/
theorem packElems_one_lt (f : Nat → Nat) (n : Nat) : packElems 1 f n < 2 ^ n := by
  induction n with
  | zero => simp [packElems]
  | succ n ih =>
    have hbit : f n % 2 ^ 1 * 2 ^ n ≤ 1 * 2 ^ n := Nat.mul_le_mul_right _ (by omega)
    rw [packElems, one_mul, pow_succ 2 n]
    omega

theorem testBit_packElems_one (f : Nat → Nat) {j n : Nat} (h : j < n) : (packElems 1 f n).testBit j = (f j).testBit 0 := by
  induction n with
  | zero => omega
  | succ n ih =>
    rw [packElems, one_mul, Nat.add_comm, Nat.mul_comm, Nat.testBit_two_pow_mul_add _ (packElems_one_lt f n)]
    split
    · next hj => exact ih hj
    · next hj =>
      obtain rfl : j = n := by omega
      simp

/-- A rotation to the left by c reads bit j from bit j − c, modulo the width. -/
theorem rotateLeft_eq {w n : Nat} (hw : 0 < w) (hn : n < 2 ^ w) (c : Nat) :
    rotateLeft w n c = packElems 1 (fun j => elemOf 1 ((j + (w - c % w)) % w) n) w := by
  have hc : c % w < w := Nat.mod_lt c hw
  have hlow : n / 2 ^ (w - c % w) < 2 ^ (c % w) := by
    rw [Nat.div_lt_iff_lt_mul (Nat.two_pow_pos _), ← pow_add]
    rwa [Nat.add_sub_cancel' hc.le]
  refine Nat.eq_of_testBit_eq fun j => ?_
  rw [rotateLeft]
  generalize c % w = d at hc hlow ⊢
  rw [Nat.testBit_mod_two_pow, Nat.mul_comm, Nat.testBit_two_pow_mul_add _ hlow]
  by_cases hj : j < w
  · rw [testBit_packElems_one _ hj, elemOf, one_mul, Nat.testBit_mod_two_pow, Nat.testBit_div_two_pow, Nat.testBit_div_two_pow]
    simp only [hj, decide_true, Bool.true_and, zero_lt_one, zero_add]
    split
    · next h => rw [Nat.mod_eq_of_lt (by omega)]
    · next h => rw [show j + (w - d) = j - d + w by omega, Nat.add_mod_right, Nat.mod_eq_of_lt (by omega)]
  · rw [Nat.testBit_lt_two_pow ((packElems_one_lt _ w).trans_le (Nat.pow_le_pow_right two_pos (not_lt.mp hj)))]
    simp [hj]

theorem elemOf_lt (w i n : Nat) : elemOf w i n < 2 ^ w := Nat.mod_lt _ (Nat.two_pow_pos w)

theorem Ty.width_pos (t : Ty) : 0 < t.width := by cases t <;> decide

end Sys2Proof.Machine

open Sys2Proof Sys2Proof.Machine

/-- Settles O6: each shift by its lane function, the rotation bit by bit. -/
theorem shifts : Obligations.Shifts := by
  unfold Obligations.Shifts
  intro s g u t a b c
  refine ⟨pushes_of_lanewise (f := bits2Lane (shiftLeft t.width) t a b) rfl fun l => ?_,
    pushes_of_lanewise (f := bits2Lane (shiftRight t.width) t a b) rfl fun l => ?_,
    pushes_of_lanewise (f := bits2Lane (shiftArith t.width) t a b) rfl fun _ => rfl,
    pushes_of_lanewise (f := bits2Lane (rotateLeft t.width) t a b) rfl fun l => ?_,
    pushes_of_lanewise (f := funnelLane t a b c) rfl fun _ => rfl⟩
  · simp only [bits2Lane, shiftLeft_eq]
  · simp only [bits2Lane, shiftRight_eq (elemOf_lt t.width _ _)]
  · simp only [bits2Lane, rotateLeft_eq (Ty.width_pos t) (elemOf_lt t.width _ _)]

end

section
/-!
### Flags whose traps are enabled (O13)
-/

namespace Sys2Proof.Machine

section Fpx

variable {s : State} {i : Instr} {m : Mask} {fl : Nat → Flags}

/-- The state with the flags of its acting lanes sticky. -/
def State.flagged (s : State) (m : Mask) (fl : Nat → Flags) : State :=
  { s with warp := { s.warp with fpflags := s.warp.fpflags ||| word (flagsOf m fl).toNat } }

/-- The FPX trap of an instruction whose acting lanes raise flags: which lanes and which flags (R91). -/
def fpxTrap (w : Warp) (m : Mask) (fl : Nat → Flags) : Trap :=
  { code := 0x10, tmask := maskOf fun l => m.getLsbD l && fl l &&& enables w.fpmode != 0
    tinfo := word (flagsOf m fl &&& enables w.fpmode).toNat }

/-- The instruction takes that trap, and before it only the flags become sticky. -/
def TrapsFpx (s : State) (i : Instr) (m : Mask) (fl : Nat → Flags) : Prop :=
  Ready i s → s.warp.h = false → s.warp.region = none → flagsOf m fl &&& enables s.warp.fpmode ≠ 0 →
    exec i s = .next (takeTrap (s.flagged m fl) (fpxTrap s.warp m fl) (s.warp.wordAddr s.warp.idx) (s.warp.nextAddr (litCount i)))

theorem fpxTrap_congr {w : Warp} {fl' : Nat → Flags} (h : ∀ l, m.getLsbD l = true → fl l = fl' l) : fpxTrap w m fl = fpxTrap w m fl' := by
  have hmask : (fun l => m.getLsbD l && fl l &&& enables w.fpmode != 0) = fun l => m.getLsbD l && fl' l &&& enables w.fpmode != 0 := by
    funext l
    cases hl : m.getLsbD l with
    | true => rw [h l hl]
    | false => rfl
  rw [fpxTrap, fpxTrap, flagsOf_congr h, hmask]

theorem raiseFlags_trap (k : State → End) (h : s.warp.h = false) (hen : flagsOf m fl &&& enables s.warp.fpmode ≠ 0) :
    raiseFlags s m fl k = .trap (s.flagged m fl) (fpxTrap s.warp m fl) := by
  have hraised : (flagsOf m fl &&& enables s.warp.fpmode != 0 && !s.warp.h) = true := by rw [h, bne_iff_ne.mpr hen]; rfl
  exact if_pos hraised

/-- A trap leaves the watchdog's count as it was. -/
theorem settle_trap_flagged (h : s.warp.region = none) (n : Nat) (t : Trap) :
    settle s n (.trap (State.flagged { s with warp := s.warp.counted } m fl) t)
      = .next (takeTrap (s.flagged m fl) t (s.warp.wordAddr s.warp.idx) (s.warp.nextAddr n)) := by
  simp only [settle, trapWaits_of_noRegion h, Bool.false_eq_true, if_false, State.flagged]
  rw [Warp.counted_eq]

/-- An instruction that first raises its acting lanes' flags. -/
theorem trapsFpx_of_raiseFlags {body : Issue → State → End} {fl' : Nat → Flags} (hx : exec i s = issue i s body)
    (hbody : ∀ s', ∃ k, body (s.issue i) s' = raiseFlags s' m fl' k) (hfl : ∀ l, m.getLsbD l = true → fl' l = fl l) : TrapsFpx s i m fl := by
  obtain ⟨k, hbody⟩ := hbody { s with warp := s.warp.counted }
  intro hr hh hregion hen
  rw [← flagsOf_congr hfl, ← Warp.counted_fpmode] at hen
  rw [hx, issue_of_ready hr, hbody, raiseFlags_trap (s := { s with warp := s.warp.counted }) k ((Warp.counted_h _).trans hh) hen,
    settle_trap_flagged hregion, ← fpxTrap_congr hfl, State.flagged, State.flagged, flagsOf_congr hfl]
  simp only [fpxTrap, Warp.counted_fpmode]

theorem lanewise_raises (i : Instr) (s s' : State) (u : Bool) (g : Guard) (f : Issue → Nat → LaneOut) :
    ∃ k, lanewise u g f (s.issue i) s' = raiseFlags s' (actingOf s.warp u g)
      (fun l => (((List.range 32).map fun l => if (actingOf s.warp u g).getLsbD l then f (s.issue i) l else {}).getD l {}).flags) k := by
  refine ⟨?continuation, ?_⟩
  rotate_left
  · unfold lanewise
    exact rfl

theorem trapsFpx_of_lanewise {u : Bool} {g : Guard} {f : Issue → Nat → LaneOut} (hx : exec i s = issue i s (lanewise u g f)) :
    TrapsFpx s i (actingOf s.warp u g) fun l => (f (s.issue i) l).flags :=
  trapsFpx_of_raiseFlags hx (fun s' => lanewise_raises i s s' u g f) fun l hl => by rw [getD_laneList _ _ (lane_lt hl), if_pos hl]

end Fpx

theorem dot_eq_sum (signed : Bool) (w n : Nat) (a b : Word) :
    let e := fun (v : Word) (k : Nat) => if signed then signedOf w (elemOf w k v.toNat) else (elemOf w k v.toNat : Int)
    dot signed w n a b = ((List.range n).map fun k => e a k * e b k).sum := by
  intro e
  rw [List.sum_eq_foldl, List.foldl_map]
  rfl

/-- The flags that a reduction raises: its acting lanes' roots' and a signalling NaN's. -/
theorem reduce_flags (m : Mask) (root : Nat → Option Nat × Flags) (fl : Flags) :
    ((List.range 32).map fun l => if m.getLsbD l then root l else (none, 0)).foldl (fun f p => f ||| p.2) fl
      = flagsOf m (fun l => (root l).2) ||| fl := by
  have hlanes : (List.range 32).foldl (fun f l => f ||| (if m.getLsbD l then root l else (none, 0)).2) fl
      = (lanesOf m).foldl (fun f l => f ||| (root l).2) fl := by
    rw [lanesOf, List.foldl_filter]
    congr
    funext f l
    cases m.getLsbD l with
    | true => rfl
    | false => exact BitVec.or_zero
  have hinit := List.foldl_assoc (op := fun x y : Flags => x ||| y) (l := (lanesOf m).map fun l => (root l).2) (a₁ := fl) (a₂ := 0)
  rw [List.foldl_map, List.foldl_map] at hinit
  rw [List.foldl_map, hlanes, flagsOf, BitVec.or_comm, ← hinit]
  exact congrArg (fun a => List.foldl _ a _) BitVec.or_zero.symm

/-- The flags of a reduction: the roots' and a signalling NaN's (R187). -/
def reduceFlags (x : Issue) (m : Mask) (op : RedOp) (t : Ty) (r : Rnd) (a : Src) (set : Mask → Nat → Mask) : Flags :=
  let v := fun l => (srcA x a l).toNat % 2 ^ t.width
  flagsOf m (fun l => (treeRoot op t (modeOf x.w.fpmode r) v (set m l)).2)
    ||| flagIf (!t.isInt && (lanesOf m).any fun l => ((formatOf t).value (v l)).isSnan) Flag.inv

theorem reduce_raises (x : Issue) (s : State) (g : Guard) (op : RedOp) (t : Ty) (r : Rnd) (a : Src) (set : Mask → Nat → Mask) :
    ∃ k, reduce x s g op t r a set = raiseFlags s (acting x.w g) (fun _ => reduceFlags x (acting x.w g) op t r a set) k := by
  refine ⟨?continuation, ?_⟩
  rotate_left
  · simp only [reduceFlags]
    rw [← reduce_flags]
    unfold reduce
    exact rfl

theorem trapsFpx_of_reduce {s : State} {i : Instr} {g : Guard} {op : RedOp} {t : Ty} {r : Rnd} {a : Src} {set : Mask → Nat → Mask}
    (hx : exec i s = issue i s fun x s => reduce x s g op t r a set) :
    TrapsFpx s i (acting s.warp g) fun _ => reduceFlags (s.issue i) (acting s.warp g) op t r a set :=
  trapsFpx_of_raiseFlags hx (fun s' => reduce_raises (s.issue i) s' g op t r a set) fun _ _ => rfl

/-- What QSCALE does when it issues (R135). -/
def qscaleBody (g : Guard) (st bt : Ty) (a : OpA) (x : Issue) (s : State) : End :=
  raiseFlags s (acting x.w g) (fun l => flagIf (floatA x st a l).isNan Flag.inv) fun s =>
    .ok (pushAll s (acting x.w g) fun _ => word (blockScale bt ((lanesOf (acting x.w g)).map (floatA x st a))).1)

theorem exec_qscale (g : Guard) (st bt : Ty) (a : OpA) (s : State) :
    exec (.qscale g st bt a) s = issue (.qscale g st bt a) s (qscaleBody g st bt a) := rfl

end Sys2Proof.Machine

open Sys2Proof Sys2Proof.Machine

/-- Settles O13: each meaning first raises the flags of its acting lanes. -/
theorem enabledFlagTraps : Obligations.EnabledFlagTraps := by
  unfold Obligations.EnabledFlagTraps
  intro s g u sat excl idx t dt r k p op a b c en traps int e dots float f md least reduces
  have hdots : ∀ (i : Instr) (w n : Nat), exec i s = issue i s (lanewise u g (idotLane w n sat t a b c)) → dots i w n := by
    intro i w n hx
    have h := trapsFpx_of_lanewise hx
    simp only [idotLane, dot_eq_sum] at h
    exact h
  have hreduces : ∀ (i : Instr) (set : Mask → Nat → Mask), exec i s = issue i s (fun x s => reduce x s g op t r c set) →
      reduces i (set (acting s.warp g)) := by
    intro i set hx
    have h := trapsFpx_of_reduce hx
    simp only [reduceFlags] at h
    exact h
  exact ⟨trapsFpx_of_lanewise (f := packLane sat idx t a b) rfl,
    trapsFpx_of_lanewise (f := int2Lane (· + ·) sat t a b) rfl,
    trapsFpx_of_lanewise (f := int2Lane (· - ·) sat t a b) rfl,
    trapsFpx_of_lanewise (f := int2Lane (· * ·) sat t a b) rfl,
    trapsFpx_of_lanewise (f := int3Lane (fun p q r => p * q + r) sat t a b c) rfl,
    hdots _ 8 4 rfl,
    hdots _ 16 2 rfl,
    trapsFpx_of_lanewise (f := isatLane t dt a) rfl,
    trapsFpx_of_lanewise (f := fcmpLane t k p a b) rfl,
    trapsFpx_of_lanewise (f := float2Lane addF t r a b) rfl,
    trapsFpx_of_lanewise (f := float2Lane subF t r a b) rfl,
    trapsFpx_of_lanewise (f := float2Lane mulF t r a b) rfl,
    trapsFpx_of_lanewise (f := ffmaLane t r a b c) rfl,
    trapsFpx_of_lanewise (f := float2Lane divF t r a b) rfl,
    trapsFpx_of_lanewise (f := fsqrtLane t r a) rfl,
    trapsFpx_of_lanewise (f := frndLane t r a) rfl,
    trapsFpx_of_lanewise (f := fscaleLane t r a b) rfl,
    trapsFpx_of_lanewise (f := minMaxLane isLow t a b) rfl,
    trapsFpx_of_lanewise (f := minMaxLane isHigh t a b) rfl,
    trapsFpx_of_lanewise (f := fdot2Lane t r a b c) rfl,
    trapsFpx_of_lanewise (f := quickLane frcpQ a) rfl,
    trapsFpx_of_lanewise (f := quickLane frsqQ a) rfl,
    trapsFpx_of_lanewise (f := quickLane fex2Q a) rfl,
    trapsFpx_of_lanewise (f := quickLane flg2Q a) rfl,
    trapsFpx_of_lanewise (f := quickLane fsinQ a) rfl,
    trapsFpx_of_lanewise (f := quickLane fcosQ a) rfl,
    trapsFpx_of_lanewise (f := quickLane ftanhQ a) rfl,
    trapsFpx_of_lanewise (f := cvtLane r t dt a) rfl,
    trapsFpx_of_raiseFlags (exec_qscale g t dt a s) (fun _ => ⟨_, rfl⟩) fun _ _ => rfl,
    trapsFpx_of_lanewise (f := qcvtLane t dt a b) rfl,
    trapsFpx_of_lanewise (f := dqcvtLane t dt a b) rfl,
    trapsFpx_of_lanewise (f := resdecLane t a) rfl,
    hreduces _ (fun m _ => m) rfl,
    hreduces _ (fun m l => maskOf fun k => m.getLsbD k && (k < l || (k == l && !excl))) rfl⟩

end

section
/-!
### Rounding (O9)

`roundUnits` gives a magnitude in other units, rounded down, up or to the nearest (`roundUnits_rounded`), which for the signed real number is `RoundedTo`
(`roundUnits_roundedTo`). Patterns without sign stand for real numbers in their own order (`real_strictMono`), so what `packRounded` makes of a rounded
magnitude is `RoundedOnce` (`roundedOnce_packRounded`), and `roundInto` is that.
-/

namespace Sys2Proof.Machine

/-! #### A magnitude in larger units (R87) -/

section Units

/-- Whether a magnitude that lies between two units of 2^k goes to the upper one. -/
def roundsUp (md : Rnd) (neg : Bool) (m k : Nat) : Bool :=
  match md with
  | .rtz => false
  | .rup => !neg && m % 2 ^ k != 0
  | .rdn => neg && m % 2 ^ k != 0
  | _ => decide (2 * (m % 2 ^ k) > 2 ^ k) || (2 * (m % 2 ^ k) == 2 ^ k && m / 2 ^ k % 2 == 1)

/-- n units of K are the magnitude m rounded down, up, or to the nearest with ties to the even. -/
def RoundedDown (m K n : Nat) : Prop := n * K ≤ m ∧ m < n * K + K
def RoundedAway (m K n : Nat) : Prop := m ≤ n * K ∧ n * K < m + K
def RoundedNearest (m K n : Nat) : Prop :=
  2 * m ≤ 2 * (n * K) + K ∧ 2 * (n * K) ≤ 2 * m + K ∧ (2 * m = 2 * (n * K) + K ∨ 2 * (n * K) = 2 * m + K → n % 2 = 0)

/-- What a mode makes of a magnitude, given the sign. -/
def RoundedNat (md : Rnd) (neg : Bool) : Nat → Nat → Nat → Prop :=
  match md, neg with
  | .rtz, _ | .rup, true | .rdn, false => RoundedDown
  | .rup, false | .rdn, true => RoundedAway
  | _, _ => RoundedNearest

variable (md : Rnd) (neg : Bool) (m k : Nat) (e : ℤ)

theorem roundedDown_div : RoundedDown m (2 ^ k) (m / 2 ^ k) :=
  ⟨Nat.div_mul_le_self m _, Nat.lt_div_mul_add (Nat.two_pow_pos k)⟩

theorem roundedAway_div : RoundedAway m (2 ^ k) (m / 2 ^ k + (m % 2 ^ k != 0).toNat) := by
  have hm := Nat.div_add_mod' m (2 ^ k)
  have hr := Nat.mod_lt m (Nat.two_pow_pos k)
  cases h : m % 2 ^ k != 0 with
  | false =>
    rw [bne_eq_false_iff_eq] at h
    simp only [RoundedAway, Bool.toNat_false, add_zero]
    omega
  | true =>
    rw [bne_iff_ne] at h
    simp only [RoundedAway, Bool.toNat_true, add_mul, one_mul]
    omega

theorem roundedNearest_div : RoundedNearest m (2 ^ k) (m / 2 ^ k + (roundsUp .rne neg m k).toNat) := by
  have hm := Nat.div_add_mod' m (2 ^ k)
  have hr := Nat.mod_lt m (Nat.two_pow_pos k)
  cases h : roundsUp .rne neg m k with
  | false =>
    simp only [roundsUp, Bool.or_eq_false_iff, Bool.and_eq_false_iff, decide_eq_false_iff_not, beq_eq_false_iff_ne] at h
    simp only [RoundedNearest, Bool.toNat_false, add_zero]
    omega
  | true =>
    simp only [roundsUp, Bool.or_eq_true, Bool.and_eq_true, decide_eq_true_eq, beq_iff_eq] at h
    simp only [RoundedNearest, Bool.toNat_true, add_mul, one_mul]
    omega

theorem roundsUp_of_mod_eq_zero (h : m % 2 ^ k = 0) : roundsUp md neg m k = false := by
  cases md <;> simp [roundsUp, h, Nat.two_pow_pos k |>.ne]

theorem roundUnits_add : roundUnits md neg m e (e + k) = (m / 2 ^ k + (roundsUp md neg m k).toNat, m % 2 ^ k != 0) := by
  obtain rfl | hk := Nat.eq_zero_or_pos k
  · simp [roundUnits, roundsUp_of_mod_eq_zero, Nat.mod_one]
  · have hlt : ¬ e + (k : ℤ) ≤ e := by omega
    rw [roundUnits, if_neg hlt, add_sub_cancel_left, Int.toNat_natCast]
    change (if roundsUp md neg m k then _ else _, _) = _
    cases roundsUp md neg m k <;> rfl

/-- Units of a smaller exponent: the magnitude is a whole number of them. -/
theorem roundUnits_of_le {q : ℤ} (h : q ≤ e) : roundUnits md neg m e q = (m * 2 ^ (e - q).toNat, false) := if_pos h

theorem roundUnits_inexact : (roundUnits md neg m e (e + k)).2 = true ↔ (roundUnits md neg m e (e + k)).1 * 2 ^ k ≠ m := by
  rw [roundUnits_add, bne_iff_ne, ne_eq, ne_eq, not_iff_not]
  constructor
  · intro h
    rw [roundsUp_of_mod_eq_zero md neg m k h]
    exact Nat.div_mul_cancel (Nat.dvd_of_mod_eq_zero h)
  · intro h
    rw [← h, Nat.mul_mod_left]

theorem roundUnits_rounded : RoundedNat md neg m (2 ^ k) (roundUnits md neg m e (e + k)).1 := by
  rw [roundUnits_add]
  cases md with
  | mode => exact roundedNearest_div neg m k
  | rne => exact roundedNearest_div neg m k
  | rtz => exact roundedDown_div m k
  | rup =>
    cases neg with
    | false => exact roundedAway_div m k
    | true => exact roundedDown_div m k
  | rdn =>
    cases neg with
    | false => exact roundedDown_div m k
    | true => exact roundedAway_div m k

end Units

/-! #### The same of real numbers -/

section Reals

variable {md : Rnd} {neg : Bool} {m k n : Nat}

theorem signedM_real (neg : Bool) (m : Nat) : (signedM neg m : ℝ) = (if neg then -1 else 1) * (m : ℝ) := by
  cases neg <;> simp [signedM]

@[simp] theorem abs_signedM_real (neg : Bool) (m : Nat) : |(signedM neg m : ℝ)| = m := by
  cases neg <;> simp [signedM]

/-- The mode that does to −x what a mode does to x. -/
def Rnd.mirror : Rnd → Rnd
  | .rup => .rdn
  | .rdn => .rup
  | md => md

theorem roundedTo_neg {x : ℝ} {q n : ℤ} (h : RoundedTo (Rnd.mirror md) x q n) : RoundedTo md (-x) q (-n) := by
  have hnear : |-x - (-n : ℤ) * (2 : ℝ) ^ q| = |x - n * (2 : ℝ) ^ q| := by
    rw [Int.cast_neg, neg_mul, sub_neg_eq_add, ← abs_neg, neg_add, neg_neg, ← sub_eq_add_neg]
  have hparity : -n % 2 = n % 2 := by omega
  cases md with
  | mode => simpa only [RoundedTo, Rnd.mirror, hnear, hparity] using h
  | rne => simpa only [RoundedTo, Rnd.mirror, hnear, hparity] using h
  | rtz => simpa only [RoundedTo, Rnd.mirror, Int.cast_neg, abs_neg, neg_mul_neg] using h
  | rup =>
    obtain ⟨hle, hlt⟩ := h
    constructor <;> push_cast <;> linarith
  | rdn =>
    obtain ⟨hle, hlt⟩ := h
    constructor <;> push_cast <;> linarith

/-- Rounding does not depend on the unit's scale. -/
theorem roundedTo_scale {x : ℝ} {q n : ℤ} (h : RoundedTo md x q n) (e : ℤ) : RoundedTo md (x * (2 : ℝ) ^ e) (q + e) n := by
  have hc : (0 : ℝ) < (2 : ℝ) ^ e := zpow_pos two_pos e
  have hu : (2 : ℝ) ^ (q + e) = (2 : ℝ) ^ q * (2 : ℝ) ^ e := zpow_add₀ two_ne_zero q e
  have hnear : |x * (2 : ℝ) ^ e - n * (2 : ℝ) ^ (q + e)| = |x - n * (2 : ℝ) ^ q| * (2 : ℝ) ^ e := by
    rw [hu, ← mul_assoc, ← sub_mul, abs_mul, abs_of_pos hc]
  have hnearest : RoundedTo .rne x q n → RoundedTo .rne (x * (2 : ℝ) ^ e) (q + e) n := by
    rintro ⟨hle, htie⟩
    refine ⟨?_, fun h => htie ?_⟩
    · rw [hnear, hu, ← mul_assoc]
      exact mul_le_mul_of_nonneg_right hle hc.le
    · rw [hnear, hu, ← mul_assoc] at h
      exact mul_right_cancel₀ hc.ne' h
  cases md with
  | mode => exact hnearest h
  | rne => exact hnearest h
  | rtz =>
    obtain ⟨hle, hlt, hsign⟩ := h
    refine ⟨?_, ?_, ?_⟩
    · rw [hu, ← mul_assoc, abs_mul, abs_of_pos hc]
      exact mul_le_mul_of_nonneg_right hle hc.le
    · rw [hu, ← mul_assoc, abs_mul, abs_of_pos hc]
      exact mul_lt_mul_of_pos_right hlt hc
    · rw [← mul_assoc]
      exact mul_nonneg hsign hc.le
  | rup =>
    obtain ⟨hle, hlt⟩ := h
    refine ⟨?_, ?_⟩
    · rw [hu, ← mul_assoc]
      exact mul_le_mul_of_nonneg_right hle hc.le
    · rw [hu, ← mul_assoc, ← add_mul]
      exact mul_lt_mul_of_pos_right hlt hc
  | rdn =>
    obtain ⟨hle, hlt⟩ := h
    refine ⟨?_, ?_⟩
    · rw [hu, ← mul_assoc]
      exact mul_le_mul_of_nonneg_right hle hc.le
    · rw [hu, ← mul_assoc, ← add_mul]
      exact mul_lt_mul_of_pos_right hlt hc

theorem RoundedDown.real (h : RoundedDown m (2 ^ k) n) : (n : ℝ) * 2 ^ k ≤ m ∧ (m : ℝ) < n * 2 ^ k + 2 ^ k := by
  unfold RoundedDown at h; exact_mod_cast h

theorem RoundedAway.real (h : RoundedAway m (2 ^ k) n) : (m : ℝ) ≤ n * 2 ^ k ∧ (n : ℝ) * 2 ^ k < m + 2 ^ k := by
  unfold RoundedAway at h; exact_mod_cast h

theorem RoundedNearest.real (h : RoundedNearest m (2 ^ k) n) :
    2 * |(m : ℝ) - n * 2 ^ k| ≤ 2 ^ k ∧ (2 * |(m : ℝ) - n * 2 ^ k| = 2 ^ k → (n : ℤ) % 2 = 0) := by
  obtain ⟨hlow, hhigh, htie⟩ := h
  have hlow' : 2 * (m : ℝ) ≤ 2 * (n * 2 ^ k) + 2 ^ k := by exact_mod_cast hlow
  have hhigh' : 2 * ((n : ℝ) * 2 ^ k) ≤ 2 * m + 2 ^ k := by exact_mod_cast hhigh
  refine ⟨?_, fun heq => ?_⟩
  · rw [← le_div_iff₀' two_pos, abs_le]
    constructor <;> linarith
  · have heven : n % 2 = 0 := by
      refine htie ?_
      rcases abs_choice ((m : ℝ) - n * 2 ^ k) with habs | habs <;> rw [habs] at heq
      · exact .inl (by exact_mod_cast (by linarith : 2 * (m : ℝ) = 2 * (n * 2 ^ k) + 2 ^ k))
      · exact .inr (by exact_mod_cast (by linarith : 2 * ((n : ℝ) * 2 ^ k) = 2 * m + 2 ^ k))
    omega

theorem RoundedNat.roundedTo_pos (h : RoundedNat md false m (2 ^ k) n) : RoundedTo md m k n := by
  cases md with
  | mode => simpa only [RoundedTo, zpow_natCast, Int.cast_natCast] using RoundedNearest.real h
  | rne => simpa only [RoundedTo, zpow_natCast, Int.cast_natCast] using RoundedNearest.real h
  | rtz =>
    obtain ⟨hle, hlt⟩ := RoundedDown.real h
    simp only [RoundedTo, zpow_natCast, Int.cast_natCast, Nat.abs_cast, add_mul, one_mul]
    exact ⟨hle, hlt, by positivity⟩
  | rup => simpa only [RoundedTo, zpow_natCast, Int.cast_natCast] using RoundedAway.real h
  | rdn => simpa only [RoundedTo, zpow_natCast, Int.cast_natCast] using RoundedDown.real h

theorem RoundedNat.roundedTo (h : RoundedNat md neg m (2 ^ k) n) : RoundedTo md (signedM neg m) k (signedM neg n) := by
  cases neg with
  | false => exact h.roundedTo_pos
  | true =>
    have hmirror : RoundedNat md true = RoundedNat (Rnd.mirror md) false := by cases md <;> rfl
    rw [hmirror] at h
    simpa only [signedM, if_true, Int.cast_neg, Int.cast_natCast] using roundedTo_neg (RoundedNat.roundedTo_pos h)

/-- R87: a magnitude of one exponent rounded to units of another. -/
theorem roundUnits_roundedTo (md : Rnd) (neg : Bool) (m : Nat) (e q : ℤ) :
    RoundedTo md ((signedM neg m : ℝ) * (2 : ℝ) ^ e) q (signedM neg (roundUnits md neg m e q).1) := by
  obtain h | h := le_total q e
  · have hexact := roundedTo_scale (roundUnits_rounded md neg (m * 2 ^ (e - q).toNat) 0 q).roundedTo q
    have hunits : roundUnits md neg (m * 2 ^ (e - q).toNat) q (q + (0 : ℕ)) = roundUnits md neg m e q := by
      rw [roundUnits_of_le md neg m e h, roundUnits_of_le _ _ _ _ (by simp)]
      simp
    rw [hunits] at hexact
    have hx : (signedM neg (m * 2 ^ (e - q).toNat) : ℝ) * (2 : ℝ) ^ q = signedM neg m * (2 : ℝ) ^ e := by
      rw [signedM_real, signedM_real, Nat.cast_mul, ← mul_assoc, mul_assoc _ _ ((2 : ℝ) ^ q), natPow_mul_zpow h]
    simpa only [hx, Nat.cast_zero, zero_add] using hexact
  · obtain ⟨k, rfl⟩ := Int.le.dest h
    rw [add_comm e]
    have := roundedTo_scale (roundUnits_rounded md neg m k e).roundedTo e
    rwa [add_comm e] at this

theorem roundUnits_inexact_real (md : Rnd) (neg : Bool) (m : Nat) (e q : ℤ) :
    (roundUnits md neg m e q).2 = true ↔ ((roundUnits md neg m e q).1 : ℝ) * (2 : ℝ) ^ q ≠ m * (2 : ℝ) ^ e := by
  obtain h | h := le_total q e
  · rw [roundUnits_of_le md neg m e h]
    simp [mul_assoc, ← natPow_mul_zpow h]
  · obtain ⟨k, rfl⟩ := Int.le.dest h
    rw [roundUnits_inexact, zpow_add₀ two_ne_zero, mul_comm ((2 : ℝ) ^ e), ← mul_assoc, ne_eq, ne_eq,
      mul_left_inj' (zpow_ne_zero e two_ne_zero), zpow_natCast]
    exact_mod_cast Iff.rfl

end Reals

/-! #### Patterns without sign and what they stand for (R83) -/

section Patterns

/-- The exponent of a format's smallest subnormal. -/
def Format.least (f : Format) : ℤ := 1 - f.bias - f.fb

/-- The integer that a pattern without sign stands for, and how many times the unit of the smallest subnormal is doubled. -/
def Format.mantissa (f : Format) (p : Nat) : Nat := if p / 2 ^ f.fb = 0 then p % 2 ^ f.fb else p % 2 ^ f.fb + 2 ^ f.fb
def Format.doublings (f : Format) (p : Nat) : Nat := p / 2 ^ f.fb - 1

/-- The number that a pattern without sign would stand for if no encoding were special. -/
noncomputable def Format.real (f : Format) (p : Nat) : ℝ := (f.mantissa p : ℝ) * (2 : ℝ) ^ (f.least + f.doublings p)

variable (f : Format) {p d n : Nat} (neg : Bool)

theorem pattern_eq (p : Nat) : p = f.doublings p * 2 ^ f.fb + f.mantissa p := by
  have hp := Nat.div_add_mod' p (2 ^ f.fb)
  unfold Format.doublings Format.mantissa
  obtain h | ⟨a, h⟩ : p / 2 ^ f.fb = 0 ∨ ∃ a, p / 2 ^ f.fb = a + 1 := by cases p / 2 ^ f.fb <;> simp
  · simp only [h, if_true, Nat.zero_sub, zero_mul, zero_add] at hp ⊢
    exact hp.symm
  · simp only [h, add_mul, one_mul, Nat.succ_ne_zero, if_false, Nat.add_sub_cancel] at hp ⊢
    omega

theorem mantissa_lt (p : Nat) : f.mantissa p < 2 ^ (f.fb + 1) := by
  have := Nat.mod_lt p (Nat.two_pow_pos f.fb)
  unfold Format.mantissa
  split <;> rw [pow_succ] <;> omega

theorem le_mantissa (p : Nat) : f.doublings p = 0 ∨ 2 ^ f.fb ≤ f.mantissa p := by
  unfold Format.mantissa Format.doublings
  split <;> omega

theorem mantissa_pattern (hd : d = 0 ∨ 2 ^ f.fb ≤ n) (hn : n < 2 ^ (f.fb + 1)) :
    f.mantissa (d * 2 ^ f.fb + n) = n ∧ f.doublings (d * 2 ^ f.fb + n) = d := by
  rw [pow_succ] at hn
  unfold Format.mantissa Format.doublings
  rw [Nat.mul_comm, Nat.mul_add_div (Nat.two_pow_pos f.fb), Nat.mul_add_mod]
  obtain hlt | hle := Nat.lt_or_ge n (2 ^ f.fb)
  · obtain rfl : d = 0 := by omega
    simp [Nat.div_eq_of_lt hlt, Nat.mod_eq_of_lt hlt]
  · obtain ⟨r, rfl⟩ := Nat.exists_eq_add_of_le hle
    have hr : r < 2 ^ f.fb := by omega
    simp [Nat.mod_eq_of_lt hr, Nat.div_eq_of_lt hr, Nat.add_comm r]

/-- A rounded magnitude that reaches the next power of two is the pattern of that power. -/
theorem real_pattern (hd : d = 0 ∨ 2 ^ f.fb ≤ n) (hn : n ≤ 2 ^ (f.fb + 1)) :
    f.real (d * 2 ^ f.fb + n) = n * (2 : ℝ) ^ (f.least + d) := by
  obtain hlt | rfl := hn.lt_or_eq
  · obtain ⟨hm, hd⟩ := mantissa_pattern f hd hlt
    rw [Format.real, hm, hd]
  · have hnext : d * 2 ^ f.fb + 2 ^ (f.fb + 1) = (d + 1) * 2 ^ f.fb + 2 ^ f.fb := by ring
    obtain ⟨hm, hd⟩ := mantissa_pattern f (d := d + 1) (.inr le_rfl) (pow_lt_pow_right₀ one_lt_two (Nat.lt_succ_self f.fb))
    rw [Format.real, hnext, hm, hd, Nat.cast_pow, Nat.cast_pow, pow_succ, Nat.cast_add, ← add_assoc, Nat.cast_one, zpow_add_one₀ two_ne_zero]
    push_cast
    ring

/-- The larger of two patterns stands for the larger number. -/
theorem real_strictMono : StrictMono f.real := by
  refine strictMono_nat_of_lt_succ fun p => ?_
  have hnext : f.real (p + 1) = (f.mantissa p + 1 : ℕ) * (2 : ℝ) ^ (f.least + f.doublings p) := by
    rw [← real_pattern f ((le_mantissa f p).imp_right (Nat.le_succ_of_le ·)) (mantissa_lt f p), Nat.succ_eq_add_one, ← add_assoc, ← pattern_eq]
  rw [hnext, Format.real]
  exact mul_lt_mul_of_pos_right (Nat.cast_lt.mpr (Nat.lt_succ_self _)) (zpow_pos two_pos _)

/-- The fields of a pattern with its sign. -/
theorem signed_fields (hp : p < 2 ^ (f.eb + f.fb)) :
    ((signBit f neg + p) / 2 ^ (f.eb + f.fb) % 2 == 1) = neg ∧ (signBit f neg + p) / 2 ^ f.fb % 2 ^ f.eb = p / 2 ^ f.fb
      ∧ (signBit f neg + p) % 2 ^ f.fb = p % 2 ^ f.fb ∧ (signBit f neg + p) % 2 ^ (f.eb + f.fb) = p := by
  have hex : p / 2 ^ f.fb < 2 ^ f.eb := by rwa [Nat.div_lt_iff_lt_mul (Nat.two_pow_pos _), ← pow_add]
  cases neg with
  | false => simp [signBit, Nat.div_eq_of_lt hp, Nat.mod_eq_of_lt hp, Nat.mod_eq_of_lt hex]
  | true =>
    refine ⟨?_, ?_, ?_, ?_⟩
    · simp [signBit, Nat.div_eq_of_lt hp]
    · simp only [signBit, if_true, pow_add]
      rw [Nat.mul_comm, Nat.mul_add_div (Nat.two_pow_pos _), Nat.add_mod_left, Nat.mod_eq_of_lt hex]
    · simp [signBit, pow_add]
    · simp [signBit, Nat.mod_eq_of_lt hp]

theorem value_signed (hp : p < 2 ^ (f.eb + f.fb)) : f.value (signBit f neg + p) =
    if f.sp == .ieee && p / 2 ^ f.fb == 2 ^ f.eb - 1 then
      if p % 2 ^ f.fb == 0 then .inf neg else .nan (p % 2 ^ f.fb < 2 ^ (f.fb - 1))
    else if f.sp == .oneNan && p == 2 ^ (f.eb + f.fb) - 1 then .nan false
    else .fin neg (f.mantissa p) (f.least + f.doublings p) := by
  obtain ⟨hneg, hex, hfr, hlow⟩ := signed_fields f neg hp
  have hfin : (if p / 2 ^ f.fb == 0 then FVal.fin neg (p % 2 ^ f.fb) f.least
      else .fin neg (p % 2 ^ f.fb + 2 ^ f.fb) (f.least + ((p / 2 ^ f.fb : ℕ) : ℤ) - 1)) = .fin neg (f.mantissa p) (f.least + f.doublings p) := by
    unfold Format.mantissa Format.doublings
    cases p / 2 ^ f.fb with
    | zero => simp
    | succ a => simp [← add_assoc]
  rw [← hfin]
  simp only [Format.value, hneg, hex, hfr, hlow]
  rfl

theorem largest_lt : f.largest < 2 ^ (f.eb + f.fb) := by
  have hpos := Nat.two_pow_pos (f.eb + f.fb)
  have hlt : (2 ^ f.eb - 1) * 2 ^ f.fb - 1 < 2 ^ (f.eb + f.fb) := by
    rw [pow_add] at hpos ⊢
    exact (Nat.sub_le _ _).trans_lt (Nat.mul_lt_mul_of_pos_right (Nat.sub_lt (Nat.two_pow_pos f.eb) one_pos) (Nat.two_pow_pos f.fb))
  unfold Format.largest
  cases f.sp with
  | ieee => exact hlt
  | oneNan => exact Nat.sub_lt hpos two_pos
  | none => exact Nat.sub_lt hpos one_pos

/-- Up to the largest one, every pattern is the finite number that its fields spell. -/
theorem value_of_le_largest (hf : 0 < f.eb) (hp : p ≤ f.largest) :
    f.value (signBit f neg + p) = .fin neg (f.mantissa p) (f.least + f.doublings p) := by
  rw [value_signed f neg (hp.trans_lt (largest_lt f))]
  have heb : 2 ≤ 2 ^ f.eb := Nat.le_self_pow hf.ne' 2
  have hfb := Nat.two_pow_pos f.fb
  unfold Format.largest at hp
  cases hsp : f.sp with
  | ieee =>
    have hlt : p / 2 ^ f.fb < 2 ^ f.eb - 1 := by
      rw [Nat.div_lt_iff_lt_mul hfb]
      have hone : 1 * 1 ≤ (2 ^ f.eb - 1) * 2 ^ f.fb := Nat.mul_le_mul (by omega) hfb
      simp only [hsp] at hp
      omega
    simp [hlt.ne]
  | oneNan =>
    have hne : p ≠ 2 ^ (f.eb + f.fb) - 1 := by
      have htwo : 2 * 1 ≤ 2 ^ (f.eb + f.fb) := by rw [pow_add]; exact Nat.mul_le_mul heb hfb
      simp only [hsp] at hp
      omega
    simp [hne]
  | none => simp

/-- Beyond it, none is. -/
theorem value_of_gt_largest (hp : f.largest < p) (hlt : p < 2 ^ (f.eb + f.fb)) (neg' : Bool) (m : Nat) (e : ℤ) :
    f.value (signBit f neg + p) ≠ .fin neg' m e := by
  rw [value_signed f neg hlt]
  unfold Format.largest at hp
  cases hsp : f.sp with
  | ieee =>
    have hex : p / 2 ^ f.fb = 2 ^ f.eb - 1 := by
      simp only [hsp] at hp
      have hlow : 2 ^ f.eb - 1 ≤ p / 2 ^ f.fb := (Nat.le_div_iff_mul_le (Nat.two_pow_pos _)).mpr (by omega)
      have hhigh : p / 2 ^ f.fb < 2 ^ f.eb := by rwa [Nat.div_lt_iff_lt_mul (Nat.two_pow_pos _), ← pow_add]
      omega
    simp only [hex, beq_self_eq_true, Bool.and_self, if_true]
    split <;> exact FVal.noConfusion
  | oneNan =>
    have heq : p = 2 ^ (f.eb + f.fb) - 1 := by simp only [hsp] at hp; omega
    simp [heq]
  | none => simp only [hsp] at hp; omega

theorem two_pow_width : 2 ^ f.width = 2 * 2 ^ (f.eb + f.fb) := by rw [Format.width, add_assoc, Nat.add_comm, pow_succ, Nat.mul_comm]

theorem signed_lt (hp : p < 2 ^ (f.eb + f.fb)) : signBit f neg + p < 2 ^ f.width := by
  rw [two_pow_width, signBit]
  split <;> omega

/-- A finite value is that of a pattern up to the largest one. -/
theorem finite_pattern {p : Nat} {m : Nat} {e : ℤ} (hf : 0 < f.eb) (hp : p < 2 ^ f.width) (h : f.value p = .fin neg m e) :
    ∃ n ≤ f.largest, p = signBit f neg + n ∧ m = f.mantissa n ∧ e = f.least + f.doublings n := by
  have hsplit : ∃ s n, n < 2 ^ (f.eb + f.fb) ∧ p = signBit f s + n := by
    refine ⟨decide (2 ^ (f.eb + f.fb) ≤ p), p % 2 ^ (f.eb + f.fb), Nat.mod_lt _ (Nat.two_pow_pos _), ?_⟩
    rw [two_pow_width] at hp
    unfold signBit
    by_cases hle : 2 ^ (f.eb + f.fb) ≤ p
    · rw [decide_eq_true hle, Nat.mod_eq_sub_mod hle, Nat.mod_eq_of_lt (by omega)]
      simp only [if_true]
      omega
    · rw [decide_eq_false hle, Nat.mod_eq_of_lt (by omega)]
      simp
  obtain ⟨s, n, hn, rfl⟩ := hsplit
  have hle : n ≤ f.largest := by
    by_contra hgt
    exact value_of_gt_largest f s (not_le.mp hgt) hn neg m e h
  rw [value_of_le_largest f s hf hle] at h
  obtain ⟨rfl, rfl, rfl⟩ := FVal.fin.inj h
  exact ⟨n, hle, rfl, rfl, rfl⟩

end Patterns

/-! #### Rounding into a format (R87, R88) -/

section Packing

variable {f : Format} {md : Rnd} {neg inexact : Bool} {ex : ℤ} {n n1 : Nat} {x : ℝ}

/-- The exponent of the unit that a magnitude in [2^ex, 2^(ex + 1)) is rounded to. -/
def Format.unit (f : Format) (ex : ℤ) : ℤ := max (ex - f.fb) f.least

/-- The pattern without sign of n units. -/
def Format.pack (f : Format) (ex : ℤ) (n : Nat) : Nat := (f.unit ex - f.least).toNat * 2 ^ f.fb + n

/-- Whether a magnitude that is n1 units with unbounded exponents lies below the smallest normal (R88). -/
def Format.isTiny (f : Format) (ex : ℤ) (n1 : Nat) : Bool :=
  decide (ex < 1 - f.bias) && !(ex + 1 == 1 - f.bias && n1 == 2 ^ (f.fb + 1))

/-- What a rounded magnitude becomes in a format: n units, and n1 with unbounded exponents. -/
def packRounded (f : Format) (md : Rnd) (neg : Bool) (ex : ℤ) (n n1 : Nat) (inexact : Bool) : Nat × Flags :=
  if f.pack ex n > f.largest then overflowTo f md neg
  else (signBit f neg + f.pack ex n, flagIf inexact Flag.inx ||| flagIf (f.isTiny ex n1 && inexact) Flag.unf)

theorem roundInto_zero (f : Format) (md : Rnd) (neg : Bool) (e : ℤ) : roundInto f md neg 0 e = (signBit f neg, 0) := rfl

theorem roundInto_eq {m : Nat} (hm : m ≠ 0) (f : Format) (md : Rnd) (neg : Bool) (e : ℤ) :
    let ex : ℤ := Nat.log2 m + e
    let r := roundUnits md neg m e (f.unit ex)
    roundInto f md neg m e = packRounded f md neg ex r.1 (roundUnits md neg m e (ex - f.fb)).1 r.2 := by
  have hunit : ∀ ex : ℤ, (if ex - f.fb < 1 - f.bias - f.fb then (1 - f.bias - f.fb : ℤ) else ex - f.fb) = f.unit ex := by
    intro ex
    unfold Format.unit Format.least
    split <;> omega
  intro ex r
  unfold roundInto
  rw [if_neg (by simpa using hm)]
  simp only [hunit]
  rfl

theorem abs_sub_of_sameSign {a b : ℝ} (h : 0 ≤ a * b) : |a - b| = |(|a| - |b|)| := by
  have hmul : |a| * |b| = a * b := by rw [← abs_mul, abs_of_nonneg h]
  rw [← sq_eq_sq_iff_abs_eq_abs]
  linear_combination 2 * hmul - sq_abs a - sq_abs b

/-- Whatever the mode, rounding moves a number by less than a unit. -/
theorem roundedTo_near {q n : ℤ} (h : RoundedTo md x q n) : |(n : ℝ) * (2 : ℝ) ^ q - x| < (2 : ℝ) ^ q := by
  have hu : (0 : ℝ) < (2 : ℝ) ^ q := zpow_pos two_pos q
  have hnearest : RoundedTo .rne x q n → |(n : ℝ) * (2 : ℝ) ^ q - x| < (2 : ℝ) ^ q := by
    rintro ⟨hle, -⟩
    rw [abs_sub_comm]
    linarith
  cases md with
  | mode => exact hnearest h
  | rne => exact hnearest h
  | rtz =>
    obtain ⟨hle, hlt, hsign⟩ := h
    rw [abs_sub_of_sameSign (by rw [mul_right_comm]; exact mul_nonneg hsign hu.le), abs_mul, abs_of_pos hu, abs_lt]
    constructor <;> linarith
  | rup =>
    obtain ⟨hle, hlt⟩ := h
    rw [abs_lt]
    constructor <;> linarith
  | rdn =>
    obtain ⟨hle, hlt⟩ := h
    rw [abs_lt]
    constructor <;> linarith

theorem roundedTo_near_abs {q : ℤ} (h : RoundedTo md x q (signedM neg n)) : |((n : ℝ) * (2 : ℝ) ^ q - |x|)| < (2 : ℝ) ^ q := by
  have hle := abs_abs_sub_abs_le (((signedM neg n : ℤ) : ℝ) * (2 : ℝ) ^ q) x
  rw [abs_mul, abs_signedM_real, abs_of_pos (a := (2 : ℝ) ^ q) (zpow_pos two_pos q)] at hle
  exact hle.trans_lt (roundedTo_near h)

/-- A magnitude below 2^(ex + 1) is at most 2^k units of an exponent that is at least ex + 1 − k. -/
theorem units_le {q : ℤ} {k : Nat} (h : RoundedTo md x q (signedM neg n)) (hhigh : |x| < (2 : ℝ) ^ (ex + 1)) (hq : ex + 1 ≤ q + k) :
    n ≤ 2 ^ k := by
  have hu : (0 : ℝ) < (2 : ℝ) ^ q := zpow_pos two_pos q
  have hnear := (abs_lt.mp (roundedTo_near_abs h)).2
  have hx : |x| < (2 : ℝ) ^ k * (2 : ℝ) ^ q := by
    rw [← zpow_natCast, ← zpow_add₀ two_ne_zero, add_comm (k : ℤ)]
    exact hhigh.trans_le (zpow_le_zpow_right₀ one_le_two hq)
  have hlt : (n : ℝ) < 2 ^ k + 1 := by
    refine lt_of_mul_lt_mul_right ?_ hu.le
    linarith
  exact Nat.lt_succ_iff.mp (by exact_mod_cast hlt)

theorem le_units {k : Nat} (h : RoundedTo md x (ex - k) (signedM neg n)) (hlow : (2 : ℝ) ^ ex ≤ |x|) : 2 ^ k ≤ n := by
  have hu : (0 : ℝ) < (2 : ℝ) ^ (ex - k) := zpow_pos two_pos _
  have hnear := (abs_lt.mp (roundedTo_near_abs h)).1
  have hx : (2 : ℝ) ^ k * (2 : ℝ) ^ (ex - k) ≤ |x| := by
    rwa [← zpow_natCast, ← zpow_add₀ two_ne_zero, add_sub_cancel]
  have hlt : (2 : ℝ) ^ k < n + 1 := by
    refine lt_of_mul_lt_mul_right ?_ hu.le
    linarith
  exact Nat.lt_succ_iff.mp (by exact_mod_cast hlt)

theorem isTiny_iff (hlow : 2 ^ f.fb ≤ n1) (hhigh : n1 ≤ 2 ^ (f.fb + 1)) :
    f.isTiny ex n1 = true ↔ (n1 : ℝ) * (2 : ℝ) ^ (ex - f.fb) < (2 : ℝ) ^ (1 - (f.bias : ℤ)) := by
  have hu : (0 : ℝ) < (2 : ℝ) ^ (ex - f.fb) := zpow_pos two_pos _
  have hunits : ∀ k : Nat, (2 : ℝ) ^ k * (2 : ℝ) ^ (ex - f.fb) = (2 : ℝ) ^ (ex - f.fb + k) := by
    intro k
    rw [← zpow_natCast, ← zpow_add₀ two_ne_zero, add_comm]
  have hge : (2 : ℝ) ^ ex ≤ n1 * (2 : ℝ) ^ (ex - f.fb) := by
    rw [← sub_add_cancel ex f.fb, ← hunits, sub_add_cancel]
    exact mul_le_mul_of_nonneg_right (by exact_mod_cast hlow) hu.le
  have hle : (n1 : ℝ) * (2 : ℝ) ^ (ex - f.fb) ≤ (2 : ℝ) ^ (ex + 1) := by
    rw [show ex + 1 = ex - f.fb + (f.fb + 1 : ℕ) by push_cast; ring, ← hunits]
    exact mul_le_mul_of_nonneg_right (by exact_mod_cast hhigh) hu.le
  unfold Format.isTiny
  obtain hlt | heq | hgt := lt_trichotomy (ex + 1) (1 - f.bias)
  · have hsmall : (n1 : ℝ) * (2 : ℝ) ^ (ex - f.fb) < (2 : ℝ) ^ (1 - (f.bias : ℤ)) :=
      hle.trans_lt (zpow_lt_zpow_right₀ one_lt_two hlt)
    simp [hsmall, hlt.ne, show ex < 1 - f.bias by omega]
  · have hiff : (n1 : ℝ) * (2 : ℝ) ^ (ex - f.fb) < (2 : ℝ) ^ (1 - (f.bias : ℤ)) ↔ n1 ≠ 2 ^ (f.fb + 1) := by
      rw [← heq, show ex + 1 = ex - f.fb + (f.fb + 1 : ℕ) by push_cast; ring, ← hunits, mul_lt_mul_iff_left₀ hu]
      have : (n1 : ℝ) < 2 ^ (f.fb + 1) ↔ n1 < 2 ^ (f.fb + 1) := by exact_mod_cast Iff.rfl
      rw [this]
      omega
    rw [hiff]
    simp [heq, show ex < 1 - f.bias by omega]
  · have hbig : ¬ (n1 : ℝ) * (2 : ℝ) ^ (ex - f.fb) < (2 : ℝ) ^ (1 - (f.bias : ℤ)) :=
      not_lt.mpr ((zpow_le_zpow_right₀ one_le_two (by omega)).trans hge)
    simp [hbig, show ¬ ex < 1 - f.bias by omega]

theorem overflowTo_eq (f : Format) (md : Rnd) (neg : Bool) :
    let sign := if neg then 2 ^ (f.eb + f.fb) else 0
    if f.sp = .ieee then
      overflowTo f md neg =
        (sign + (if md = .rtz ∨ (md = .rup ∧ neg = true) ∨ (md = .rdn ∧ neg = false) then f.largest else f.infinity), Flag.ovf ||| Flag.inx)
    else overflowTo f md neg = (sign + f.largest, Flag.sat ||| Flag.inx) := by
  cases hsp : f.sp with
  | ieee => cases md <;> cases neg <;> simp [overflowTo, hsp, signBit]
  | oneNan => simp [overflowTo, hsp, signBit]
  | none => simp [overflowTo, hsp, signBit]

/-- The pattern of a rounded magnitude stands for it. -/
theorem real_pack (hhigh : n ≤ 2 ^ (f.fb + 1)) (hlow : f.unit ex = ex - f.fb → 2 ^ f.fb ≤ n) :
    f.real (f.pack ex n) = n * (2 : ℝ) ^ f.unit ex := by
  have hle : f.least ≤ f.unit ex := le_max_right _ _
  have hd : (f.unit ex - f.least).toNat = 0 ∨ 2 ^ f.fb ≤ n := by
    obtain h | h := max_choice (ex - f.fb) f.least
    · exact .inr (hlow h)
    · exact .inl (by rw [Format.unit, h]; simp)
  rw [Format.pack, real_pattern f hd hhigh, Int.toNat_of_nonneg (by omega), add_sub_cancel]

theorem real_pack_rounded (hlow : (2 : ℝ) ^ ex ≤ |x|) (hhigh : |x| < (2 : ℝ) ^ (ex + 1)) (hn : RoundedTo md x (f.unit ex) (signedM neg n)) :
    f.real (f.pack ex n) = n * (2 : ℝ) ^ f.unit ex := by
  have hunit : ex - f.fb ≤ f.unit ex := le_max_left _ _
  exact real_pack (units_le hn hhigh (by push_cast; omega)) fun h => le_units (h ▸ hn) hlow

theorem roundedOnce_packRounded (hf : 0 < f.eb) (hlow : (2 : ℝ) ^ ex ≤ |x|) (hhigh : |x| < (2 : ℝ) ^ (ex + 1)) (hneg : neg = true ↔ x < 0)
    (hn : RoundedTo md x (f.unit ex) (signedM neg n)) (hn1 : RoundedTo md x (ex - f.fb) (signedM neg n1))
    (hinexact : inexact = true ↔ (n : ℝ) * (2 : ℝ) ^ f.unit ex ≠ |x|) : RoundedOnce f md x (packRounded f md neg ex n n1 inexact) := by
  have hpack := real_pack_rounded hlow hhigh hn
  have htop : f.value f.largest = .fin false (f.mantissa f.largest) (f.least + f.doublings f.largest) := by
    simpa [signBit] using value_of_le_largest f false hf (le_refl f.largest)
  have hover : (n : ℝ) * (2 : ℝ) ^ f.unit ex ≤ f.real f.largest ↔ ¬ f.pack ex n > f.largest := by
    rw [← hpack, (real_strictMono f).le_iff_le, not_lt]
  refine ⟨ex, signedM neg n, signedM neg n1, neg, inexact, f.isTiny ex n1, f.mantissa f.largest, f.least + f.doublings f.largest,
    hlow, hhigh, hneg, htop, hn, hn1, ?_, ?_, fun hle => ?_, fun hgt => ?_⟩
  · rw [abs_signedM_real]
    exact hinexact
  · rw [abs_signedM_real]
    exact isTiny_iff (le_units hn1 hlow) (units_le hn1 hhigh (by push_cast; omega))
  · rw [abs_signedM_real] at hle ⊢
    have hfits := hover.mp hle
    rw [packRounded, if_neg hfits]
    exact ⟨signed_lt f neg ((not_lt.mp hfits).trans_lt (largest_lt f)), rfl, _, _, value_of_le_largest f neg hf (not_lt.mp hfits), hpack⟩
  · rw [abs_signedM_real] at hgt
    rw [packRounded, if_pos (not_not.mp (mt hover.mpr hgt.not_ge))]
    exact overflowTo_eq f md neg

theorem abs_exact (neg : Bool) (m : Nat) (e : ℤ) : |(signedM neg m : ℝ) * (2 : ℝ) ^ e| = m * (2 : ℝ) ^ e := by
  rw [abs_mul, abs_signedM_real, abs_of_pos (a := (2 : ℝ) ^ e) (zpow_pos two_pos e)]

/-- The binade of an exact value. -/
theorem exact_binade {m : Nat} (hm : m ≠ 0) (e : ℤ) :
    (2 : ℝ) ^ ((Nat.log2 m : ℤ) + e) ≤ m * (2 : ℝ) ^ e ∧ (m : ℝ) * (2 : ℝ) ^ e < (2 : ℝ) ^ ((Nat.log2 m : ℤ) + e + 1) := by
  have hu : (0 : ℝ) < (2 : ℝ) ^ e := zpow_pos two_pos e
  rw [add_right_comm, zpow_add₀ two_ne_zero, zpow_add₀ two_ne_zero]
  exact ⟨mul_le_mul_of_nonneg_right (by rw [zpow_natCast]; exact_mod_cast Nat.log2_self_le hm) hu.le,
    mul_lt_mul_of_pos_right (by exact_mod_cast Nat.lt_log2_self) hu⟩

theorem exact_neg_iff {m : Nat} (hm : m ≠ 0) (neg : Bool) (e : ℤ) : neg = true ↔ (signedM neg m : ℝ) * (2 : ℝ) ^ e < 0 := by
  have hpos : (0 : ℝ) < m * (2 : ℝ) ^ e := mul_pos (by exact_mod_cast Nat.pos_of_ne_zero hm) (zpow_pos two_pos e)
  rw [signedM_real, mul_assoc]
  cases neg with
  | false => simpa using hpos.le
  | true => simpa using hpos

/-- R87, R88: an exact value rounded once into a format. -/
theorem roundedOnce_roundInto {m : Nat} (hf : 0 < f.eb) (hm : m ≠ 0) (md : Rnd) (neg : Bool) (e : ℤ) :
    RoundedOnce f md ((signedM neg m : ℝ) * (2 : ℝ) ^ e) (roundInto f md neg m e) := by
  obtain ⟨hlow, hhigh⟩ := exact_binade hm e
  rw [← abs_exact neg] at hlow hhigh
  rw [roundInto_eq hm]
  refine roundedOnce_packRounded hf hlow hhigh (exact_neg_iff hm neg e) (roundUnits_roundedTo md neg m e _) (roundUnits_roundedTo md neg m e _) ?_
  rw [abs_exact]
  exact roundUnits_inexact_real md neg m e _

end Packing

/-- R83: what a pattern stands for rounds to that pattern. -/
theorem roundInto_pattern {f : Format} {p : Nat} (md : Rnd) (neg : Bool) (hp : p ≤ f.largest) :
    roundInto f md neg (f.mantissa p) (f.least + f.doublings p) = (signBit f neg + p, 0) := by
  have hpat := pattern_eq f p
  obtain hzero | hm := Nat.eq_zero_or_pos (f.mantissa p)
  · have hd := le_mantissa f p
    rw [hzero, Nat.le_zero_eq, Nat.pow_eq_zero] at hd
    obtain hd : f.doublings p = 0 := by omega
    rw [hzero, hd] at hpat
    rw [hzero, roundInto_zero, hpat]
    simp
  · have hlog := Nat.log2_lt (n := f.mantissa p) (k := f.fb + 1) hm.ne' |>.mpr (mantissa_lt f p)
    have hunit : f.unit (Nat.log2 (f.mantissa p) + (f.least + f.doublings p)) = f.least + f.doublings p := by
      unfold Format.unit
      obtain hd | hle := le_mantissa f p
      · rw [hd]
        exact (max_eq_right (by push_cast; omega)).trans (by simp)
      · have := (Nat.le_log2 hm.ne').mpr hle
        rw [max_eq_left (by omega)]
        omega
    have hpack : f.pack (Nat.log2 (f.mantissa p) + (f.least + f.doublings p)) (f.mantissa p) = p := by
      rw [Format.pack, hunit, add_sub_cancel_left, Int.toNat_natCast, ← hpat]
    simp only [roundInto_eq hm.ne', hunit, roundUnits_of_le _ _ _ _ (le_refl (f.least + f.doublings p)), sub_self, Int.toNat_zero, pow_zero,
      mul_one, packRounded, hpack, if_neg (not_lt.mpr hp), Bool.and_false]
    rfl

theorem formatOf_eb_pos (t : Ty) : 0 < (formatOf t).eb := by cases t <;> decide

theorem eb_pos_of_named {f : Format} (h : f = .q12 ∨ ∃ t : Ty, t.isFloat = true ∧ f = formatOf t) : 0 < f.eb := by
  obtain rfl | ⟨t, -, rfl⟩ := h
  · decide
  · exact formatOf_eb_pos t

end Sys2Proof.Machine

open Sys2Proof Sys2Proof.Machine

/-- Settles O9: the units by `roundUnits_rounded`, a format's own values by `roundInto_pattern`, every other one by `roundedOnce_roundInto`. -/
theorem roundingOnce : Obligations.RoundingOnce := by
  unfold Obligations.RoundingOnce
  refine ⟨fun md neg m e k => ?_, fun t md n _ hn => ?_, fun f md neg m e hf hm => ?_, fun md neg s => ?_⟩
  · have hround := roundUnits_rounded md neg m k e
    refine ⟨roundUnits_inexact md neg m k e, ?_, ?_, ?_, ?_⟩
    · rintro rfl
      obtain ⟨hle, hlt⟩ := hround
      exact ⟨hle, by rwa [add_mul, one_mul]⟩
    · rintro rfl
      cases neg <;> obtain ⟨hle, hlt⟩ := hround <;> simp only [signedM, if_true, Bool.false_eq_true, if_false] <;> omega
    · rintro rfl
      cases neg <;> obtain ⟨hle, hlt⟩ := hround <;> simp only [signedM, if_true, Bool.false_eq_true, if_false] <;> omega
    · rintro rfl
      obtain ⟨hlow, hhigh, htie⟩ := hround
      rw [add_mul, one_mul, mul_assoc]
      exact ⟨hlow, hhigh, fun h _ => htie h⟩
  · split
    · next neg m e hvalue =>
      obtain ⟨p, hp, rfl, rfl, rfl⟩ := finite_pattern (formatOf t) neg (formatOf_eb_pos t) hn hvalue
      exact roundInto_pattern md neg hp
    · trivial
  · exact roundedOnce_roundInto (eb_pos_of_named hf) hm md neg e
  · cases neg <;> cases s <;> exact ⟨rfl, rfl, rfl⟩

end

section
/-!
### Conversions (O12)

Rounding to an integer is one way (`roundedTo_unique`), so what `floatToInt` and `blockQuant` give is what `RoundedTo` says. A block's scale is the first
exponent that holds its largest magnitude (`blockScale_finite`), a code of E2M1 the nearest pattern (`roundInto_nearest`), and a residue number is
decoded by the Chinese remainder theorem (`resDecode_residues`).
-/

namespace Sys2Proof.Machine

/-! #### Residue numbers (R95, R96, R138, R139) -/

section Residues

/-- The number decoded is the Chinese remainder theorem's sum modulo M, in the half-open range about 0. -/
theorem resDecode_eq (a b c : Nat) : ∃ t : ℤ,
    resDecode a b c = a * 4297064448 + b * 8585738241 + c * 4297062400 - 8589932544 * t
      ∧ -8589932544 < 2 * resDecode a b c ∧ 2 * resDecode a b c ≤ 8589932544 := by
  have hM : resM = 8589932544 := by rw [resM]
  unfold resDecode
  simp only [hM, Nat.reduceMul]
  generalize hS : a * 4297064448 + b * 8585738241 + c * 4297062400 = S
  have hdiv := Nat.div_add_mod S 8589932544
  by_cases h : 2 * (S % 8589932544) ≤ 8589932544
  · rw [if_pos h]
    exact ⟨S / 8589932544, by omega, by omega, by omega⟩
  · rw [if_neg h]
    exact ⟨S / 8589932544 + 1, by omega, by omega, by omega⟩

theorem resDecode_residues {a b c : Nat} (ha : a < 2047) (hb : b < 2048) (hc : c < 2049) :
    resDecode a b c % 2047 = a ∧ resDecode a b c % 2048 = b ∧ resDecode a b c % 2049 = c := by
  obtain ⟨t, heq, -⟩ := resDecode_eq a b c
  rw [heq]
  refine ⟨?_, ?_, ?_⟩ <;> omega

/-- Two numbers with the same residues, both nearer to 0 than half the product of the moduli, are one. -/
theorem eq_of_residues {d n : ℤ} (h1 : d % 2047 = n % 2047) (h2 : d % 2048 = n % 2048) (h3 : d % 2049 = n % 2049)
    (hdiff : |d - n| < 8589932544) : d = n := by
  have hdvd : (2047 * 2048 * 2049 : ℤ) ∣ d - n := by
    refine IsCoprime.mul_dvd ?_ (IsCoprime.mul_dvd ?_ (Int.ModEq.dvd h1.symm) (Int.ModEq.dvd h2.symm)) (Int.ModEq.dvd h3.symm)
    · exact Int.isCoprime_iff_gcd_eq_one.mpr (by decide)
    · exact Int.isCoprime_iff_gcd_eq_one.mpr (by decide)
  exact sub_eq_zero.mp (Int.eq_zero_of_abs_lt_dvd hdvd hdiff)

theorem resDecode_of_residues {n : ℤ} (hlow : -8589932544 < 2 * n) (hhigh : 2 * n ≤ 8589932544) :
    resDecode (n % 2047).toNat (n % 2048).toNat (n % 2049).toNat = n := by
  obtain ⟨h1, h2, h3⟩ := resDecode_residues (a := (n % 2047).toNat) (b := (n % 2048).toNat) (c := (n % 2049).toNat) (by omega) (by omega) (by omega)
  obtain ⟨-, -, hlow', hhigh'⟩ := resDecode_eq (n % 2047).toNat (n % 2048).toNat (n % 2049).toNat
  rw [Int.toNat_of_nonneg (Int.emod_nonneg n (by decide))] at h1 h2 h3
  exact eq_of_residues h1 h2 h3 (abs_lt.mpr ⟨by linarith, by linarith⟩)

theorem resRead_resPack {a b c : Nat} (ha : a < 2047) (hb : b < 2048) (hc : c < 2049) : resRead (resPack a b c) = (a, b, c, false) := by
  have hw : (resPack a b c).toNat = c * 4194304 + b * 2048 + a := by
    simp only [resPack, word, BitVec.toNat_ofNat]
    omega
  have h1 : field (resPack a b c) 0 11 = a := by simp only [field, hw]; omega
  have h2 : field (resPack a b c) 11 11 = b := by simp only [field, hw]; omega
  have h3 : field (resPack a b c) 22 12 = c := by simp only [field, hw]; omega
  have h4 : field (resPack a b c) 34 30 = 0 := by simp only [field, hw]; omega
  have hcanon : (a == 2047 || decide (c ≥ 2049) || (0 : Nat) != 0) = false := by
    rw [beq_eq_false_iff_ne.mpr ha.ne, decide_eq_false (not_le.mpr hc)]
    rfl
  simp only [resRead, h1, h2, h3, h4, Nat.mod_eq_of_lt ha, Nat.mod_eq_of_lt hc, hcanon]

theorem resRead_resEncode (n : ℤ) : resRead (resEncode n) = ((n % 2047).toNat, (n % 2048).toNat, (n % 2049).toNat, false) :=
  resRead_resPack (by omega) (by omega) (by omega)

end Residues

/-! #### Rounding to an integer (R133, R134) -/

section Integers

variable {md : Rnd} {x : ℝ} {q n k : ℤ}

/-- A mode rounds a number one way. -/
theorem roundedTo_unique (h : RoundedTo md x q n) (h' : RoundedTo md x q k) : n = k := by
  have hu : (0 : ℝ) < (2 : ℝ) ^ q := zpow_pos two_pos q
  have hclose : ∀ {a b : ℤ}, (a : ℝ) * (2 : ℝ) ^ q < b * (2 : ℝ) ^ q + (2 : ℝ) ^ q → a ≤ b := by
    intro a b hab
    have : (a : ℝ) < b + 1 := lt_of_mul_lt_mul_right (by linarith) hu.le
    exact Int.lt_add_one_iff.mp (by exact_mod_cast this)
  have hnotLt : ∀ {a b : ℤ}, RoundedTo .rne x q a → RoundedTo .rne x q b → ¬ a < b := by
    rintro a b ⟨ha, hevenA⟩ ⟨hb, hevenB⟩ hab
    have hlow := le_abs_self (x - a * (2 : ℝ) ^ q)
    have hhigh := neg_le_abs (x - b * (2 : ℝ) ^ q)
    obtain rfl : b = a + 1 := le_antisymm (hclose (by push_cast; linarith)) hab
    push_cast at hb hhigh hevenB
    have heven := hevenA (le_antisymm ha (by linarith))
    have heven' := hevenB (le_antisymm hb (by linarith))
    omega
  have hnearest : RoundedTo .rne x q n → RoundedTo .rne x q k → n = k := fun h h' =>
    le_antisymm (not_lt.mp (hnotLt h' h)) (not_lt.mp (hnotLt h h'))
  cases md with
  | mode => exact hnearest h h'
  | rne => exact hnearest h h'
  | rtz =>
    obtain ⟨hle, hlt, hsign⟩ := h
    obtain ⟨hle', hlt', hsign'⟩ := h'
    rw [add_mul, one_mul, ← Int.cast_abs] at hlt hlt'
    rw [← Int.cast_abs] at hle hle'
    obtain heq | heq := abs_eq_abs.mp (le_antisymm (hclose (hle.trans_lt hlt')) (hclose (hle'.trans_lt hlt)))
    · exact heq
    · have hx : x = 0 ∨ k = 0 := by
        rw [heq, Int.cast_neg] at hsign
        have hzero : (k : ℝ) * x = 0 := by linarith
        exact (mul_eq_zero.mp hzero).symm.imp_right (by exact_mod_cast id)
      have hk : k = 0 := by
        refine hx.elim (fun hx => ?_) id
        rw [hx, abs_zero] at hle'
        have habs : ((|k| : ℤ) : ℝ) ≤ 0 := nonpos_of_mul_nonpos_left hle' hu
        exact abs_nonpos_iff.mp (by exact_mod_cast habs)
      rw [heq, hk, neg_zero]
  | rup => exact le_antisymm (hclose (by linarith [h.2, h'.1])) (hclose (by linarith [h'.2, h.1]))
  | rdn => exact le_antisymm (hclose (by linarith [h.1, h'.2])) (hclose (by linarith [h'.1, h.2]))

theorem toIntegral_roundedTo (md : Rnd) (neg : Bool) (m : Nat) (e : ℤ) :
    RoundedTo md ((signedM neg m : ℝ) * (2 : ℝ) ^ e) 0 (toIntegral md neg m e).1 := roundUnits_roundedTo md neg m e 0

theorem toIntegral_inexact (md : Rnd) (neg : Bool) (m : Nat) (e : ℤ) :
    (toIntegral md neg m e).2 = true ↔ ((toIntegral md neg m e).1 : ℝ) ≠ (signedM neg m : ℝ) * (2 : ℝ) ^ e := by
  have hsign : (if neg then -1 else 1 : ℝ) ≠ 0 := by cases neg <;> norm_num
  have h := roundUnits_inexact_real md neg m e 0
  rw [zpow_zero, mul_one] at h
  rw [toIntegral, signedM_real, signedM_real, mul_assoc, ne_eq, mul_right_inj' hsign]
  exact h

/-- R134: to the end of the range with INV where the rounded integer lies beyond it. -/
theorem floatToInt_of_rounded {dt : Ty} {neg : Bool} {m : Nat} {e k : ℤ} (h : RoundedTo md ((signedM neg m : ℝ) * (2 : ℝ) ^ e) 0 k) :
    floatToInt dt md (.fin neg m e) =
      if k > Ty.high dt then (Ty.high dt, Flag.inv) else if k < Ty.low dt then (Ty.low dt, Flag.inv)
      else (k, flagIf (decide ((k : ℝ) ≠ (signedM neg m : ℝ) * (2 : ℝ) ^ e)) Flag.inx) := by
  obtain rfl := roundedTo_unique h (toIntegral_roundedTo md neg m e)
  have hflag : decide (((toIntegral md neg m e).1 : ℝ) ≠ (signedM neg m : ℝ) * (2 : ℝ) ^ e) = (toIntegral md neg m e).2 := by
    rw [Bool.eq_iff_iff, decide_eq_true_iff, toIntegral_inexact]
  rw [hflag]
  rfl

end Integers

/-! #### Block scales (R93, R135) -/

section Scales

variable {vs : List FVal} {m n : Nat} {e d k : ℤ}

theorem compareF_magnitudes_pos :
    compareF (.fin false m e) (.fin false n d) > 0 ↔ (n : ℝ) * (2 : ℝ) ^ d < m * (2 : ℝ) ^ e := (compareF_fin_real false false m n e d).2.2

theorem compareF_magnitudes_nonpos :
    compareF (.fin false m e) (.fin false n d) ≤ 0 ↔ (m : ℝ) * (2 : ℝ) ^ e ≤ n * (2 : ℝ) ^ d := by
  rw [← not_lt, ← not_lt]
  exact not_congr compareF_magnitudes_pos

/-- Whether a value is an infinity is all that is noted of the infinities. -/
theorem blockAmax_inf (vs : List FVal) : (blockAmax vs).2.2 = vs.any FVal.isInf := by
  induction vs with
  | nil => rfl
  | cons v vs ih =>
    rw [List.any_cons, ← ih]
    cases v with
    | nan s => rfl
    | inf s => rfl
    | fin s m e =>
      simp only [blockAmax, FVal.isInf, Bool.false_or]
      split <;> rfl

/-- The largest magnitude: no finite value's is larger, and it is 0 or one of theirs. -/
theorem blockAmax_largest (vs : List FVal) :
    (∀ s m e, FVal.fin s m e ∈ vs → (m : ℝ) * (2 : ℝ) ^ e ≤ (blockAmax vs).1 * (2 : ℝ) ^ (blockAmax vs).2.1)
      ∧ ((blockAmax vs).1 = 0 ∨ ∃ s, FVal.fin s (blockAmax vs).1 (blockAmax vs).2.1 ∈ vs) := by
  induction vs with
  | nil => exact ⟨fun _ _ _ h => absurd h List.not_mem_nil, .inl rfl⟩
  | cons v vs ih =>
    obtain ⟨hle, hmem⟩ := ih
    cases v with
    | nan s =>
      exact ⟨fun s' m' e' hin => hle s' m' e' (by simpa using hin), hmem.imp_right fun ⟨s', hin⟩ => ⟨s', List.mem_cons_of_mem _ hin⟩⟩
    | inf s =>
      exact ⟨fun s' m' e' hin => hle s' m' e' (by simpa using hin), hmem.imp_right fun ⟨s', hin⟩ => ⟨s', List.mem_cons_of_mem _ hin⟩⟩
    | fin s n d =>
      simp only [blockAmax]
      split
      · next h =>
        have hlt := compareF_magnitudes_pos.mp h
        refine ⟨fun s' m' e' hin => ?_, .inr ⟨s, List.mem_cons_self⟩⟩
        obtain heq | hin := List.mem_cons.mp hin
        · obtain ⟨rfl, rfl, rfl⟩ := FVal.fin.inj heq
          exact le_rfl
        · exact (hle s' m' e' hin).trans hlt.le
      · next h =>
        refine ⟨fun s' m' e' hin => ?_, hmem.imp_right fun ⟨s', hin⟩ => ⟨s', List.mem_cons_of_mem _ hin⟩⟩
        obtain heq | hin := List.mem_cons.mp hin
        · obtain ⟨rfl, rfl, rfl⟩ := FVal.fin.inj heq
          exact compareF_magnitudes_nonpos.mp (not_lt.mp h)
        · exact hle s' m' e' hin

/-- The search ends at the first exponent from c up. -/
theorem scaleSearch_eq {fmax : Nat} {c : ℤ} (h : ∀ k : ℤ, (m : ℝ) * (2 : ℝ) ^ e ≤ fmax * (2 : ℝ) ^ k ↔ c ≤ k) (fuel : Nat) (k : ℤ) :
    scaleSearch m e fmax fuel k = max k (min (k + fuel) c) := by
  induction fuel generalizing k with
  | zero => simp [scaleSearch]
  | succ fuel ih =>
    rw [scaleSearch, ih]
    simp only [compareF_magnitudes_nonpos, h]
    push_cast
    split <;> omega

/-- The least exponent whose scale holds a magnitude is the ceiling of a logarithm. -/
theorem le_scale_iff {a fmax : ℝ} (ha : 0 < a) (hf : 0 < fmax) (k : ℤ) : a ≤ fmax * (2 : ℝ) ^ k ↔ ⌈Real.logb 2 (a / fmax)⌉ ≤ k := by
  rw [Int.ceil_le, Real.logb_le_iff_le_rpow one_lt_two (div_pos ha hf), Real.rpow_intCast, div_le_iff₀' hf]

/-- R93: the scale of a block without NaNs and infinities. -/
theorem blockScale_finite {bt : Ty} {amax : ℝ} (hnan : vs.any FVal.isNan = false) (hinf : vs.any FVal.isInf = false)
    (hle : ∀ s m e, FVal.fin s m e ∈ vs → (m : ℝ) * (2 : ℝ) ^ e ≤ amax)
    (hmem : amax = 0 ∨ ∃ s m e, FVal.fin s m e ∈ vs ∧ (m : ℝ) * (2 : ℝ) ^ e = amax) :
    blockScale bt vs =
      if amax = 0 then (0, 0) else ((max (-127) (min 127 ⌈Real.logb 2 (amax / blockMax bt)⌉) + 127).toNat, 0) := by
  obtain ⟨hle', hmem'⟩ := blockAmax_largest vs
  have hflag := blockAmax_inf vs
  rw [hinf] at hflag
  have hamax : amax = (blockAmax vs).1 * (2 : ℝ) ^ (blockAmax vs).2.1 := by
    apply le_antisymm
    · obtain rfl | ⟨s, m, e, hin, rfl⟩ := hmem
      · positivity
      · exact hle' s m e hin
    · obtain hzero | ⟨s, hin⟩ := hmem'
      · rw [hzero, Nat.cast_zero, zero_mul]
        obtain rfl | ⟨s, m, e, hin, rfl⟩ := hmem
        · exact le_rfl
        · positivity
      · exact hle s _ _ hin
  simp only [blockScale, hnan, Bool.false_eq_true, if_false]
  generalize blockAmax vs = largest at hflag hamax
  obtain ⟨m, e, i⟩ := largest
  obtain rfl : i = false := hflag
  dsimp only at hamax
  have hzero : amax = 0 ↔ m = 0 := by rw [hamax, mul_eq_zero_iff_right (zpow_ne_zero e two_ne_zero), Nat.cast_eq_zero]
  by_cases hm : m = 0
  · simp [hm, hzero]
  · have hpos : 0 < amax := lt_of_le_of_ne (by rw [hamax]; positivity) (Ne.symm (mt hzero.mp hm))
    have hmax : (0 : ℝ) < blockMax bt := by cases bt <;> norm_num [blockMax]
    have hsearch := scaleSearch_eq (m := m) (e := e) (fun k => by rw [← hamax]; exact le_scale_iff hpos hmax k) 254 (-127)
    simp only [if_false, hm, beq_iff_eq, hzero, hsearch]
    rfl

end Scales

/-! #### The nearest number of a format (R87) -/

section Nearest

variable {f : Format} {neg : Bool} {ex e : ℤ} {m n : Nat} {a x : ℝ}

/-- No pattern's number is nearer than p's, and one as near leaves p even. -/
def Format.Nearest (f : Format) (a : ℝ) (p : Nat) : Prop :=
  ∀ p', |a - f.real p| ≤ |a - f.real p'| ∧ (|a - f.real p| = |a - f.real p'| → p' ≠ p → p % 2 = 0)

/-- A pattern's number is a multiple of the unit of a binade, or lies below that binade, which then begins at 2^fb units. -/
theorem real_units (f : Format) (ex : ℤ) (p : Nat) :
    (∃ j : ℕ, f.real p = j * (2 : ℝ) ^ f.unit ex) ∨ (f.real p < (2 : ℝ) ^ ex ∧ (2 : ℝ) ^ ex = (2 ^ f.fb : ℕ) * (2 : ℝ) ^ f.unit ex) := by
  obtain h | h := le_or_gt (f.unit ex) (f.least + f.doublings p)
  · refine .inl ⟨f.mantissa p * 2 ^ (f.least + f.doublings p - f.unit ex).toNat, ?_⟩
    rw [Nat.cast_mul, mul_assoc, natPow_mul_zpow h, Format.real]
  · have hunit : f.unit ex = ex - f.fb := by
      refine (max_choice (ex - f.fb) f.least).resolve_right fun hle => ?_
      rw [Format.unit, hle] at h
      omega
    have hex : (2 : ℝ) ^ ex = (2 ^ f.fb : ℕ) * (2 : ℝ) ^ f.unit ex := by
      rw [hunit, Nat.cast_pow, Nat.cast_ofNat, ← zpow_natCast, ← zpow_add₀ two_ne_zero, add_sub_cancel]
    have hm : (f.mantissa p : ℝ) < (2 : ℝ) ^ (f.fb + 1) := by exact_mod_cast mantissa_lt f p
    refine .inr ⟨?_, hex⟩
    calc f.real p < (2 : ℝ) ^ (f.fb + 1) * (2 : ℝ) ^ (f.least + f.doublings p) := mul_lt_mul_of_pos_right hm (zpow_pos two_pos _)
      _ = (2 ^ f.fb : ℕ) * (2 : ℝ) ^ (f.least + f.doublings p + 1) := by
        rw [zpow_add_one₀ two_ne_zero, pow_succ]; push_cast; ring
      _ ≤ (2 ^ f.fb : ℕ) * (2 : ℝ) ^ f.unit ex :=
        mul_le_mul_of_nonneg_left (zpow_le_zpow_right₀ one_le_two (by omega)) (Nat.cast_nonneg _)
      _ = (2 : ℝ) ^ ex := hex.symm

/-- The number of units nearest to a magnitude. -/
theorem nearest_units {q : ℤ} (h : RoundedTo .rne x q (signedM neg n)) (j : Nat) :
    |(|x| - n * (2 : ℝ) ^ q)| ≤ |(|x| - j * (2 : ℝ) ^ q)|
      ∧ (|(|x| - n * (2 : ℝ) ^ q)| = |(|x| - j * (2 : ℝ) ^ q)| → j ≠ n → n % 2 = 0) := by
  have hu : (0 : ℝ) < (2 : ℝ) ^ q := zpow_pos two_pos q
  obtain ⟨hle, htie⟩ := h
  have habs : |(|x| - n * (2 : ℝ) ^ q)| ≤ |x - (signedM neg n : ℤ) * (2 : ℝ) ^ q| := by
    have := abs_abs_sub_abs_le x (((signedM neg n : ℤ) : ℝ) * (2 : ℝ) ^ q)
    rwa [abs_mul, abs_signedM_real, abs_of_pos (a := (2 : ℝ) ^ q) hu] at this
  by_cases hj : j = n
  · exact ⟨by rw [hj], fun _ h => absurd hj h⟩
  · have hfar : (2 : ℝ) ^ q ≤ |(|x| - n * (2 : ℝ) ^ q)| + |(|x| - j * (2 : ℝ) ^ q)| := by
      have hne : (n : ℤ) - j ≠ 0 := by omega
      have hstep : (1 : ℝ) ≤ |(n : ℝ) - j| := by exact_mod_cast Int.one_le_abs hne
      calc (2 : ℝ) ^ q ≤ |(n : ℝ) - j| * (2 : ℝ) ^ q := le_mul_of_one_le_left hu.le hstep
        _ = |(n : ℝ) * (2 : ℝ) ^ q - j * (2 : ℝ) ^ q| := by rw [← sub_mul, abs_mul, abs_of_pos (a := (2 : ℝ) ^ q) hu]
        _ ≤ _ := by
          rw [abs_sub_comm (|x|) (n * (2 : ℝ) ^ q)]
          exact abs_sub_le _ _ _
    refine ⟨by linarith, fun heq _ => ?_⟩
    have heven := htie (le_antisymm hle (by linarith))
    unfold signedM at heven
    split at heven <;> omega

theorem nearest_pack (hfb : 0 < f.fb) (hlow : (2 : ℝ) ^ ex ≤ |x|) (hhigh : |x| < (2 : ℝ) ^ (ex + 1))
    (h : RoundedTo .rne x (f.unit ex) (signedM neg n)) : f.Nearest |x| (f.pack ex n) := by
  have hpack := real_pack_rounded hlow hhigh h
  have hparity : f.pack ex n % 2 = n % 2 := by
    obtain ⟨k, hk⟩ := Nat.exists_eq_succ_of_ne_zero hfb.ne'
    rw [Format.pack, hk, pow_succ, ← mul_assoc, Nat.mul_add_mod']
  intro p'
  rw [hpack, hparity]
  obtain ⟨j, hj⟩ | ⟨hbelow, hex⟩ := real_units f ex p'
  · obtain ⟨hle, htie⟩ := nearest_units h j
    rw [hj]
    refine ⟨hle, fun heq hne => htie heq fun hjn => hne ((real_strictMono f).injective ?_)⟩
    rw [hj, hjn, hpack]
  · have hle := (nearest_units h (2 ^ f.fb)).1
    rw [← hex, abs_of_nonneg (sub_nonneg.mpr hlow)] at hle
    have hlt : |(|x| - n * (2 : ℝ) ^ f.unit ex)| < |(|x| - f.real p')| := by
      rw [abs_of_nonneg (a := |x| - f.real p') (by linarith)]
      linarith
    exact ⟨hlt.le, fun heq => absurd heq hlt.ne⟩

/-- Rounding to nearest finds the nearest pattern, which overflows or not. -/
theorem roundInto_nearest (hfb : 0 < f.fb) (hm : m ≠ 0) (neg : Bool) (e : ℤ) :
    ∃ (p : Nat) (inexact tiny : Bool), f.Nearest (m * (2 : ℝ) ^ e) p ∧ (inexact = true ↔ f.real p ≠ m * (2 : ℝ) ^ e)
      ∧ roundInto f .rne neg m e = if p > f.largest then overflowTo f .rne neg
          else (signBit f neg + p, flagIf inexact Flag.inx ||| flagIf (tiny && inexact) Flag.unf) := by
  obtain ⟨hlow, hhigh⟩ := exact_binade hm e
  rw [← abs_exact neg] at hlow hhigh
  have hround := roundUnits_roundedTo .rne neg m e (f.unit (Nat.log2 m + e))
  have hnearest := nearest_pack hfb hlow hhigh hround
  have hpack := real_pack_rounded hlow hhigh hround
  rw [abs_exact] at hnearest
  exact ⟨_, _, _, hnearest, by rw [hpack]; exact roundUnits_inexact_real .rne neg m e _, roundInto_eq hm f .rne neg e⟩

/-- The same among the patterns up to one. -/
def Format.NearestUpTo (f : Format) (top : Nat) (a : ℝ) (p : Nat) : Prop :=
  ∀ p' ≤ top, |a - f.real p| ≤ |a - f.real p'| ∧ (|a - f.real p| = |a - f.real p'| → p' ≠ p → p % 2 = 0)

theorem nearest_gt {p top : Nat} (h : f.Nearest a p) (hp : top < p) : f.real top < a := by
  by_contra hle
  have hlt := real_strictMono f hp
  have := (h top).1
  rw [abs_of_nonpos (a := a - f.real p) (by linarith), abs_of_nonpos (a := a - f.real top) (by linarith)] at this
  linarith

theorem nearestUpTo_top {top : Nat} (h : f.real top < a) : f.NearestUpTo top a top := by
  intro p' hp'
  have hle := (real_strictMono f).monotone hp'
  rw [abs_of_pos (a := a - f.real top) (by linarith), abs_of_pos (a := a - f.real p') (by linarith)]
  exact ⟨by linarith, fun heq hne => absurd ((real_strictMono f).injective (by linarith)) hne⟩

end Nearest

/-! #### Codes of elements (R92, R94, R136, R137) -/

section Codes

variable {bt : Ty} {ec : Nat} {neg : Bool} {m n : Nat} {e k : ℤ}

/-- The eight magnitudes of E2M1. -/
theorem e2m1_real {p : Nat} (h : p < 8) : (formatOf .e2m1).real p = ([0, 1 / 2, 1, 3 / 2, 2, 3, 4, 6] : List ℝ).getD p 0 := by
  interval_cases p <;> norm_num [Format.real, Format.mantissa, Format.doublings, Format.least, formatOf]

theorem e2m1_real_of_mem {y : ℝ} (h : y ∈ ([0, 1 / 2, 1, 3 / 2, 2, 3, 4, 6] : List ℝ)) : ∃ p < 8, (formatOf .e2m1).real p = y := by
  obtain ⟨p, hp, rfl⟩ := List.mem_iff_getElem.mp h
  exact ⟨p, hp, by rw [e2m1_real hp, List.getD_eq_getElem _ _ hp]⟩

theorem signedM_decide (q : ℤ) : signedM (decide (q < 0)) q.natAbs = q := by
  unfold signedM
  split
  · next h => have := of_decide_eq_true h; omega
  · next h => have := of_decide_eq_false (Bool.eq_false_iff.mpr h); omega

theorem signedOf_eq_toInt (w n : Nat) : signedOf w n = (BitVec.ofNat w n).toInt := by
  simp only [signedOf, BitVec.toInt, BitVec.toNat_ofNat]

theorem wrap_eq (w : Nat) (q : ℤ) : wrap w q = (q % 2 ^ w).toNat := by rw [wrap, Nat.cast_pow, Nat.cast_ofNat]

/-- A quotient by a scale is a value of another exponent. -/
theorem scaled_eq (x : ℝ) (e d : ℤ) : x * (2 : ℝ) ^ e / (2 : ℝ) ^ d = x * (2 : ℝ) ^ (e - d) := by
  rw [mul_div_assoc, zpow_sub₀ two_ne_zero]

/-- R94: an integer code is the rounded quotient, clamped. -/
theorem blockQuant_int (hbt : bt ≠ .e2m1) (hec : ec ≠ 255)
    (h : RoundedTo .rne ((signedM neg m : ℝ) * (2 : ℝ) ^ (e - ((ec : ℤ) - 127))) 0 k) :
    let q := max (-(blockMax bt : ℤ)) (min (blockMax bt) k)
    blockQuant bt ec (.fin neg m e) = (wrap (if bt = .bi8 then 8 else 4) q
      , flagIf (decide ((q : ℝ) ≠ (signedM neg m : ℝ) * (2 : ℝ) ^ (e - ((ec : ℤ) - 127)))) Flag.inx ||| flagIf (decide (q ≠ k)) Flag.sat) := by
  have hw : (bt == .bi8) = decide (bt = .bi8) := by cases bt <;> rfl
  have hne : (bt == .e2m1) = false := beq_eq_false_iff_ne.mpr hbt
  have hec' : (ec == 0xFF) = false := beq_eq_false_iff_ne.mpr hec
  simp only [blockQuant, hne, hec', Bool.false_eq_true, if_false, hw, decide_eq_true_eq]
  generalize (if bt = .bi8 then 8 else 4) = w
  generalize e - ((ec : ℤ) - 127) = d at h ⊢
  obtain rfl := roundedTo_unique h (toIntegral_roundedTo .rne neg m d)
  have hinexact := toIntegral_inexact .rne neg m d
  have hnear := roundedTo_near h
  have hsign : (toIntegral .rne neg m d).1 ≤ 0 ∧ neg = true ∨ 0 ≤ (toIntegral .rne neg m d).1 ∧ neg = false := by
    cases neg with
    | false => exact .inr ⟨Int.natCast_nonneg _, rfl⟩
    | true => exact .inl ⟨neg_nonpos.mpr (Int.natCast_nonneg _), rfl⟩
  generalize toIntegral .rne neg m d = r at hinexact hnear hsign ⊢
  obtain ⟨k, inexact⟩ := r
  generalize (signedM neg m : ℝ) * (2 : ℝ) ^ d = t at hinexact hnear ⊢
  simp only [gt_iff_lt] at hinexact hnear hsign ⊢
  by_cases hbig : blockMax bt < k.natAbs
  · have hclamp : (if neg then -(blockMax bt : ℤ) else blockMax bt) = max (-(blockMax bt : ℤ)) (min (blockMax bt) k) := by
      obtain ⟨hk, rfl⟩ | ⟨hk, rfl⟩ := hsign
      · rw [max_eq_left (by omega)]; rfl
      · rw [max_eq_right (by omega), min_eq_left (by omega)]; rfl
    have hmoved : max (-(blockMax bt : ℤ)) (min (blockMax bt) k) ≠ k := by omega
    have hinx : ((max (-(blockMax bt : ℤ)) (min (blockMax bt) k) : ℤ) : ℝ) ≠ t := by
      intro heq
      rw [← heq, zpow_zero, mul_one] at hnear
      have hlt : |k - max (-(blockMax bt : ℤ)) (min (blockMax bt) k)| < 1 := by exact_mod_cast hnear
      exact hmoved (sub_eq_zero.mp (Int.abs_lt_one_iff.mp hlt)).symm
    rw [if_pos hbig, hclamp, decide_eq_true hmoved, decide_eq_true hinx]
    rfl
  · have hkept : max (-(blockMax bt : ℤ)) (min (blockMax bt) k) = k := by omega
    have hinx : decide ((k : ℝ) ≠ t) = inexact := by rw [Bool.eq_iff_iff, decide_eq_true_iff, hinexact]
    rw [if_neg hbig, hkept, hinx, decide_eq_false (not_not.mpr rfl)]
    cases inexact <;> rfl

/-- R94: an element's magnitude goes to the nearest code without sign. -/
theorem blockQuant_e2m1 (hec : ec ≠ 255) (neg : Bool) (m : Nat) (e : ℤ) : ∃ p ≤ (formatOf .e2m1).largest,
    let a := (m : ℝ) * (2 : ℝ) ^ (e - ((ec : ℤ) - 127))
    (formatOf .e2m1).NearestUpTo (formatOf .e2m1).largest a p
      ∧ blockQuant .e2m1 ec (.fin neg m e) = (signBit (formatOf .e2m1) neg + p
        , flagIf (decide ((formatOf .e2m1).real p ≠ a)) Flag.inx ||| flagIf (decide (6 < a)) Flag.sat) := by
  have hec' : (ec == 0xFF) = false := beq_eq_false_iff_ne.mpr hec
  have hbig : ∀ d : ℤ, decide (compareF (.fin false m d) (.fin false 6 0) > 0) = decide (6 < (m : ℝ) * (2 : ℝ) ^ d) := by
    intro d
    rw [decide_eq_decide, compareF_magnitudes_pos]
    norm_num
  simp only [blockQuant, beq_self_eq_true, hec', Bool.false_eq_true, if_false, if_true, hbig]
  generalize e - ((ec : ℤ) - 127) = d
  obtain rfl | hm := eq_or_ne m 0
  · have hzero : (formatOf .e2m1).real 0 = 0 := by rw [e2m1_real (by decide)]; rfl
    refine ⟨0, Nat.zero_le _, fun p' _ => ⟨?_, fun _ _ => rfl⟩, ?_⟩
    · rw [hzero, Nat.cast_zero, zero_mul, sub_zero, abs_zero]
      exact abs_nonneg _
    · simp [hzero, roundInto_zero, flagIf]
  · obtain ⟨p, inexact, tiny, hnearest, hinexact, hround⟩ := roundInto_nearest (f := formatOf .e2m1) (by decide) hm neg d
    rw [hround]
    by_cases hover : p > (formatOf .e2m1).largest
    · have hgt := nearest_gt hnearest hover
      have hsix : (formatOf .e2m1).real (formatOf .e2m1).largest = 6 := by
        rw [show (formatOf .e2m1).largest = 7 from rfl, e2m1_real (by decide)]; rfl
      refine ⟨_, le_rfl, nearestUpTo_top hgt, ?_⟩
      rw [if_pos hover, decide_eq_true hgt.ne, decide_eq_true (hsix ▸ hgt)]
      cases neg <;> rfl
    · refine ⟨p, not_lt.mp hover, fun p' _ => hnearest p', ?_⟩
      have hflag : decide ((formatOf .e2m1).real p ≠ m * (2 : ℝ) ^ d) = inexact := by rw [Bool.eq_iff_iff, decide_eq_true_iff, hinexact]
      have hinx : ((flagIf inexact Flag.inx ||| flagIf (tiny && inexact) Flag.unf) &&& Flag.inx != 0) = inexact := by
        cases inexact <;> cases tiny <;> rfl
      rw [if_neg hover, hflag]
      simp only [hinx]

end Codes

/-! #### What codes stand for, and their flags -/

section Values

theorem value_e2m1 (n : Nat) : (formatOf .e2m1).value n =
    .fin (n / 8 % 2 == 1) ((formatOf .e2m1).mantissa (n % 8)) ((formatOf .e2m1).least + (formatOf .e2m1).doublings (n % 8)) := by
  have hex : n / 2 % 4 = n % 8 / 2 := by omega
  have hfr : n % 2 = n % 8 % 2 := by omega
  simp only [Format.value, Format.mantissa, Format.doublings, Format.least, formatOf, Nat.reduceAdd, Nat.reducePow, hex, hfr]
  obtain h | ⟨a, h⟩ : n % 8 / 2 = 0 ∨ ∃ a, n % 8 / 2 = a + 1 := by cases n % 8 / 2 <;> simp
  · simp [h]
  · simp [h]
    omega

section Scaled

variable {ec : Nat} (hec : ec ≠ 255) (n : Nat)
include hec

/-- R92: what a code stands for, times the scale. -/
theorem blockValue_e2m1 : blockValue .e2m1 ec n = .fin (n / 8 % 2 == 1) ((formatOf .e2m1).mantissa (n % 8))
    ((formatOf .e2m1).least + (formatOf .e2m1).doublings (n % 8) + ((ec : ℤ) - 127)) := by
  simp only [blockValue, beq_eq_false_iff_ne.mpr hec, Bool.false_eq_true, if_false, value_e2m1]

theorem blockValue_bi8 : blockValue .bi8 ec n =
    .fin (decide ((BitVec.ofNat 8 n).toInt < 0)) (BitVec.ofNat 8 n).toInt.natAbs ((ec : ℤ) - 127) := by
  simp only [blockValue, beq_eq_false_iff_ne.mpr hec, Bool.false_eq_true, if_false, signedOf_eq_toInt]

theorem blockValue_bi4 : blockValue .bi4 ec n =
    .fin (decide ((BitVec.ofNat 4 n).toInt < 0)) (BitVec.ofNat 4 n).toInt.natAbs ((ec : ℤ) - 127) := by
  simp only [blockValue, beq_eq_false_iff_ne.mpr hec, Bool.false_eq_true, if_false, signedOf_eq_toInt]

end Scaled

/-- Flags of an element's code, one by one. -/
theorem flags_of_inx_sat {r : Flags} {p q : Prop} [Decidable p] [Decidable q] (h : r = flagIf (decide p) Flag.inx ||| flagIf (decide q) Flag.sat) :
    r &&& (Flag.sat ||| Flag.inx) = r ∧ (r &&& Flag.sat ≠ 0 ↔ q) ∧ (r &&& Flag.inx ≠ 0 ↔ p) := by
  have hflags : ∀ b c : Bool, let r := flagIf b Flag.inx ||| flagIf c Flag.sat
      r &&& (Flag.sat ||| Flag.inx) = r ∧ (r &&& Flag.sat ≠ 0 ↔ c = true) ∧ (r &&& Flag.inx ≠ 0 ↔ b = true) := by decide
  simpa only [h, decide_eq_true_iff] using hflags (decide p) (decide q)

theorem blockMax_eq {bt : Ty} : blockMax bt = if bt = .bi8 then 127 else if bt = .bi4 then 7 else 6 := by cases bt <;> rfl

theorem blockAmax_of_inf {vs : List FVal} (h : vs.any FVal.isInf = true) : ∃ m e, blockAmax vs = (m, e, true) :=
  ⟨_, _, by rw [← h, ← blockAmax_inf]⟩

theorem blockQuant_noScale (bt : Ty) (v : FVal) : blockQuant bt 255 v = (0, 0) := rfl

theorem blockQuant_nan (bt : Ty) {ec : Nat} (hec : ec ≠ 255) (b : Bool) : blockQuant bt ec (.nan b) = (0, Flag.inv) :=
  if_neg (by simpa using hec)

theorem blockQuant_inf (bt : Ty) {ec : Nat} (hec : ec ≠ 255) (neg : Bool) : blockQuant bt ec (.inf neg) =
    (if bt = .e2m1 then (if neg then 0xF else 0x7)
      else ((if neg then -(blockMax bt : ℤ) else blockMax bt) % 2 ^ (if bt = Ty.bi8 then 8 else 4)).toNat, Flag.sat) := by
  simp only [blockQuant, beq_eq_false_iff_ne.mpr hec, Bool.false_eq_true, if_false, wrap_eq]
  by_cases h : bt = .e2m1
  · subst h
    cases neg <;> rfl
  · simp [h, signedM]

theorem blockQuant_flags (bt : Ty) {ec : Nat} (hec : ec ≠ 255) (neg : Bool) (m : Nat) (e : ℤ) :
    let r := blockQuant bt ec (.fin neg m e)
    r.2 &&& (Flag.sat ||| Flag.inx) = r.2 := by
  by_cases h : bt = .e2m1
  · subst h
    obtain ⟨p, -, -, hr⟩ := blockQuant_e2m1 hec neg m e
    exact (flags_of_inx_sat (congrArg Prod.snd hr)).1
  · exact (flags_of_inx_sat (congrArg Prod.snd (blockQuant_int h hec (toIntegral_roundedTo .rne neg m _)))).1

theorem Ty.low_eq (t : Ty) : Ty.low t = if t.isSigned then -2 ^ (t.width - 1) else 0 := by simp [Ty.low]
theorem Ty.high_eq (t : Ty) : Ty.high t = if t.isSigned then 2 ^ (t.width - 1) - 1 else 2 ^ t.width - 1 := by simp [Ty.high]

theorem flagIf_beq (a b : Nat) (fl : Flags) : flagIf (a == b) fl = if a = b then fl else 0 := by simp [flagIf]

/-- A scalar's result (R80). -/
theorem intOut_scalar {t : Ty} (ht : t.isInt = true) (sat : Bool) (r : ℤ) : (intOut t sat fun _ => r) =
    { push := [extend t (wrap t.width (if sat then (clamp t r).1 else r))], flags := flagIf (sat && (clamp t r).2) Flag.sat } := by
  have hscalar : t.isPacked = false ∧ t.elems = 1 := by
    revert ht
    cases t <;> decide
  simp [intOut, placeElems, hscalar]

end Values

/-! #### Flags raised, then one value in every acting lane -/

theorem pushes_of_pushAll {i : Instr} {s : State} {g : Guard} {body : Issue → State → End} {v : Nat → Word} {fl : Nat → Flags}
    (hx : exec i s = issue i s body)
    (hbody : ∀ s', body (s.issue i) s' = raiseFlags s' (acting s.warp g) fl fun s' => .ok (pushAll s' (acting s.warp g) v)) :
    Pushes s i false g (fun l => [v l]) fl := by
  intro hr hn
  have hraise := raiseFlags_eq s { s with warp := { s.warp with wcount := s.warp.counted.wcount } } (acting s.warp g) fl fl
    (fun s' => .ok (pushAll s' (acting s.warp g) v)) hn rfl rfl fun _ _ => rfl
  obtain ⟨hlanes, hux, hflags, hmoves, hrest, hframe⟩ := retiredWith_spec s (litCount i)
    (mapFrom (fun l y => if (acting s.warp g).getLsbD l then y.push { val := v l } else y) 0 s.warp.lanes) s.warp.ux
    (s.warp.fpflags ||| word (flagsOf (acting s.warp g) fl).toNat)
  refine ⟨_, ?_, lanesBecome_mapFrom _ _ _ _ hlanes, hux, hflags, hmoves, hrest, hframe⟩
  rw [hx, issue_of_ready hr, hbody, Warp.counted_eq, hraise]
  rfl

end Sys2Proof.Machine

open Sys2Proof Sys2Proof.Machine

/-- Settles O12: residues by the remainder theorem, roundings by `RoundedTo`, and each instruction by its lane function. -/
theorem conversions : Obligations.Conversions := by
  unfold Obligations.Conversions
  refine ⟨fun a b c ha hb hc => ?_, fun n hlow hhigh => ?_, fun dt md neg b m e k hdt => ?_, fun dt md neg m e hdt => ?_,
    fun bt vs amax hbt => ?_, fun bt ec neg b m e k hbt hec => ?_, fun bt ec n hbt hec => ?_, fun s g u r st dt a b => ?_⟩
  · obtain ⟨h1, h2, h3⟩ := resDecode_residues ha hb hc
    exact ⟨h1, h2, h3⟩
  · dsimp only
    rw [resRead_resEncode]
    exact ⟨rfl, resDecode_of_residues (by simpa using hlow) (by simpa using hhigh)⟩
  · intro x r low high
    have hlow : Ty.low dt = low := Ty.low_eq dt
    have hhigh : Ty.high dt = high := Ty.high_eq dt
    refine ⟨rfl, ?_, ?_, fun hround => ?_⟩
    · rw [← hlow]; rfl
    · rw [← hhigh]; rfl
    · have hr : r = _ := floatToInt_of_rounded hround
      rw [hlow, hhigh] at hr
      rw [hr]
      refine ⟨fun h => if_pos h, fun h => ?_, fun hge hle => ?_⟩
      · have hrange : low ≤ high := by
          rw [← hlow, ← hhigh]
          cases dt <;> decide
        rw [if_neg (by omega), if_pos h]
      · rw [if_neg (by omega), if_neg (by omega)]
        exact ⟨fun h => by simp [x, h, flagIf], fun h => by simp [x, h, flagIf]⟩
  · intro f sign inv
    refine ⟨fun hm => roundedOnce_roundInto (formatOf_eb_pos dt) hm md neg e, ?_, ?_, fun b => ?_⟩
    · rintro rfl
      rfl
    · change infInto f neg = _
      cases hsp : f.sp <;> simp [infInto, hsp, sign, signBit]
    · change ((nanInto f).1, (nanInto f).2 ||| flagIf b Flag.inv) = _
      cases hsp : f.sp <;> cases b <;> simp [nanInto, flagIf, hsp, inv]
  · intro fmax isMax
    have hfmax : (blockMax bt : ℝ) = fmax := by
      rw [blockMax_eq]
      push_cast
      rfl
    refine ⟨?_, ?_, ?_⟩
    · intro hnan
      simp only [blockScale, hnan, if_true]
    · intro hnan hinf
      obtain ⟨m, e, hamax⟩ := blockAmax_of_inf hinf
      simp [blockScale, hnan, hamax]
    · rintro hnan hinf ⟨hle, hmem⟩
      rw [blockScale_finite hnan hinf hle hmem, hfmax]
      exact ⟨fun h => if_pos h, fun h => if_neg h⟩
  · intro w fmax t r flag
    have ht : t = (signedM neg m : ℝ) * (2 : ℝ) ^ (e - ((ec : ℤ) - 127)) := scaled_eq _ _ _
    have hfmax : (blockMax bt : ℤ) = fmax := by
      rw [blockMax_eq]
      push_cast
      rfl
    refine ⟨fun v => blockQuant_noScale bt v, fun hec => ⟨?_, ?_, ?_, fun hbt' hround => ?_, ?_⟩⟩
    · exact blockQuant_nan bt hec b
    · rw [blockQuant_inf bt hec, hfmax]
    · exact blockQuant_flags bt hec neg m e
    · intro q
      have hr := blockQuant_int hbt' hec (ht ▸ hround)
      rw [hfmax, ← ht] at hr
      obtain ⟨-, hsat, hinx⟩ := flags_of_inx_sat (congrArg Prod.snd hr)
      exact ⟨(congrArg Prod.fst hr).trans (wrap_eq w q), hsat, hinx⟩
    · rintro rfl
      obtain ⟨p, hp, hnearest, hr⟩ := blockQuant_e2m1 hec neg m e
      rw [← abs_exact neg, ← ht] at hnearest hr
      have hcode : r.1 = signBit (formatOf .e2m1) neg + p := congrArg Prod.fst hr
      obtain ⟨-, hsat, hinx⟩ := flags_of_inx_sat (congrArg Prod.snd hr)
      refine ⟨_, _, ?_, (congrArg _ hcode).trans (value_of_le_largest (formatOf .e2m1) neg (by decide) hp), fun y hy => ?_, hsat, hinx⟩
      · rw [hcode]
        exact signed_lt (formatOf .e2m1) neg (hp.trans_lt (largest_lt _))
      · obtain ⟨p', hp', rfl⟩ := e2m1_real_of_mem hy
        obtain ⟨hle, htie⟩ := hnearest p' (Nat.le_of_lt_succ hp')
        refine ⟨hle, fun heq hne => ?_⟩
        have heven := htie heq fun h => hne (by rw [h]; rfl)
        have hsign : signBit (formatOf .e2m1) neg = 8 * neg.toNat := by cases neg <;> rfl
        omega
  · intro q
    refine ⟨rfl, fun hec => ?_⟩
    obtain rfl | rfl | rfl := hbt
    · refine ⟨_, _, _, blockValue_bi8 hec n, ?_, ?_⟩
      · rw [signedM_decide]
      · simp [q]
    · refine ⟨_, _, _, blockValue_bi4 hec n, ?_, ?_⟩
      · rw [signedM_decide]
      · simp [q]
    · refine ⟨_, _, _, blockValue_e2m1 hec n, ?_, ?_⟩
      · have hq : q = (signedM (n / 8 % 2 == 1) ((formatOf .e2m1).mantissa (n % 8)) : ℝ)
            * (2 : ℝ) ^ ((formatOf .e2m1).least + (formatOf .e2m1).doublings (n % 8)) := by
          rw [signedM_real, mul_assoc, ← Format.real, e2m1_real (Nat.mod_lt n (by decide))]
          simp [q]
        rw [hq, mul_assoc, ← zpow_add₀ two_ne_zero]
      · simp
  · intro md
    refine ⟨⟨fun hdt hst => ?_, fun hdt hst => ?_, fun hdt => ?_⟩, ?_, ?_, ?_, ?_, fun hst => ?_⟩
    · exact pushes_of_lanewise (f := cvtLane r st dt a) rfl fun l => by simp only [cvtLane, hdt, hst, if_true]
    · exact pushes_of_lanewise (f := cvtLane r st dt a) rfl fun l => by
        simp only [cvtLane, valueOf, hdt, hst, if_true, Bool.false_eq_true, if_false]
        rfl
    · exact pushes_of_lanewise (f := cvtLane r st dt a) rfl fun l => by
        simp only [cvtLane, hdt, Bool.false_eq_true, if_false]
        rfl
    · exact pushes_of_pushAll (exec_qscale g st dt a s) fun _ => rfl
    · refine pushes_of_lanewise (f := qcvtLane st dt a b) rfl fun l => ?_
      simp only [qcvtLane, flagIf_beq]
      cases dt <;> rfl
    · refine pushes_of_lanewise (f := dqcvtLane st dt a b) rfl fun l => ?_
      simp only [dqcvtLane, floatOut, flagIf_beq]
    · exact pushes_of_lanewise (f := resencLane st a) rfl fun l => rfl
    · refine pushes_of_lanewise (f := resdecLane st a) rfl fun l => ?_
      simp only [resdecLane, intOut_scalar hst, flagIf, if_true, Bool.true_and]

end

section
/-!
### Quick functions (O11)

`roundBetween` rounds a midpoint, which every unit it is rounded to compares alike with as with the number between the two units
(`sameCell_midpoint`), so it rounds that number once (`roundedOnce_roundBetween`); with that the reciprocal and its root are rounded once. At the
arguments where a function's value is dyadic, the fixed-point argument is a whole number of halves (`signedM_fxOf_eq`), and no series is used.
-/

namespace Sys2Proof.Machine

/-! #### A number between two units (R98) -/

section Between

variable {md : Rnd} {x y : ℝ} {n : ℤ}

/-- Two numbers that every integer compares with alike. -/
def SameCell (x y : ℝ) : Prop := ∀ j : ℤ, ((j : ℝ) ≤ x ↔ (j : ℝ) ≤ y) ∧ (x ≤ j ↔ y ≤ j)

theorem sameCell_of_between {a : ℤ} (hx : (a : ℝ) < x ∧ x < a + 1) (hy : (a : ℝ) < y ∧ y < a + 1) : SameCell x y := by
  have hlow : ∀ {z : ℝ}, (a : ℝ) < z ∧ z < a + 1 → ∀ j : ℤ, ((j : ℝ) ≤ z ↔ j ≤ a) ∧ (z ≤ j ↔ a + 1 ≤ j) := by
    rintro z ⟨hz, hz'⟩ j
    rw [← Int.le_floor, ← Int.ceil_le, (Int.floor_eq_iff.mpr ⟨hz.le, hz'⟩ : ⌊z⌋ = a)]
    rw [(Int.ceil_eq_iff.mpr ⟨by push_cast; linarith, by push_cast; linarith⟩ : ⌈z⌉ = a + 1)]
    exact ⟨Iff.rfl, Iff.rfl⟩
  exact fun j => ⟨(hlow hx j).1.trans (hlow hy j).1.symm, (hlow hx j).2.trans (hlow hy j).2.symm⟩

theorem SameCell.neg (h : SameCell x y) : SameCell (-x) (-y) := by
  intro j
  have h' := h (-j)
  push_cast at h'
  exact ⟨le_neg.trans (h'.2.trans le_neg.symm), neg_le.trans (h'.1.trans neg_le.symm)⟩

theorem SameCell.abs (h : SameCell x y) : SameCell |x| |y| := fun j =>
  ⟨by rw [le_abs, le_abs, (h j).1, (h.neg j).1], by rw [abs_le', abs_le', (h j).2, (h.neg j).2]⟩

theorem SameCell.lt (h : SameCell x y) {j : ℤ} (hlt : x < j) : y < j := lt_of_not_ge fun hge => absurd ((h j).1.mpr hge) (not_le.mpr hlt)

section Cells

variable {u : ℤ}

theorem down_of_sameCell (h : SameCell x y) (hd : (n : ℝ) * u ≤ x ∧ x < n * u + u) : (n : ℝ) * u ≤ y ∧ y < n * u + u := by
  have hle := (h (n * u)).1.mp (by push_cast; exact hd.1)
  have hlt := h.lt (j := n * u + u) (by push_cast; exact hd.2)
  push_cast at hle hlt
  exact ⟨hle, hlt⟩

theorem up_of_sameCell (h : SameCell x y) (hd : x ≤ (n : ℝ) * u ∧ (n : ℝ) * u < x + u) : y ≤ (n : ℝ) * u ∧ (n : ℝ) * u < y + u := by
  obtain ⟨hle, hlt⟩ := down_of_sameCell (n := -n) (u := u) h.neg (by push_cast; constructor <;> linarith)
  push_cast at hle hlt
  constructor <;> linarith

theorem nearest_of_sameCell (h : SameCell x y) (hle : |x - n * (2 * u)| ≤ u) :
    |y - n * (2 * u)| ≤ u ∧ (|y - n * (2 * u)| = u → |x - n * (2 * u)| = u) := by
  obtain ⟨hlow, hhigh⟩ := abs_le.mp hle
  have hlow' := (h (n * (2 * u) - u)).1
  have hhigh' := (h (n * (2 * u) + u)).2
  have hlow'' := (h (n * (2 * u) - u)).2
  have hhigh'' := (h (n * (2 * u) + u)).1
  push_cast at hlow' hhigh' hlow'' hhigh''
  refine ⟨abs_le.mpr ⟨?_, ?_⟩, fun heq => ?_⟩
  · linarith [hlow'.mp (by linarith)]
  · linarith [hhigh'.mp (by linarith)]
  · have hu : (0 : ℝ) ≤ u := heq ▸ abs_nonneg _
    obtain hc | hc := (abs_eq hu).mp heq
    · rw [show x - n * (2 * (u : ℝ)) = u by linarith [hhigh''.mpr (by linarith)], abs_of_nonneg hu]
    · rw [show x - n * (2 * (u : ℝ)) = -u by linarith [hlow''.mpr (by linarith)], abs_neg, abs_of_nonneg hu]

end Cells

theorem sign_of_sameCell (h : SameCell x y) (hs : (0 : ℝ) ≤ n * x) : (0 : ℝ) ≤ n * y := by
  have hzero := h 0
  rw [Int.cast_zero] at hzero
  obtain hn | rfl | hn := lt_trichotomy n 0
  · have hn' : (n : ℝ) < 0 := by exact_mod_cast hn
    exact mul_nonneg_of_nonpos_of_nonpos hn'.le (hzero.2.mp (nonpos_of_mul_nonneg_right hs hn'))
  · simp
  · have hn' : (0 : ℝ) < n := by exact_mod_cast hn
    exact mul_nonneg hn'.le (hzero.1.mp (nonneg_of_mul_nonneg_right hs hn'))

/-- Rounding to units of 2 and more only compares a number with integers. -/
theorem roundedTo_of_sameCell {k : Nat} (hcell : SameCell x y) (h : RoundedTo md x (k + 1 : ℕ) n) : RoundedTo md y (k + 1 : ℕ) n := by
  have hu : (2 : ℝ) ^ ((k + 1 : ℕ) : ℤ) = ((2 * 2 ^ k : ℤ) : ℝ) := by rw [zpow_natCast, pow_succ, mul_comm]; push_cast; rfl
  have hnearest : RoundedTo .rne x (k + 1 : ℕ) n → RoundedTo .rne y (k + 1 : ℕ) n := by
    unfold RoundedTo
    rw [hu, Int.cast_mul, Int.cast_ofNat]
    rintro ⟨hle, htie⟩
    obtain ⟨hle', htie'⟩ := nearest_of_sameCell hcell (le_of_mul_le_mul_left hle two_pos)
    exact ⟨mul_le_mul_of_nonneg_left hle' two_pos.le, fun heq => htie (by rw [htie' (mul_left_cancel₀ two_ne_zero heq)])⟩
  cases md with
  | mode => exact hnearest h
  | rne => exact hnearest h
  | rtz =>
    simp only [RoundedTo, hu, add_mul, one_mul, ← Int.cast_abs] at h ⊢
    obtain ⟨hle, hlt, hsign⟩ := h
    obtain ⟨hle', hlt'⟩ := down_of_sameCell hcell.abs ⟨hle, hlt⟩
    exact ⟨hle', hlt', sign_of_sameCell hcell hsign⟩
  | rup =>
    unfold RoundedTo at h ⊢
    rw [hu] at h ⊢
    exact up_of_sameCell hcell h
  | rdn =>
    unfold RoundedTo at h ⊢
    rw [hu] at h ⊢
    exact down_of_sameCell hcell h

end Between

section RoundBetween

variable {f : Format} {md : Rnd} {neg : Bool} {x : ℝ} {m : Nat} {e : ℤ}

theorem log2_two_mul_add_one (hm : m ≠ 0) : Nat.log2 (2 * m + 1) = Nat.log2 m + 1 := by
  rw [Nat.log2_eq_iff (by omega)]
  have hlow := Nat.log2_self_le hm
  have hhigh := Nat.lt_log2_self (n := m)
  rw [pow_succ, pow_succ]
  rw [pow_succ] at hhigh
  omega

/-- The midpoint that `roundBetween` rounds, and the number that it stands for, compare alike with every multiple of 2^e. -/
theorem sameCell_midpoint (hlow : (m : ℝ) < |x|) (hhigh : |x| < m + 1) (hneg : neg = true ↔ x < 0) :
    SameCell ((signedM neg (2 * m + 1) : ℝ) * (2 : ℝ) ^ (-1 : ℤ)) x := by
  have hmid : (signedM neg (2 * m + 1) : ℝ) * (2 : ℝ) ^ (-1 : ℤ) = (if neg then -1 else 1) * ((m : ℝ) + 1 / 2) := by
    rw [signedM_real, zpow_neg_one]
    push_cast
    ring
  rw [hmid]
  cases neg with
  | false =>
    have hx : 0 ≤ x := not_lt.mp fun h => Bool.false_ne_true (hneg.mpr h)
    rw [abs_of_nonneg hx] at hlow hhigh
    exact sameCell_of_between (a := m) (by push_cast; simp; norm_num) ⟨by exact_mod_cast hlow, by exact_mod_cast hhigh⟩
  | true =>
    have hx : x < 0 := hneg.mp rfl
    rw [abs_of_neg hx] at hlow hhigh
    refine sameCell_of_between (a := -(m : ℤ) - 1) ?_ ?_ <;> push_cast <;> constructor <;> norm_num <;> linarith

theorem roundedTo_between {q : ℤ} (hq : e + 1 ≤ q) (hlow : m * (2 : ℝ) ^ e < |x|) (hhigh : |x| < (m + 1) * (2 : ℝ) ^ e)
    (hneg : neg = true ↔ x < 0) :
    RoundedTo md x q (signedM neg (roundUnits md neg (2 * m + 1) (e - 1) q).1) := by
  have hu : (0 : ℝ) < (2 : ℝ) ^ (-e) := zpow_pos two_pos _
  have hone : (2 : ℝ) ^ e * (2 : ℝ) ^ (-e) = 1 := by rw [← zpow_add₀ two_ne_zero, add_neg_cancel, zpow_zero]
  obtain ⟨k, hk⟩ := Int.le.dest hq
  have hunit : q + -e = (k + 1 : ℕ) := by push_cast; omega
  have hmid := roundedTo_scale (roundUnits_roundedTo md neg (2 * m + 1) (e - 1) q) (-e)
  rw [mul_assoc, ← zpow_add₀ two_ne_zero, show e - 1 + -e = -1 by ring, hunit] at hmid
  have hcell : SameCell ((signedM neg (2 * m + 1) : ℝ) * (2 : ℝ) ^ (-1 : ℤ)) (x * (2 : ℝ) ^ (-e)) := by
    refine sameCell_midpoint ?_ ?_ ?_
    · rw [abs_mul, abs_of_pos hu]
      calc (m : ℝ) = m * (2 : ℝ) ^ e * (2 : ℝ) ^ (-e) := by rw [mul_assoc, hone, mul_one]
        _ < _ := mul_lt_mul_of_pos_right hlow hu
    · rw [abs_mul, abs_of_pos hu]
      calc |x| * (2 : ℝ) ^ (-e) < (m + 1) * (2 : ℝ) ^ e * (2 : ℝ) ^ (-e) := mul_lt_mul_of_pos_right hhigh hu
        _ = m + 1 := by rw [mul_assoc, hone, mul_one]
    · rw [hneg, mul_neg_iff]
      exact ⟨fun h => .inr ⟨h, hu⟩, fun h => (h.resolve_left fun h => absurd h.2 hu.not_gt).1⟩
  have hround := roundedTo_scale (roundedTo_of_sameCell hcell hmid) e
  rwa [mul_assoc, mul_comm ((2 : ℝ) ^ (-e)), hone, mul_one, ← hunit, neg_add_cancel_right] at hround

/-- Nothing strictly between two units is a number of larger units. -/
theorem units_ne_between {q : ℤ} {a : ℝ} (hq : e ≤ q) (hlow : m * (2 : ℝ) ^ e < a) (hhigh : a < (m + 1) * (2 : ℝ) ^ e) (n : Nat) :
    (n : ℝ) * (2 : ℝ) ^ q ≠ a := by
  have hu : (0 : ℝ) < (2 : ℝ) ^ e := zpow_pos two_pos e
  rintro rfl
  rw [← natPow_mul_zpow hq, ← mul_assoc, ← Nat.cast_mul] at hlow hhigh
  have h1 : m < n * 2 ^ (q - e).toNat := by exact_mod_cast lt_of_mul_lt_mul_right hlow hu.le
  have h2 : n * 2 ^ (q - e).toNat < m + 1 := by exact_mod_cast lt_of_mul_lt_mul_right hhigh hu.le
  omega

/-- R87: a number strictly between two units, of which it has at least two bits more than the format keeps, rounded once. -/
theorem roundedOnce_roundBetween (hf : 0 < f.eb) (hm : 2 ^ (f.fb + 1) ≤ m) (hlow : m * (2 : ℝ) ^ e < |x|) (hhigh : |x| < (m + 1) * (2 : ℝ) ^ e)
    (hneg : neg = true ↔ x < 0) : RoundedOnce f md x (roundBetween f md neg m e) := by
  have hm0 : m ≠ 0 := (Nat.two_pow_pos _).trans_le hm |>.ne'
  have hu : (0 : ℝ) < (2 : ℝ) ^ e := zpow_pos two_pos e
  have hlog := (Nat.le_log2 hm0).mpr hm
  have hex : (Nat.log2 (2 * m + 1) : ℤ) + (e - 1) = Nat.log2 m + e := by rw [log2_two_mul_add_one hm0]; push_cast; ring
  have hunit : ∀ ex : ℤ, ex - f.fb ≤ f.unit ex := fun ex => le_max_left _ _
  rw [roundBetween, roundInto_eq (Nat.succ_ne_zero _), hex]
  have hq : e + 1 ≤ f.unit (Nat.log2 m + e) := by have := hunit (Nat.log2 m + e); omega
  have hinexact : (roundUnits md neg (2 * m + 1) (e - 1) (f.unit (Nat.log2 m + e))).2 = true := by
    rw [roundUnits_inexact_real]
    have hmid : ((2 * m + 1 : ℕ) : ℝ) * (2 : ℝ) ^ (e - 1) = (m + 1 / 2) * (2 : ℝ) ^ e := by
      rw [zpow_sub_one₀ two_ne_zero]
      push_cast
      ring
    rw [hmid]
    exact units_ne_between (m := m) (by omega) (mul_lt_mul_of_pos_right (by norm_num) hu) (mul_lt_mul_of_pos_right (by norm_num) hu) _
  refine roundedOnce_packRounded hf ?_ ?_ hneg (roundedTo_between hq hlow hhigh hneg) (roundedTo_between (by omega) hlow hhigh hneg) ?_
  · exact (exact_binade hm0 e).1.trans hlow.le
  · refine hhigh.trans_le ?_
    rw [add_right_comm, zpow_add₀ two_ne_zero]
    exact mul_le_mul_of_nonneg_right (by exact_mod_cast Nat.lt_log2_self) hu.le
  · rw [hinexact]
    exact ⟨fun _ => units_ne_between (by omega) hlow hhigh _, fun _ => rfl⟩

end RoundBetween

/-! #### Quotients and roots (R124, R130) -/

section QuotientsAndRoots

variable {f : Format} {md : Rnd} {neg : Bool} {x : ℝ}

/-- An exact value, given by its magnitude and its sign. -/
theorem roundedOnce_of_abs {m : Nat} {e : ℤ} (hf : 0 < f.eb) (hm : m ≠ 0) (habs : |x| = m * (2 : ℝ) ^ e) (hneg : neg = true ↔ x < 0) :
    RoundedOnce f md x (roundInto f md neg m e) := by
  have hx : x = (signedM neg m : ℝ) * (2 : ℝ) ^ e := by
    rw [signedM_real, mul_assoc, ← habs]
    cases neg with
    | false => simp [abs_of_nonneg (not_lt.mp fun h => Bool.false_ne_true (hneg.mpr h))]
    | true => simp [abs_of_neg (hneg.mp rfl)]
  rw [hx]
  exact roundedOnce_roundInto hf hm md neg e

/-- A magnitude given as a real number of units, found exactly or between two whole numbers of them. -/
theorem roundedOnce_units {a : ℝ} {n : Nat} {e : ℤ} (hf : 0 < f.eb) (hn : 2 ^ (f.fb + 1) ≤ n) (habs : |x| = a * (2 : ℝ) ^ e)
    (hneg : neg = true ↔ x < 0) (hle : (n : ℝ) ≤ a) (hlt : a < n + 1) :
    (a = n → RoundedOnce f md x (roundInto f md neg n e)) ∧ (a ≠ n → RoundedOnce f md x (roundBetween f md neg n e)) := by
  have hu : (0 : ℝ) < (2 : ℝ) ^ e := zpow_pos two_pos e
  refine ⟨?_, fun hne => ?_⟩
  · rintro rfl
    exact roundedOnce_of_abs hf ((Nat.two_pow_pos _).trans_le hn).ne' habs hneg
  · refine roundedOnce_roundBetween hf hn ?_ ?_ hneg <;> rw [habs]
    · exact mul_lt_mul_of_pos_right (lt_of_le_of_ne hle hne.symm) hu
    · exact mul_lt_mul_of_pos_right hlt hu

theorem roundedOnce_roundQuotient {p q : Nat} {e : ℤ} (hf : 0 < f.eb) (hp : p ≠ 0) (hq : q ≠ 0) (habs : |x| = (p / q : ℝ) * (2 : ℝ) ^ e)
    (hneg : neg = true ↔ x < 0) : RoundedOnce f md x (roundQuotient f md neg p q e) := by
  have hq' : (0 : ℝ) < q := by exact_mod_cast Nat.pos_of_ne_zero hq
  unfold roundQuotient
  generalize hk : f.fb + 4 + Nat.log2 q + 1 = k
  have hbits : 2 ^ (f.fb + 1) ≤ p * 2 ^ k / q := by
    rw [Nat.le_div_iff_mul_le (Nat.pos_of_ne_zero hq)]
    calc 2 ^ (f.fb + 1) * q ≤ 2 ^ (f.fb + 1) * 2 ^ (Nat.log2 q + 1) := Nat.mul_le_mul_left _ Nat.lt_log2_self.le
      _ = 2 ^ (f.fb + 1 + (Nat.log2 q + 1)) := (pow_add _ _ _).symm
      _ ≤ 1 * 2 ^ k := by rw [one_mul]; exact Nat.pow_le_pow_right two_pos (by omega)
      _ ≤ p * 2 ^ k := Nat.mul_le_mul_right _ (Nat.one_le_iff_ne_zero.mpr hp)
  have habs' : |x| = (p * 2 ^ k : ℕ) / q * (2 : ℝ) ^ (e - k) := by
    rw [habs, zpow_sub₀ two_ne_zero, zpow_natCast]
    push_cast
    field_simp
  have hlt : ((p * 2 ^ k : ℕ) / q : ℝ) < (p * 2 ^ k / q : ℕ) + 1 := by
    rw [← Nat.floor_div_eq_div (K := ℝ)]
    exact Nat.lt_floor_add_one _
  obtain ⟨hexact, hbetween⟩ := roundedOnce_units (md := md) hf hbits habs' hneg Nat.cast_div_le hlt
  have hiff : ((p * 2 ^ k : ℕ) / q : ℝ) = (p * 2 ^ k / q : ℕ) ↔ p * 2 ^ k % q = 0 := by
    rw [div_eq_iff hq'.ne', ← Nat.cast_mul, Nat.cast_inj]
    have := Nat.div_add_mod' (p * 2 ^ k) q
    omega
  dsimp only
  split
  · next h => exact hexact (hiff.mpr h)
  · next h => exact hbetween (mt hiff.mp h)

theorem sqrtBits_bounds {n : Nat} : ∀ {k r : Nat}, r * r ≤ n → n < (r + 2 ^ k) * (r + 2 ^ k) →
    sqrtBits n k r * sqrtBits n k r ≤ n ∧ n < (sqrtBits n k r + 1) * (sqrtBits n k r + 1)
  | 0, _, hle, hlt => ⟨hle, hlt⟩
  | k + 1, r, hle, hlt => by
    rw [sqrtBits]
    split
    · next h => exact sqrtBits_bounds h (by rwa [add_assoc, ← two_mul, ← Nat.pow_succ'])
    · next h => exact sqrtBits_bounds hle (not_le.mp h)

theorem natSqrt_eq (n : Nat) : natSqrt n = Nat.sqrt n := by
  have hlt : n < (0 + 2 ^ (Nat.log2 n / 2 + 1)) * (0 + 2 ^ (Nat.log2 n / 2 + 1)) := by
    rw [zero_add, ← pow_add]
    exact Nat.lt_log2_self.trans_le (Nat.pow_le_pow_right two_pos (by omega))
  obtain ⟨h1, h2⟩ := sqrtBits_bounds (Nat.zero_le n) hlt
  exact Nat.eq_sqrt.mpr ⟨h1, h2⟩

/-- Powers of two in a radicand: an even exponent is halved. -/
theorem sqrt_mul_zpow {m : Nat} {e : ℤ} (he : e % 2 = 0) : Real.sqrt (m * (2 : ℝ) ^ e) = Real.sqrt m * (2 : ℝ) ^ (e / 2) := by
  have hsq : (2 : ℝ) ^ e = ((2 : ℝ) ^ (e / 2)) ^ 2 := by rw [← zpow_natCast, ← zpow_mul]; congr 1; push_cast; omega
  rw [hsq, Real.sqrt_mul (Nat.cast_nonneg m), Real.sqrt_sq (zpow_pos two_pos _).le]

/-- The reciprocal root of a whole number in units of 2^−k lies at, or above, the root of the quotient. -/
theorem sqrt_quotient_bounds {m k : Nat} (hm : m ≠ 0) : let a := (2 : ℝ) ^ k / Real.sqrt m
    let r := Nat.sqrt (2 ^ (2 * k) / m)
    (r : ℝ) ≤ a ∧ a < r + 1 ∧ (a = r ↔ r * r * m = 2 ^ (2 * k)) := by
  intro a r
  have hm' : (0 : ℝ) < m := by exact_mod_cast Nat.pos_of_ne_zero hm
  have hpos : 0 < a := div_pos (pow_pos two_pos k) (Real.sqrt_pos.mpr hm')
  have hsq : a * a = ((2 ^ (2 * k) : ℕ) : ℝ) / m := by
    rw [div_mul_div_comm, Real.mul_self_sqrt hm'.le, ← pow_add, ← two_mul]
    push_cast
    rfl
  have hle : (r : ℝ) ≤ a := by
    refine (mul_self_le_mul_self_iff (Nat.cast_nonneg r) hpos.le).mpr ?_
    calc (r : ℝ) * r ≤ (2 ^ (2 * k) / m : ℕ) := by exact_mod_cast Nat.sqrt_le _
      _ ≤ _ := Nat.cast_div_le
      _ = a * a := hsq.symm
  have hlt : a < r + 1 := by
    refine lt_of_mul_self_lt_mul_self₀ (by positivity) ?_
    calc a * a = ((2 ^ (2 * k) : ℕ) : ℝ) / m := hsq
      _ < (2 ^ (2 * k) / m : ℕ) + 1 := by rw [← Nat.floor_div_eq_div (K := ℝ)]; exact Nat.lt_floor_add_one _
      _ ≤ ((r : ℝ) + 1) * (r + 1) := by exact_mod_cast Nat.lt_succ_sqrt _
  refine ⟨hle, hlt, ?_⟩
  rw [← mul_self_inj hpos.le (Nat.cast_nonneg r), hsq, div_eq_iff hm'.ne', ← Nat.cast_mul, ← Nat.cast_mul, Nat.cast_inj]
  exact eq_comm

end QuotientsAndRoots

/-! #### The reciprocal and the reciprocal root (R130) -/

section Reciprocals

variable {neg : Bool} {m : Nat} {e : ℤ}

theorem q12_eb_pos : 0 < Format.q12.eb := by decide

theorem recip_neg_iff (hm : m ≠ 0) (neg : Bool) (e : ℤ) : neg = true ↔ 1 / ((signedM neg m : ℝ) * (2 : ℝ) ^ e) < 0 := by
  rw [one_div, inv_lt_zero]
  exact exact_neg_iff hm neg e

theorem roundedOnce_frcpQ (hm : m ≠ 0) : RoundedOnce .q12 .rne (1 / ((signedM neg m : ℝ) * (2 : ℝ) ^ e)) (frcpQ (.fin neg m e)) := by
  rw [frcpQ, if_neg hm]
  refine roundedOnce_roundQuotient q12_eb_pos one_ne_zero hm ?_ (recip_neg_iff hm neg e)
  rw [abs_div, abs_exact, abs_one, zpow_neg, Nat.cast_one, div_mul_eq_div_div, div_eq_mul_inv (1 / (m : ℝ))]

/-- The root's fixed-point exponent leaves at least 24 bits of quotient, so at least 12 of the root. -/
theorem two_pow_le_sqrt_quotient (hm : m ≠ 0) : 2 ^ 12 ≤ Nat.sqrt (2 ^ (2 * (20 + Nat.log2 m)) / m) := by
  rw [Nat.le_sqrt, Nat.le_div_iff_mul_le (Nat.pos_of_ne_zero hm)]
  calc 2 ^ 12 * 2 ^ 12 * m ≤ 2 ^ 24 * 2 ^ (Nat.log2 m + 1) := Nat.mul_le_mul_left _ Nat.lt_log2_self.le
    _ = 2 ^ (24 + (Nat.log2 m + 1)) := (pow_add _ _ _).symm
    _ ≤ 2 ^ (2 * (20 + Nat.log2 m)) := Nat.pow_le_pow_right two_pos (by omega)

/-- The reciprocal root of a magnitude with an even exponent. -/
theorem roundedOnce_recipRoot (hm : m ≠ 0) (he : e % 2 = 0) :
    let k := 20 + Nat.log2 m
    let r := natSqrt (2 ^ (2 * k) / m)
    RoundedOnce .q12 .rne (1 / Real.sqrt (m * (2 : ℝ) ^ e))
      (if r * r * m = 2 ^ (2 * k) then roundInto .q12 .rne false r (-(e / 2) - k) else roundBetween .q12 .rne false r (-(e / 2) - k)) := by
  intro k r
  have hr : 2 ^ 12 ≤ Nat.sqrt (2 ^ (2 * k) / m) := two_pow_le_sqrt_quotient hm
  obtain ⟨hle, hlt, hiff⟩ := sqrt_quotient_bounds (k := k) hm
  have habs : |1 / Real.sqrt (m * (2 : ℝ) ^ e)| = (2 : ℝ) ^ k / Real.sqrt m * (2 : ℝ) ^ (-(e / 2) - k) := by
    rw [abs_of_nonneg (by positivity), sqrt_mul_zpow he, zpow_sub₀ two_ne_zero, zpow_neg, zpow_natCast]
    field_simp
  have hneg : false = true ↔ 1 / Real.sqrt (m * (2 : ℝ) ^ e) < 0 :=
    ⟨fun h => absurd h Bool.false_ne_true, fun h => absurd h (not_lt.mpr (by positivity))⟩
  obtain ⟨hexact, hbetween⟩ := roundedOnce_units (md := .rne) q12_eb_pos hr habs hneg hle hlt
  have hnat : r = Nat.sqrt (2 ^ (2 * k) / m) := natSqrt_eq _
  rw [hnat]
  split
  · next h => exact hexact (hiff.mpr h)
  · next h => exact hbetween (mt hiff.mp h)

theorem roundedOnce_frsqQ (hm : m ≠ 0) : RoundedOnce .q12 .rne (1 / Real.sqrt (m * (2 : ℝ) ^ e)) (frsqQ (.fin false m e)) := by
  rw [frsqQ, if_neg hm, if_neg Bool.false_ne_true]
  split
  · next he => exact roundedOnce_recipRoot hm he
  · next he =>
    have hdouble : (m : ℝ) * (2 : ℝ) ^ e = (2 * m : ℕ) * (2 : ℝ) ^ (e - 1) := by
      rw [zpow_sub_one₀ two_ne_zero]
      push_cast
      ring
    rw [hdouble]
    exact roundedOnce_recipRoot (mul_ne_zero two_ne_zero hm) (by omega)

end Reciprocals

/-! #### Fixed point, and the two ends of Q12's range (R98) -/

section FixedPoint

variable {f : Format} {neg : Bool} {m n : Nat} {e : ℤ}

/-- No exponent of a format lies below that of its subnormals. -/
theorem least_le_of_value {p : Nat} (h : f.value p = .fin neg m e) : f.least ≤ e := by
  unfold Format.value at h
  dsimp only at h
  split at h
  · split at h <;> cases h
  · split at h
    · cases h
    · split at h
      · obtain ⟨-, -, rfl⟩ := FVal.fin.inj h
        exact le_rfl
      · next hex =>
        obtain ⟨-, -, rfl⟩ := FVal.fin.inj h
        simp only [beq_iff_eq] at hex
        unfold Format.least
        omega

/-- Within 256 fractional bits the fixed-point value is exact. -/
theorem fxOf_real (he : -256 ≤ e) : (fxOf m e : ℝ) = m * (2 : ℝ) ^ e * (2 : ℝ) ^ (256 : ℤ) := by
  rw [mul_assoc, ← zpow_add₀ two_ne_zero]
  unfold fxOf fx
  obtain ⟨k, hk⟩ := Int.le.dest he
  split
  · next h =>
    obtain ⟨j, rfl⟩ := Int.eq_ofNat_of_zero_le h
    push_cast
    rw [Int.toNat_natCast, add_comm (j : ℤ), ← zpow_natCast]
    push_cast
    rfl
  · next h =>
    have hsplit : 2 ^ 256 = 2 ^ k * 2 ^ (-e).toNat := by rw [← pow_add]; congr 1; omega
    rw [hsplit, ← mul_assoc, Nat.mul_div_cancel _ (Nat.two_pow_pos _), ← hk]
    push_cast
    rw [← zpow_natCast, show -256 + (k : ℤ) + 256 = k by ring]

/-- A magnitude of 2^128 or more is beyond Q12. -/
theorem roundInto_q12_overflow (hm : m ≠ 0) (he : 128 ≤ Nat.log2 m + e) : roundInto .q12 .rne false m e = (0x7F800, Flag.ovf ||| Flag.inx) := by
  rw [roundInto_eq hm]
  have hunit : Format.q12.unit (Nat.log2 m + e) = Nat.log2 m + e - (11 : ℕ) := max_eq_left (by simp [Format.least, Format.q12]; omega)
  have hround := roundUnits_roundedTo .rne false m e (Format.q12.unit (Nat.log2 m + e))
  generalize roundUnits .rne false m e (Format.q12.unit (Nat.log2 m + e)) = r at hround ⊢
  rw [hunit] at hround
  have hbits : 2 ^ 11 ≤ r.1 := le_units hround (by rw [abs_exact]; exact (exact_binade hm e).1)
  have hpat : Format.q12.largest < Format.q12.pack (Nat.log2 m + e) r.1 := by
    rw [Format.pack, hunit]
    simp only [Format.least, Format.q12, Format.largest]
    omega
  rw [packRounded, if_pos hpat]
  rfl

end FixedPoint

/-! #### Powers of two (R131) -/

section PowersOfTwo

variable {neg : Bool} {m n : Nat} {e d k : ℤ}

theorem compareF_magnitudes_neg :
    compareF (.fin false m e) (.fin false n d) < 0 ↔ (m : ℝ) * (2 : ℝ) ^ e < n * (2 : ℝ) ^ d := (compareF_fin_real false false m n e d).1

theorem compareF_magnitudes_nonneg :
    compareF (.fin false m e) (.fin false n d) ≥ 0 ↔ (n : ℝ) * (2 : ℝ) ^ d ≤ m * (2 : ℝ) ^ e := by
  rw [ge_iff_le, ← not_lt, ← not_lt]
  exact not_congr compareF_magnitudes_neg

theorem compareF_200_nonneg : compareF (.fin false m e) (.fin false 200 0) ≥ 0 ↔ 200 ≤ m * (2 : ℝ) ^ e := by
  rw [compareF_magnitudes_nonneg, Nat.cast_ofNat, zpow_zero, mul_one]

theorem roundedOnce_two_pow (k : ℤ) : RoundedOnce .q12 .rne ((2 : ℝ) ^ k) (roundInto .q12 .rne false 1 k) := by
  have hpos : (0 : ℝ) < (2 : ℝ) ^ k := zpow_pos two_pos k
  refine roundedOnce_of_abs q12_eb_pos one_ne_zero ?_ ⟨fun h => absurd h Bool.false_ne_true, fun h => absurd h hpos.not_gt⟩
  rw [abs_of_pos hpos, Nat.cast_one, one_mul]

theorem roundInto_two_pow_overflow (hk : 128 ≤ k) : roundInto .q12 .rne false 1 k = (0x7F800, Flag.ovf ||| Flag.inx) :=
  roundInto_q12_overflow one_ne_zero (hk.trans_eq (zero_add k).symm)

/-- A power of two far below the smallest subnormal leaves nothing. -/
theorem roundInto_q12_vanishes (hk : k ≤ -200) : roundInto .q12 .rne false 1 k = (0, Flag.inx ||| Flag.unf) := by
  rw [roundInto_eq one_ne_zero, show ((Nat.log2 1 : Nat) : ℤ) + k = k from zero_add k]
  have hunit : Format.q12.unit k = -137 := by rw [Format.unit, max_eq_right] <;> simp [Format.least, Format.q12]; omega
  obtain ⟨j, hj⟩ := Int.le.dest (hk.trans (by norm_num : (-200 : ℤ) ≤ -139))
  have hsplit : (-137 : ℤ) = k + (j + 2 : ℕ) := by push_cast; omega
  have hpow : 4 ≤ 2 ^ (j + 2) := by rw [pow_add]; exact Nat.le_mul_of_pos_left 4 (Nat.two_pow_pos j)
  have hround : roundUnits .rne false 1 k (-137) = (0, true) := by
    have hup : roundsUp .rne false 1 (j + 2) = false := by
      unfold roundsUp
      generalize 2 ^ (j + 2) = K at hpow
      rw [Nat.mod_eq_of_lt (by omega), decide_eq_false (by omega), Bool.false_or, Bool.and_eq_false_iff, beq_eq_false_iff_ne]
      exact .inl (by omega)
    rw [hsplit, roundUnits_add, Nat.div_eq_of_lt (by omega), Nat.mod_eq_of_lt (by omega), hup]
    rfl
  have htiny : ∀ n, Format.q12.isTiny k n = true := by
    intro n
    have hbias : (1 : ℤ) - Format.q12.bias = -126 := rfl
    rw [Format.isTiny, hbias, decide_eq_true (by omega), beq_false_of_ne (by omega)]
    rfl
  rw [hunit, hround, packRounded, htiny, Format.pack, hunit]
  rfl

/-- 2 to a fixed-point number, as `fex2Q` finds it. -/
def exp2Fixed (y : ℤ) : Nat × Flags :=
  if (y % 2 ^ 256).toNat = 0 then roundInto .q12 .rne false 1 (y / 2 ^ 256)
  else roundBetween .q12 .rne false (fxExp2 (y % 2 ^ 256).toNat) (y / 2 ^ 256 - 256)

theorem fex2Q_of_large (hlarge : 200 ≤ m * (2 : ℝ) ^ e) :
    fex2Q (.fin neg m e) = if neg then (0, Flag.inx ||| Flag.unf) else (0x7F800, Flag.ovf ||| Flag.inx) := by
  have hm : m ≠ 0 := by
    rintro rfl
    norm_num at hlarge
  rw [fex2Q, if_neg hm, if_pos (compareF_200_nonneg.mpr hlarge)]
  cases neg <;> rfl

theorem fex2Q_of_small (hm : m ≠ 0) (hsmall : m * (2 : ℝ) ^ e < 200) : fex2Q (.fin neg m e) = exp2Fixed (signedM neg (fxOf m e)) := by
  rw [fex2Q, if_neg hm, if_neg (mt compareF_200_nonneg.mp (not_le.mpr hsmall))]
  rfl

theorem two_pow_le_fxExp2 (f : Nat) : 2 ^ 256 ≤ fxExp2 f := Nat.le_add_right _ _

theorem exp2Fixed_int (k : ℤ) : exp2Fixed (k * 2 ^ 256) = roundInto .q12 .rne false 1 k := by
  rw [exp2Fixed, Int.mul_emod_left, if_pos Int.toNat_zero, Int.mul_ediv_cancel _ (by norm_num)]

theorem exp2Fixed_overflow {y : ℤ} (hy : 128 * 2 ^ 256 ≤ y) : exp2Fixed y = (0x7F800, Flag.ovf ||| Flag.inx) := by
  have hn : 128 ≤ y / 2 ^ 256 := (Int.le_ediv_iff_mul_le (by norm_num)).mpr hy
  unfold exp2Fixed
  split
  · exact roundInto_two_pow_overflow hn
  · have hbig := two_pow_le_fxExp2 (y % 2 ^ 256).toNat
    have hlog := (Nat.le_log2 (Nat.two_pow_pos 256 |>.trans_le hbig).ne').mpr hbig
    refine roundInto_q12_overflow (Nat.succ_ne_zero _) ?_
    rw [log2_two_mul_add_one (Nat.two_pow_pos 256 |>.trans_le hbig).ne']
    omega

theorem signedM_fxOf_real (he : -256 ≤ e) : (signedM neg (fxOf m e) : ℝ) = (signedM neg m : ℝ) * (2 : ℝ) ^ e * (2 : ℝ) ^ (256 : ℤ) := by
  rw [signedM_real, fxOf_real he, signedM_real]
  ring

/-- The fixed-point form of a number that is a multiple of 2^−d. -/
theorem signedM_fxOf_eq {d : Nat} (he : -256 ≤ e) (hd : d ≤ 256) (hx : 2 ^ d * ((signedM neg m : ℝ) * (2 : ℝ) ^ e) = k) :
    signedM neg (fxOf m e) = k * 2 ^ (256 - d) := by
  have hpow : (2 : ℝ) ^ (256 : ℤ) = 2 ^ d * 2 ^ (256 - d) := by rw [← pow_add, Nat.add_sub_cancel' hd]; norm_cast
  have hreal : (signedM neg (fxOf m e) : ℝ) = ((k * 2 ^ (256 - d) : ℤ) : ℝ) := by
    rw [signedM_fxOf_real he, hpow]
    push_cast
    rw [← hx]
    ring
  exact_mod_cast hreal

theorem roundedOnce_fex2Q (he : -256 ≤ e) (hx : (signedM neg m : ℝ) * (2 : ℝ) ^ e = k) :
    RoundedOnce .q12 .rne ((2 : ℝ) ^ k) (fex2Q (.fin neg m e)) := by
  obtain rfl | hm := eq_or_ne m 0
  · have hk : k = 0 := by
      rw [signedM_real] at hx
      exact_mod_cast (by simpa using hx.symm : (k : ℝ) = 0)
    subst hk
    exact roundedOnce_two_pow 0
  obtain hlarge | hsmall := le_or_gt 200 (m * (2 : ℝ) ^ e)
  · suffices h : fex2Q (.fin neg m e) = roundInto .q12 .rne false 1 k from h ▸ roundedOnce_two_pow k
    rw [fex2Q_of_large hlarge]
    rw [signedM_real] at hx
    cases neg with
    | true => exact (roundInto_q12_vanishes (by exact_mod_cast (by simp at hx; linarith : (k : ℝ) ≤ -200))).symm
    | false =>
      have hk : 200 ≤ k := by exact_mod_cast (by simp at hx; linarith : (200 : ℝ) ≤ k)
      exact (roundInto_two_pow_overflow (by omega)).symm
  · rw [fex2Q_of_small hm hsmall, signedM_fxOf_eq (d := 0) he (by norm_num) (by rw [pow_zero, one_mul, hx]), exp2Fixed_int]
    exact roundedOnce_two_pow k

theorem fex2Q_overflow (he : -256 ≤ e) (hx : 128 ≤ (signedM neg m : ℝ) * (2 : ℝ) ^ e) :
    fex2Q (.fin neg m e) = (0x7F800, Flag.ovf ||| Flag.inx) := by
  have hm : m ≠ 0 := by
    rintro rfl
    norm_num [signedM_real] at hx
  obtain rfl : neg = false := by
    rw [← Bool.not_eq_true, exact_neg_iff hm neg e]
    linarith
  obtain hlarge | hsmall := le_or_gt 200 (m * (2 : ℝ) ^ e)
  · exact fex2Q_of_large hlarge
  · rw [fex2Q_of_small hm hsmall]
    refine exp2Fixed_overflow ?_
    have hreal : ((128 * 2 ^ 256 : ℤ) : ℝ) ≤ signedM false (fxOf m e) := by
      rw [signedM_fxOf_real he, show ((128 * 2 ^ 256 : ℤ) : ℝ) = 128 * (2 : ℝ) ^ (256 : ℤ) by norm_num]
      exact mul_le_mul_of_nonneg_right hx (zpow_pos two_pos (256 : ℤ)).le
    exact_mod_cast hreal

end PowersOfTwo

/-! #### Logarithms of powers of two (R131) -/

section Logarithms

variable {neg : Bool} {m : Nat} {e k : ℤ}

/-- A power of two has one bit. -/
theorem pow_two_of_real (hm : m ≠ 0) (hx : (m : ℝ) * (2 : ℝ) ^ e = (2 : ℝ) ^ k) : e + Nat.log2 m = k ∧ m = 2 ^ Nat.log2 m := by
  obtain ⟨hlow, hhigh⟩ := exact_binade hm e
  rw [hx] at hlow hhigh
  rw [zpow_le_zpow_iff_right₀ one_lt_two] at hlow
  rw [zpow_lt_zpow_iff_right₀ one_lt_two] at hhigh
  have hk : Nat.log2 m + e = k := by omega
  refine ⟨by omega, ?_⟩
  rw [← hk, zpow_add₀ two_ne_zero, zpow_natCast] at hx
  exact_mod_cast mul_right_cancel₀ (zpow_pos two_pos e).ne' hx

theorem flg2Q_two_pow (hx : (signedM neg m : ℝ) * (2 : ℝ) ^ e = (2 : ℝ) ^ k) :
    flg2Q (.fin neg m e) = roundInto .q12 .rne (k < 0) k.natAbs 0 := by
  have hpos : (0 : ℝ) < (2 : ℝ) ^ k := zpow_pos two_pos k
  have hm : m ≠ 0 := by
    rintro rfl
    rw [signedM_real, Nat.cast_zero, mul_zero, zero_mul] at hx
    exact hpos.ne hx
  obtain rfl : neg = false := by
    rw [← Bool.not_eq_true, exact_neg_iff hm neg e, hx]
    exact hpos.not_gt
  obtain ⟨hk, hbit⟩ := pow_two_of_real hm hx
  rw [flg2Q, if_neg hm, if_neg Bool.false_ne_true]
  simp only
  rw [if_pos hbit, hk]

theorem roundedOnce_int (hk : k ≠ 0) : RoundedOnce .q12 .rne k (roundInto .q12 .rne (k < 0) k.natAbs 0) := by
  refine roundedOnce_of_abs q12_eb_pos (Int.natAbs_ne_zero.mpr hk) ?_ (by rw [decide_eq_true_iff, Int.cast_lt_zero])
  rw [zpow_zero, mul_one, Nat.cast_natAbs, Int.cast_abs]

theorem frsqQ_of_neg (hm : m ≠ 0) : frsqQ (.fin true m e) = (0x7FC00, Flag.inv) := if_neg hm

theorem flg2Q_of_neg (hm : m ≠ 0) : flg2Q (.fin true m e) = (0x7FC00, Flag.inv) := if_neg hm

end Logarithms

/-! #### The sign of an odd function -/

section Signs

variable {m r : Nat} {e : ℤ}

/-- A Q12 result with its sign flipped. -/
def minusQ12 (r : Nat × Flags) : Nat × Flags := ((r.1 + 2 ^ 19) % 2 ^ 20, r.2)

theorem minusQ12_signed {p : Nat} (hp : p < 2 ^ 19) (s : Bool) (fl : Flags) : minusQ12 (signBit .q12 s + p, fl) = (signBit .q12 (!s) + p, fl) := by
  have hsign : signBit .q12 (!s) + p = (signBit .q12 s + p + 2 ^ 19) % 2 ^ 20 := by
    cases s with
    | false => rw [show signBit .q12 (!false) = 2 ^ 19 from rfl, show signBit .q12 false = 0 from rfl]; omega
    | true => rw [show signBit .q12 (!true) = 0 from rfl, show signBit .q12 true = 2 ^ 19 from rfl]; omega
  rw [hsign]
  rfl

theorem zero_flip (s : Bool) : ((signBit .q12 (!s), 0) : Nat × Flags) = minusQ12 (signBit .q12 s, 0) :=
  (minusQ12_signed (Nat.two_pow_pos 19) s 0).symm

theorem roundInto_q12_flip (s : Bool) (m : Nat) (e : ℤ) : roundInto .q12 .rne (!s) m e = minusQ12 (roundInto .q12 .rne s m e) := by
  obtain rfl | hm := eq_or_ne m 0
  · exact zero_flip s
  have hunits : roundUnits .rne (!s) m e = roundUnits .rne s m e := rfl
  rw [roundInto_eq hm, roundInto_eq hm, hunits]
  unfold packRounded
  split
  · cases s <;> rfl
  · next hle => exact (minusQ12_signed ((not_lt.mp hle).trans_lt (largest_lt _)) s _).symm

theorem roundBetween_q12_flip (s : Bool) (m : Nat) (e : ℤ) : roundBetween .q12 .rne (!s) m e = minusQ12 (roundBetween .q12 .rne s m e) :=
  roundInto_q12_flip s _ _

theorem qone_flip (s : Bool) : qone (!s) = minusQ12 (qone s) := roundInto_q12_flip s 1 0

theorem sinPi_flip (flip zero : Bool) : sinPi (!flip) (!zero) r = minusQ12 (sinPi flip zero r) := by
  have hxor : ∀ b : Bool, ((!flip) != b) = !(flip != b) := by cases flip <;> decide
  simp only [sinPi, hxor, zero_flip, qone_flip, roundBetween_q12_flip, apply_ite minusQ12]

theorem fsinQ_flip (s : Bool) (m : Nat) (e : ℤ) : fsinQ (.fin (!s) m e) = minusQ12 (fsinQ (.fin s m e)) := sinPi_flip s s

theorem ftanhQ_flip (s : Bool) (m : Nat) (e : ℤ) : ftanhQ (.fin (!s) m e) = minusQ12 (ftanhQ (.fin s m e)) := by
  simp only [ftanhQ, zero_flip, roundBetween_q12_flip, apply_ite minusQ12]

/-- Beyond 32, the hyperbolic tangent rounds to ±1. -/
theorem ftanhQ_of_large {s : Bool} (hx : 32 < m * (2 : ℝ) ^ e) : ftanhQ (.fin s m e) = (if s then 0xBF800 else 0x3F800, Flag.inx) := by
  have hm : m ≠ 0 := by
    rintro rfl
    norm_num at hx
  have hsmall : ¬ compareF (.fin false m e) (.fin false 1 (-45)) < 0 := by
    rw [compareF_magnitudes_neg, not_lt]
    refine le_trans ?_ hx.le
    norm_num
  rw [ftanhQ, if_neg hm, if_neg hsmall, if_pos (compareF_magnitudes_pos.mpr (by simpa only [Nat.cast_ofNat, zpow_zero, mul_one] using hx))]
  cases s <;> decide +kernel

end Signs

/-! #### Sine and cosine at halves (R132) -/

section Halves

variable {neg : Bool} {m K : Nat} {e k : ℤ}

theorem roundedOnce_qone (s : Bool) : RoundedOnce .q12 .rne (if s then -1 else 1) (qone s) :=
  roundedOnce_of_abs q12_eb_pos one_ne_zero (by cases s <;> norm_num) (by cases s <;> norm_num)

theorem cos_int_pi (j : ℤ) : Real.cos (j * Real.pi) = if decide (j % 2 = 1) then -1 else 1 := by
  rw [Real.cos_int_mul_pi]
  obtain h | h := Int.emod_two_eq_zero_or_one j
  · rw [(Int.even_iff.mpr h).neg_one_zpow, h]
    simp
  · rw [(Int.odd_iff.mpr h).neg_one_zpow, h]
    simp

/-- The four quarters of a turn, in fixed point. -/
theorem sinPi_quarters (flip zero : Bool) :
    ∀ j < 4, sinPi flip zero (j * 2 ^ 255) = if j % 2 = 0 then (signBit .q12 zero, 0) else qone (flip != decide (2 ≤ j)) := by
  cases flip <;> cases zero <;> decide +kernel

theorem sinPi_halves (flip zero : Bool) (K : Nat) :
    sinPi flip zero (K * 2 ^ 255) = if K % 2 = 0 then (signBit .q12 zero, 0) else qone (flip != decide (2 ≤ K % 4)) := by
  have hturn : sinPi flip zero (K * 2 ^ 255) = sinPi flip zero (K % 4 * 2 ^ 255) := by
    have hpow : 2 ^ (fx + 1) = 4 * 2 ^ 255 := by rw [show fx + 1 = 2 + 255 from rfl, pow_add]; rfl
    have hmod : K * 2 ^ 255 % 2 ^ (fx + 1) = K % 4 * 2 ^ 255 := by rw [hpow, Nat.mul_mod_mul_right]
    unfold sinPi
    rw [← hmod, Nat.mod_mod]
  rw [hturn, sinPi_quarters flip zero _ (Nat.mod_lt _ (by norm_num)), Nat.mod_mod_of_dvd K (by norm_num)]

theorem fxOf_halves (he : -256 ≤ e) (hx : 2 * ((signedM neg m : ℝ) * (2 : ℝ) ^ e) = k) : fxOf m e = k.natAbs * 2 ^ 255 := by
  have habs : (signedM neg (fxOf m e)).natAbs = fxOf m e := by cases neg <;> simp [signedM]
  rw [← habs, signedM_fxOf_eq (d := 1) he (by norm_num) (by rwa [pow_one]), Int.natAbs_mul]
  rfl

/-- The sign of a value is the sign of its double. -/
theorem halves_sign (hk : k ≠ 0) (hx : 2 * ((signedM neg m : ℝ) * (2 : ℝ) ^ e) = k) : neg = decide (k < 0) := by
  have hk' : (k : ℝ) ≠ 0 := by exact_mod_cast hk
  have hm : m ≠ 0 := by
    rintro rfl
    rw [signedM_real, Nat.cast_zero, mul_zero, zero_mul, mul_zero] at hx
    exact hk' hx.symm
  rw [Bool.eq_iff_iff, exact_neg_iff hm neg e, decide_eq_true_iff, ← Int.cast_lt_zero (R := ℝ), ← hx]
  constructor <;> intro h <;> linarith

theorem fsinQ_even (he : -256 ≤ e) (hx : 2 * ((signedM neg m : ℝ) * (2 : ℝ) ^ e) = k) (hk : k % 2 = 0) :
    fsinQ (.fin neg m e) = (if neg then 2 ^ 19 else 0, 0) := by
  rw [fsinQ, fxOf_halves he hx, sinPi_halves, if_pos (by omega)]
  rfl

theorem fcosQ_eq (he : -256 ≤ e) (hx : 2 * ((signedM neg m : ℝ) * (2 : ℝ) ^ e) = k) :
    fcosQ (.fin neg m e) = sinPi false false ((k.natAbs + 1) * 2 ^ 255) := by
  rw [fcosQ, fxOf_halves he hx, add_one_mul]
  rfl

theorem fcosQ_odd (he : -256 ≤ e) (hx : 2 * ((signedM neg m : ℝ) * (2 : ℝ) ^ e) = k) (hk : k % 2 = 1) : fcosQ (.fin neg m e) = (0, 0) := by
  rw [fcosQ_eq he hx, sinPi_halves, if_pos (by omega)]
  rfl

theorem roundedOnce_fcosQ (he : -256 ≤ e) (hx : 2 * ((signedM neg m : ℝ) * (2 : ℝ) ^ e) = k) (hk : k % 2 = 0) :
    RoundedOnce .q12 .rne (Real.cos (Real.pi * ((signedM neg m : ℝ) * (2 : ℝ) ^ e))) (fcosQ (.fin neg m e)) := by
  obtain ⟨j, rfl⟩ := Int.dvd_of_emod_eq_zero hk
  have hangle : Real.pi * ((signedM neg m : ℝ) * (2 : ℝ) ^ e) = j * Real.pi := by
    push_cast at hx
    rw [mul_left_cancel₀ two_ne_zero hx, mul_comm]
  have hsign : (false != decide (2 ≤ ((2 * j).natAbs + 1) % 4)) = decide (j % 2 = 1) := by
    rw [Bool.false_bne, decide_eq_decide]
    omega
  rw [fcosQ_eq he hx, sinPi_halves, if_neg (by omega), hsign, hangle, cos_int_pi]
  exact roundedOnce_qone _

theorem roundedOnce_fsinQ (he : -256 ≤ e) (hx : 2 * ((signedM neg m : ℝ) * (2 : ℝ) ^ e) = k) (hk : k % 2 = 1) :
    RoundedOnce .q12 .rne (Real.sin (Real.pi * ((signedM neg m : ℝ) * (2 : ℝ) ^ e))) (fsinQ (.fin neg m e)) := by
  obtain ⟨j, rfl⟩ : ∃ j, k = 2 * j + 1 := ⟨k / 2, by omega⟩
  have hangle : Real.pi * ((signedM neg m : ℝ) * (2 : ℝ) ^ e) = j * Real.pi + Real.pi / 2 := by
    push_cast at hx
    linear_combination (Real.pi / 2) * hx
  have hsign : (neg != decide (2 ≤ (2 * j + 1).natAbs % 4)) = decide (j % 2 = 1) := by
    rw [halves_sign (by omega) hx]
    obtain hj | hj := lt_or_ge (2 * j + 1) 0
    · rw [decide_eq_true hj, Bool.true_bne, ← decide_not, decide_eq_decide]
      omega
    · rw [decide_eq_false (not_lt.mpr hj), Bool.false_bne, decide_eq_decide]
      omega
  rw [fsinQ, fxOf_halves he hx, sinPi_halves, if_neg (by omega), hsign, hangle, Real.sin_add_pi_div_two, cos_int_pi]
  exact roundedOnce_qone _

end Halves

/-! #### Zeros, infinities and NaNs (R131), and the worked examples (R132) -/

section Special

theorem quick_zero (neg : Bool) (e : ℤ) :
    frcpQ (.fin neg 0 e) = (if neg then 0xFF800 else 0x7F800, Flag.dze) ∧ frsqQ (.fin neg 0 e) = (if neg then 0xFF800 else 0x7F800, Flag.dze)
    ∧ fex2Q (.fin neg 0 e) = (0x3F800, 0) ∧ flg2Q (.fin neg 0 e) = (0xFF800, Flag.dze) ∧ fsinQ (.fin neg 0 e) = (if neg then 0x80000 else 0, 0)
    ∧ fcosQ (.fin neg 0 e) = (0x3F800, 0) ∧ ftanhQ (.fin neg 0 e) = (if neg then 0x80000 else 0, 0) := by
  have hfx : fxOf 0 e = 0 := by simp [fxOf]
  refine ⟨?_, ?_, ?_, rfl, ?_, ?_, ?_⟩
  · cases neg <;> rfl
  · cases neg <;> rfl
  · exact (by decide +kernel : qone false = (0x3F800, 0))
  · rw [fsinQ, hfx]
    cases neg <;> decide +kernel
  · rw [fcosQ, hfx]
    decide +kernel
  · cases neg <;> rfl

theorem quick_nan {q : FVal → Nat × Flags} (h : q ∈ [frcpQ, frsqQ, fex2Q, flg2Q, fsinQ, fcosQ, ftanhQ]) (b : Bool) :
    q (.nan b) = (0x7FC00, if b then Flag.inv else 0) := by
  simp only [List.mem_cons, List.not_mem_nil, or_false] at h
  obtain rfl | rfl | rfl | rfl | rfl | rfl | rfl := h <;> rfl

theorem quick_inf (b : Bool) :
    frcpQ (.inf b) = (if b then 0x80000 else 0, 0) ∧ frsqQ (.inf b) = (if b then (0x7FC00, Flag.inv) else (0, 0))
    ∧ fex2Q (.inf b) = (if b then 0 else 0x7F800, 0) ∧ flg2Q (.inf b) = (if b then (0x7FC00, Flag.inv) else (0x7F800, 0))
    ∧ fsinQ (.inf b) = (0x7FC00, Flag.inv) ∧ fcosQ (.inf b) = (0x7FC00, Flag.inv) ∧ ftanhQ (.inf b) = (if b then 0xBF800 else 0x3F800, 0) := by
  cases b <;> decide +kernel

end Special

end Sys2Proof.Machine

open Sys2Proof Sys2Proof.Machine

/-- Settles O11: quotients and roots are found exactly or between two units, and the exact arguments by each function's own case. -/
theorem quickFunctions : Obligations.QuickFunctions := by
  unfold Obligations.QuickFunctions
  refine ⟨?instructions, ?finite, fun q hq b => quick_nan hq b, quick_inf, by decide +kernel⟩
  case instructions =>
    intro s g u a A out
    refine ⟨?_, ?_, ?_, ?_, ?_, ?_, ?_⟩
    · exact pushes_of_lanewise (f := quickLane frcpQ a) rfl fun _ => rfl
    · exact pushes_of_lanewise (f := quickLane frsqQ a) rfl fun _ => rfl
    · exact pushes_of_lanewise (f := quickLane fex2Q a) rfl fun _ => rfl
    · exact pushes_of_lanewise (f := quickLane flg2Q a) rfl fun _ => rfl
    · exact pushes_of_lanewise (f := quickLane fsinQ a) rfl fun _ => rfl
    · exact pushes_of_lanewise (f := quickLane fcosQ a) rfl fun _ => rfl
    · exact pushes_of_lanewise (f := quickLane ftanhQ a) rfl fun _ => rfl
  case finite =>
    intro n neg m e hn A x once minus
    have he : -256 ≤ e := le_trans (by decide) (least_le_of_value hn)
    have hm : x ≠ 0 → m ≠ 0 := by
      rintro hx rfl
      exact hx (by simp [x, signedM_real])
    have hneg : x < 0 → m ≠ 0 ∧ neg = true := fun hx => ⟨hm hx.ne, (exact_neg_iff (hm hx.ne) neg e).mpr hx⟩
    refine ⟨fun hx => roundedOnce_frcpQ (hm hx), fun hx => ?_, fun hx => ?_, fun k hx => roundedOnce_fex2Q he hx, fex2Q_overflow he,
      fun k hx => ⟨?_, fun hk => ?_⟩, fun hx => ?_,
      fun k hx => ⟨fsinQ_even he hx, roundedOnce_fsinQ he hx, roundedOnce_fcosQ he hx, fcosQ_odd he hx⟩,
      fun hx => ftanhQ_of_large (by rwa [abs_exact] at hx), fsinQ_flip neg m e, ftanhQ_flip neg m e, rfl, ?_⟩
    · obtain rfl : neg = false := by rw [← Bool.not_eq_true, exact_neg_iff (hm hx.ne') neg e]; exact hx.not_gt
      exact roundedOnce_frsqQ (hm hx.ne')
    · obtain ⟨hm0, rfl⟩ := hneg hx
      exact frsqQ_of_neg hm0
    · rintro rfl
      exact flg2Q_two_pow hx
    · rw [flg2Q_two_pow hx]
      exact roundedOnce_int hk
    · obtain ⟨hm0, rfl⟩ := hneg hx
      exact flg2Q_of_neg hm0
    · rintro rfl
      exact quick_zero neg e

end

section
/-!
### The weft group (O1)
-/

open Sys2Proof Sys2Proof.Machine

/-- Settles O1: each instruction is `lanewise`, and its lane function, by definition, is what the clause names. -/
theorem weftGroup : Obligations.WeftGroup := by
  unfold Obligations.WeftGroup
  intro s g u sat a b t idx slot
  exact ⟨pushes_of_lanewise (f := pickLane a) rfl fun _ => rfl,
    changesLanes_of_lanewise (f := saveLane a slot) rfl (fun _ => rfl) fun _ _ => rfl,
    pushes_of_lanewise (f := packLane sat idx t a b) rfl fun _ => rfl,
    pushes_of_lanewise (f := unpackLane idx t a) rfl fun _ => rfl⟩

end

section
/-!
### Integer forms (O3)
-/

namespace Sys2Proof.Machine

/-- A number that is wrapped to two words: its high word, then its low one. -/
theorem word_wrap_two (x : ℤ) : let r := x % ((2 ^ 128 : Nat) : ℤ)
    word (wrap 128 x / 2 ^ 64) = wordI (r / ((2 ^ 64 : Nat) : ℤ)) ∧ word (wrap 128 x) = wordI r := by
  intro r
  have hr : r = (wrap 128 x : ℤ) := (Int.toNat_of_nonneg (Int.emod_nonneg x (by decide))).symm
  rw [hr, ← Int.natCast_ediv]
  exact ⟨(BitVec.ofInt_natCast 64 _).symm, (BitVec.ofInt_natCast 64 _).symm⟩

/-- Element k of a dot product's operand, by the type's signedness. -/
def dotElem (signed : Bool) (w : Nat) (v : Word) (k : Nat) : ℤ := if signed then signedOf w (elemOf w k v.toNat) else (elemOf w k v.toNat : ℤ)

/-- A dot product added to a number is the number with each product added in turn. -/
theorem add_dot (r : ℤ) (signed : Bool) (w n : Nat) (a b : Word) :
    r + dot signed w n a b = (List.range n).foldl (fun acc k => acc + dotElem signed w a k * dotElem signed w b k) r := by
  have hstart : (List.range n).foldl (fun acc k => acc + dotElem signed w a k * dotElem signed w b k) (r + 0) = r + dot signed w n a b :=
    List.foldl_hom (r + ·) fun _ _ => add_assoc r _ _
  rw [← hstart, add_zero]

theorem isInt_of_word {t : Ty} (h : t = .s32 ∨ t = .z32) : t.isInt = true := by rcases h with rfl | rfl <;> rfl

end Sys2Proof.Machine

open Sys2Proof Sys2Proof.Machine

/-- Settles O3: each instruction by its lane function, IMADW's words by `word_wrap_two`, the dot products with their sums written out. -/
theorem integerForms : Obligations.IntegerForms := by
  unfold Obligations.IntegerForms
  intro s g u sat t st a b c
  refine ⟨pushes_of_lanewise (f := iabsdLane t a b) rfl fun _ => rfl,
    pushes_of_lanewise (f := leaLane t a b c) rfl fun _ => rfl,
    fun ht => pushes_of_lanewise (f := isatLane st t a) rfl fun l => ?_,
    pushes_of_lanewise (f := imadwLane t a b c) rfl fun l => ?_,
    fun ht => pushes_of_lanewise (f := idotLane 8 4 sat t a b c) rfl fun l => ?_,
    fun ht => pushes_of_lanewise (f := idotLane 16 2 sat t a b c) rfl fun l => ?_⟩
  · exact intOut_scalar ht true _
  · obtain ⟨hhigh, hlow⟩ := word_wrap_two (intOf t (valA (s.issue (.imadw g u t a b c)) .arith t a l).toNat
      * intOf t (valB (s.issue (.imadw g u t a b c)) .arith t b l).toNat + (wideC (s.issue (.imadw g u t a b c)) c l : Nat))
    rw [imadwLane, hhigh, hlow]
    rfl
  · rw [idotLane, intOut_scalar (isInt_of_word ht), add_dot]
    rfl
  · rw [idotLane, intOut_scalar (isInt_of_word ht), add_dot]
    rfl

end

section
/-!
### Carry chains (O4)
-/

open Sys2Proof Sys2Proof.Machine

/-- Settles O4: each instruction by its lane function, which `Lane.apply` pushes before it writes the predicate. -/
theorem carryChains : Obligations.CarryChains := by
  unfold Obligations.CarryChains
  intro s g t c a b
  exact ⟨changesLanes_of_lanewise (f := iadcLane t c a b) rfl (fun _ => rfl) fun _ _ => rfl,
    changesLanes_of_lanewise (f := isbbLane t c a b) rfl (fun _ => rfl) fun _ _ => rfl⟩

end

section
/-!
### Logic (O5)
-/

namespace Sys2Proof.Machine

/-! #### LOP3's table (R109) -/

/-- A union is formed bit by bit. -/
theorem getLsbD_foldl_or (p : Nat → Bool) (f : Nat → Word) (k : Nat) (ns : List Nat) (r : Word) :
    (ns.foldl (fun r n => if p n then r ||| f n else r) r).getLsbD k = (r.getLsbD k || ns.any fun n => p n && (f n).getLsbD k) := by
  induction ns generalizing r with
  | nil => simp
  | cons n ns ih =>
    rw [List.foldl_cons, ih, List.any_cons, ← Bool.or_assoc]
    cases p n <;> simp

/-- A word or its complement, by one bit of a number: at a place, whether the word has that bit there. -/
theorem getLsbD_ite_not (b : Bool) (x : Word) {k : Nat} (hk : k < 64) : (if b then x else ~~~x).getLsbD k = (x.getLsbD k == b) := by
  cases b <;> simp [hk]

theorem tablePlace_lt : ∀ x y z : Bool, 4 * b2w x + 2 * b2w y + b2w z < 8 := by decide

/-- Three bits spell one place of the table. -/
theorem spells_iff : ∀ x y z : Bool, ∀ n < 8,
    ((x == n.testBit 2 && y == n.testBit 1 && z == n.testBit 0) = true ↔ n = 4 * b2w x + 2 * b2w y + b2w z) := by
  decide

theorem getLsbD_lop3 (tab : BitVec 8) (a b c : Word) {k : Nat} (hk : k < 64) :
    (lop3 tab a b c).getLsbD k = tab.getLsbD (4 * b2w (a.getLsbD k) + 2 * b2w (b.getLsbD k) + b2w (c.getLsbD k)) := by
  rw [lop3, getLsbD_foldl_or]
  simp only [BitVec.getLsbD_and, getLsbD_ite_not _ _ hk]
  have hspells := spells_iff (a.getLsbD k) (b.getLsbD k) (c.getLsbD k)
  have hplace := tablePlace_lt (a.getLsbD k) (b.getLsbD k) (c.getLsbD k)
  generalize 4 * b2w (a.getLsbD k) + 2 * b2w (b.getLsbD k) + b2w (c.getLsbD k) = place at hspells hplace ⊢
  rw [show (0 : Word).getLsbD k = false from BitVec.getLsbD_zero, Bool.false_or, Bool.eq_iff_iff, List.any_eq_true]
  constructor
  · rintro ⟨n, hn, htab⟩
    obtain ⟨htab, hn'⟩ := Bool.and_eq_true_iff.mp htab
    rwa [← (hspells n (List.mem_range.mp hn)).mp hn']
  · exact fun htab => ⟨place, List.mem_range.mpr hplace, Bool.and_eq_true_iff.mpr ⟨htab, (hspells place hplace).mpr rfl⟩⟩

/-! #### Packed elements and PERMB's bytes (R81, R113) -/

theorem packElems_lt (w : Nat) (f : Nat → Nat) (n : Nat) : packElems w f n < 2 ^ (w * n) := by
  induction n with
  | zero => simp [packElems]
  | succ n ih =>
    calc packElems w f n + f n % 2 ^ w * 2 ^ (w * n)
      _ < (f n % 2 ^ w + 1) * 2 ^ (w * n) := by rw [add_mul, one_mul, Nat.add_comm]; exact Nat.add_lt_add_left ih _
      _ ≤ 2 ^ w * 2 ^ (w * n) := Nat.mul_le_mul_right _ (Nat.mod_lt _ (Nat.two_pow_pos w))
      _ = 2 ^ (w * (n + 1)) := by rw [← pow_add, Nat.mul_succ, Nat.add_comm]

theorem testBit_packElems {w n i k : Nat} (f : Nat → Nat) (hi : i < n) (hk : k < w) :
    (packElems w f n).testBit (w * i + k) = (f i).testBit k := by
  induction n with
  | zero => omega
  | succ n ih =>
    rw [packElems, Nat.add_comm, Nat.mul_comm, Nat.testBit_two_pow_mul_add _ (packElems_lt w f n)]
    obtain hlt | rfl := Nat.lt_succ_iff_lt_or_eq.mp hi
    · have hin : w * i + k < w * n := by nlinarith
      rw [if_pos hin, ih hlt]
    · rw [if_neg (by omega), Nat.add_sub_cancel_left, Nat.testBit_mod_two_pow]
      simp [hk]

theorem testBit_elemOf {w k : Nat} (i n : Nat) (hk : k < w) : (elemOf w i n).testBit k = n.testBit (w * i + k) := by
  rw [elemOf, Nat.testBit_mod_two_pow, Nat.testBit_div_two_pow, Nat.add_comm]
  simp [hk]

theorem getLsbD_permuteBytes (a b c : Word) {i k : Nat} (hi : i < 8) (hk : k < 8) :
    (permuteBytes a b c).getLsbD (8 * i + k) = let n := c.toNat / 2 ^ (4 * i) % 16
      if n < 8 then a.getLsbD (8 * n + k) else b.getLsbD (8 * (n - 8) + k) := by
  rw [show c.toNat / 2 ^ (4 * i) % 16 = elemOf 4 i c.toNat from rfl, permuteBytes, word, BitVec.getLsbD_ofNat, testBit_packElems _ hi hk,
    testBit_elemOf _ _ hk, Nat.add_comm a.toNat, Nat.mul_comm b.toNat, Nat.testBit_two_pow_mul_add _ a.isLt,
    decide_eq_true (by omega : 8 * i + k < 64), Bool.true_and]
  generalize elemOf 4 i c.toNat = n
  dsimp only
  by_cases h : n < 8
  · rw [if_pos h, if_pos (by omega)]
    rfl
  · rw [if_neg h, if_neg (by omega), show 8 * n + k - 64 = 8 * (n - 8) + k by omega]
    rfl

end Sys2Proof.Machine

open Sys2Proof Sys2Proof.Machine

/-- Settles O5: each instruction by its lane function, the two combinations bit by bit. -/
theorem logicGroup : Obligations.LogicGroup := by
  unfold Obligations.LogicGroup
  refine ⟨fun s g u t tab a b c => ⟨?_, ?_, ?_, ?_, ?_⟩, fun tab a b c k hk => getLsbD_lop3 tab a b c hk,
    fun a b c i k hi hk => getLsbD_permuteBytes a b c hi hk⟩
  · exact pushes_of_lanewise (f := logic2Lane (· &&& ·) t a b) rfl fun _ => rfl
  · exact pushes_of_lanewise (f := logic2Lane (· ||| ·) t a b) rfl fun _ => rfl
  · exact pushes_of_lanewise (f := logic2Lane (· ^^^ ·) t a b) rfl fun _ => rfl
  · exact pushes_of_lanewise (f := lop3Lane t tab a b c) rfl fun _ => rfl
  · exact pushes_of_lanewise (f := permbLane t a b c) rfl fun _ => rfl

end

section
/-!
### Bit counts and fields (O7)
-/

namespace Sys2Proof.Machine

/-! #### Leading zeros (R111) -/

theorem leadingZeros_eq {w n : Nat} (hn : n < 2 ^ w) :
    leadingZeros w n = ((List.range w).find? fun k => n.testBit (w - 1 - k)).getD w := by
  unfold leadingZeros
  split
  · next h => rw [h, List.find?_eq_none.mpr (by simp), Option.getD_none]
  · next h =>
    have hlog : Nat.log2 n < w := (Nat.log2_lt h).mpr hn
    have hfirst : ((List.range w).find? fun k => n.testBit (w - 1 - k)) = some (w - 1 - Nat.log2 n) := by
      refine List.find?_range_eq_some.mpr ⟨?_, List.mem_range.mpr (by omega), fun j hj => ?_⟩
      · rw [Nat.sub_sub_self (by omega)]
        exact Nat.testBit_log2 h
      · rw [Nat.testBit_lt_two_pow (Nat.lt_log2_self.trans_le (Nat.pow_le_pow_right two_pos (by omega)))]
        rfl
    rw [hfirst, Option.getD_some]

/-! #### The bits of an integer, in two's complement without end (R112) -/

/-- Bit j of an integer. -/
def intBit (x : ℤ) (j : Nat) : Bool := decide (x / 2 ^ j % 2 = 1)

theorem intBit_natCast (n j : Nat) : intBit n j = n.testBit j := by
  rw [intBit, Nat.testBit_eq_decide_div_mod_eq]
  norm_cast

/-- A wrapped integer has the integer's own low bits. -/
theorem testBit_wrap (w : Nat) (x : ℤ) (k : Nat) : (wrap w x).testBit k = (decide (k < w) && intBit x k) := by
  have hwrap : (wrap w x : ℤ) = x % 2 ^ w := by rw [wrap_eq, Int.toNat_of_nonneg (Int.emod_nonneg x (by positivity))]
  by_cases hk : k < w
  · have hpow : (2 : ℤ) ^ w = 2 ^ k * (2 * 2 ^ (w - k - 1)) := by rw [← pow_succ', ← pow_add]; congr 1; omega
    have hsum : x = x % 2 ^ w + 2 ^ k * (2 * 2 ^ (w - k - 1) * (x / 2 ^ w)) := by rw [← mul_assoc, ← hpow, Int.emod_add_mul_ediv]
    rw [← intBit_natCast, hwrap, decide_eq_true hk, Bool.true_and, intBit, intBit]
    conv_rhs => rw [hsum, Int.add_mul_ediv_left _ _ (by positivity), mul_assoc, Int.add_mul_emod_self_left]
  · have hlt : wrap w x < 2 ^ w := by
      zify
      rw [hwrap]
      exact Int.emod_lt_of_pos x (by positivity)
    rw [Nat.testBit_lt_two_pow (hlt.trans_le (Nat.pow_le_pow_right two_pos (not_lt.mp hk))), decide_eq_false hk, Bool.false_and]

theorem intBit_div_two_pow (x : ℤ) (p j : Nat) : intBit (x / ((2 ^ p : Nat) : ℤ)) j = intBit x (p + j) := by
  rw [intBit, intBit, Int.ediv_ediv_of_nonneg (by positivity), Nat.cast_pow, Nat.cast_ofNat, ← pow_add]

/-- A signed value has its pattern's bits, and above them its sign. -/
theorem intBit_signedOf {w : Nat} (hw : 0 < w) (n j : Nat) : intBit (signedOf w n) j = if j < w then n.testBit j else n.testBit (w - 1) := by
  have hbit : intBit (signedOf w n) j = ((BitVec.ofNat w n).signExtend (j + 1)).getLsbD j := by
    rw [signedOf_eq_toInt, BitVec.signExtend, BitVec.getLsbD, BitVec.toNat_ofInt, ← wrap, testBit_wrap]
    simp
  rw [hbit, BitVec.getLsbD_signExtend, BitVec.msb_eq_getLsbD_last, BitVec.getLsbD_ofNat, BitVec.getLsbD_ofNat]
  split <;> simp [*]

/-- The value of a scalar pattern is the pattern extended without end by its signedness. -/
theorem intBit_intOf (t : Ty) (v j : Nat) :
    intBit (intOf t v) j = if j < t.width then v.testBit j else t.isSigned && v.testBit (t.width - 1) := by
  unfold intOf
  cases t.isSigned with
  | true => rw [if_pos rfl, intBit_signedOf (Ty.width_pos t), Bool.true_and]
  | false =>
    rw [if_neg Bool.false_ne_true, intBit_natCast, Nat.testBit_mod_two_pow]
    split <;> simp [*]

/-! #### Fields (R112) -/

theorem testBit_fieldOf (t : Ty) (v fd : Nat) {k : Nat} (hk : k < t.width) :
    let p := fd % 256
    let n := fd / 256 % 256
    (fieldOf t v fd).testBit k =
      (n != 0 && (if k < n then intBit (intOf t v) (p + k) else t.isSigned && intBit (intOf t v) (p + n - 1))) := by
  intro p n
  have hfield : fieldOf t v fd = wrap t.width (if n = 0 then 0 else
    let x := intOf t v / ((2 ^ p : Nat) : ℤ)
    if t.isSigned then signedOf n (wrap n x) else (wrap n x : Nat)) := rfl
  rw [hfield, testBit_wrap, decide_eq_true hk, Bool.true_and]
  by_cases hn : n = 0
  · simp [hn, intBit]
  rw [if_neg hn, bne_iff_ne.mpr hn, Bool.true_and]
  dsimp only
  cases t.isSigned with
  | true =>
    rw [if_pos rfl, intBit_signedOf (Nat.pos_of_ne_zero hn), testBit_wrap, testBit_wrap, intBit_div_two_pow, intBit_div_two_pow,
      ← Nat.add_sub_assoc (Nat.pos_of_ne_zero hn)]
    have hlast : n - 1 < n := Nat.sub_lt (Nat.pos_of_ne_zero hn) one_pos
    simp only [Bool.true_and]
    split <;> simp only [*, decide_true, Bool.true_and]
  | false =>
    rw [if_neg Bool.false_ne_true, intBit_natCast, testBit_wrap, intBit_div_two_pow]
    split <;> simp [*]

/-- Bits p to p + n − 1 of a number, replaced by other bits. -/
theorem testBit_replace (a p n x k : Nat) : (a - a / 2 ^ p % 2 ^ n * 2 ^ p + x % 2 ^ n * 2 ^ p).testBit k =
    if p ≤ k ∧ k < p + n then x.testBit (k - p) else a.testBit k := by
  have hmid := Nat.mod_add_div (a / 2 ^ p) (2 ^ n)
  have hlow := Nat.mod_add_div a (2 ^ p)
  have hparts : a - a / 2 ^ p % 2 ^ n * 2 ^ p + x % 2 ^ n * 2 ^ p = 2 ^ p * (2 ^ n * (a / 2 ^ p / 2 ^ n) + x % 2 ^ n) + a % 2 ^ p := by
    rw [← hmid, mul_add] at hlow
    rw [mul_add, Nat.mul_comm _ (2 ^ p), Nat.mul_comm _ (2 ^ p)]
    omega
  rw [hparts, Nat.testBit_two_pow_mul_add _ (Nat.mod_lt _ (Nat.two_pow_pos p)), Nat.testBit_two_pow_mul_add _ (Nat.mod_lt _ (Nat.two_pow_pos n)),
    Nat.testBit_mod_two_pow, Nat.testBit_mod_two_pow, Nat.testBit_div_two_pow, Nat.testBit_div_two_pow]
  by_cases hp : k < p
  · simp [hp, show ¬ p ≤ k by omega]
  · by_cases hn : k < p + n
    · simp [hp, hn, show p ≤ k by omega, show k - p < n by omega]
    · simp [hp, hn, show ¬ k - p < n by omega, show k - p - n + n + p = k by omega]

theorem testBit_insertField {w k : Nat} (hk : k < w) (a v fd : Nat) :
    let p := fd % 256
    let n := fd / 256 % 256
    (insertField w a v fd).testBit k = if p ≤ k ∧ k < p + n then v.testBit (k - p) else a.testBit k := by
  intro p n
  have hin : (p ≤ k ∧ k < p + min n (w - p)) = (p ≤ k ∧ k < p + n) := propext (by omega)
  exact (testBit_replace a p (min n (w - p)) v k).trans (by simp only [hin])

/-! #### Opcodes (R37, R111, R112) -/

/-- A well-formed instruction's opcode stands in the top ten bits of its word. -/
theorem encode_opcode {mt : Bool} {i : Instr} (h : i.wellFormed mt = true) : (encode i).toNat / 2 ^ 54 = (encodeFields i).op :=
  congrArg Fields.op (Laws.ofWord_toWord (encodeFields_fits i mt h))

end Sys2Proof.Machine

open Sys2Proof Sys2Proof.Machine

/-- Settles O7: each instruction by its lane function, the fields bit by bit, each opcode by `encode_opcode`. -/
theorem bitCountsAndFields : Obligations.BitCountsAndFields := by
  unfold Obligations.BitCountsAndFields
  refine ⟨fun s g u t a b c => ⟨?_, ?_, ?_, ?_, ?_, ?_, fun mt i op hmem hw => ?_⟩, fun t v fd k _ hk => ?_, fun w a v fd k _ hk => ?_⟩
  · exact pushes_of_lanewise (f := bits1Lane (fun n => word (popCount t.width n)) t a) rfl fun _ => rfl
  · refine pushes_of_lanewise (f := bits1Lane (fun n => word (leadingZeros t.width n)) t a) rfl fun l => ?_
    rw [bits1Lane, leadingZeros_eq (Nat.mod_lt _ (Nat.two_pow_pos _))]
  · exact pushes_of_lanewise (f := bits1Lane (fun n => word (trailingZeros t.width n)) t a) rfl fun _ => rfl
  · exact pushes_of_lanewise (f := bits1Lane (fun n => extend t (reversed t.width n)) t a) rfl fun _ => rfl
  · exact pushes_of_lanewise (f := bfxLane t a b) rfl fun _ => rfl
  · exact pushes_of_lanewise (f := bfiLane t a b c) rfl fun _ => rfl
  · have hop : i.opOk = true := Laws.FieldsFit.op hw
    rw [encode_opcode hw]
    simp only [List.mem_cons, List.not_mem_nil, or_false, Prod.mk.injEq] at hmem
    obtain ⟨rfl, rfl⟩ | ⟨rfl, rfl⟩ | ⟨rfl, rfl⟩ | ⟨rfl, rfl⟩ | ⟨rfl, rfl⟩ | ⟨rfl, rfl⟩ := hmem <;>
      exact ⟨hop, by simp [encodeFields]⟩
  · simpa only [intBit_intOf] using testBit_fieldOf t v fd hk
  · exact testBit_insertField hk a v fd

end

section
/-!
### What an atomic operation stores (O36)
-/

namespace Sys2Proof.Machine

/-- The integer operations of R280. -/
theorem rmwValue_of_newValue {op : AtomOp} {w m b v : Nat} (h : newValue op w m b = some v) : rmwValue op w m b = v := by
  cases op with
  | fadd => cases h
  | fmin => cases h
  | fmax => cases h
  | umin =>
    obtain rfl := Option.some.inj h
    exact min_def m b
  | umax =>
    obtain rfl := Option.some.inj h
    exact max_def' m b
  | dec =>
    obtain rfl := Option.some.inj h
    simp [rmwValue]
  | _ => exact Option.some.inj h

end Sys2Proof.Machine

open Sys2Proof Sys2Proof.Machine

/-- Settles O36: the integer operations by `rmwValue_of_newValue`, those on floats by definition. -/
theorem atomicValues : Obligations.AtomicValues := by
  unfold Obligations.AtomicValues
  exact ⟨fun _ _ _ _ _ h => rmwValue_of_newValue h, fun _ _ => ⟨rfl, rfl, rfl, rfl⟩⟩

end

section
/-!
### Float arithmetic (O10)

Each instruction is `lanewise` with its function of the operands' values. An exact sum, product or dot product is a whole number of units, which
`roundInto` rounds once; a quotient or a root is found exactly or between two units. A format's own values are patterns (`pattern_of_value`), so FRND's
whole number is one of them, FSCALE's clamped count leaves the range all the same (`scaleF_eq`), and one pattern stands for each number of one sign.
Products of special operands are what `mulExact_spec` says, from which FMUL's, FFMA's and FDOT2's tables follow.
-/

namespace Sys2Proof.Machine

/-! #### Exact sums and products (R122, R123) -/

section SumsAndProducts

variable {f : Format} {md : Rnd} {na nb nc : Bool} {ma mb mc : Nat} {ea eb ec : ℤ}

theorem real_eq_zero_iff {s : Bool} {m : Nat} {e : ℤ} : (signedM s m : ℝ) * (2 : ℝ) ^ e = 0 ↔ m = 0 := by
  rw [← abs_eq_zero, abs_exact, mul_eq_zero_iff_right (zpow_ne_zero e two_ne_zero), Nat.cast_eq_zero]

theorem real_mul_real (na nb : Bool) (ma mb : Nat) (ea eb : ℤ) : (signedM (na != nb) (ma * mb) : ℝ) * (2 : ℝ) ^ (ea + eb) =
    (signedM na ma : ℝ) * (2 : ℝ) ^ ea * ((signedM nb mb : ℝ) * (2 : ℝ) ^ eb) := by
  rw [zpow_add₀ two_ne_zero, signedM_real, signedM_real, signedM_real, Nat.cast_mul]
  cases na <;> cases nb <;> simp only [bne_self_eq_false, Bool.bne_false, Bool.bne_true, Bool.not_false, Bool.false_eq_true, if_true, if_false] <;> ring

/-- A signed whole number of units, rounded. -/
theorem roundedOnce_units_int {n e : ℤ} (hf : 0 < f.eb) (hn : n ≠ 0) :
    RoundedOnce f md (n * (2 : ℝ) ^ e) (roundInto f md (n < 0) n.natAbs e) := by
  have h := roundedOnce_roundInto hf (Int.natAbs_ne_zero.mpr hn) md (decide (n < 0)) e
  rwa [signedM_decide] at h

theorem addF_fin : addF f md (.fin na ma ea) (.fin nb mb eb) =
    if (exactSum na ma ea nb mb eb).1 = 0 then
      (signBit f (if ma = 0 ∧ mb = 0 then zeroSumSign md na nb else decide (md = .rdn)), 0)
    else roundInto f md ((exactSum na ma ea nb mb eb).1 < 0) (exactSum na ma ea nb mb eb).1.natAbs (exactSum na ma ea nb mb eb).2 := by
  have hsign : (if ma == 0 && mb == 0 then zeroSumSign md na nb else md == .rdn)
      = if ma = 0 ∧ mb = 0 then zeroSumSign md na nb else decide (md = .rdn) := by
    simp only [Bool.and_eq_true, beq_iff_eq]
    rfl
  simp only [addF, hsign, beq_iff_eq]

theorem roundedOnce_addF (hf : 0 < f.eb) (h : (signedM na ma : ℝ) * (2 : ℝ) ^ ea + (signedM nb mb : ℝ) * (2 : ℝ) ^ eb ≠ 0) :
    RoundedOnce f md ((signedM na ma : ℝ) * (2 : ℝ) ^ ea + (signedM nb mb : ℝ) * (2 : ℝ) ^ eb) (addF f md (.fin na ma ea) (.fin nb mb eb)) := by
  rw [← exactSum_real] at h ⊢
  have hr : (exactSum na ma ea nb mb eb).1 ≠ 0 := Int.cast_ne_zero.mp (left_ne_zero_of_mul h)
  rw [addF_fin, if_neg hr]
  exact roundedOnce_units_int hf hr

theorem zero_iff_of_cancel (h : (signedM na ma : ℝ) * (2 : ℝ) ^ ea + (signedM nb mb : ℝ) * (2 : ℝ) ^ eb = 0) : ma = 0 ↔ mb = 0 := by
  rw [← real_eq_zero_iff (s := na) (e := ea), eq_neg_of_add_eq_zero_left h, neg_eq_zero, real_eq_zero_iff]

/-- R84: a zero sum has the sign of two zeros of one sign, and otherwise the sign that the mode gives it. -/
theorem addF_cancel (h : (signedM na ma : ℝ) * (2 : ℝ) ^ ea + (signedM nb mb : ℝ) * (2 : ℝ) ^ eb = 0) :
    addF f md (.fin na ma ea) (.fin nb mb eb) = (signBit f (if mb = 0 ∧ na = nb then nb else decide (md = .rdn)), 0) := by
  have hzero := zero_iff_of_cancel h
  rw [← exactSum_real, mul_eq_zero_iff_right (zpow_ne_zero _ two_ne_zero), Int.cast_eq_zero] at h
  have hsign : (if ma = 0 ∧ mb = 0 then zeroSumSign md na nb else decide (md = .rdn))
      = if mb = 0 ∧ na = nb then nb else decide (md = .rdn) := by
    simp only [hzero, and_self]
    by_cases hb : mb = 0
    · cases na <;> cases nb <;> simp only [hb, true_and, if_true] <;> rfl
    · simp only [hb, false_and, if_false]
  rw [addF_fin, if_pos h, hsign]

/-- The same by the first operand. -/
theorem addF_cancel_left (h : (signedM na ma : ℝ) * (2 : ℝ) ^ ea + (signedM nb mb : ℝ) * (2 : ℝ) ^ eb = 0) :
    addF f md (.fin na ma ea) (.fin nb mb eb) = (signBit f (if ma = 0 ∧ na = nb then na else decide (md = .rdn)), 0) := by
  have hzero := zero_iff_of_cancel h
  simp only [addF_cancel h, hzero]
  by_cases hs : na = nb
  · rw [hs]
  · simp only [hs, and_false, if_false]

theorem roundedOnce_mulF (hf : 0 < f.eb) (h : (signedM na ma : ℝ) * (2 : ℝ) ^ ea * ((signedM nb mb : ℝ) * (2 : ℝ) ^ eb) ≠ 0) :
    RoundedOnce f md ((signedM na ma : ℝ) * (2 : ℝ) ^ ea * ((signedM nb mb : ℝ) * (2 : ℝ) ^ eb)) (mulF f md (.fin na ma ea) (.fin nb mb eb)) := by
  rw [← real_mul_real] at h ⊢
  exact roundedOnce_roundInto hf (mt real_eq_zero_iff.mpr h) md _ _

theorem mulF_zero (h : (signedM na ma : ℝ) * (2 : ℝ) ^ ea * ((signedM nb mb : ℝ) * (2 : ℝ) ^ eb) = 0) :
    mulF f md (.fin na ma ea) (.fin nb mb eb) = (signBit f (na != nb), 0) := by
  rw [← real_mul_real, real_eq_zero_iff] at h
  simp only [mulF, mulExact, h, roundInto_zero]

theorem fmaF_fin : fmaF f md (.fin na ma ea) (.fin nb mb eb) (.fin nc mc ec) =
    addF f md (.fin (na != nb) (ma * mb) (ea + eb)) (.fin nc mc ec) := by simp [fmaF, mulExact, FVal.isSnan, flagIf]

end SumsAndProducts

/-! #### Quotients and roots (R124) -/

section QuotientsAndRoots

variable {f : Format} {md : Rnd} {na nb : Bool} {m ma mb : Nat} {e ea eb : ℤ}

theorem roundedOnce_divF (hf : 0 < f.eb) (ha : ma ≠ 0) (hb : mb ≠ 0) :
    RoundedOnce f md ((signedM na ma : ℝ) * (2 : ℝ) ^ ea / ((signedM nb mb : ℝ) * (2 : ℝ) ^ eb)) (divF f md (.fin na ma ea) (.fin nb mb eb)) := by
  have hdiv : divF f md (.fin na ma ea) (.fin nb mb eb) = roundQuotient f md (na != nb) ma mb (ea - eb) := by
    simp only [divF, if_neg ha, if_neg hb]
  rw [hdiv]
  refine roundedOnce_roundQuotient hf ha hb ?_ ?_
  · rw [abs_div, abs_exact, abs_exact, mul_div_mul_comm, zpow_sub₀ two_ne_zero]
  · rw [div_neg_iff, ← mul_neg_iff, ← real_mul_real]
    exact exact_neg_iff (mul_ne_zero ha hb) _ _

theorem divF_zero_left (ha : ma = 0) (hb : mb ≠ 0) : divF f md (.fin na ma ea) (.fin nb mb eb) = (signBit f (na != nb), 0) := by
  simp only [divF, if_neg hb, if_pos ha]

theorem divF_zero_right (ha : ma ≠ 0) (hb : mb = 0) :
    divF f md (.fin na ma ea) (.fin nb mb eb) = (signBit f (na != nb) + f.infinity, Flag.dze) := by
  simp only [divF, if_pos hb, if_neg ha]

theorem divF_zeros (ha : ma = 0) (hb : mb = 0) : divF f md (.fin na ma ea) (.fin nb mb eb) = (f.nan, Flag.inv) := by
  simp only [divF, if_pos hb, if_pos ha]

/-- The root of a magnitude with an even exponent. -/
theorem roundedOnce_root (hf : 0 < f.eb) (hm : m ≠ 0) (he : e % 2 = 0) :
    let k := f.fb + 4
    let n := m * 2 ^ (2 * k)
    let r := natSqrt n
    RoundedOnce f md (Real.sqrt (m * (2 : ℝ) ^ e))
      (if r * r = n then roundInto f md false r (e / 2 - k) else roundBetween f md false r (e / 2 - k)) := by
  intro k n r
  have hr : 2 ^ (f.fb + 1) ≤ Nat.sqrt n := by
    rw [Nat.le_sqrt, ← pow_add]
    calc 2 ^ (f.fb + 1 + (f.fb + 1)) ≤ 1 * 2 ^ (2 * k) := by rw [one_mul]; exact Nat.pow_le_pow_right two_pos (by omega)
      _ ≤ n := Nat.mul_le_mul_right _ (Nat.one_le_iff_ne_zero.mpr hm)
  have habs : |Real.sqrt (m * (2 : ℝ) ^ e)| = Real.sqrt n * (2 : ℝ) ^ (e / 2 - k) := by
    have hn : (n : ℝ) = m * ((2 : ℝ) ^ k) ^ 2 := by rw [← pow_mul, mul_comm k]; push_cast [n]; rfl
    rw [abs_of_nonneg (Real.sqrt_nonneg _), sqrt_mul_zpow he, hn, Real.sqrt_mul (Nat.cast_nonneg m), Real.sqrt_sq (by positivity),
      zpow_sub₀ two_ne_zero, zpow_natCast]
    field_simp
  have hneg : false = true ↔ Real.sqrt (m * (2 : ℝ) ^ e) < 0 :=
    ⟨fun h => absurd h Bool.false_ne_true, fun h => absurd h (not_lt.mpr (Real.sqrt_nonneg _))⟩
  obtain ⟨hexact, hbetween⟩ := roundedOnce_units (md := md) hf hr habs hneg Real.nat_sqrt_le_real_sqrt Real.real_sqrt_lt_nat_sqrt_succ
  have hiff : Real.sqrt n = Nat.sqrt n ↔ Nat.sqrt n * Nat.sqrt n = n := by
    rw [Real.sqrt_eq_iff_mul_self_eq (Nat.cast_nonneg _) (Nat.cast_nonneg _), eq_comm]
    norm_cast
  have hnat : r = Nat.sqrt n := natSqrt_eq _
  rw [hnat]
  split
  · next h => exact hexact (hiff.mpr h)
  · next h => exact hbetween (mt hiff.mp h)

theorem roundedOnce_sqrtF_pos (hf : 0 < f.eb) (hm : m ≠ 0) :
    RoundedOnce f md (Real.sqrt (m * (2 : ℝ) ^ e)) (sqrtF f md (.fin false m e)) := by
  simp only [sqrtF, if_neg hm, Bool.false_eq_true, if_false]
  by_cases he : e % 2 = 0
  · simp only [he, if_true]
    exact roundedOnce_root hf hm he
  · simp only [he, if_false]
    have hdouble : (m : ℝ) * (2 : ℝ) ^ e = (2 * m : ℕ) * (2 : ℝ) ^ (e - 1) := by
      rw [zpow_sub_one₀ two_ne_zero]
      push_cast
      ring
    rw [hdouble]
    exact roundedOnce_root hf (mul_ne_zero two_ne_zero hm) (by omega)

theorem roundedOnce_sqrtF (hf : 0 < f.eb) (h : 0 < (signedM na m : ℝ) * (2 : ℝ) ^ e) :
    RoundedOnce f md (Real.sqrt ((signedM na m : ℝ) * (2 : ℝ) ^ e)) (sqrtF f md (.fin na m e)) := by
  have hm : m ≠ 0 := mt real_eq_zero_iff.mpr h.ne'
  obtain rfl : na = false := by rw [← Bool.not_eq_true, exact_neg_iff hm na e]; exact h.not_gt
  exact roundedOnce_sqrtF_pos hf hm

theorem sqrtF_zero (hm : m = 0) : sqrtF f md (.fin na m e) = (signBit f na, 0) := if_pos hm

theorem sqrtF_of_neg (h : (signedM na m : ℝ) * (2 : ℝ) ^ e < 0) : sqrtF f md (.fin na m e) = (f.nan, Flag.inv) := by
  have hm : m ≠ 0 := mt real_eq_zero_iff.mpr h.ne
  obtain rfl : na = true := (exact_neg_iff hm na e).mpr h
  exact if_neg hm

end QuotientsAndRoots
/-! #### A format's own values -/

section OwnValues

variable {f : Format} {md : Rnd} {neg : Bool} {m p v : Nat} {e : ℤ}

theorem value_mod_width (f : Format) (n : Nat) : f.value (n % 2 ^ f.width) = f.value n := by
  have hsign : n % 2 ^ f.width / 2 ^ (f.eb + f.fb) % 2 = n / 2 ^ (f.eb + f.fb) % 2 := by
    rw [two_pow_width, Nat.mul_comm, Nat.mod_mul_right_div_self, Nat.mod_mod]
  have hlow : n % 2 ^ f.width % 2 ^ (f.eb + f.fb) = n % 2 ^ (f.eb + f.fb) := by
    rw [two_pow_width, Nat.mod_mul_left_mod]
  have hex : ∀ k, k / 2 ^ f.fb % 2 ^ f.eb = k % 2 ^ (f.eb + f.fb) / 2 ^ f.fb := fun k => by
    rw [Nat.add_comm, pow_add, Nat.mod_mul_right_div_self]
  have hfr : ∀ k, k % 2 ^ f.fb = k % 2 ^ (f.eb + f.fb) % 2 ^ f.fb := fun k => by rw [pow_add, Nat.mod_mul_left_mod]
  have hex' := (hex (n % 2 ^ f.width)).trans ((congrArg (· / 2 ^ f.fb) hlow).trans (hex n).symm)
  have hfr' := (hfr (n % 2 ^ f.width)).trans ((congrArg (· % 2 ^ f.fb) hlow).trans (hfr n).symm)
  simp only [Format.value, hsign, hlow, hex', hfr']

/-- What a pattern's bits above the width are does not matter: a finite value is that of a pattern without sign. -/
theorem pattern_of_value {n : Nat} (hf : 0 < f.eb) (h : f.value n = .fin neg m e) :
    ∃ p ≤ f.largest, m = f.mantissa p ∧ e = f.least + f.doublings p ∧ (m : ℝ) * (2 : ℝ) ^ e = f.real p := by
  rw [← value_mod_width] at h
  obtain ⟨p, hp, -, rfl, rfl⟩ := finite_pattern f neg hf (Nat.mod_lt _ (Nat.two_pow_pos _)) h
  exact ⟨p, hp, rfl, rfl, rfl⟩

theorem real_zero (f : Format) : f.real 0 = 0 := by simp [Format.real, Format.mantissa]

/-- A whole number of the units rounded to. -/
theorem roundUnits_exact {j : Nat} {q : ℤ} (h : (m : ℝ) * (2 : ℝ) ^ e = j * (2 : ℝ) ^ q) : roundUnits md neg m e q = (j, false) := by
  have hu : (0 : ℝ) < (2 : ℝ) ^ q := zpow_pos two_pos q
  have hnear := roundedTo_near_abs (roundUnits_roundedTo md neg m e q)
  rw [abs_exact, h, ← sub_mul, abs_mul, abs_of_pos (a := (2 : ℝ) ^ q) hu, mul_lt_iff_lt_one_left hu] at hnear
  have hlt : |((roundUnits md neg m e q).1 : ℤ) - j| < 1 := by exact_mod_cast hnear
  have hj : (roundUnits md neg m e q).1 = j := by exact_mod_cast sub_eq_zero.mp (Int.abs_lt_one_iff.mp hlt)
  have hexact : (roundUnits md neg m e q).2 = false := by
    rw [← Bool.not_eq_true, roundUnits_inexact_real, hj, h]
    exact not_not.mpr rfl
  exact Prod.ext hj hexact

/-- R83: a number that a pattern stands for rounds to that pattern, whatever its units. -/
theorem roundInto_of_real (hp : p ≤ f.largest) (h : (m : ℝ) * (2 : ℝ) ^ e = f.real p) : roundInto f md neg m e = (signBit f neg + p, 0) := by
  obtain rfl | hm := eq_or_ne m 0
  · rw [Nat.cast_zero, zero_mul, ← real_zero] at h
    rw [← (real_strictMono f).injective h, roundInto_zero, add_zero]
  · obtain ⟨hlow, hhigh⟩ := exact_binade hm e
    have hround := roundUnits_roundedTo md neg m e (f.unit (Nat.log2 m + e))
    obtain ⟨j, hj⟩ : ∃ j : ℕ, f.real p = j * (2 : ℝ) ^ f.unit (Nat.log2 m + e) :=
      (real_units f _ p).resolve_right fun hlt => hlt.1.not_ge (h ▸ hlow)
    rw [← abs_exact neg] at hlow hhigh
    have hpack := real_pack_rounded hlow hhigh hround
    rw [roundUnits_exact (h.trans hj)] at hpack
    have heq : f.pack (Nat.log2 m + e) j = p := (real_strictMono f).injective (hpack.trans hj.symm)
    simp only [roundInto_eq hm, roundUnits_exact (h.trans hj), packRounded, heq, if_neg (not_lt.mpr hp), Bool.and_false]
    rfl

/-- What FRND and FSCALE need of a format: whole numbers up to 2^fb among its finite values, and fewer binades than 5000. -/
def Format.Roomy (f : Format) : Prop :=
  0 < f.eb ∧ 0 < f.bias ∧ (f.fb + f.bias) * 2 ^ f.fb ≤ f.largest ∧ 2 ^ f.eb + f.fb < 4999

theorem Format.Roomy.eb_pos : f.Roomy → 0 < f.eb := fun ⟨h, _, _, _⟩ => h
theorem Format.Roomy.bias_pos : f.Roomy → 0 < f.bias := fun ⟨_, h, _, _⟩ => h
theorem Format.Roomy.integers : f.Roomy → (f.fb + f.bias) * 2 ^ f.fb ≤ f.largest := fun ⟨_, _, h, _⟩ => h
theorem Format.Roomy.binades : f.Roomy → 2 ^ f.eb + f.fb < 4999 := fun ⟨_, _, _, h⟩ => h

theorem roomy_of_arith {t : Ty} (h : t = .f64 ∨ t = .f32 ∨ t = .f16 ∨ t = .bf16) : (formatOf t).Roomy := by
  obtain rfl | rfl | rfl | rfl := h <;> exact ⟨by decide, by decide, by decide, by decide⟩

theorem real_integers (hf : 0 < f.bias) : f.real ((f.fb + f.bias) * 2 ^ f.fb) = (2 : ℝ) ^ f.fb := by
  obtain ⟨d, hd⟩ : ∃ d, f.fb + f.bias = d + 1 := Nat.exists_eq_succ_of_ne_zero (by omega)
  have hzero : f.least + d = 0 := by unfold Format.least; omega
  rw [hd, add_mul, one_mul, real_pattern f (.inr le_rfl) (Nat.pow_le_pow_right two_pos (Nat.le_succ _)), hzero]
  simp

/-- Whole numbers of no more bits than the format keeps are values of it. -/
theorem exists_real_of_le (hf : f.Roomy) (hv : v ≤ 2 ^ f.fb) : ∃ p ≤ f.largest, f.real p = v := by
  obtain rfl | hv0 := eq_or_ne v 0
  · exact ⟨0, Nat.zero_le _, by rw [real_zero, Nat.cast_zero]⟩
  · have hlog : Nat.log2 v < f.fb + 1 := (Nat.log2_lt hv0).mpr (hv.trans_lt (Nat.pow_lt_pow_right one_lt_two (Nat.lt_succ_self _)))
    have hunit : f.unit (Nat.log2 v + 0) ≤ 0 := max_le (by omega) (by have := hf.bias_pos; unfold Format.least; omega)
    have hround := roundUnits_roundedTo .rtz false v 0 (f.unit (Nat.log2 v + 0))
    obtain ⟨hlow, hhigh⟩ := exact_binade hv0 0
    rw [← abs_exact false] at hlow hhigh
    have hreal := real_pack_rounded hlow hhigh hround
    rw [roundUnits_of_le _ _ _ _ hunit, Nat.cast_mul, mul_assoc, natPow_mul_zpow hunit, zpow_zero, mul_one] at hreal
    refine ⟨_, le_trans ?_ hf.integers, hreal⟩
    rw [← (real_strictMono f).le_iff_le, hreal, real_integers hf.bias_pos]
    exact_mod_cast hv

/-- A value of a format rounded to a whole number is a value of it (R126). -/
theorem exists_real_rounded {n : Nat} (hf : f.Roomy) (h : f.value n = .fin neg m e) :
    ∃ p ≤ f.largest, f.real p = (roundUnits md neg m e 0).1 := by
  obtain ⟨p, hp, rfl, he, hreal⟩ := pattern_of_value hf.eb_pos h
  obtain hle | hlt := le_or_gt 0 e
  · refine ⟨p, hp, ?_⟩
    rw [roundUnits_of_le _ _ _ _ hle, ← hreal, ← natPow_mul_zpow hle, zpow_zero, mul_one, Nat.cast_mul]
  · refine exists_real_of_le hf (units_le (ex := f.fb - 1) (roundUnits_roundedTo md neg (f.mantissa p) e 0) ?_ (by omega))
    rw [abs_exact, sub_add_cancel, zpow_natCast]
    calc (f.mantissa p : ℝ) * (2 : ℝ) ^ e ≤ f.mantissa p * (2 : ℝ) ^ (-1 : ℤ) :=
          mul_le_mul_of_nonneg_left (zpow_le_zpow_right₀ one_le_two (by omega)) (Nat.cast_nonneg _)
      _ < (2 : ℝ) ^ (f.fb + 1) * (2 : ℝ) ^ (-1 : ℤ) := mul_lt_mul_of_pos_right (by exact_mod_cast mantissa_lt f p) (by norm_num)
      _ = (2 : ℝ) ^ f.fb := by rw [pow_succ, zpow_neg_one, mul_inv_cancel_right₀ two_ne_zero]

/-- R126: the integral value, the operand's sign kept, and INX alone. -/
theorem roundIntegral_spec {n : Nat} (hf : f.Roomy) (md : Rnd) (h : f.value n = .fin neg m e) :
    ∃ (v : ℤ) (m' : Nat) (e' : ℤ), RoundedTo md ((signedM neg m : ℝ) * (2 : ℝ) ^ e) 0 v
      ∧ f.value (roundIntegral f md (.fin neg m e)).1 = .fin neg m' e' ∧ (m' : ℝ) * (2 : ℝ) ^ e' = |(v : ℝ)|
      ∧ ((v : ℝ) = (signedM neg m : ℝ) * (2 : ℝ) ^ e → (roundIntegral f md (.fin neg m e)).2 = 0)
      ∧ ((v : ℝ) ≠ (signedM neg m : ℝ) * (2 : ℝ) ^ e → (roundIntegral f md (.fin neg m e)).2 = Flag.inx) := by
  obtain ⟨p, hp, hreal⟩ := exists_real_rounded (md := md) hf h
  have hinexact := toIntegral_inexact md neg m e
  have hflags : (roundIntegral f md (.fin neg m e)).2 = flagIf (toIntegral md neg m e).2 Flag.inx := rfl
  have hmag : (toIntegral md neg m e).1.natAbs = (roundUnits md neg m e 0).1 := by
    cases neg with
    | false => exact Int.natAbs_natCast _
    | true => exact (Int.natAbs_neg _).trans (Int.natAbs_natCast _)
  have hpat : (roundIntegral f md (.fin neg m e)).1 = signBit f neg + p := by
    have hround := roundInto_of_real (md := md) (neg := neg) (e := 0) hp (by rw [hreal, zpow_zero, mul_one])
    rw [← hmag] at hround
    exact congrArg Prod.fst hround
  refine ⟨_, _, _, toIntegral_roundedTo md neg m e, (congrArg f.value hpat).trans (value_of_le_largest f neg hf.eb_pos hp), ?_,
    fun heq => ?_, fun hne => ?_⟩
  · rw [← Format.real, hreal, ← hmag, Nat.cast_natAbs, Int.cast_abs]
  · rw [hflags, Bool.eq_false_iff.mpr fun ht => hinexact.mp ht heq]
    rfl
  · rw [hflags, hinexact.mpr hne]
    rfl

/-- R128: normal values begin at 2^fb units of the smallest subnormal. -/
theorem mantissa_lt_iff (hreal : (m : ℝ) * (2 : ℝ) ^ e = f.real p) (hm : m = f.mantissa p) :
    m < 2 ^ f.fb ↔ (m : ℝ) * (2 : ℝ) ^ e < (2 : ℝ) ^ (1 - (f.bias : ℤ)) := by
  have hnormal : f.real (0 * 2 ^ f.fb + 2 ^ f.fb) = (2 : ℝ) ^ (1 - (f.bias : ℤ)) := by
    rw [real_pattern f (.inl rfl) (Nat.pow_le_pow_right two_pos (Nat.le_succ _)), Nat.cast_pow, Nat.cast_ofNat, ← zpow_natCast,
      ← zpow_add₀ two_ne_zero]
    congr 1
    unfold Format.least
    push_cast
    ring
  rw [hreal, ← hnormal, (real_strictMono f).lt_iff_lt, hm]
  have hpat := pattern_eq f p
  obtain hd | hle := le_mantissa f p
  · rw [hd] at hpat
    omega
  · have := Nat.zero_le (f.doublings p * 2 ^ f.fb)
    omega

theorem classBit_spec {n : Nat} (hf : f.Roomy) (h : f.value n = .fin neg m e) :
    let x := (signedM neg m : ℝ) * (2 : ℝ) ^ e
    classBit f (.fin neg m e) = if x = 0 then (if neg then 3 else 4) else if |x| < (2 : ℝ) ^ (1 - (f.bias : ℤ)) then (if neg then 2 else 5)
      else if neg then 1 else 6 := by
  intro x
  obtain ⟨p, -, hm, -, hreal⟩ := pattern_of_value hf.eb_pos h
  have hzero : x = 0 ↔ m = 0 := by
    rw [← abs_eq_zero, abs_exact, mul_eq_zero_iff_right (zpow_ne_zero e two_ne_zero), Nat.cast_eq_zero]
  have habs : |x| = (m : ℝ) * (2 : ℝ) ^ e := abs_exact neg m e
  simp only [classBit, hzero, habs, mantissa_lt_iff hreal hm]

/-! #### Scaling (R127) -/

/-- Whether a mode rounds towards greater magnitudes, given the sign. -/
def awayFromZero (md : Rnd) (neg : Bool) : Bool := decide (md = .rup ∧ neg = false ∨ md = .rdn ∧ neg = true)

theorem roundInto_overflow (hm : m ≠ 0) (h : (2 ^ f.eb : ℤ) ≤ Nat.log2 m + e + f.bias) : roundInto f md neg m e = overflowTo f md neg := by
  have hpos : (0 : ℤ) < 2 ^ f.eb := by positivity
  have hunit : f.unit (Nat.log2 m + e) = Nat.log2 m + e - f.fb := max_eq_left (by unfold Format.least; omega)
  have hround := roundUnits_roundedTo md neg m e (f.unit (Nat.log2 m + e))
  rw [hunit] at hround
  have hbits : 2 ^ f.fb ≤ (roundUnits md neg m e (Nat.log2 m + e - f.fb)).1 := le_units hround (by rw [abs_exact]; exact (exact_binade hm e).1)
  have hd : 2 ^ f.eb ≤ (Nat.log2 m + e - f.fb - f.least).toNat + 1 := by
    zify
    rw [Int.toNat_of_nonneg (by unfold Format.least; omega)]
    unfold Format.least
    omega
  have hpat : f.largest < f.pack (Nat.log2 m + e) (roundUnits md neg m e (Nat.log2 m + e - f.fb)).1 := by
    rw [Format.pack, hunit]
    calc f.largest < 2 ^ (f.eb + f.fb) := largest_lt f
      _ = 2 ^ f.eb * 2 ^ f.fb := pow_add _ _ _
      _ ≤ ((Nat.log2 m + e - f.fb - f.least).toNat + 1) * 2 ^ f.fb := Nat.mul_le_mul_right _ hd
      _ ≤ _ := by rw [add_mul, one_mul]; exact Nat.add_le_add_left hbits _
  rw [roundInto_eq hm, hunit, packRounded, if_pos hpat]

/-- A magnitude below half the smallest subnormal. -/
theorem roundInto_tiny (hm : m ≠ 0) (hf : 1 ≤ f.largest) (h : Nat.log2 m + e + 1 < f.least) :
    roundInto f md neg m e = (signBit f neg + (awayFromZero md neg).toNat, Flag.inx ||| Flag.unf) := by
  have hunit : f.unit (Nat.log2 m + e) = f.least := max_eq_right (by omega)
  obtain ⟨k, hk⟩ := Int.le.dest (by omega : e ≤ f.least)
  have hlt : 2 * m < 2 ^ k := by
    calc 2 * m < 2 * 2 ^ (Nat.log2 m + 1) := Nat.mul_lt_mul_of_pos_left Nat.lt_log2_self two_pos
      _ = 2 ^ (Nat.log2 m + 1 + 1) := (Nat.pow_succ').symm
      _ ≤ 2 ^ k := Nat.pow_le_pow_right two_pos (by omega)
  have hmod : m % 2 ^ k = m := Nat.mod_eq_of_lt (by omega)
  have hup : roundsUp md neg m k = awayFromZero md neg := by
    have hhalf : (decide (2 * m > 2 ^ k) || (2 * m == 2 ^ k && m / 2 ^ k % 2 == 1)) = false := by
      rw [decide_eq_false (by omega), beq_false_of_ne (by omega)]
      rfl
    cases md <;> cases neg <;> simp [roundsUp, awayFromZero, hmod, hm, hhalf]
  have hunits : roundUnits md neg m e f.least = ((awayFromZero md neg).toNat, true) := by
    rw [← hk, roundUnits_add, Nat.div_eq_of_lt (by omega), hup, hmod, Nat.zero_add, bne_iff_ne.mpr hm]
  have htiny : ∀ n, f.isTiny (Nat.log2 m + e) n = true := by
    intro n
    unfold Format.least at h
    rw [Format.isTiny, decide_eq_true (by omega), beq_false_of_ne (by omega)]
    rfl
  have hpack : f.pack (Nat.log2 m + e) (awayFromZero md neg).toNat = (awayFromZero md neg).toNat := by
    rw [Format.pack, hunit, sub_self, Int.toNat_zero, zero_mul, zero_add]
  simp only [roundInto_eq hm, hunit, hunits, packRounded, htiny, hpack, if_neg (not_lt.mpr ((Bool.toNat_le _).trans hf))]
  rfl

/-- A value of a format leaves its range, above or below, within a count of 5000. -/
theorem scaleF_eq {n : Nat} (hf : f.Roomy) (h : f.value n = .fin neg m e) (hm : m ≠ 0) (k : ℤ) :
    scaleF f md (.fin neg m e) k = roundInto f md neg m (e + k) := by
  obtain ⟨p, hp, hmp, rfl, -⟩ := pattern_of_value hf.eb_pos h
  have hdoublings : f.doublings p ≤ 2 ^ f.eb := by
    have : p / 2 ^ f.fb < 2 ^ f.eb := by
      rw [Nat.div_lt_iff_lt_mul (Nat.two_pow_pos _), ← pow_add]
      exact hp.trans_lt (largest_lt f)
    exact (Nat.sub_le _ _).trans this.le
  have hlog : Nat.log2 m < f.fb + 1 := (Nat.log2_lt hm).mpr (hmp ▸ mantissa_lt f p)
  have hone : 1 ≤ f.largest := le_trans (Nat.mul_pos (by have := hf.bias_pos; omega) (Nat.two_pow_pos _)) hf.integers
  have hbinades := hf.binades
  have hleast : f.least = 1 - f.bias - f.fb := rfl
  change roundInto f md neg m (_ + max (-5000) (min 5000 k)) = _
  obtain hlow | hlow := lt_or_ge k (-5000)
  · rw [roundInto_tiny hm hone (by omega), roundInto_tiny hm hone (by omega)]
  obtain hhigh | hhigh := lt_or_ge 5000 k
  · have hexp : ((2 ^ f.eb : Nat) : ℤ) = 2 ^ f.eb := by push_cast; rfl
    rw [roundInto_overflow hm (by omega), roundInto_overflow hm (by omega)]
  · rw [min_eq_right hhigh, max_eq_right hlow]

theorem scaleF_zero {k : ℤ} (hm : m = 0) : scaleF f md (.fin neg m e) k = (signBit f neg, 0) := by
  rw [hm]
  rfl

theorem roundedOnce_scaleF {n : Nat} (hf : f.Roomy) (h : f.value n = .fin neg m e) (hm : m ≠ 0) (k : ℤ) :
    RoundedOnce f md ((signedM neg m : ℝ) * (2 : ℝ) ^ e * (2 : ℝ) ^ k) (scaleF f md (.fin neg m e) k) := by
  rw [scaleF_eq hf h hm, mul_assoc, ← zpow_add₀ two_ne_zero]
  exact roundedOnce_roundInto hf.eb_pos hm md neg (e + k)

end OwnValues

/-! #### The smaller and the larger operand (R125) -/

section MinMax

variable {f : Format} {na nb : Bool} {ma mb p n : Nat} {ea eb : ℤ}

/-- −0 orders below +0, and the rest as the real numbers. -/
theorem fminOrder_fin :
    let x := (signedM na ma : ℝ) * (2 : ℝ) ^ ea
    let y := (signedM nb mb : ℝ) * (2 : ℝ) ^ eb
    let o := fminOrder (.fin na ma ea) (.fin nb mb eb)
    (x < y → o < 0) ∧ (y < x → 0 < o) ∧ (x = y → o = b2w nb - b2w na) := by
  intro x y o
  obtain ⟨hlt, heq, hgt⟩ := compareF_fin_real na nb ma mb ea eb
  refine ⟨fun h => ?_, fun h => ?_, fun h => ?_⟩
  · have hneg := hlt.mpr h
    have ho : o = _ := if_pos (bne_iff_ne.mpr hneg.ne)
    rwa [ho]
  · have hpos := hgt.mpr h
    have ho : o = _ := if_pos (bne_iff_ne.mpr hpos.ne')
    rwa [ho]
  · exact if_neg (by rw [bne_iff_ne]; exact not_not.mpr (heq.mpr h))

theorem minMaxF_fin {first : ℤ → Bool} (hp : f.value p = .fin na ma ea) (hn : f.value n = .fin nb mb eb) :
    minMaxF first f p n = (if first (fminOrder (.fin na ma ea) (.fin nb mb eb)) then p else n, 0) := by
  simp [minMaxF, hp, hn, FVal.isNan, FVal.isSnan, flagIf]

/-- One pattern stands for each number of one sign. -/
theorem eq_of_value_eq (hf : 0 < f.eb) (hpw : p < 2 ^ f.width) (hnw : n < 2 ^ f.width) (hp : f.value p = .fin na ma ea)
    (hn : f.value n = .fin na mb eb) (h : (signedM na ma : ℝ) * (2 : ℝ) ^ ea = (signedM na mb : ℝ) * (2 : ℝ) ^ eb) : p = n := by
  obtain ⟨p', -, rfl, rfl, rfl⟩ := finite_pattern f na hf hpw hp
  obtain ⟨n', -, rfl, rfl, rfl⟩ := finite_pattern f na hf hnw hn
  have habs := congrArg abs h
  rw [abs_exact, abs_exact] at habs
  rw [(real_strictMono f).injective habs]

theorem minMaxF_spec (hf : 0 < f.eb) (hpw : p < 2 ^ f.width) (hnw : n < 2 ^ f.width) (hp : f.value p = .fin na ma ea)
    (hn : f.value n = .fin nb mb eb) :
    let x := (signedM na ma : ℝ) * (2 : ℝ) ^ ea
    let y := (signedM nb mb : ℝ) * (2 : ℝ) ^ eb
    let low := if x < y ∨ (x = y ∧ na = true) then p else n
    minMaxF isLow f p n = (low, 0) ∧ minMaxF isHigh f p n = (if low = p then n else p, 0) := by
  intro x y low
  obtain ⟨hlt, hgt, heq⟩ := fminOrder_fin (na := na) (nb := nb) (ma := ma) (mb := mb) (ea := ea) (eb := eb)
  rw [minMaxF_fin hp hn, minMaxF_fin hp hn]
  generalize fminOrder (.fin na ma ea) (.fin nb mb eb) = o at hlt hgt heq
  have horder : o < 0 ∧ low = p ∨ 0 < o ∧ low = n ∨ p = n := by
    obtain hxy | hxy | hxy := lt_trichotomy x y
    · exact .inl ⟨hlt hxy, if_pos (.inl hxy)⟩
    · cases na <;> cases nb
      · exact .inr (.inr (eq_of_value_eq hf hpw hnw hp hn hxy))
      · exact .inr (.inl ⟨by rw [heq hxy]; decide, if_neg (by simp [hxy])⟩)
      · exact .inl ⟨by rw [heq hxy]; decide, if_pos (.inr ⟨hxy, rfl⟩)⟩
      · exact .inr (.inr (eq_of_value_eq hf hpw hnw hp hn hxy))
    · exact .inr (.inl ⟨hgt hxy, if_neg (by rintro (h | ⟨h, -⟩) <;> linarith)⟩)
  obtain ⟨ho, hlow⟩ | ⟨ho, hlow⟩ | rfl := horder
  · simp [isLow, isHigh, hlow, ho.le, not_le.mpr ho]
  · rw [hlow]
    simpa [isLow, isHigh, ho.le, not_le.mpr ho] using fun h : n = p => h.symm
  · simp [low]

end MinMax

/-! #### Special operands (R122 to R127) -/

section Special

variable {f : Format} {md : Rnd} {v w z : FVal}

theorem FVal.isNan_iff : v.isNan = true ↔ ∃ s, v = .nan s := by
  cases v with
  | nan s => exact ⟨fun _ => ⟨s, rfl⟩, fun _ => rfl⟩
  | inf s => simp [FVal.isNan]
  | fin s m e => simp [FVal.isNan]

theorem FVal.isSnan_of_not_isNan (h : v.isNan = false) : v.isSnan = false := by
  cases v with
  | nan s => cases h
  | inf s => rfl
  | fin s m e => rfl

/-- What is neither a NaN nor an infinity is finite. -/
theorem FVal.eq_fin (hnan : v.isNan = false) (hinf : v.isInf = false) : ∃ s m e, v = .fin s m e := by
  cases v with
  | nan s => cases hnan
  | inf s => cases hinf
  | fin s m e => exact ⟨s, m, e, rfl⟩

theorem exists_nan (h : (v.isNan || w.isNan) = true) : (∃ s, v = .nan s) ∨ ∃ s, w = .nan s := by
  rwa [Bool.or_eq_true, FVal.isNan_iff, FVal.isNan_iff] at h

theorem addF_nan (h : (v.isNan || w.isNan) = true) : addF f md v w = (f.nan, flagIf (v.isSnan || w.isSnan) Flag.inv) := by
  obtain ⟨s, rfl⟩ | ⟨s, rfl⟩ := exists_nan h
  · rfl
  · cases v <;> rfl

theorem addF_inf_of_not_nan {n : Bool} (h : v.isNan = false) :
    addF f md (.inf n) v = if v = .inf !n then (f.nan, Flag.inv) else (signBit f n + f.infinity, 0) := by
  cases v with
  | nan s => cases h
  | inf s => cases n <;> cases s <;> rfl
  | fin s m e => rfl

/-- A product of zero and infinity (R122). -/
def voidProduct (x y : FVal) : Bool := x.isInf && y.isZero || x.isZero && y.isInf

/-- A product that is an infinity of a sign. -/
def endlessProduct (x y : FVal) (n : Bool) : Bool :=
  !x.isNan && !y.isNan && !x.isZero && !y.isZero && (x.isInf || y.isInf) && (x.neg != y.neg) == n

theorem inf_beq_inf (s n : Bool) : (FVal.inf s == FVal.inf n) = (s == n) := by cases s <;> cases n <;> rfl

/-- What a product is, by what its operands are. -/
theorem mulExact_spec (v w : FVal) :
    (mulExact v w).2 = voidProduct v w ∧ (mulExact v w).1.isNan = (v.isNan || w.isNan || voidProduct v w) ∧ (mulExact v w).1.isSnan = false
      ∧ ∀ n, ((mulExact v w).1 == .inf n) = endlessProduct v w n := by
  cases v with
  | nan s => cases w <;> exact ⟨rfl, rfl, rfl, fun _ => rfl⟩
  | inf s =>
    cases w with
    | nan s' => exact ⟨rfl, rfl, rfl, fun _ => rfl⟩
    | inf s' => exact ⟨rfl, rfl, rfl, inf_beq_inf _⟩
    | fin s' m e =>
      cases m with
      | zero => exact ⟨rfl, rfl, rfl, fun _ => rfl⟩
      | succ m => exact ⟨rfl, rfl, rfl, inf_beq_inf _⟩
  | fin s m e =>
    cases m with
    | zero =>
      cases w with
      | nan s' => exact ⟨rfl, rfl, rfl, fun _ => rfl⟩
      | inf s' => exact ⟨rfl, rfl, rfl, fun _ => rfl⟩
      | fin s' m' e' => cases m' <;> exact ⟨rfl, rfl, rfl, fun _ => rfl⟩
    | succ m =>
      cases w with
      | nan s' => exact ⟨rfl, rfl, rfl, fun _ => rfl⟩
      | inf s' => exact ⟨rfl, rfl, rfl, inf_beq_inf _⟩
      | fin s' m' e' => cases m' <;> exact ⟨rfl, rfl, rfl, fun _ => rfl⟩

theorem flagIf_or (a b : Bool) (fl : Flags) : flagIf a fl ||| flagIf b fl = flagIf (a || b) fl := by
  cases a <;> cases b <;> simp [flagIf]

theorem fmaF_of_nan_product (h : (mulExact v w).1.isNan = true) :
    fmaF f md v w z = (f.nan, flagIf (v.isSnan || w.isSnan || z.isSnan || (mulExact v w).2) Flag.inv) := by
  unfold fmaF
  generalize mulExact v w = r at h
  obtain ⟨p, bad⟩ := r
  cases p with
  | nan s => exact congrArg (f.nan, ·) (flagIf_or _ _ _)
  | inf s => cases h
  | fin s m e => cases h

theorem fmaF_of_product (h : (mulExact v w).1.isNan = false) :
    fmaF f md v w z = ((addF f md (mulExact v w).1 z).1
      , (addF f md (mulExact v w).1 z).2 ||| flagIf (v.isSnan || w.isSnan || z.isSnan) Flag.inv) := by
  unfold fmaF
  generalize mulExact v w = r at h
  obtain ⟨p, bad⟩ := r
  cases p with
  | nan s => cases h
  | inf s => rfl
  | fin s m e => rfl

/-- R123: a NaN among the operands. -/
theorem fmaF_nan (h : (v.isNan || w.isNan || z.isNan) = true) :
    fmaF f md v w z = (f.nan, flagIf (v.isSnan || w.isSnan || z.isSnan || voidProduct v w) Flag.inv) := by
  obtain ⟨hvoid, hnan, hsnan, -⟩ := mulExact_spec v w
  rw [← hvoid]
  cases hp : (mulExact v w).1.isNan with
  | true => exact fmaF_of_nan_product hp
  | false =>
    simp only [hp, Bool.false_eq, Bool.or_eq_false_iff] at hnan
    obtain ⟨⟨hv, hw⟩, hv'⟩ := hnan
    have hz : z.isNan = true := by simpa only [hv, hw, Bool.false_or] using h
    rw [fmaF_of_product hp, addF_nan (by rw [hz, Bool.or_true]), hsnan, hvoid, hv']
    rw [FVal.isSnan_of_not_isNan hv, FVal.isSnan_of_not_isNan hw]
    simp only [flagIf_or, Bool.false_or, Bool.or_false, Bool.or_self]

/-- R123: a product of zero and infinity is invalid, whatever the addend. -/
theorem fmaF_void (h : voidProduct v w = true) : fmaF f md v w z = (f.nan, Flag.inv) := by
  obtain ⟨hvoid, hnan, -⟩ := mulExact_spec v w
  rw [fmaF_of_nan_product (by rw [hnan, h, Bool.or_true]), hvoid, h, Bool.or_true]
  rfl

/-- R123: an infinite product. -/
theorem fmaF_endless {n : Bool} (h : endlessProduct v w n = true) (hz : z.isNan = false) :
    fmaF f md v w z = if z = .inf !n then (f.nan, Flag.inv) else (signBit f n + f.infinity, 0) := by
  obtain ⟨-, hnan, -, hinf⟩ := mulExact_spec v w
  have hp : (mulExact v w).1 = .inf n := eq_of_beq ((hinf n).trans h)
  rw [hp] at hnan
  obtain ⟨⟨hv, hw⟩, -⟩ : (v.isNan = false ∧ w.isNan = false) ∧ voidProduct v w = false := by
    simpa only [FVal.isNan, Bool.false_eq, Bool.or_eq_false_iff] using hnan
  rw [fmaF_of_product (by rw [hp]; rfl), hp, addF_inf_of_not_nan hz, FVal.isSnan_of_not_isNan hv, FVal.isSnan_of_not_isNan hw,
    FVal.isSnan_of_not_isNan hz]
  split <;> simp [flagIf]

/-- R123: an infinite addend beside a finite product. -/
theorem fmaF_inf_addend {s s' : Bool} {m m' : Nat} {e e' : ℤ} (n : Bool) :
    fmaF f md (.fin s m e) (.fin s' m' e') (.inf n) = (signBit f n + f.infinity, 0) := by
  rw [fmaF_of_product rfl]
  simp [mulExact, addF, FVal.isSnan, flagIf]

theorem mulF_of_nan_product (h : (mulExact v w).1.isNan = true) :
    mulF f md v w = (f.nan, flagIf (v.isSnan || w.isSnan || (mulExact v w).2) Flag.inv) := by
  unfold mulF
  generalize mulExact v w = r at h
  obtain ⟨p, bad⟩ := r
  cases p with
  | nan s => exact congrArg (f.nan, ·) (flagIf_or _ _ _)
  | inf s => cases h
  | fin s m e => cases h

theorem mulF_of_inf_product {n : Bool} (h : (mulExact v w).1 = .inf n) : mulF f md v w = (signBit f n + f.infinity, 0) := by
  unfold mulF
  generalize mulExact v w = r at h
  obtain ⟨p, bad⟩ := r
  obtain rfl : p = .inf n := h
  rfl

theorem voidProduct_of_nan (h : (v.isNan || w.isNan) = true) : voidProduct v w = false := by
  obtain ⟨s, rfl⟩ | ⟨s, rfl⟩ := exists_nan h
  · rfl
  · simp [voidProduct, FVal.isInf, FVal.isZero]

theorem mulF_nan (h : (v.isNan || w.isNan) = true) : mulF f md v w = (f.nan, flagIf (v.isSnan || w.isSnan) Flag.inv) := by
  obtain ⟨hvoid, hnan, -⟩ := mulExact_spec v w
  rw [mulF_of_nan_product (by rw [hnan, h, Bool.true_or]), hvoid, voidProduct_of_nan h, Bool.or_false]

/-- R122: a product of zero and infinity. -/
theorem mulF_void (h : voidProduct v w = true) : mulF f md v w = (f.nan, Flag.inv) := by
  obtain ⟨hvoid, hnan, -⟩ := mulExact_spec v w
  rw [mulF_of_nan_product (by rw [hnan, h, Bool.or_true]), hvoid, h, Bool.or_true]
  rfl

theorem mulF_inf_fin (x y : Bool) (m : Nat) (e : ℤ) :
    mulF f md (.inf x) (.fin y m e) = if m = 0 then (f.nan, Flag.inv) else (signBit f (x != y) + f.infinity, 0) := by
  split
  · next hm => exact mulF_void (by rw [hm]; rfl)
  · next hm => exact mulF_of_inf_product (by simp [mulExact, hm])

theorem mulF_fin_inf (x y : Bool) (m : Nat) (e : ℤ) :
    mulF f md (.fin y m e) (.inf x) = if m = 0 then (f.nan, Flag.inv) else (signBit f (x != y) + f.infinity, 0) := by
  split
  · next hm => exact mulF_void (by rw [hm]; rfl)
  · next hm => exact mulF_of_inf_product (by simp [mulExact, hm, bne_comm])

theorem divF_nan (h : (v.isNan || w.isNan) = true) : divF f md v w = (f.nan, flagIf (v.isSnan || w.isSnan) Flag.inv) := by
  obtain ⟨s, rfl⟩ | ⟨s, rfl⟩ := exists_nan h
  · rfl
  · cases v <;> rfl

end Special

section NanOperands

variable {f : Format} {p n : Nat} {first : ℤ → Bool}

/-- R125: NaNs give way to the other operand. -/
theorem minMaxF_nan_left (hp : (f.value p).isNan = true) : minMaxF first f p n = (if (f.value n).isNan then f.nan else n
    , flagIf ((f.value p).isSnan || (f.value n).isSnan || (f.value n).isNan) Flag.inv) := by
  cases hn : (f.value n).isNan <;> simp [minMaxF, hp, hn]

theorem minMaxF_nan_right (hn : (f.value n).isNan = true) (hp : (f.value p).isNan = false) :
    minMaxF first f p n = (p, flagIf (f.value n).isSnan Flag.inv) := by
  simp [minMaxF, hp, hn, FVal.isSnan_of_not_isNan hp]

end NanOperands

/-! #### Dot products (R129) -/

section DotProducts

variable {md : Rnd}

/-- The three terms of a dot product. -/
def dotTerms (a b v w c : FVal) : List FVal := [(mulExact a b).1, (mulExact v w).1, c]

/-- Whether a term is an infinity of a sign. -/
def endlessTerm (a b v w c : FVal) (n : Bool) : Bool := endlessProduct a b n || endlessProduct v w n || c == .inf n

/-- What makes a dot product invalid: a signalling NaN, zero times infinity, or infinities that meet. -/
def dotInvalid (a b v w c : FVal) : Bool :=
  [a, b, v, w, c].any FVal.isSnan || voidProduct a b || voidProduct v w || endlessTerm a b v w c true && endlessTerm a b v w c false

theorem any_inf_dotTerms (a b v w c : FVal) (n : Bool) : (dotTerms a b v w c).any (· == .inf n) = endlessTerm a b v w c n := by
  obtain ⟨-, -, -, hinf⟩ := mulExact_spec a b
  obtain ⟨-, -, -, hinf'⟩ := mulExact_spec v w
  simp only [dotTerms, List.any_cons, List.any_nil, hinf, hinf', endlessTerm, Bool.or_false, Bool.or_assoc]

theorem infsClash_eq (vs : List FVal) : infsClash vs = (vs.any (· == .inf true) && vs.any (· == .inf false)) := by
  have hneg : (fun v : FVal => v.isInf && v.neg) = (· == .inf true) := by
    funext v
    cases v with
    | nan s => rfl
    | inf s => cases s <;> rfl
    | fin s m e => rfl
  have hpos : (fun v : FVal => v.isInf && !v.neg) = (· == .inf false) := by
    funext v
    cases v with
    | nan s => rfl
    | inf s => cases s <;> rfl
    | fin s m e => rfl
  rw [infsClash, hneg, hpos]

/-- Where no infinity has the other sign, the first one has this sign. -/
theorem find?_isInf {vs : List FVal} {n : Bool} (h : vs.any (· == .inf n) = true) (h' : vs.any (· == .inf !n) = false) :
    vs.find? FVal.isInf = some (.inf n) := by
  induction vs with
  | nil => cases h
  | cons v vs ih =>
    simp only [List.any_cons, Bool.or_eq_true, Bool.or_eq_false_iff] at h h'
    obtain ⟨hv, hvs⟩ := h'
    cases v with
    | nan s => exact ih (h.resolve_left Bool.false_ne_true) hvs
    | inf s =>
      have hs : s = n := by revert hv; cases s <;> cases n <;> decide
      rw [hs]; rfl
    | fin s m e => exact ih (h.resolve_left Bool.false_ne_true) hvs

/-- Terms that are zeros of one sign. -/
def zeroTerms (vs : List FVal) (n : Bool) : Bool := vs.all FVal.isZero && vs.all (·.neg == n)

/-- What a dot product makes of terms without a NaN. -/
def sumRounded (md : Rnd) (vs : List FVal) : Nat × Flags :=
  match vs.find? FVal.isInf with
  | some v => (signBit (formatOf .f32) v.neg + 0x7F800000, 0)
  | none =>
    if (sumExact vs).1 = 0 then
      (signBit (formatOf .f32) (if zeroTerms vs true then true else if zeroTerms vs false then false else decide (md = .rdn)), 0)
    else roundInto (formatOf .f32) md ((sumExact vs).1 < 0) (sumExact vs).1.natAbs (sumExact vs).2

theorem sumRounded_of_inf {vs : List FVal} {n : Bool} (h : vs.find? FVal.isInf = some (.inf n)) :
    sumRounded md vs = (if n then 0xFF800000 else 0x7F800000, 0) := by
  rw [sumRounded, h]
  cases n <;> rfl

theorem sumRounded_of_finite {vs : List FVal} (h : vs.find? FVal.isInf = none) :
    sumRounded md vs = if (sumExact vs).1 = 0 then
      (signBit (formatOf .f32) (if zeroTerms vs true then true else if zeroTerms vs false then false else decide (md = .rdn)), 0)
    else roundInto (formatOf .f32) md ((sumExact vs).1 < 0) (sumExact vs).1.natAbs (sumExact vs).2 := by
  rw [sumRounded, h]

theorem dot2F_eq (a b v w c : FVal) : dot2F md a b v w c =
    if dotInvalid a b v w c || (dotTerms a b v w c).any FVal.isNan then (0x7FC00000, flagIf (dotInvalid a b v w c) Flag.inv)
    else sumRounded md (dotTerms a b v w c) := by
  obtain ⟨hvoid, -⟩ := mulExact_spec a b
  obtain ⟨hvoid', -⟩ := mulExact_spec v w
  have hinvalid : ([a, b, v, w, c].any FVal.isSnan || (mulExact a b).2 || (mulExact v w).2 || infsClash (dotTerms a b v w c))
      = dotInvalid a b v w c := by
    rw [hvoid, hvoid', infsClash_eq, any_inf_dotTerms, any_inf_dotTerms, dotInvalid]
  have hzeros : ∀ vs : List FVal, (vs.all FVal.isZero && vs.all FVal.neg) = zeroTerms vs true
      ∧ (vs.all FVal.isZero && vs.all fun v => !v.neg) = zeroTerms vs false := fun vs => by simp [zeroTerms]
  rw [← hinvalid]
  simp only [dot2F, beq_iff_eq, hzeros]
  rfl

theorem dot2F_invalid {a b v w c : FVal} (h : dotInvalid a b v w c = true) : dot2F md a b v w c = (0x7FC00000, Flag.inv) := by
  rw [dot2F_eq, h]
  rfl

theorem any_isNan_dotTerms {a b v w c : FVal} (h : dotInvalid a b v w c = false) :
    (dotTerms a b v w c).any FVal.isNan = [a, b, v, w, c].any FVal.isNan := by
  obtain ⟨-, hnan, -⟩ := mulExact_spec a b
  obtain ⟨-, hnan', -⟩ := mulExact_spec v w
  simp only [dotInvalid, Bool.or_eq_false_iff] at h
  obtain ⟨⟨⟨-, hvoid⟩, hvoid'⟩, -⟩ := h
  simp only [dotTerms, List.any_cons, List.any_nil, hnan, hnan', hvoid, hvoid', Bool.or_false, Bool.or_assoc]

theorem dot2F_nan {a b v w c : FVal} (h : dotInvalid a b v w c = false) (hnan : [a, b, v, w, c].any FVal.isNan = true) :
    dot2F md a b v w c = (0x7FC00000, 0) := by
  rw [dot2F_eq, h, any_isNan_dotTerms h, hnan]
  rfl

theorem dot2F_endless {a b v w c : FVal} {n : Bool} (h : dotInvalid a b v w c = false) (hnan : [a, b, v, w, c].any FVal.isNan = false)
    (hn : endlessTerm a b v w c n = true) : dot2F md a b v w c = (if n then 0xFF800000 else 0x7F800000, 0) := by
  have hother : endlessTerm a b v w c (!n) = false := by
    simp only [dotInvalid, Bool.or_eq_false_iff, Bool.and_eq_false_iff] at h
    cases n with
    | false => exact h.2.resolve_right (by simp [hn])
    | true => exact h.2.resolve_left (by simp [hn])
  rw [dot2F_eq, h, any_isNan_dotTerms h, hnan, Bool.or_self, if_neg Bool.false_ne_true]
  exact sumRounded_of_inf (find?_isInf (by rwa [any_inf_dotTerms]) (by rwa [any_inf_dotTerms]))

theorem sumExact_cons_real (s : Bool) (m : Nat) (e : ℤ) (vs : List FVal) :
    ((sumExact (.fin s m e :: vs)).1 : ℝ) * (2 : ℝ) ^ (sumExact (.fin s m e :: vs)).2
      = (signedM s m : ℝ) * (2 : ℝ) ^ e + ((sumExact vs).1 : ℝ) * (2 : ℝ) ^ (sumExact vs).2 := by
  have h := exactSum_real s (decide ((sumExact vs).1 < 0)) m (sumExact vs).1.natAbs e (sumExact vs).2
  rwa [signedM_decide] at h

section Finite

variable {na nb nc nd ne : Bool} {ma mb mc m' me : Nat} {ea eb ec ed ee : ℤ}

theorem sumExact_dotTerms_real :
    let r := sumExact (dotTerms (.fin na ma ea) (.fin nb mb eb) (.fin nc mc ec) (.fin nd m' ed) (.fin ne me ee))
    (r.1 : ℝ) * (2 : ℝ) ^ r.2 = (signedM na ma : ℝ) * (2 : ℝ) ^ ea * ((signedM nb mb : ℝ) * (2 : ℝ) ^ eb)
      + (signedM nc mc : ℝ) * (2 : ℝ) ^ ec * ((signedM nd m' : ℝ) * (2 : ℝ) ^ ed) + (signedM ne me : ℝ) * (2 : ℝ) ^ ee := by
  intro r
  rw [← real_mul_real, ← real_mul_real, add_assoc]
  simp only [r, dotTerms, mulExact, sumExact_cons_real]
  simp [sumExact]

theorem dot2F_fin : dot2F md (.fin na ma ea) (.fin nb mb eb) (.fin nc mc ec) (.fin nd m' ed) (.fin ne me ee) =
    sumRounded md (dotTerms (.fin na ma ea) (.fin nb mb eb) (.fin nc mc ec) (.fin nd m' ed) (.fin ne me ee)) := by
  have hvalid : dotInvalid (.fin na ma ea) (.fin nb mb eb) (.fin nc mc ec) (.fin nd m' ed) (.fin ne me ee) = false := by
    simp [dotInvalid, voidProduct, endlessTerm, endlessProduct, FVal.isInf, FVal.isSnan]
  have hnan : (dotTerms (.fin na ma ea) (.fin nb mb eb) (.fin nc mc ec) (.fin nd m' ed) (.fin ne me ee)).any FVal.isNan = false := rfl
  rw [dot2F_eq, hvalid, hnan, Bool.or_self, if_neg Bool.false_ne_true]

theorem roundedOnce_dot2F :
    let x := (signedM na ma : ℝ) * (2 : ℝ) ^ ea * ((signedM nb mb : ℝ) * (2 : ℝ) ^ eb)
      + (signedM nc mc : ℝ) * (2 : ℝ) ^ ec * ((signedM nd m' : ℝ) * (2 : ℝ) ^ ed) + (signedM ne me : ℝ) * (2 : ℝ) ^ ee
    x ≠ 0 → RoundedOnce (formatOf .f32) md x (dot2F md (.fin na ma ea) (.fin nb mb eb) (.fin nc mc ec) (.fin nd m' ed) (.fin ne me ee)) := by
  intro x hx
  have hsum : _ = x := sumExact_dotTerms_real
  rw [← hsum] at hx ⊢
  have hr := Int.cast_ne_zero.mp (left_ne_zero_of_mul hx)
  rw [dot2F_fin, sumRounded_of_finite rfl, if_neg hr]
  exact roundedOnce_units_int (formatOf_eb_pos .f32) hr

theorem zeroTerms_dotTerms (n : Bool) :
    zeroTerms (dotTerms (.fin na ma ea) (.fin nb mb eb) (.fin nc mc ec) (.fin nd m' ed) (.fin ne me ee)) n = true ↔
      ma * mb = 0 ∧ mc * m' = 0 ∧ me = 0 ∧ (na != nb) = n ∧ (nc != nd) = n ∧ ne = n := by
  simp only [zeroTerms, dotTerms, mulExact, List.all_cons, List.all_nil, FVal.isZero, FVal.neg, Bool.and_eq_true, Bool.and_true, beq_iff_eq, and_assoc]

/-- R129, R84: the sign of a zero sum of three terms. -/
theorem dot2F_cancel :
    let p := (signedM na ma : ℝ) * (2 : ℝ) ^ ea * ((signedM nb mb : ℝ) * (2 : ℝ) ^ eb)
    let q := (signedM nc mc : ℝ) * (2 : ℝ) ^ ec * ((signedM nd m' : ℝ) * (2 : ℝ) ^ ed)
    let z := (signedM ne me : ℝ) * (2 : ℝ) ^ ee
    let r := dot2F md (.fin na ma ea) (.fin nb mb eb) (.fin nc mc ec) (.fin nd m' ed) (.fin ne me ee)
    let zeros := fun n => p = 0 ∧ q = 0 ∧ z = 0 ∧ (na != nb) = n ∧ (nc != nd) = n ∧ ne = n
    p + q + z = 0 → (zeros true → r = (0x80000000, 0)) ∧ (zeros false → r = (0, 0))
        ∧ (¬ zeros true → ¬ zeros false → r = (if md = .rdn then 0x80000000 else 0, 0)) := by
  intro p q z r zeros hx
  have hsum : _ = p + q + z := sumExact_dotTerms_real
  rw [hx, mul_eq_zero_iff_right (zpow_ne_zero _ two_ne_zero), Int.cast_eq_zero] at hsum
  have hp : p = 0 ↔ ma * mb = 0 := by rw [← real_eq_zero_iff, real_mul_real]
  have hq : q = 0 ↔ mc * m' = 0 := by rw [← real_eq_zero_iff, real_mul_real]
  have hzeros : ∀ n, zeros n ↔ zeroTerms (dotTerms (.fin na ma ea) (.fin nb mb eb) (.fin nc mc ec) (.fin nd m' ed) (.fin ne me ee)) n = true :=
    fun n => by rw [zeroTerms_dotTerms, ← hp, ← hq, ← real_eq_zero_iff (m := me)]
  have hr : r = _ := dot2F_fin
  rw [hr, sumRounded_of_finite rfl, if_pos hsum]
  refine ⟨fun ht => ?_, fun hf => ?_, fun ht hf => ?_⟩
  · rw [if_pos ((hzeros true).mp ht)]
    rfl
  · have ht : ¬ zeros true := by
      obtain ⟨-, -, -, -, -, hfalse⟩ := hf
      rintro ⟨-, -, -, -, -, htrue⟩
      exact Bool.false_ne_true (hfalse.symm.trans htrue)
    rw [if_neg (mt (hzeros true).mpr ht), if_pos ((hzeros false).mp hf)]
    rfl
  · rw [if_neg (mt (hzeros true).mpr ht), if_neg (mt (hzeros false).mpr hf)]
    by_cases hmd : md = .rdn
    · rw [decide_eq_true hmd, if_pos hmd]
      rfl
    · rw [decide_eq_false hmd, if_neg hmd]
      rfl

end Finite

end DotProducts
end Sys2Proof.Machine

open Sys2Proof Sys2Proof.Machine

/-- Settles O10: the instructions by their lane functions, finite operands by the exact value rounded once, a format's own values by their patterns, the
special operands by what their product is. -/
theorem floatArithmetic : Obligations.FloatArithmetic := by
  unfold Obligations.FloatArithmetic
  refine ⟨?instructions, ?values, fun md na nb nc nd ne ma mb mc m' me ea eb ec ed ee => ⟨roundedOnce_dot2F, dot2F_cancel⟩,
    fun md a b v w c => ⟨dot2F_invalid, dot2F_nan, fun n => dot2F_endless⟩⟩
  case instructions =>
    intro s g u t r a b c f md A B C out
    exact ⟨pushes_of_lanewise (f := float2Lane addF t r a b) rfl fun _ => rfl,
      pushes_of_lanewise (f := float2Lane subF t r a b) rfl fun _ => rfl,
      pushes_of_lanewise (f := float2Lane mulF t r a b) rfl fun _ => rfl,
      pushes_of_lanewise (f := ffmaLane t r a b c) rfl fun _ => rfl,
      pushes_of_lanewise (f := float2Lane divF t r a b) rfl fun _ => rfl,
      pushes_of_lanewise (f := fsqrtLane t r a) rfl fun _ => rfl,
      pushes_of_lanewise (f := frndLane t r a) rfl fun _ => rfl,
      pushes_of_lanewise (f := fscaleLane t r a b) rfl fun _ => rfl,
      pushes_of_lanewise (f := minMaxLane isLow t a b) rfl fun _ => rfl,
      pushes_of_lanewise (f := minMaxLane isHigh t a b) rfl fun _ => rfl,
      pushes_of_lanewise (f := fclassLane t a) rfl fun _ => rfl,
      pushes_of_lanewise (f := fdot2Lane t r a b c) rfl fun _ => rfl⟩
  case values =>
    intro t md ht f real sign zero down
    have hf : f.Roomy := roomy_of_arith ht
    refine ⟨?finite, ?own, ?least, ?special, ?fused⟩
    case finite =>
      intro na nb nc ma mb mc ea eb ec A B C x y z
      have hx : x = 0 ↔ ma = 0 := real_eq_zero_iff
      have hy : y = 0 ↔ mb = 0 := real_eq_zero_iff
      have hprod : x * y = _ := (real_mul_real na nb ma mb ea eb).symm
      refine ⟨roundedOnce_addF hf.eb_pos, addF_cancel_left, roundedOnce_mulF hf.eb_pos, mulF_zero, fun h => ?_, fun h => ?_, fun h h' => ?_,
        fun h h' => ?_, fun h h' => ?_, fun h h' => ?_, fun h => ?_, fun h => ?_, fun h => ?_⟩
      · rw [hprod] at h ⊢
        rw [fmaF_fin]
        exact roundedOnce_addF hf.eb_pos h
      · rw [hprod] at h
        rw [fmaF_fin]
        exact addF_cancel h
      · exact roundedOnce_divF hf.eb_pos (mt hx.mpr h) (mt hy.mpr h')
      · exact divF_zero_left (hx.mp h) (mt hy.mpr h')
      · exact divF_zero_right (mt hx.mpr h) (hy.mp h')
      · exact divF_zeros (hx.mp h) (hy.mp h')
      · exact roundedOnce_sqrtF hf.eb_pos h
      · exact sqrtF_zero (hx.mp h)
      · exact sqrtF_of_neg h
    case own =>
      intro n na ma ea k hn A x
      exact ⟨fun h => roundedOnce_scaleF hf hn (mt real_eq_zero_iff.mpr h) k, fun h => scaleF_zero (real_eq_zero_iff.mp h),
        roundIntegral_spec hf md hn, classBit_spec hf hn⟩
    case least =>
      intro p n na nb ma mb ea eb hpw hnw hp hn
      exact minMaxF_spec hf.eb_pos hpw hnw hp hn
    case special =>
      intro v w z x y m e k p n inv
      refine ⟨fun h => ⟨addF_nan h, mulF_nan h, divF_nan h⟩, fun h => ?_, fun h => ?_, ?_, rfl, rfl, mulF_of_inf_product rfl, mulF_inf_fin x y m e,
        mulF_fin_inf x y m e, rfl, rfl, rfl, rfl, rfl, rfl, rfl, fun h _ => ⟨minMaxF_nan_left, minMaxF_nan_right⟩⟩
      · obtain ⟨b, rfl⟩ : ∃ b, v = .nan b := FVal.isNan_iff.mp h
        exact ⟨rfl, rfl, rfl, rfl⟩
      · rw [fmaF_nan h, voidProduct, ← Bool.or_assoc]
        rfl
      · cases x <;> cases y <;> rfl
    case fused =>
      intro v w z bad n
      refine ⟨fmaF_void, fun hv hz => ?_, fun x hv => ?_⟩
      · have hn : endlessProduct v w n = true := by
          rw [endlessProduct, hv, beq_self_eq_true]
          rfl
        rw [fmaF_endless hn hz]
        exact ⟨fun h => if_pos h, fun h => if_neg h⟩
      · simp only [Bool.and_eq_true, Bool.not_eq_true'] at hv
        obtain ⟨⟨⟨hv, hw⟩, hv'⟩, hw'⟩ := hv
        obtain ⟨s, m, e, rfl⟩ := FVal.eq_fin hv hv'
        obtain ⟨s', m', e', rfl⟩ := FVal.eq_fin hw hw'
        exact fmaF_inf_addend x

end
